-- ==== Sys2Proof/Word.lean ====
section
/-! DEFINITION. The word types and their plainest arithmetic: bytes and words as the manual's bit strings (R10, R11),
field extraction by bit numbers, and serial arithmetic. -/
namespace Sys2Proof

/-- A byte of a register, of memory or of a message (R11). -/
abbrev Byte := BitVec 8

/-- A byte string in ascending address or transmission order (R11). -/
abbrev Bytes := List Byte

/-- The 32-bit register word of the control bus (R458). -/
abbrev Word32 := BitVec 32

/-- A 64-bit memory word, tag, routing word or packet entry. -/
abbrev Word64 := BitVec 64

/-- Bits `[hi:lo]` of a number, both ends included (R10). -/
def bits (x hi lo : Nat) : Nat := (x >>> lo) % 2 ^ (hi + 1 - lo)

/-- Bit `n` of a number (R10). -/
def bit (x n : Nat) : Bool := x.testBit n

/-- A Boolean as the bit the manual writes for it. -/
def b2n (b : Bool) : Nat := if b then 1 else 0

/-- `⌈a / b⌉`. -/
def ceilDiv (a b : Nat) : Nat := (a + b - 1) / b

/-- The serial difference `(a − b)` modulo `2^w` (R42). -/
def serialSub (w a b : Nat) : Nat := (a % 2 ^ w + 2 ^ w - b % 2 ^ w) % 2 ^ w

/-- Saturating addition at the largest value of `w` bits. -/
def satAdd (w a b : Nat) : Nat := min (2 ^ w - 1) (a + b)

/-- Little-endian bytes as a number (R11). -/
def leNat : List Byte → Nat
  | [] => 0
  | b :: bs => b.toNat + 256 * leNat bs

/-- The `n` little-endian bytes of a number (R11). -/
def leBytes : Nat → Nat → List Byte
  | 0, _ => []
  | n + 1, x => BitVec.ofNat 8 x :: leBytes n (x / 256)

/-- `n` bytes at byte offset `off`, read little-endian. -/
def leAt (bs : List Byte) (off n : Nat) : Nat := leNat ((bs.drop off).take n)

/-- `n` bytes at byte offset `off`. -/
def bytesAt (bs : List Byte) (off n : Nat) : List Byte := (bs.drop off).take n

/-- Whether every byte of a list is zero. -/
def allZero (bs : List Byte) : Bool := bs.all (· == 0)

/-- A list of bytes padded with zero bytes to a multiple of `k`. -/
def padTo (k : Nat) (bs : List Byte) : List Byte :=
  bs ++ List.replicate (ceilDiv bs.length k * k - bs.length) 0

/-- Bytes in big-endian order as a number (digests and SEC1 points). -/
def beNat (bs : List Byte) : Nat := bs.foldl (fun a b => a * 256 + b.toNat) 0

/-- The `n` big-endian bytes of a number. -/
def beBytes (n x : Nat) : List Byte := (leBytes n x).reverse

/-- `List.set`-like replacement of the element at an index through a function. -/
def modifyAt {α : Type} (f : α → α) : Nat → List α → List α
  | _, [] => []
  | 0, x :: xs => f x :: xs
  | n + 1, x :: xs => x :: modifyAt f n xs

/-- Insert a number into a strictly rising list, once. -/
def insertSorted (n : Nat) : List Nat → List Nat
  | [] => [n]
  | x :: xs => if n < x then n :: x :: xs else if n = x then x :: xs else x :: insertSorted n xs

/-- The first element that satisfies `p`, with a default. -/
def findD {α : Type} (p : α → Bool) (d : α) (xs : List α) : α := (xs.find? p).getD d

/-- The sum of a list of numbers. -/
def sumNat (xs : List Nat) : Nat := xs.foldl (· + ·) 0

/-- The largest of a list of numbers, zero for the empty list. -/
def maxNat (xs : List Nat) : Nat := xs.foldl max 0

/-- Stable insertion into a list ordered by a key. -/
def insertBy {α : Type} (key : α → Nat) (a : α) : List α → List α
  | [] => [a]
  | x :: xs => if key a < key x then a :: x :: xs else x :: insertBy key a xs

/-- Stable insertion sort by a key: equal keys keep their order. -/
def sortBy {α : Type} (key : α → Nat) (xs : List α) : List α := xs.foldl (fun acc a => insertBy key a acc) []

end Sys2Proof
end

