-- ==== Sys2Proof/Syntax.lean ====
section
/-! DEFINITION. The commands of the Spaum: one constructor of `Instr` for each row of the opcode table, and the operand
structures they carry. The table gives the rows no bits; the operands are what the row's rule says the command names. -/
namespace Sys2Proof

/-- What a command finds in memory when it reads it: the bytes that other agents wrote there since the block last
looked, and the 64-byte lines (by line number) that read uncorrectable after the attempts of R236. -/
structure MemEnv where
  writes : List (Nat × Bytes)
  bad : List Nat
  deriving DecidableEq, Repr

/-- One fuse field with the CRC-32C that was programmed with it (R392). -/
structure FuseField where
  bytes : Bytes
  crc : Word32
  deriving DecidableEq, Repr

/-- The fuse array as the fuse interface reads it at chip reset (R392): the fields with a CRC-32C, the three copies of
each bit of REVOKE and DEBUG_KILL, and whether the noise source passed its health tests when the DRBG was seeded (R394). -/
structure FuseImage where
  ownerRoot : FuseField
  mfgRoot : FuseField
  seed : FuseField
  device : FuseField
  grade : FuseField
  revoke : List (BitVec 16)
  kill : List Bool
  entropyOk : Bool
  deriving DecidableEq, Repr

/-- What datum calibration measured (R375, R452): the offset to add to TB, the residual offset in 1/16 tick, and the
drift against the master over the 256 exchanges, in ticks. -/
structure Calibration where
  offset : Int
  residual : Int
  drift : Int
  deriving DecidableEq, Repr

/-- A row block: its layer, its half and the SLOT_BASE of its tiles (R32, R37). -/
structure BlockId where
  layer : Nat
  half : Nat
  base : Nat
  deriving DecidableEq, Repr

/-- What the switch advertises at KEYING (R312): its receive-buffer share for each link channel in the order of R314's
codes, in frames; its in-switch reduction slots; and its stage. -/
structure Advert where
  shares : List Nat
  slots : Nat
  stage : Nat
  deriving DecidableEq, Repr

/-- Where a stored word stands that SECDED or a code over it finds in error when a command reads it. -/
inductive ErrPlace where
  /-- A word of an SRAM region of R51, by region and byte offset (R76, R78). -/
  | region (r off : Nat)
  /-- A word of a buffer of the pool, by pool, pointer and byte offset (R78, R80). -/
  | buffer (pool ptr off : Nat)
  /-- A word of a station's input queue whose descriptor names a buffer (R91, R100). -/
  | queue (station pool ptr : Nat)
  /-- A word of a lane queue or a dual-clock queue on a data path, of the tile in a buffer (R93, R101). -/
  | path (pool ptr : Nat)
  /-- A word of an accumulator file, by the row of the pair that it belongs to (R125). -/
  | accumulator (row : Nat)
  /-- A word of the SFU table copy, by byte offset in its region (R136, R138). -/
  | table (off : Nat)
  /-- The entry on top of a pool's free stack, by byte offset in its region (R82, R89). -/
  | stack (pool off : Nat)
  /-- The word at the head of a trace lane (R94). -/
  | lane (n : Nat)
  /-- A word of the replay log unit, in both copies (R388). -/
  | log
  deriving DecidableEq, Repr

/-- A word found in error: corrected, or uncorrectable. -/
structure ErrEvent where
  place : ErrPlace
  fatal : Bool
  deriving DecidableEq, Repr

/-- The words found in error while a command ran, in order. -/
abbrev Errs := List ErrEvent

/-- The commands, one for each row of the opcode table; each constructor's comment names its row and its rule. Where a
command carries words in error, a refusal code, corrected symbols or memory written by the agents beside its row's own
operands, none stand there unless they are named. -/
inductive Instr where
  /-- LOAD (R63). -/
  | load (priv : Bool)
  /-- ABANDON (R63). -/
  | abandon (priv : Bool)
  /-- ACTIVATE (R63). -/
  | activate (priv : Bool)
  /-- DISARM (R63). -/
  | disarm (priv : Bool)
  /-- PLAT_LOAD_DONE (R60). -/
  | platLoadDone (env : MemEnv)
  /-- COMMIT (R72). -/
  | commit (priv : Bool) (value : Word32)
  /-- SFU_TABLE_SEL (R137). -/
  | sfuTableSel (value : Word32)
  /-- SFU_TABLE_COPY_DONE (R136). -/
  | sfuTableCopyDone
  /-- STAGE (R231). -/
  | stage (priv : Bool)
  /-- LIST_CHECK_DONE (R230). -/
  | listCheckDone (env : MemEnv)
  /-- ARM (R231). -/
  | arm (priv : Bool)
  /-- LIST_DISARM (R231). -/
  | listDisarm (priv : Bool)
  /-- CAD_QUARANTINE (R238). -/
  | cadQuarantine (value : Word32)
  /-- LOW_REARM (R102). -/
  | lowRearm
  /-- FREE_ORPHANS (R267). -/
  | freeOrphans
  /-- CANCEL (R265). -/
  | cancel
  /-- CCE_DOORBELL (R279). -/
  | cceDoorbell (priv : Bool) (value : Word32) (env : MemEnv := ⟨[], []⟩)
  /-- RMA_DOORBELL (R343). -/
  | rmaDoorbell (priv : Bool) (q : Nat) (value : Word32) (env : MemEnv)
  /-- RETRAIN (R312). -/
  | retrain (port : Nat)
  /-- LOOPBACK (R312). -/
  | loopback (port : Nat) (on : Bool)
  /-- DISABLE (R312). -/
  | disable (port : Nat) (on : Bool)
  /-- GO (R369). -/
  | go (priv : Bool)
  /-- CHECKPOINT (R386). -/
  | checkpoint (priv : Bool)
  /-- SDE_RLOG_START (R385). -/
  | rlogStart (priv : Bool) (n : Nat) (value : Word32)
  /-- FENCE (R422). -/
  | fence (priv : Bool) (chip : Nat)
  /-- UNFENCE (R425). -/
  | unfence (priv : Bool) (chip : Nat)
  /-- LINKS (R450). -/
  | links (priv : Bool)
  /-- CALIBRATE (R452). -/
  | calibrate (priv : Bool)
  /-- SDE_TB_SET_LO (R439). -/
  | tbSetLo (value : Word32)
  /-- SDE_STEP_LO (R389). -/
  | stepLo (value : Word32)
  /-- CHAL_NEW (R411). -/
  | chalNew (priv : Bool)
  /-- CERT_LOAD (R403). -/
  | certLoad (priv : Bool)
  /-- CERT_CHECK_DONE (R403). -/
  | certCheckDone (env : MemEnv)
  /-- KL_LOAD (R399). -/
  | klLoad (priv : Bool)
  /-- KEYLIST_CHECK_DONE (R399). -/
  | keylistCheckDone (env : MemEnv)
  /-- TOKEN_LOAD (R411). -/
  | tokenLoad (priv : Bool)
  /-- TOKEN_CHECK_DONE (R411). -/
  | tokenCheckDone (env : MemEnv)
  /-- SDE_NOTE_RD (R431). -/
  | noteRd (value : Word32)
  /-- SDE_NOTE_SIZE (R435). -/
  | noteSize (value : Word32)
  /-- READ_CLEAR (R16). -/
  | readClear (priv : Bool) (addr : Nat) (errs : Errs := [])
  /-- SDE_TB_LO_READ (R439). -/
  | tbLoRead
  /-- REGISTER_WRITE (R16). -/
  | registerWrite (priv : Bool) (addr : Nat) (width : Nat) (value : Word32)
  /-- EXTEST (R409). -/
  | extest (cells : Word64)
  /-- IDCODE (R455). -/
  | idcode
  /-- SAMPLE_PRELOAD (R455). -/
  | samplePreload (cells : Word64)
  /-- BYPASS (R455). -/
  | bypass (opcode : Byte)
  /-- DBG_CHAL (R411). -/
  | dbgChal
  /-- DBG_UNLOCK (R411). -/
  | dbgUnlock (token : Bytes)
  /-- DBG_REG (R409). -/
  | dbgReg (addr : Nat)
  /-- DBG_SRAM (R409). -/
  | dbgSram (addr : Nat)
  /-- DBG_HALT (R409). -/
  | dbgHalt
  /-- TAP_RESET (R447). -/
  | tapReset
  /-- CHIP_RESET (R447). -/
  | chipReset
  /-- POWER_ON_RESET (R447). -/
  | powerOnReset
  /-- RESET_RELEASE (R448). -/
  | resetRelease (slot : Nat)
  /-- FUSE_READ_DONE (R392). -/
  | fuseReadDone (image : FuseImage)
  /-- SELFTEST_DONE (R449). -/
  | selftestDone (fails : List Nat) (romOk : Bool)
  /-- RCLK_LOCK (R448). -/
  | rclkLock
  /-- TIMEBASE_TIMEOUT (R448). -/
  | timebaseTimeout
  /-- CALIBRATION_DONE (R452). -/
  | calibrationDone (result : Calibration)
  /-- HOLDOVER (R438). -/
  | holdover
  /-- THROTTLE_REQUEST (R441). -/
  | throttleRequest (sclk : Bool) (step : Nat)
  /-- EMERGENCY_THROTTLE (R441). -/
  | emergencyThrottle (sclk : Bool)
  /-- TB_EXHAUSTED (R42). -/
  | tbExhausted
  /-- DRBG_RESEED (R394). -/
  | drbgReseed
  /-- ENTROPY_FAIL (R394). -/
  | entropyFail
  /-- DATUM_BEGIN (R65). -/
  | datumBegin (env : MemEnv)
  /-- CADASTRE_CHECK_DONE (R62). -/
  | cadastreCheckDone (env : MemEnv)
  /-- AGREEMENT_RESULT (R371). -/
  | agreementResult (lanes : Bytes)
  /-- POOLS_BUILD (R90). -/
  | poolsBuild
  /-- CADASTRE_RELOAD_DONE (R62). -/
  | cadastreReloadDone (env : MemEnv)
  /-- LIST_SWITCH_READ_DONE (R233). -/
  | listSwitchReadDone (env : MemEnv)
  /-- START_ROUND_RESULT (R372). -/
  | startRoundResult (latest : Nat) (refused : Nat := 0)
  /-- STEP_START (R372). -/
  | stepStart
  /-- DATUM_TIMEOUT (R373). -/
  | datumTimeout
  /-- GEN_RAISE_DUE (R266). -/
  | genRaiseDue
  /-- BUCKET_MAP_BUILD (R192). -/
  | bucketMapBuild (layer : Nat) (errs : Errs := [])
  /-- TOKEN_TILE_ARRIVE (R36). -/
  | tokenTileArrive (port : Nat) (tile : Bytes) (errs : Errs := [])
  /-- NORM_TILE (R145). -/
  | normTile (blk : BlockId) (env : MemEnv := ⟨[], []⟩) (errs : Errs := [])
  /-- ANCHOR_PREPASS_DONE (R110). -/
  | anchorPrepassDone (blk : BlockId) (array col : Nat) (env : MemEnv) (errs : Errs := [])
  /-- SCORE_PAIR_DONE (R111). -/
  | scorePairDone (blk : BlockId) (array col : Nat) (env : MemEnv) (errs : Errs := [])
  /-- TIER_LINE_UNCORR (R236). -/
  | tierLineUncorr (addr : Nat) (env : MemEnv)
  /-- GATE_ROW_BLOCK (R148). -/
  | gateRowBlock (blk : BlockId) (errs : Errs := [])
  /-- SELECT_ROW_BLOCK (R161). -/
  | selectRowBlock (blk : BlockId) (errs : Errs := [])
  /-- TALLY_COUNT (R170). -/
  | tallyCount (blk : BlockId) (errs : Errs := [])
  /-- TALLY_SCAN_END (R170). -/
  | tallyScanEnd (layer half : Nat) (errs : Errs := [])
  /-- TALLY_CLOSE_CONTRIBUTE (R174). -/
  | tallyCloseContribute (layer half : Nat) (errs : Errs := [])
  /-- TALLY_REPORT (R173). -/
  | tallyReport (src : Nat) (msg : Bytes) (errs : Errs := [])
  /-- TALLY_CLOSE (R174). -/
  | tallyClose (layer half : Nat) (errs : Errs := [])
  /-- TALLY_GRANT (R179). -/
  | tallyGrant (src : Nat) (msg : Bytes) (errs : Errs := [])
  /-- TRIP_AGREEMENT (R188). -/
  | tripAgreement (layer : Nat) (half : Nat) (value : Nat)
  /-- TALLY_TIMEOUT (R184). -/
  | tallyTimeout
  /-- REPLICA_NOTICE (R249). -/
  | replicaNotice (src : Nat) (msg : Bytes) (errs : Errs := [])
  /-- SORT_START (R190). -/
  | sortStart (layer half : Nat) (errs : Errs := [])
  /-- SORT_PHASE_END (R194). -/
  | sortPhaseEnd (layer half : Nat) (errs : Errs := [])
  /-- GROUP_WRITE (R201). -/
  | groupWrite (layer half : Nat) (errs : Errs := [])
  /-- SEND_GROUP (R245). -/
  | sendGroup (layer half : Nat) (errs : Errs := [])
  /-- GROUP_RECEIVE (R247). -/
  | groupReceive (src port step : Nat) (msg : Bytes) (errs : Errs := [])
  /-- FEED_WAIT_TIMEOUT (R248). -/
  | feedWaitTimeout (port : Nat) (errs : Errs := [])
  /-- COLLECT_TILE (R251). -/
  | collectTile (port : Nat) (tile : Bytes) (errs : Errs := [])
  /-- OUTPUT (R254). -/
  | output (src : Nat) (msg : Bytes) (errs : Errs := [])
  /-- RECALL (R256). -/
  | recall (src : Nat) (msg : Bytes) (errs : Errs := [])
  /-- REFUSE (R256). -/
  | refuse (src : Nat) (msg : Bytes) (errs : Errs := [])
  /-- COMBINE_ROW (R258). -/
  | combineRow (layer half slot : Nat) (errs : Errs := [])
  /-- EMIT_TILE (R260). -/
  | emitTile (layer half : Nat) (errs : Errs := [])
  /-- VERDICT_CONTRIBUTE (R269). -/
  | verdictContribute
  /-- VERDICT (R269). -/
  | verdict (code : Nat) (errs : Errs := [])
  /-- CHECKPOINT_SIGNED (R386). -/
  | checkpointSigned (errs : Errs := [])
  /-- STEP_TIMEOUT (R269). -/
  | stepTimeout
  /-- ABORT (R418). -/
  | abort (src : Nat) (msg : Bytes)
  /-- QUARANTINE_NOTICE (R238). -/
  | quarantineNotice (src : Nat) (msg : Bytes)
  /-- FENCE_NOTICE (R423). -/
  | fenceNotice (src : Nat) (msg : Bytes)
  /-- ISOLATION (R422). -/
  | isolation
  /-- PEER_WAIT_TIMEOUT (R422). -/
  | peerWaitTimeout (peer : Nat)
  /-- PROBE (R430). -/
  | probe (src : Nat) (msg : Bytes)
  /-- PROBE_ANSWER (R422). -/
  | probeAnswer (src : Nat) (msg : Bytes)
  /-- PROBE_TIMEOUT (R422). -/
  | probeTimeout (peer : Nat)
  /-- MGMT_READ (R430). -/
  | mgmtRead (src : Nat) (msg : Bytes) (errs : Errs := [])
  /-- MGMT_READ_ANSWER (R220). -/
  | mgmtReadAnswer (src : Nat) (msg : Bytes)
  /-- CAD_REFETCH_TIMEOUT (R220). -/
  | cadRefetchTimeout
  /-- TIME (R375). -/
  | time (src : Nat) (msg : Bytes)
  /-- TIME_ANSWER (R375). -/
  | timeAnswer (src : Nat) (msg : Bytes)
  /-- ALLOC_GRANT (R85). -/
  | allocGrant (pool : Nat) (errs : Errs := [])
  /-- FRAME_SEND (R316). -/
  | frameSend (port : Nat)
  /-- FRAME_RECEIVE (R317). -/
  | frameReceive (port : Nat) (frame : Bytes) (corrected : Nat := 0)
  /-- REPLAY_TIMEOUT (R317). -/
  | replayTimeout (port : Nat)
  /-- PACKET_RECEIVE (R323). -/
  | packetReceive (port : Nat) (packet : Bytes)
  /-- ACK (R326). -/
  | ack (src : Nat) (entry : Bytes)
  /-- ACK_TIMER (R326). -/
  | ackTimer (peer : Nat) (lc : Nat)
  /-- RETRANSMIT_TIMEOUT (R326). -/
  | retransmitTimeout (peer : Nat) (lc : Nat) (psn : Nat)
  /-- GRANT_REQ (R329). -/
  | grantReq (src : Nat) (entry : Bytes)
  /-- GRANT (R329). -/
  | grant (src : Nat) (entry : Bytes)
  /-- GRANT_IDLE_TIMEOUT (R329). -/
  | grantIdleTimeout (peer : Nat) (lc : Nat)
  /-- PINNED_FLOW_MOVE (R325). -/
  | pinnedFlowMove (peer : Nat) (lc : Nat)
  /-- THROTTLE_STEP_FALL (R333). -/
  | throttleStepFall
  /-- LOSS_OF_SIGNAL (R312). -/
  | lossOfSignal (port : Nat)
  /-- SIGNAL_PRESENT (R312). -/
  | signalPresent (port : Nat)
  /-- LANES_TRAINED (R312). -/
  | lanesTrained (port : Nat) (lanes : Byte) (delay : Nat)
  /-- KEYING_ENTER (R451). -/
  | keyingEnter (port : Nat)
  /-- TRAIN_TIMEOUT (R312). -/
  | trainTimeout (port : Nat)
  /-- KEYING_TIMEOUT (R312). -/
  | keyingTimeout (port : Nat)
  /-- HELLO (R404). -/
  | hello (port : Nat) (msg : Bytes)
  /-- FINISH (R405). -/
  | finish (port : Nat) (msg : Bytes) (advert : Advert)
  /-- REKEY_START (R339). -/
  | rekeyStart (port : Nat)
  /-- REKEY_IDLE_ONLY (R339). -/
  | rekeyIdleOnly (port : Nat)
  /-- REKEY_TIMEOUT (R339). -/
  | rekeyTimeout (port : Nat)
  /-- ALL_REDUCE (R274). -/
  | allReduce (env : MemEnv)
  /-- REDUCE_SCATTER (R287). -/
  | reduceScatter (env : MemEnv)
  /-- ALL_GATHER (R274). -/
  | allGather (env : MemEnv)
  /-- BROADCAST (R274). -/
  | broadcast (env : MemEnv)
  /-- ALL_TO_ALL (R274). -/
  | allToAll (env : MemEnv)
  /-- ALL_TO_ALL_V (R292). -/
  | allToAllV (env : MemEnv)
  /-- BARRIER (R274). -/
  | barrier (env : MemEnv)
  /-- REGISTER_GROUP (R278). -/
  | registerGroup (env : MemEnv)
  /-- UNREGISTER_GROUP (R278). -/
  | unregisterGroup (env : MemEnv)
  /-- CONTRIB (R303). -/
  | contrib (src : Nat) (msg : Bytes)
  /-- PARTIAL (R303). -/
  | partialMsg (src : Nat) (msg : Bytes)
  /-- PARTIAL_ACK (R303). -/
  | partialAck (src : Nat) (msg : Bytes)
  /-- RESULT (R303). -/
  | result (src : Nat) (msg : Bytes)
  /-- PARTIAL_COPY_REQUEST (R305). -/
  | partialCopyRequest (src : Nat) (msg : Bytes)
  /-- COLL_ABORT (R300). -/
  | collAbort (src : Nat) (msg : Bytes)
  /-- CREDIT (R285). -/
  | credit (src : Nat) (msg : Bytes)
  /-- NACK (R298). -/
  | nack (src : Nat) (msg : Bytes)
  /-- COUNTS (R292). -/
  | counts (src : Nat) (msg : Bytes)
  /-- SLOT (R290). -/
  | slot (src : Nat) (msg : Bytes)
  /-- CHAIN_RECEIVE (R295). -/
  | chainReceive (src : Nat) (msg : Bytes) (errs : Errs := [])
  /-- COLL_TILE (R293). -/
  | collTile (port : Nat) (tile : Bytes) (errs : Errs := [])
  /-- COMPLETION_ROUND (R300). -/
  | completionRound (coll : Nat) (code : Nat)
  /-- COLL_TIMEOUT (R301). -/
  | collTimeout (coll : Nat)
  /-- RMA_POLL (R343). -/
  | rmaPoll (q : Nat) (env : MemEnv)
  /-- RMA_LOAD (R345). -/
  | rmaLoad (q : Nat) (env : MemEnv) (errs : Errs := [])
  /-- RMA_STORE (R345). -/
  | rmaStore (q : Nat) (env : MemEnv)
  /-- RMA_SWAP (R345). -/
  | rmaSwap (q : Nat) (env : MemEnv)
  /-- RMA_CAS (R345). -/
  | rmaCas (q : Nat) (env : MemEnv)
  /-- RMA_ADD (R345). -/
  | rmaAdd (q : Nat) (env : MemEnv)
  /-- RMA_AND (R345). -/
  | rmaAnd (q : Nat) (env : MemEnv)
  /-- RMA_OR (R345). -/
  | rmaOr (q : Nat) (env : MemEnv)
  /-- RMA_XOR (R345). -/
  | rmaXor (q : Nat) (env : MemEnv)
  /-- RMA_UMAX (R345). -/
  | rmaUmax (q : Nat) (env : MemEnv)
  /-- RMA_UMIN (R345). -/
  | rmaUmin (q : Nat) (env : MemEnv)
  /-- RMA_SMAX (R345). -/
  | rmaSmax (q : Nat) (env : MemEnv)
  /-- RMA_SMIN (R345). -/
  | rmaSmin (q : Nat) (env : MemEnv)
  /-- RMA_PUT (R353). -/
  | rmaPut (q : Nat) (env : MemEnv)
  /-- RMA_GET (R353). -/
  | rmaGet (q : Nat) (env : MemEnv)
  /-- RMA_WAIT (R354). -/
  | rmaWait (q : Nat) (env : MemEnv)
  /-- RMA_INVALIDATE (R352). -/
  | rmaInvalidate (q : Nat) (env : MemEnv)
  /-- RMA_FENCE (R345). -/
  | rmaFence (q : Nat) (env : MemEnv)
  /-- REQ_LOAD (R349). -/
  | reqLoad (src : Nat) (msg : Bytes) (env : MemEnv)
  /-- REQ_LOAD_LINE (R351). -/
  | reqLoadLine (src : Nat) (msg : Bytes) (env : MemEnv)
  /-- REQ_STORE (R349). -/
  | reqStore (src : Nat) (msg : Bytes) (env : MemEnv)
  /-- REQ_ATOMIC (R357). -/
  | reqAtomic (src : Nat) (msg : Bytes) (env : MemEnv) (lost : Bool) (errs : Errs := [])
  /-- REQ_WRITE (R353). -/
  | reqWrite (src : Nat) (msg : Bytes) (env : MemEnv)
  /-- REQ_READ (R353). -/
  | reqRead (src : Nat) (msg : Bytes) (env : MemEnv)
  /-- REQ_RELEASE (R358). -/
  | reqRelease (src : Nat) (msg : Bytes)
  /-- REMOTE_REPLY (R362). -/
  | remoteReply (src : Nat) (q : Nat) (index : Nat) (piece : Nat) (msg : Bytes) (env : MemEnv)
  /-- ATOMIC_TIMEOUT (R359). -/
  | atomicTimeout (q : Nat) (index : Nat)
  /-- COMMAND_TIMEOUT (R362). -/
  | commandTimeout (q : Nat) (index : Nat)
  /-- WAIT_POLL (R354). -/
  | waitPoll (q : Nat) (index : Nat) (env : MemEnv)
  /-- RELEASE_TIMER (R358). -/
  | releaseTimer (q : Nat) (target : Nat)
  /-- TRACE_WRITE (R464). -/
  | traceWrite (errs : Errs := [])
  /-- TOKEN_STREAM_PORT_CREDIT (R248). -/
  | tokenStreamPortCredit (port : Nat) (errs : Errs := [])
  /-- LINK_SIGNATURE_DONE (R396). -/
  | linkSignatureDone (port : Nat)
  /-- TRACE_WINDOW_READ (R471). -/
  | traceWindowRead (addr : Nat) (uncorr : Bool)
  deriving DecidableEq, Repr

end Sys2Proof
end

