-- ==== Sys2Proof/Decode.lean ====
section
/-! DEFINITION. The decoder of table words. -/
namespace Sys2Proof

/-- The command that a word spells by the table's bits. The opcode table gives none of its 203 rows any bits: commands
reach the block over its interfaces and are not encoded as words, so every word spells none. -/
def decodeTableWord (_nbits _w : Nat) : Option Instr := none

end Sys2Proof
end

