-- ==== Sys2Proof/Config.lean ====
section
/-! DEFINITION. What the parts of the machine are fixed at, and the free values: constants without a body for what the
manual leaves open. -/
namespace Sys2Proof.Config
open Sys2Proof

/-- FREE VALUE (R394): the `n`-th 512-bit output of the HMAC_DRBG. Its noise source is outside what can be stated, so
nothing constrains it. -/
opaque drbgDraw : Nat → BitVec 512

/-- FREE VALUE (R131, R475): the cubic coefficients of the published table image: for a table version, a function code, a
range, a segment and a power of the offset, the sign, the 34-bit significand and the exponent. -/
opaque sfuCoeff : (version fn : Nat) → (range : Int) → (segment power : Nat) → Bool × BitVec 34 × Int

/-- FREE VALUE (R132): whether a function that gives zero for −0 gives −0 there, by table version and function code. -/
opaque sfuNegZero : (version fn : Nat) → Bool

/-- FREE VALUE (R455): Turzabor's manufacturer identity under JEDEC JEP106, bits [11:1] of the IDCODE. -/
opaque jep106 : BitVec 11

/-- FREE VALUE (R75, R409): an SRAM word whose layout the manual does not give, by byte address and read number. -/
opaque sramWord : (address draw : Nat) → Word64

/-- FREE VALUE (R375, R430): the IEEE 1588 message of a TIME request sent at a tick, and the one that answers a request;
their contents belong to the published standard and to the clocks. -/
opaque timeRequest (draw tick : Nat) : Bytes
opaque timeAnswer (draw tick : Nat) (request : Bytes) : Bytes

/-- FREE VALUE (R376): the ticks in which the memory system signals an HBM refresh wait during a step. -/
opaque refreshTicks (draw : Nat) : Word32

/-- FREE VALUE (R82): the SECDED check bits of a free-stack pointer; the manual does not give the code. -/
opaque stackCheck : BitVec 24 → BitVec 6

/-- FREE VALUE (R94): TB_FIRST of the cairn that stands for a trace word read uncorrectable, by read number. -/
opaque corruptTick (draw : Nat) : BitVec 32

/-- STEPPING of every production part (R477). -/
def stepping : Nat := 0x02

/-- Lowest native station contract (R477). -/
def contractLow : Nat := 0x0400

/-- Highest native station contract (R477). -/
def contractHigh : Nat := 0x0401

/-- SFU table versions in ROM (R136, R477). -/
def sfuVersions : List Nat := [0x0300, 0x0400]

/-- The version copied at chip reset (R136). -/
def sfuNative : Nat := 0x0400

/-- Part number (R455, R461). -/
def part : Nat := 0x5A04

/-- The default partition of R51, in granules of 4 MiB. -/
def defaultPartition : List Nat := [76, 8, 4, 2, 2, 2, 1, 1]

/-- The default receive-buffer split of R53. -/
def defaultChannels : List Nat := [8, 8, 16, 12, 12, 4, 4]

/-- The reset counts of R90. -/
def resetCounts : List Nat := [8192, 4096, 4096, 2048, 512, 256]

/-- The six buffer sizes of R80, pool 0 first. -/
def poolSizes : List Nat := [512, 2048, 8192, 32768, 131072, 524288]

/-- The bytes of the SRAM (R75). -/
def sramBytes : Nat := 384 * 1024 * 1024

/-- DEDUCED (R101, R437; log entry 12): the tiles a token stream port takes before a credit must return. -/
def tilePortCredits : Nat := 16

end Sys2Proof.Config
end

