-- ==== Sys2Proof/Machine/Hash.lean ====
section
/-! DEFINITION. The digests the manual names: CRC-32C (R32, R320, R392), SHA-384 (R44, R474), HMAC and HKDF with
SHA-384 (R338, R395). The manual names these published standards and gives none of their bits: PRESUMED (log entry 9). -/
namespace Sys2Proof.Machine
open Sys2Proof

/-- One bit step of CRC-32C, reflected, polynomial 0x82F6_3B78. -/
def crcBit (c : Nat) : Nat := if c % 2 = 1 then (c / 2) ^^^ 0x82F63B78 else c / 2

/-- One byte step of CRC-32C. -/
def crcByte (c : Nat) (b : Byte) : Nat :=
  crcBit (crcBit (crcBit (crcBit (crcBit (crcBit (crcBit (crcBit (c ^^^ b.toNat))))))))

/-- CRC-32C over bytes in ascending address. -/
def crc32c (bs : List Byte) : Nat := (bs.foldl crcByte 0xFFFFFFFF) ^^^ 0xFFFFFFFF

/-- The largest r below 2^b more than the start with r^k at most n, bit by bit from the highest. -/
def rootBits (k n : Nat) : Nat → Nat → Nat
  | 0, r => r
  | b + 1, r => rootBits k n b (if (r + 2 ^ b) ^ k ≤ n then r + 2 ^ b else r)

/-- The first 64 bits of the fractional part of the k-th root of a number below 512. -/
def rootFrac (k p : Nat) : Word64 := BitVec.ofNat 64 (rootBits k (p * 2 ^ (64 * k)) 69 0)

/-- The primes below 410: the first 80. -/
def shaPrimes : List Nat :=
  (List.range 410).filter (fun n => decide (2 ≤ n) && (List.range 20).all (fun d => decide (d < 2) || decide (d = n) || decide (n % d ≠ 0)))

/-- The 80 round constants of FIPS 180-4: the cube roots of the first 80 primes. -/
def shaK : List Word64 := shaPrimes.map (rootFrac 3)

/-- The initial hash value of SHA-384: the square roots of the ninth to the sixteenth prime. -/
def shaInit : List Word64 := ((shaPrimes.drop 8).take 8).map (rootFrac 2)

/-- Rotation of a 64-bit word to the right. -/
def rotr (x : Word64) (n : Nat) : Word64 := (x >>> n) ||| (x <<< (64 - n))

/-- The eight working variables of a round. -/
structure ShaVars where
  a : Word64
  b : Word64
  c : Word64
  d : Word64
  e : Word64
  f : Word64
  g : Word64
  h : Word64

/-- One round of the compression function. -/
def shaRound (v : ShaVars) (kw : Word64 × Word64) : ShaVars :=
  let s1 := rotr v.e 14 ^^^ rotr v.e 18 ^^^ rotr v.e 41
  let ch := (v.e &&& v.f) ^^^ (~~~v.e &&& v.g)
  let t1 := v.h + s1 + ch + kw.1 + kw.2
  let s0 := rotr v.a 28 ^^^ rotr v.a 34 ^^^ rotr v.a 39
  let mj := (v.a &&& v.b) ^^^ (v.a &&& v.c) ^^^ (v.b &&& v.c)
  { a := t1 + (s0 + mj), b := v.a, c := v.b, d := v.c, e := v.d + t1, f := v.e, g := v.f, h := v.g }

/-- The next schedule word from the latest sixteen, newest first. -/
def shaNextW (w : List Word64) : Word64 :=
  let g := fun i => w.getD i 0
  let s0 := rotr (g 14) 1 ^^^ rotr (g 14) 8 ^^^ (g 14 >>> 7)
  let s1 := rotr (g 1) 19 ^^^ rotr (g 1) 61 ^^^ (g 1 >>> 6)
  g 15 + s0 + g 6 + s1

/-- Extend the message schedule, newest word first. -/
def shaSched : Nat → List Word64 → List Word64
  | 0, w => w
  | n + 1, w => shaSched n (shaNextW w :: w)

/-- A big-endian 64-bit word. -/
def beWord (bs : List Byte) : Word64 := BitVec.ofNat 64 (beNat bs)

/-- Cut a list into pieces of `k`, at most `n` of them. -/
def chunks {α : Type} (k : Nat) : Nat → List α → List (List α)
  | 0, _ => []
  | n + 1, xs => if xs.isEmpty then [] else xs.take k :: chunks k n (xs.drop k)

/-- The compression function over one block of 128 bytes. -/
def shaBlock (hs : List Word64) (blk : List Byte) : List Word64 :=
  let w0 := ((chunks 8 16 blk).map beWord).reverse
  let w := (shaSched 64 w0).reverse
  let g := fun i => hs.getD i 0
  let v := (shaK.zip w).foldl shaRound ⟨g 0, g 1, g 2, g 3, g 4, g 5, g 6, g 7⟩
  [g 0 + v.a, g 1 + v.b, g 2 + v.c, g 3 + v.d, g 4 + v.e, g 5 + v.f, g 6 + v.g, g 7 + v.h]

/-- The padded message of SHA-384. -/
def shaPad (m : List Byte) : List Byte :=
  let z := (128 - (m.length + 17) % 128) % 128
  m ++ (0x80#8 :: List.replicate z 0#8) ++ beBytes 16 (8 * m.length)

/-- SHA-384: the 48 digest bytes in output order. -/
def sha384 (m : List Byte) : List Byte :=
  let p := shaPad m
  let hs := (chunks 128 (p.length / 128) p).foldl shaBlock shaInit
  ((hs.take 6).map (fun w => beBytes 8 w.toNat)).flatten

/-- The first `n` bytes of a digest as the number of R474. -/
def digestNum (n : Nat) (d : List Byte) : Nat := leNat (d.take n)

/-- HMAC with SHA-384. -/
def hmac384 (key msg : List Byte) : List Byte :=
  let k0 := if key.length > 128 then sha384 key else key
  let k := k0 ++ List.replicate (128 - k0.length) 0#8
  sha384 (k.map (· ^^^ 0x5C#8) ++ sha384 (k.map (· ^^^ 0x36#8) ++ msg))

/-- HKDF extract with SHA-384. -/
def hkdfExtract (salt ikm : List Byte) : List Byte :=
  hmac384 (if salt.isEmpty then List.replicate 48 0#8 else salt) ikm

/-- The output blocks of HKDF expand. -/
def hkdfBlocks (prk info : List Byte) : Nat → Nat → List Byte → List Byte
  | 0, _, _ => []
  | n + 1, i, prev =>
    let t := hmac384 prk (prev ++ info ++ [BitVec.ofNat 8 i])
    t ++ hkdfBlocks prk info n (i + 1) t

/-- HKDF expand with SHA-384 to `len` bytes. -/
def hkdfExpand (prk info : List Byte) (len : Nat) : List Byte :=
  (hkdfBlocks prk info (ceilDiv len 48) 1 []).take len

/-- The bytes of an ASCII label. -/
def ascii (s : String) : List Byte := s.toList.map (fun c => BitVec.ofNat 8 c.toNat)

end Sys2Proof.Machine
end

