-- ==== Sys2Proof/Machine/Aes.lean ====
section
/-! DEFINITION. AES-256-GCM over a frame (R337). The manual names the published standard: PRESUMED (log entry 9). -/
namespace Sys2Proof.Machine
open Sys2Proof

/-- S-box entries 0 to 63 of FIPS 197. -/
def sbox0 : List Byte :=
  [0x63, 0x7c, 0x77, 0x7b, 0xf2, 0x6b, 0x6f, 0xc5, 0x30, 0x01, 0x67, 0x2b, 0xfe, 0xd7, 0xab, 0x76,
   0xca, 0x82, 0xc9, 0x7d, 0xfa, 0x59, 0x47, 0xf0, 0xad, 0xd4, 0xa2, 0xaf, 0x9c, 0xa4, 0x72, 0xc0,
   0xb7, 0xfd, 0x93, 0x26, 0x36, 0x3f, 0xf7, 0xcc, 0x34, 0xa5, 0xe5, 0xf1, 0x71, 0xd8, 0x31, 0x15,
   0x04, 0xc7, 0x23, 0xc3, 0x18, 0x96, 0x05, 0x9a, 0x07, 0x12, 0x80, 0xe2, 0xeb, 0x27, 0xb2, 0x75]

/-- S-box entries 64 to 127 of FIPS 197. -/
def sbox1 : List Byte :=
  [0x09, 0x83, 0x2c, 0x1a, 0x1b, 0x6e, 0x5a, 0xa0, 0x52, 0x3b, 0xd6, 0xb3, 0x29, 0xe3, 0x2f, 0x84,
   0x53, 0xd1, 0x00, 0xed, 0x20, 0xfc, 0xb1, 0x5b, 0x6a, 0xcb, 0xbe, 0x39, 0x4a, 0x4c, 0x58, 0xcf,
   0xd0, 0xef, 0xaa, 0xfb, 0x43, 0x4d, 0x33, 0x85, 0x45, 0xf9, 0x02, 0x7f, 0x50, 0x3c, 0x9f, 0xa8,
   0x51, 0xa3, 0x40, 0x8f, 0x92, 0x9d, 0x38, 0xf5, 0xbc, 0xb6, 0xda, 0x21, 0x10, 0xff, 0xf3, 0xd2]

/-- S-box entries 128 to 191 of FIPS 197. -/
def sbox2 : List Byte :=
  [0xcd, 0x0c, 0x13, 0xec, 0x5f, 0x97, 0x44, 0x17, 0xc4, 0xa7, 0x7e, 0x3d, 0x64, 0x5d, 0x19, 0x73,
   0x60, 0x81, 0x4f, 0xdc, 0x22, 0x2a, 0x90, 0x88, 0x46, 0xee, 0xb8, 0x14, 0xde, 0x5e, 0x0b, 0xdb,
   0xe0, 0x32, 0x3a, 0x0a, 0x49, 0x06, 0x24, 0x5c, 0xc2, 0xd3, 0xac, 0x62, 0x91, 0x95, 0xe4, 0x79,
   0xe7, 0xc8, 0x37, 0x6d, 0x8d, 0xd5, 0x4e, 0xa9, 0x6c, 0x56, 0xf4, 0xea, 0x65, 0x7a, 0xae, 0x08]

/-- S-box entries 192 to 255 of FIPS 197. -/
def sbox3 : List Byte :=
  [0xba, 0x78, 0x25, 0x2e, 0x1c, 0xa6, 0xb4, 0xc6, 0xe8, 0xdd, 0x74, 0x1f, 0x4b, 0xbd, 0x8b, 0x8a,
   0x70, 0x3e, 0xb5, 0x66, 0x48, 0x03, 0xf6, 0x0e, 0x61, 0x35, 0x57, 0xb9, 0x86, 0xc1, 0x1d, 0x9e,
   0xe1, 0xf8, 0x98, 0x11, 0x69, 0xd9, 0x8e, 0x94, 0x9b, 0x1e, 0x87, 0xe9, 0xce, 0x55, 0x28, 0xdf,
   0x8c, 0xa1, 0x89, 0x0d, 0xbf, 0xe6, 0x42, 0x68, 0x41, 0x99, 0x2d, 0x0f, 0xb0, 0x54, 0xbb, 0x16]

/-- The S-box. -/
def sbox : List Byte := sbox0 ++ sbox1 ++ sbox2 ++ sbox3

/-- Substitution of one byte. -/
def subByte (b : Byte) : Byte := sbox.getD b.toNat 0

/-- Doubling in GF(2^8). -/
def xtime (b : Byte) : Byte := (b <<< 1) ^^^ (if b.getLsbD 7 then 0x1B else 0)

/-- The exclusive or of two byte strings. -/
def xorBytes (a b : List Byte) : List Byte := a.zipWith (· ^^^ ·) b

/-- The next word of the AES-256 key schedule: `i` is its index, `prev` the word before it, `back` the word eight before. -/
def keyWord (i : Nat) (rcon : Byte) (prev back : List Byte) : List Byte :=
  let t :=
    if i % 8 = 0 then
      match prev.map subByte with
      | a :: rest => xorBytes (rest ++ [a]) [rcon, 0, 0, 0]
      | [] => []
    else if i % 8 = 4 then prev.map subByte else prev
  xorBytes t back

/-- Extend the key schedule, newest word first. -/
def keySched : Nat → Nat → Byte → List (List Byte) → List (List Byte)
  | 0, _, _, ws => ws
  | n + 1, i, rcon, ws =>
    let w := keyWord i rcon (ws.getD 0 []) (ws.getD 7 [])
    keySched n (i + 1) (if i % 8 = 0 then xtime rcon else rcon) (w :: ws)

/-- The 15 round keys of AES-256. -/
def roundKeys (key : List Byte) : List (List Byte) :=
  (chunks 4 15 (keySched 52 8 1 (chunks 4 8 key).reverse).reverse).map List.flatten

/-- ShiftRows on a column-major block. -/
def shiftRows (b : List Byte) : List Byte :=
  (List.range 16).map (fun i => b.getD ((i + 4 * (i % 4)) % 16) 0)

/-- MixColumns on one column. -/
def mixCol (c : List Byte) : List Byte :=
  let g := fun i => c.getD (i % 4) 0
  (List.range 4).map (fun i => xtime (g i) ^^^ (xtime (g (i + 1)) ^^^ g (i + 1)) ^^^ g (i + 2) ^^^ g (i + 3))

/-- The middle rounds. -/
def aesRounds : List (List Byte) → List Byte → List Byte
  | [], b => b
  | [k], b => xorBytes (shiftRows (b.map subByte)) k
  | k :: ks, b => aesRounds ks (xorBytes ((chunks 4 4 (shiftRows (b.map subByte))).map mixCol).flatten k)

/-- The AES-256 block function. -/
def aesBlock (key blk : List Byte) : List Byte :=
  match roundKeys key with
  | k :: ks => aesRounds ks (xorBytes blk k)
  | [] => blk

/-- Multiplication in the GHASH field, most significant bit first. -/
def ghashMul : Nat → Nat → Nat → Nat → Nat
  | 0, _, _, z => z
  | n + 1, x, v, z =>
    let z1 := if x.testBit n then z ^^^ v else z
    ghashMul n x (if v % 2 = 1 then (v / 2) ^^^ (0xE1 * 2 ^ 120) else v / 2) z1

/-- GHASH over 16-byte blocks. -/
def ghash (h : Nat) (bs : List Byte) : Nat :=
  (chunks 16 (ceilDiv bs.length 16) bs).foldl (fun y b => ghashMul 128 (y ^^^ beNat b) h 0) 0

/-- The key stream of GCM's counter mode, from block `ctr` on. -/
def ctrStream (key iv : List Byte) : Nat → Nat → List Byte
  | 0, _ => []
  | n + 1, ctr => aesBlock key (iv ++ beBytes 4 ctr) ++ ctrStream key iv n (ctr + 1)

/-- Counter-mode encryption or decryption. -/
def gcmCrypt (key iv data : List Byte) : List Byte :=
  xorBytes data (ctrStream key iv (ceilDiv data.length 16) 2)

/-- The 128-bit authentication tag over header and ciphertext. -/
def gcmTag (key iv aad cipher : List Byte) : List Byte :=
  let h := beNat (aesBlock key (List.replicate 16 0#8))
  let s := ghash h (padTo 16 aad ++ padTo 16 cipher ++ beBytes 8 (8 * aad.length) ++ beBytes 8 (8 * cipher.length))
  xorBytes (beBytes 16 s) (aesBlock key (iv ++ beBytes 4 1))

end Sys2Proof.Machine
end

