-- ==== Sys2Proof/Machine/RegMap.lean ====
section
/-! DEFINITION. The register map (R15 to R19, R457 to R473): one row for each field of each register, as the field maps of
the manual give it. -/
namespace Sys2Proof.Machine
open Sys2Proof

/-- The access kinds of R16. -/
inductive Acc where
  | rw | ro | wo | w1c | rc | sh
  deriving DecidableEq, Repr

/-- A field of a register, or of an array of like registers: the offset of the first one, the distance between two, how
many there are, the bits, the access kind and the reset value. -/
structure RegField where
  base : Nat
  stride : Nat
  count : Nat
  hi : Nat
  lo : Nat
  acc : Acc
  reset : Nat
  deriving DecidableEq, Repr

/-- Whether a field belongs to the register at an offset. -/
def RegField.at_ (f : RegField) (a : Nat) : Bool :=
  if f.stride = 0 then a = f.base
  else f.base ≤ a && (a - f.base) % f.stride = 0 && (a - f.base) / f.stride < f.count

/-- The fields from offset 0x0 on. -/
def regFields0 : List RegField :=
  [⟨0x0, 0x0, 1, 31, 24, .ro, 0x0⟩ /- SDE_ID -/,
   ⟨0x0, 0x0, 1, 15, 0, .ro, 0x5A04⟩ /- SDE_ID -/,
   ⟨0x4, 0x0, 1, 31, 16, .ro, 0x0⟩ /- SDE_CONTRACT -/,
   ⟨0x4, 0x0, 1, 15, 0, .ro, 0x0⟩ /- SDE_CONTRACT -/,
   ⟨0x8, 0x0, 1, 23, 16, .rc, 0x0⟩ /- SDE_ERR_STATUS -/,
   ⟨0x8, 0x0, 1, 15, 8, .rc, 0x0⟩ /- SDE_ERR_STATUS -/,
   ⟨0x8, 0x0, 1, 7, 0, .rc, 0x0⟩ /- SDE_ERR_STATUS -/,
   ⟨0x10, 0x0, 1, 1, 1, .sh, 0x0⟩ /- SDE_MODE -/,
   ⟨0x10, 0x0, 1, 0, 0, .sh, 0x0⟩ /- SDE_MODE -/,
   ⟨0x14, 0x0, 1, 31, 0, .sh, 0x3B9ACA00⟩ /- SDE_STEP_TIMEOUT -/,
   ⟨0x100, 0x0, 1, 4, 0, .wo, 0x0⟩ /- SDE_COMMIT -/,
   ⟨0x104, 0x0, 1, 19, 16, .ro, 0x0⟩ /- SDE_COMMIT_STATUS -/,
   ⟨0x104, 0x0, 1, 8, 8, .ro, 0x0⟩ /- SDE_COMMIT_STATUS -/,
   ⟨0x104, 0x0, 1, 4, 0, .ro, 0x0⟩ /- SDE_COMMIT_STATUS -/,
   ⟨0x200, 0x0, 1, 0, 0, .wo, 0x0⟩ /- SDE_DATUM_CTRL -/,
   ⟨0x204, 0x0, 1, 31, 24, .ro, 0x0⟩ /- SDE_DATUM_STATUS -/,
   ⟨0x204, 0x0, 1, 8, 8, .ro, 0x0⟩ /- SDE_DATUM_STATUS -/,
   ⟨0x204, 0x0, 1, 4, 4, .ro, 0x0⟩ /- SDE_DATUM_STATUS -/,
   ⟨0x204, 0x0, 1, 2, 0, .ro, 0x0⟩ /- SDE_DATUM_STATUS -/,
   ⟨0x208, 0x0, 1, 15, 0, .rw, 0x800⟩ /- SDE_DATUM_LEAD -/,
   ⟨0x210, 0x0, 1, 31, 0, .rw, 0x0⟩ /- SDE_STEP_LO -/,
   ⟨0x214, 0x0, 1, 23, 0, .rw, 0x0⟩ /- SDE_STEP_HI -/,
   ⟨0x220, 0x0, 1, 31, 0, .ro, 0x400⟩ /- SDE_SIG0 -/,
   ⟨0x224, 0x0, 1, 31, 0, .ro, 0x0⟩ /- SDE_SIG1 -/,
   ⟨0x228, 0x0, 1, 15, 0, .ro, 0x0⟩ /- SDE_SIG2 -/,
   ⟨0x230, 0x0, 1, 31, 0, .rw, 0x0⟩ /- SDE_RUN_SEED_LO -/,
   ⟨0x234, 0x0, 1, 31, 0, .rw, 0x0⟩ /- SDE_RUN_SEED_HI -/,
   ⟨0x240, 0x0, 1, 31, 7, .rw, 0x0⟩ /- SDE_REC_LO -/,
   ⟨0x244, 0x0, 1, 31, 0, .rw, 0x0⟩ /- SDE_REC_HI -/,
   ⟨0x248, 0x0, 1, 4, 0, .rw, 0x4⟩ /- SDE_REC_SIZE -/,
   ⟨0x24C, 0x0, 1, 31, 0, .ro, 0x0⟩ /- SDE_REC_PTR -/,
   ⟨0x250, 0x0, 1, 1, 0, .rw, 0x0⟩ /- SDE_REPLAY -/,
   ⟨0x260, 0x0, 1, 0, 0, .wo, 0x0⟩ /- SDE_RLOG_CTRL -/,
   ⟨0x264, 0x0, 1, 23, 0, .rw, 0x1000⟩ /- SDE_RLOG_PERIOD -/,
   ⟨0x268, 0x0, 1, 31, 8, .rw, 0x0⟩ /- SDE_RLOG_CP_LO -/,
   ⟨0x26C, 0x0, 1, 31, 0, .rw, 0x0⟩ /- SDE_RLOG_CP_HI -/,
   ⟨0x270, 0x0, 1, 3, 0, .rw, 0x4⟩ /- SDE_RLOG_CP_SIZE -/,
   ⟨0x274, 0x0, 1, 31, 16, .rc, 0x0⟩ /- SDE_RLOG_STATUS -/,
   ⟨0x274, 0x0, 1, 15, 8, .ro, 0x0⟩ /- SDE_RLOG_STATUS -/,
   ⟨0x274, 0x0, 1, 2, 2, .ro, 0x0⟩ /- SDE_RLOG_STATUS -/,
   ⟨0x274, 0x0, 1, 1, 1, .ro, 0x0⟩ /- SDE_RLOG_STATUS -/,
   ⟨0x274, 0x0, 1, 0, 0, .ro, 0x0⟩ /- SDE_RLOG_STATUS -/,
   ⟨0x280, 0x4, 12, 31, 0, .ro, 0x0⟩ /- SDE_RLOG_HEAD0 to SDE_RLOG_HEAD11 -/,
   ⟨0x2C0, 0x4, 12, 31, 0, .wo, 0x0⟩ /- SDE_RLOG_START0 to SDE_RLOG_START11 -/,
   ⟨0x300, 0x0, 1, 31, 31, .wo, 0x0⟩ /- SDE_FENCE -/]

/-- The fields from offset 0x300 on. -/
def regFields1 : List RegField :=
  [⟨0x300, 0x0, 1, 13, 0, .wo, 0x0⟩ /- SDE_FENCE -/,
   ⟨0x304, 0x0, 1, 31, 31, .ro, 0x0⟩ /- SDE_FENCE_STATUS -/,
   ⟨0x304, 0x0, 1, 30, 30, .ro, 0x0⟩ /- SDE_FENCE_STATUS -/,
   ⟨0x304, 0x0, 1, 14, 0, .ro, 0x0⟩ /- SDE_FENCE_STATUS -/,
   ⟨0x308, 0x0, 1, 8, 0, .rw, 0x0⟩ /- SDE_FENCE_SEL -/,
   ⟨0x30C, 0x0, 1, 31, 0, .ro, 0x0⟩ /- SDE_FENCE_MAP -/,
   ⟨0x310, 0x0, 1, 15, 0, .rc, 0x0⟩ /- SDE_PROBE_FAIL -/,
   ⟨0x320, 0x0, 1, 31, 6, .rw, 0x0⟩ /- SDE_NOTE_LO -/,
   ⟨0x324, 0x0, 1, 31, 0, .rw, 0x0⟩ /- SDE_NOTE_HI -/,
   ⟨0x328, 0x0, 1, 3, 0, .rw, 0x0⟩ /- SDE_NOTE_SIZE -/,
   ⟨0x32C, 0x0, 1, 15, 0, .ro, 0x0⟩ /- SDE_NOTE_WR -/,
   ⟨0x330, 0x0, 1, 15, 0, .rw, 0x0⟩ /- SDE_NOTE_RD -/,
   ⟨0x334, 0x0, 1, 15, 0, .rc, 0x0⟩ /- SDE_NOTE_LOST -/,
   ⟨0x338, 0x0, 1, 13, 1, .w1c, 0x0⟩ /- SDE_IRQ_STATUS -/,
   ⟨0x33C, 0x0, 1, 13, 1, .rw, 0x0⟩ /- SDE_IRQ_MASK -/,
   ⟨0x400, 0x0, 1, 21, 16, .ro, 0x0⟩ /- SDE_BOOT -/,
   ⟨0x400, 0x0, 1, 11, 11, .ro, 0x0⟩ /- SDE_BOOT -/,
   ⟨0x400, 0x0, 1, 10, 10, .ro, 0x0⟩ /- SDE_BOOT -/,
   ⟨0x400, 0x0, 1, 9, 9, .ro, 0x0⟩ /- SDE_BOOT -/,
   ⟨0x400, 0x0, 1, 8, 8, .ro, 0x0⟩ /- SDE_BOOT -/,
   ⟨0x400, 0x0, 1, 3, 0, .ro, 0x0⟩ /- SDE_BOOT -/,
   ⟨0x404, 0x0, 1, 1, 1, .wo, 0x0⟩ /- SDE_BOOT_CTRL -/,
   ⟨0x404, 0x0, 1, 0, 0, .wo, 0x0⟩ /- SDE_BOOT_CTRL -/,
   ⟨0x408, 0x0, 1, 29, 16, .ro, 0x0⟩ /- SDE_IDENT -/,
   ⟨0x408, 0x0, 1, 15, 8, .rw, 0x0⟩ /- SDE_IDENT -/,
   ⟨0x408, 0x0, 1, 5, 0, .ro, 0x0⟩ /- SDE_IDENT -/,
   ⟨0x40C, 0x0, 1, 8, 0, .rw, 0x0⟩ /- SDE_INSTALL -/,
   ⟨0x410, 0x0, 1, 31, 0, .ro, 0x0⟩ /- SDE_TB_LO -/,
   ⟨0x414, 0x0, 1, 31, 0, .ro, 0x0⟩ /- SDE_TB_HI -/,
   ⟨0x418, 0x0, 1, 31, 0, .wo, 0x0⟩ /- SDE_TB_SET_LO -/,
   ⟨0x41C, 0x0, 1, 31, 0, .rw, 0x0⟩ /- SDE_TB_SET_HI -/,
   ⟨0x420, 0x0, 1, 31, 28, .ro, 0x0⟩ /- SDE_CLK_STATUS -/,
   ⟨0x420, 0x0, 1, 27, 24, .ro, 0x0⟩ /- SDE_CLK_STATUS -/,
   ⟨0x420, 0x0, 1, 9, 9, .ro, 0x0⟩ /- SDE_CLK_STATUS -/,
   ⟨0x420, 0x0, 1, 8, 8, .ro, 0x0⟩ /- SDE_CLK_STATUS -/,
   ⟨0x424, 0x0, 1, 29, 16, .ro, 0x0⟩ /- SDE_CAL -/,
   ⟨0x424, 0x0, 1, 15, 0, .ro, 0x0⟩ /- SDE_CAL -/,
   ⟨0x428, 0x0, 1, 31, 0, .rc, 0x0⟩ /- SDE_THROTTLE_CHG -/,
   ⟨0x430, 0x4, 4, 31, 0, .ro, 0x0⟩ /- SDE_PWR0 to SDE_PWR3 -/,
   ⟨0x8010, 0x0, 1, 1, 1, .ro, 0x0⟩ /- SDE_MODE_LIVE -/,
   ⟨0x8010, 0x0, 1, 0, 0, .ro, 0x0⟩ /- SDE_MODE_LIVE -/,
   ⟨0x8014, 0x0, 1, 31, 0, .ro, 0x3B9ACA00⟩ /- SDE_STEP_TIMEOUT_LIVE -/,
   ⟨0x10000, 0x0, 1, 3, 3, .wo, 0x0⟩ /- PLAT_CTRL -/,
   ⟨0x10000, 0x0, 1, 2, 2, .wo, 0x0⟩ /- PLAT_CTRL -/,
   ⟨0x10000, 0x0, 1, 1, 1, .wo, 0x0⟩ /- PLAT_CTRL -/]

/-- The fields from offset 0x10000 on. -/
def regFields2 : List RegField :=
  [⟨0x10000, 0x0, 1, 0, 0, .wo, 0x0⟩ /- PLAT_CTRL -/,
   ⟨0x10004, 0x0, 1, 31, 16, .ro, 0x0⟩ /- PLAT_STATUS -/,
   ⟨0x10004, 0x0, 1, 5, 5, .ro, 0x0⟩ /- PLAT_STATUS -/,
   ⟨0x10004, 0x0, 1, 4, 4, .ro, 0x0⟩ /- PLAT_STATUS -/,
   ⟨0x10004, 0x0, 1, 2, 0, .ro, 0x0⟩ /- PLAT_STATUS -/,
   ⟨0x10008, 0x0, 1, 23, 16, .rc, 0x0⟩ /- PLAT_ERR_STATUS -/,
   ⟨0x10008, 0x0, 1, 15, 8, .rc, 0x0⟩ /- PLAT_ERR_STATUS -/,
   ⟨0x10008, 0x0, 1, 7, 0, .rc, 0x0⟩ /- PLAT_ERR_STATUS -/,
   ⟨0x10010, 0x0, 1, 31, 6, .rw, 0x0⟩ /- PLAT_SRC_LO -/,
   ⟨0x10014, 0x0, 1, 31, 0, .rw, 0x0⟩ /- PLAT_SRC_HI -/,
   ⟨0x10018, 0x0, 1, 31, 0, .rw, 0x0⟩ /- PLAT_LEN -/,
   ⟨0x10040, 0x4, 12, 31, 0, .ro, 0x0⟩ /- PLAT_STAGED_HASH -/,
   ⟨0x10080, 0x4, 12, 31, 0, .ro, 0x0⟩ /- PLAT_ACTIVE_HASH -/,
   ⟨0x20000, 0x0, 1, 0, 0, .wo, 0x0⟩ /- POOL_CTRL -/,
   ⟨0x20008, 0x0, 1, 23, 16, .rc, 0x0⟩ /- POOL_ERR_STATUS -/,
   ⟨0x20008, 0x0, 1, 15, 8, .rc, 0x0⟩ /- POOL_ERR_STATUS -/,
   ⟨0x20008, 0x0, 1, 7, 0, .rc, 0x0⟩ /- POOL_ERR_STATUS -/,
   ⟨0x20010, 0x4, 6, 23, 0, .ro, 0x0⟩ /- POOL_FREEn -/,
   ⟨0x20030, 0x4, 6, 23, 0, .ro, 0x0⟩ /- POOL_LOWn -/,
   ⟨0x20050, 0x4, 6, 23, 0, .ro, 0x0⟩ /- POOL_COUNTn -/,
   ⟨0x20070, 0x0, 1, 10, 8, .rw, 0x0⟩ /- POOL_OWNER_SEL -/,
   ⟨0x20070, 0x0, 1, 6, 6, .rw, 0x0⟩ /- POOL_OWNER_SEL -/,
   ⟨0x20070, 0x0, 1, 5, 0, .rw, 0x0⟩ /- POOL_OWNER_SEL -/,
   ⟨0x20074, 0x0, 1, 23, 0, .ro, 0x0⟩ /- POOL_OWNER_HELD -/,
   ⟨0x20078, 0x0, 1, 23, 0, .ro, 0x0⟩ /- POOL_OWNER_MIN -/,
   ⟨0x2007C, 0x0, 1, 31, 0, .rc, 0x0⟩ /- POOL_ALLOC_WAIT -/,
   ⟨0x20080, 0x0, 1, 31, 0, .rc, 0x0⟩ /- POOL_SRAM_CORR -/,
   ⟨0x20084, 0x0, 1, 15, 0, .rc, 0x0⟩ /- POOL_SRAM_UNCORR -/,
   ⟨0x20088, 0x0, 1, 21, 16, .ro, 0x0⟩ /- POOL_SRAM_BANK -/,
   ⟨0x20088, 0x0, 1, 5, 0, .ro, 0x0⟩ /- POOL_SRAM_BANK -/,
   ⟨0x2008C, 0x0, 1, 23, 0, .ro, 0x0⟩ /- POOL_WITHDRAWN -/,
   ⟨0x20104, 0x4, 15, 31, 31, .w1c, 0x0⟩ /- POOL_QSTATc -/,
   ⟨0x20104, 0x4, 15, 30, 30, .ro, 0x0⟩ /- POOL_QSTATc -/,
   ⟨0x20104, 0x4, 15, 29, 29, .w1c, 0x0⟩ /- POOL_QSTATc -/,
   ⟨0x20104, 0x4, 15, 23, 16, .rc, 0x0⟩ /- POOL_QSTATc -/,
   ⟨0x20104, 0x4, 15, 6, 0, .ro, 0x0⟩ /- POOL_QSTATc -/,
   ⟨0x30000, 0x0, 1, 23, 16, .ro, 0x0⟩ /- SCORE_STATUS -/,
   ⟨0x30000, 0x0, 1, 8, 8, .ro, 0x0⟩ /- SCORE_STATUS -/,
   ⟨0x30000, 0x0, 1, 1, 1, .ro, 0x0⟩ /- SCORE_STATUS -/,
   ⟨0x30000, 0x0, 1, 0, 0, .ro, 0x0⟩ /- SCORE_STATUS -/,
   ⟨0x30008, 0x0, 1, 23, 16, .rc, 0x0⟩ /- SCORE_ERR_STATUS -/,
   ⟨0x30008, 0x0, 1, 15, 8, .rc, 0x0⟩ /- SCORE_ERR_STATUS -/,
   ⟨0x30008, 0x0, 1, 7, 0, .rc, 0x0⟩ /- SCORE_ERR_STATUS -/,
   ⟨0x30010, 0x4, 2, 31, 0, .rc, 0x0⟩ /- SCORE_PAIRSa -/,
   ⟨0x30018, 0x4, 2, 31, 0, .rc, 0x0⟩ /- SCORE_WAITa -/]

/-- The fields from offset 0x30020 on. -/
def regFields3 : List RegField :=
  [⟨0x30020, 0x0, 1, 31, 0, .rc, 0x0⟩ /- SCORE_NAN -/,
   ⟨0x30024, 0x0, 1, 31, 0, .rc, 0x0⟩ /- SCORE_INF -/,
   ⟨0x30028, 0x0, 1, 31, 0, .rc, 0x0⟩ /- SCORE_SAT -/,
   ⟨0x3002C, 0x0, 1, 31, 0, .rc, 0x0⟩ /- SCORE_TRUNC -/,
   ⟨0x30030, 0x0, 1, 31, 16, .rc, 0x0⟩ /- SCORE_ACC_ERR -/,
   ⟨0x30030, 0x0, 1, 15, 0, .rc, 0x0⟩ /- SCORE_ACC_ERR -/,
   ⟨0x30034, 0x0, 1, 25, 16, .ro, 0x0⟩ /- SCORE_ANCHOR -/,
   ⟨0x30034, 0x0, 1, 9, 0, .ro, 0x0⟩ /- SCORE_ANCHOR -/,
   ⟨0x31000, 0x0, 1, 16, 16, .ro, 0x1⟩ /- SFU_TABLE -/,
   ⟨0x31000, 0x0, 1, 15, 0, .ro, 0x400⟩ /- SFU_TABLE -/,
   ⟨0x31004, 0x0, 1, 15, 0, .wo, 0x0⟩ /- SFU_TABLE_SEL -/,
   ⟨0x31008, 0x0, 1, 23, 16, .rc, 0x0⟩ /- SFU_ERR_STATUS -/,
   ⟨0x31008, 0x0, 1, 15, 8, .rc, 0x0⟩ /- SFU_ERR_STATUS -/,
   ⟨0x31008, 0x0, 1, 7, 0, .rc, 0x0⟩ /- SFU_ERR_STATUS -/,
   ⟨0x3100C, 0x0, 1, 31, 16, .ro, 0x400⟩ /- SFU_TABLE_AVAIL -/,
   ⟨0x3100C, 0x0, 1, 15, 0, .ro, 0x300⟩ /- SFU_TABLE_AVAIL -/,
   ⟨0x31010, 0x0, 1, 5, 5, .ro, 0x0⟩ /- SFU_STATUS -/,
   ⟨0x31010, 0x0, 1, 4, 4, .ro, 0x0⟩ /- SFU_STATUS -/,
   ⟨0x31010, 0x0, 1, 1, 1, .ro, 0x0⟩ /- SFU_STATUS -/,
   ⟨0x31010, 0x0, 1, 0, 0, .ro, 0x0⟩ /- SFU_STATUS -/,
   ⟨0x31020, 0x0, 1, 31, 0, .rc, 0x0⟩ /- SFU_GATE_NAN -/,
   ⟨0x31024, 0x0, 1, 31, 0, .rc, 0x0⟩ /- SFU_GATE_INF -/,
   ⟨0x31028, 0x0, 1, 31, 0, .rc, 0x0⟩ /- SFU_GATE_DEAD -/,
   ⟨0x3102C, 0x0, 1, 31, 0, .rc, 0x0⟩ /- SFU_NORM_NONFIN -/,
   ⟨0x31030, 0x0, 1, 31, 0, .rc, 0x0⟩ /- SFU_CONV_SAT -/,
   ⟨0x31034, 0x0, 1, 31, 0, .rc, 0x0⟩ /- SFU_VAR_CLAMP -/,
   ⟨0x31038, 0x0, 1, 15, 0, .rc, 0x0⟩ /- SFU_TABLE_REFRESH -/,
   ⟨0x31040, 0x0, 1, 31, 0, .rc, 0x0⟩ /- SFU_WAIT0 -/,
   ⟨0x31044, 0x0, 1, 31, 0, .rc, 0x0⟩ /- SFU_WAIT1 -/,
   ⟨0x40000, 0x0, 1, 23, 16, .ro, 0x0⟩ /- SEL_STATUS -/,
   ⟨0x40000, 0x0, 1, 8, 8, .ro, 0x0⟩ /- SEL_STATUS -/,
   ⟨0x40000, 0x0, 1, 0, 0, .ro, 0x0⟩ /- SEL_STATUS -/,
   ⟨0x40008, 0x0, 1, 23, 16, .rc, 0x0⟩ /- SEL_ERR_STATUS -/,
   ⟨0x40008, 0x0, 1, 15, 8, .rc, 0x0⟩ /- SEL_ERR_STATUS -/,
   ⟨0x40008, 0x0, 1, 7, 0, .rc, 0x0⟩ /- SEL_ERR_STATUS -/,
   ⟨0x40010, 0x0, 1, 31, 0, .rc, 0x0⟩ /- SEL_ROWS -/,
   ⟨0x40014, 0x0, 1, 31, 0, .rc, 0x0⟩ /- SEL_TIES -/,
   ⟨0x40018, 0x0, 1, 31, 0, .rc, 0x0⟩ /- SEL_POISON -/,
   ⟨0x4001C, 0x0, 1, 31, 0, .rc, 0x0⟩ /- SEL_ZERO -/,
   ⟨0x41000, 0x0, 1, 0, 0, .rw, 0x0⟩ /- TALLY_CTRL -/,
   ⟨0x41004, 0x0, 1, 31, 24, .ro, 0x0⟩ /- TALLY_STATUS -/,
   ⟨0x41004, 0x0, 1, 23, 16, .ro, 0x0⟩ /- TALLY_STATUS -/,
   ⟨0x41004, 0x0, 1, 8, 8, .ro, 0x0⟩ /- TALLY_STATUS -/,
   ⟨0x41004, 0x0, 1, 4, 4, .ro, 0x0⟩ /- TALLY_STATUS -/,
   ⟨0x41004, 0x0, 1, 2, 0, .ro, 0x0⟩ /- TALLY_STATUS -/]

/-- The fields from offset 0x41008 on. -/
def regFields4 : List RegField :=
  [⟨0x41008, 0x0, 1, 23, 16, .rc, 0x0⟩ /- TALLY_ERR_STATUS -/,
   ⟨0x41008, 0x0, 1, 15, 8, .rc, 0x0⟩ /- TALLY_ERR_STATUS -/,
   ⟨0x41008, 0x0, 1, 7, 0, .rc, 0x0⟩ /- TALLY_ERR_STATUS -/,
   ⟨0x41010, 0x0, 1, 31, 0, .rc, 0x0⟩ /- TALLY_ADMITTED -/,
   ⟨0x41014, 0x0, 1, 31, 0, .rc, 0x0⟩ /- TALLY_SPILLED -/,
   ⟨0x41018, 0x0, 1, 31, 0, .rc, 0x0⟩ /- TALLY_SKIPPED -/,
   ⟨0x4101C, 0x0, 1, 31, 0, .rc, 0x0⟩ /- TALLY_WAIT -/,
   ⟨0x41020, 0x0, 1, 31, 16, .ro, 0x0⟩ /- TALLY_LANDING -/,
   ⟨0x41020, 0x0, 1, 15, 0, .ro, 0x0⟩ /- TALLY_LANDING -/,
   ⟨0x41024, 0x0, 1, 8, 8, .ro, 0x0⟩ /- TALLY_TRIPS -/,
   ⟨0x41024, 0x0, 1, 7, 0, .ro, 0x0⟩ /- TALLY_TRIPS -/,
   ⟨0x41030, 0x0, 1, 31, 0, .sh, 0x989680⟩ /- TALLY_TIMEOUT -/,
   ⟨0x49030, 0x0, 1, 31, 0, .ro, 0x989680⟩ /- TALLY_TIMEOUT_LIVE -/,
   ⟨0x50000, 0x0, 1, 31, 24, .ro, 0x0⟩ /- SORT_STATUS -/,
   ⟨0x50000, 0x0, 1, 23, 16, .ro, 0x0⟩ /- SORT_STATUS -/,
   ⟨0x50000, 0x0, 1, 8, 8, .ro, 0x0⟩ /- SORT_STATUS -/,
   ⟨0x50000, 0x0, 1, 4, 4, .ro, 0x0⟩ /- SORT_STATUS -/,
   ⟨0x50000, 0x0, 1, 2, 0, .ro, 0x0⟩ /- SORT_STATUS -/,
   ⟨0x50004, 0x0, 1, 17, 0, .ro, 0x0⟩ /- SORT_BUCKETS -/,
   ⟨0x50008, 0x0, 1, 23, 16, .rc, 0x0⟩ /- SORT_ERR_STATUS -/,
   ⟨0x50008, 0x0, 1, 15, 8, .rc, 0x0⟩ /- SORT_ERR_STATUS -/,
   ⟨0x50008, 0x0, 1, 7, 0, .rc, 0x0⟩ /- SORT_ERR_STATUS -/,
   ⟨0x50010, 0x0, 1, 31, 0, .rc, 0x0⟩ /- SORT_ENTRIES -/,
   ⟨0x50014, 0x0, 1, 31, 0, .rc, 0x0⟩ /- SORT_GROUPS -/,
   ⟨0x50018, 0x0, 1, 31, 0, .rc, 0x0⟩ /- SORT_SHARED -/,
   ⟨0x5001C, 0x0, 1, 31, 0, .rc, 0x0⟩ /- SORT_PACK_SAT -/,
   ⟨0x50020, 0x0, 1, 31, 0, .rc, 0x0⟩ /- SORT_PACK_POISON -/,
   ⟨0x50024, 0x0, 1, 31, 0, .rc, 0x0⟩ /- SORT_PACK_WAIT -/,
   ⟨0x50028, 0x0, 1, 31, 0, .rc, 0x0⟩ /- SORT_MAP_WAIT -/,
   ⟨0x60000, 0x0, 1, 2, 2, .wo, 0x0⟩ /- CAD_CTRL -/,
   ⟨0x60000, 0x0, 1, 1, 1, .wo, 0x0⟩ /- CAD_CTRL -/,
   ⟨0x60000, 0x0, 1, 0, 0, .wo, 0x0⟩ /- CAD_CTRL -/,
   ⟨0x60004, 0x0, 1, 31, 16, .ro, 0x0⟩ /- CAD_STATUS -/,
   ⟨0x60004, 0x0, 1, 8, 8, .ro, 0x0⟩ /- CAD_STATUS -/,
   ⟨0x60004, 0x0, 1, 4, 4, .ro, 0x0⟩ /- CAD_STATUS -/,
   ⟨0x60004, 0x0, 1, 1, 0, .ro, 0x0⟩ /- CAD_STATUS -/,
   ⟨0x60008, 0x0, 1, 23, 16, .rc, 0x0⟩ /- CAD_ERR_STATUS -/,
   ⟨0x60008, 0x0, 1, 15, 8, .rc, 0x0⟩ /- CAD_ERR_STATUS -/,
   ⟨0x60008, 0x0, 1, 7, 0, .rc, 0x0⟩ /- CAD_ERR_STATUS -/,
   ⟨0x6000C, 0x0, 1, 31, 31, .sh, 0x0⟩ /- CAD_RESURVEY -/,
   ⟨0x6000C, 0x0, 1, 23, 0, .sh, 0x400⟩ /- CAD_RESURVEY -/,
   ⟨0x60010, 0x0, 1, 31, 6, .rw, 0x0⟩ /- CAD_STAGE_LO -/,
   ⟨0x60014, 0x0, 1, 31, 0, .rw, 0x0⟩ /- CAD_STAGE_HI -/,
   ⟨0x60018, 0x0, 1, 14, 0, .rw, 0x0⟩ /- CAD_STAGE_COUNT -/,
   ⟨0x60020, 0x0, 1, 31, 6, .rw, 0x0⟩ /- CAD_PROP_LO -/]

/-- The fields from offset 0x60020 on. -/
def regFields5 : List RegField :=
  [⟨0x60020, 0x0, 1, 0, 0, .rw, 0x0⟩ /- CAD_PROP_LO -/,
   ⟨0x60024, 0x0, 1, 31, 0, .rw, 0x0⟩ /- CAD_PROP_HI -/,
   ⟨0x60028, 0x0, 1, 31, 16, .ro, 0x0⟩ /- CAD_PROP_STATUS -/,
   ⟨0x60028, 0x0, 1, 8, 0, .ro, 0x0⟩ /- CAD_PROP_STATUS -/,
   ⟨0x60030, 0x0, 1, 19, 0, .wo, 0x0⟩ /- CAD_QUARANTINE -/,
   ⟨0x60040, 0x0, 1, 0, 0, .rw, 0x0⟩ /- CAD_TIER_CTRL -/,
   ⟨0x60044, 0x0, 1, 31, 6, .rw, 0x0⟩ /- CAD_MIRROR_LO -/,
   ⟨0x60048, 0x0, 1, 31, 0, .rw, 0x0⟩ /- CAD_MIRROR_HI -/,
   ⟨0x6004C, 0x0, 1, 31, 6, .ro, 0x0⟩ /- CAD_TIER_ERR_LO -/,
   ⟨0x60050, 0x0, 1, 31, 0, .ro, 0x0⟩ /- CAD_TIER_ERR_HI -/,
   ⟨0x60060, 0x0, 1, 7, 0, .rw, 0x0⟩ /- CAD_DEMAND_SEL -/,
   ⟨0x60064, 0x0, 1, 31, 0, .ro, 0x0⟩ /- CAD_DEMAND_LO -/,
   ⟨0x60068, 0x0, 1, 31, 0, .ro, 0x0⟩ /- CAD_DEMAND_HI -/,
   ⟨0x6006C, 0x0, 1, 31, 0, .ro, 0x0⟩ /- CAD_DEMAND_PEAK -/,
   ⟨0x60070, 0x0, 1, 19, 0, .ro, 0x0⟩ /- CAD_DEMAND_EXPERT -/,
   ⟨0x60080, 0x0, 1, 31, 0, .rc, 0x0⟩ /- CAD_REFETCH_HBM -/,
   ⟨0x60084, 0x0, 1, 31, 0, .rc, 0x0⟩ /- CAD_REFETCH_PEER -/,
   ⟨0x60088, 0x0, 1, 15, 0, .rc, 0x0⟩ /- CAD_SRAM_REFETCH -/,
   ⟨0x6008C, 0x0, 1, 31, 0, .rc, 0x0⟩ /- CAD_RECALLED -/,
   ⟨0x60090, 0x0, 1, 31, 0, .rc, 0x0⟩ /- CAD_READMITTED -/,
   ⟨0x60094, 0x0, 1, 31, 0, .rc, 0x0⟩ /- CAD_READMIT_SKIP -/,
   ⟨0x60098, 0x0, 1, 15, 0, .rc, 0x0⟩ /- CAD_LIST_DISCARD -/,
   ⟨0x6800C, 0x0, 1, 31, 31, .ro, 0x0⟩ /- CAD_RESURVEY_LIVE -/,
   ⟨0x6800C, 0x0, 1, 23, 0, .ro, 0x400⟩ /- CAD_RESURVEY_LIVE -/,
   ⟨0x80000, 0x0, 1, 0, 0, .wo, 0x0⟩ /- REG_CTRL -/,
   ⟨0x80004, 0x0, 1, 31, 22, .ro, 0x0⟩ /- REG_STATUS -/,
   ⟨0x80004, 0x0, 1, 21, 12, .ro, 0x0⟩ /- REG_STATUS -/,
   ⟨0x80004, 0x0, 1, 8, 8, .ro, 0x0⟩ /- REG_STATUS -/,
   ⟨0x80004, 0x0, 1, 4, 4, .ro, 0x0⟩ /- REG_STATUS -/,
   ⟨0x80008, 0x0, 1, 23, 16, .rc, 0x0⟩ /- REG_ERR_STATUS -/,
   ⟨0x80008, 0x0, 1, 15, 8, .rc, 0x0⟩ /- REG_ERR_STATUS -/,
   ⟨0x80008, 0x0, 1, 7, 0, .rc, 0x0⟩ /- REG_ERR_STATUS -/,
   ⟨0x8000C, 0x0, 1, 0, 0, .wo, 0x0⟩ /- REG_CANCEL -/,
   ⟨0x80010, 0x0, 1, 31, 30, .ro, 0x3⟩ /- REG_VERDICT -/,
   ⟨0x80010, 0x0, 1, 23, 16, .ro, 0x0⟩ /- REG_VERDICT -/,
   ⟨0x80010, 0x0, 1, 7, 0, .ro, 0x0⟩ /- REG_VERDICT -/,
   ⟨0x80014, 0x0, 1, 31, 0, .ro, 0x0⟩ /- REG_VERDICT_STEP_LO -/,
   ⟨0x80018, 0x0, 1, 23, 0, .ro, 0x0⟩ /- REG_VERDICT_STEP_HI -/,
   ⟨0x80020, 0x0, 1, 23, 0, .ro, 0x0⟩ /- REG_LOANS -/,
   ⟨0x80024, 0x0, 1, 23, 0, .ro, 0x0⟩ /- REG_ORPHANS -/,
   ⟨0x80028, 0x0, 1, 31, 0, .rc, 0x0⟩ /- REG_MATCHED -/,
   ⟨0x8002C, 0x0, 1, 31, 0, .rc, 0x0⟩ /- REG_STALE -/,
   ⟨0x80030, 0x0, 1, 15, 0, .rc, 0x0⟩ /- REG_INVALID -/,
   ⟨0x80034, 0x0, 1, 15, 0, .rc, 0x0⟩ /- REG_DUPLICATE -/,
   ⟨0x80038, 0x0, 1, 31, 0, .rc, 0x0⟩ /- REG_FENCED -/]

/-- The fields from offset 0x8003C on. -/
def regFields6 : List RegField :=
  [⟨0x8003C, 0x0, 1, 31, 0, .rc, 0x0⟩ /- REG_RECALL -/,
   ⟨0x80040, 0x0, 1, 31, 0, .rc, 0x0⟩ /- REG_REFUSE -/,
   ⟨0x80044, 0x0, 1, 31, 0, .rc, 0x0⟩ /- REG_FED -/,
   ⟨0x80048, 0x0, 1, 31, 0, .rc, 0x0⟩ /- REG_EMPTY -/,
   ⟨0x8004C, 0x0, 1, 31, 0, .rc, 0x0⟩ /- REG_COLLECTED -/,
   ⟨0x80050, 0x0, 1, 31, 0, .rc, 0x0⟩ /- REG_LATE -/,
   ⟨0x80054, 0x0, 1, 31, 0, .rc, 0x0⟩ /- REG_RETURN_WAIT -/,
   ⟨0x81000, 0x0, 1, 0, 0, .rw, 0x0⟩ /- COMB_CTRL -/,
   ⟨0x81008, 0x0, 1, 23, 16, .rc, 0x0⟩ /- COMB_ERR_STATUS -/,
   ⟨0x81008, 0x0, 1, 15, 8, .rc, 0x0⟩ /- COMB_ERR_STATUS -/,
   ⟨0x81008, 0x0, 1, 7, 0, .rc, 0x0⟩ /- COMB_ERR_STATUS -/,
   ⟨0x81010, 0x0, 1, 31, 0, .rc, 0x0⟩ /- COMB_ROWS -/,
   ⟨0x81014, 0x0, 1, 31, 0, .rc, 0x0⟩ /- COMB_RENORM -/,
   ⟨0x81018, 0x0, 1, 31, 0, .rc, 0x0⟩ /- COMB_RESIDUAL -/,
   ⟨0x8101C, 0x0, 1, 31, 0, .rc, 0x0⟩ /- COMB_NAN -/,
   ⟨0x81020, 0x0, 1, 31, 0, .rc, 0x0⟩ /- COMB_INF -/,
   ⟨0x81024, 0x0, 1, 31, 0, .rc, 0x0⟩ /- COMB_SAT -/,
   ⟨0x81028, 0x0, 1, 31, 0, .rc, 0x0⟩ /- COMB_WAIT -/,
   ⟨0xA0000, 0x0, 1, 8, 8, .ro, 0x0⟩ /- CCE_STATUS -/,
   ⟨0xA0000, 0x0, 1, 3, 0, .ro, 0x0⟩ /- CCE_STATUS -/,
   ⟨0xA0008, 0x0, 1, 23, 16, .rc, 0x0⟩ /- CCE_ERR_STATUS -/,
   ⟨0xA0008, 0x0, 1, 15, 8, .rc, 0x0⟩ /- CCE_ERR_STATUS -/,
   ⟨0xA0008, 0x0, 1, 7, 0, .rc, 0x0⟩ /- CCE_ERR_STATUS -/,
   ⟨0xA0010, 0x0, 1, 31, 6, .rw, 0x0⟩ /- CCE_RING_LO -/,
   ⟨0xA0014, 0x0, 1, 31, 0, .rw, 0x0⟩ /- CCE_RING_HI -/,
   ⟨0xA0018, 0x0, 1, 3, 0, .rw, 0x4⟩ /- CCE_RING_SIZE -/,
   ⟨0xA0020, 0x0, 1, 15, 0, .wo, 0x0⟩ /- CCE_DOORBELL -/,
   ⟨0xA0024, 0x0, 1, 31, 16, .ro, 0x0⟩ /- CCE_RING_PTR -/,
   ⟨0xA0024, 0x0, 1, 15, 0, .ro, 0x0⟩ /- CCE_RING_PTR -/,
   ⟨0xA0028, 0x0, 1, 12, 0, .ro, 0x0⟩ /- CCE_GROUPS -/,
   ⟨0xA002C, 0x0, 1, 23, 16, .ro, 0x0⟩ /- CCE_ISR -/,
   ⟨0xA002C, 0x0, 1, 7, 0, .ro, 0x0⟩ /- CCE_ISR -/,
   ⟨0xA0030, 0x0, 1, 31, 24, .ro, 0x0⟩ /- CCE_LAST_ABORT -/,
   ⟨0xA0030, 0x0, 1, 11, 0, .ro, 0x0⟩ /- CCE_LAST_ABORT -/,
   ⟨0xA0034, 0x0, 1, 15, 0, .ro, 0x0⟩ /- CCE_LAST_TAG -/,
   ⟨0xA0040, 0x0, 1, 31, 0, .rc, 0x0⟩ /- CCE_DONE -/,
   ⟨0xA0044, 0x0, 1, 31, 0, .rc, 0x0⟩ /- CCE_ABORTED -/,
   ⟨0xA0048, 0x0, 1, 31, 0, .rc, 0x0⟩ /- CCE_CHAINS -/,
   ⟨0xA004C, 0x0, 1, 31, 0, .rc, 0x0⟩ /- CCE_ISR_USED -/,
   ⟨0xA0050, 0x0, 1, 15, 0, .rc, 0x0⟩ /- CCE_RETX -/,
   ⟨0xA0054, 0x0, 1, 15, 0, .rc, 0x0⟩ /- CCE_DISCARD -/,
   ⟨0xA0058, 0x0, 1, 31, 0, .rc, 0x0⟩ /- CCE_CHECK_WEAK -/,
   ⟨0xA005C, 0x0, 1, 31, 0, .rc, 0x0⟩ /- CCE_TRUNC -/,
   ⟨0xA0060, 0x0, 1, 31, 0, .rc, 0x0⟩ /- CCE_NAN -/,
   ⟨0xA0064, 0x0, 1, 31, 0, .rc, 0x0⟩ /- CCE_INF -/]

/-- The fields from offset 0xA0068 on. -/
def regFields7 : List RegField :=
  [⟨0xA0068, 0x0, 1, 31, 0, .rc, 0x0⟩ /- CCE_SAT -/,
   ⟨0xA006C, 0x0, 1, 31, 0, .rc, 0x0⟩ /- CCE_EXPRESS -/,
   ⟨0xA0070, 0x0, 1, 31, 0, .rc, 0x0⟩ /- CCE_WAIT -/,
   ⟨0xA0080, 0x0, 1, 31, 0, .sh, 0x5F5E100⟩ /- CCE_TIMEOUT_DEFAULT -/,
   ⟨0xA8080, 0x0, 1, 31, 0, .ro, 0x5F5E100⟩ /- CCE_TIMEOUT_DEFAULT_LIVE -/,
   ⟨0xC0000, 0x0, 1, 28, 24, .ro, 0x0⟩ /- FEP_STATUS -/,
   ⟨0xC0000, 0x0, 1, 18, 16, .ro, 0x0⟩ /- FEP_STATUS -/,
   ⟨0xC0000, 0x0, 1, 10, 0, .ro, 0x0⟩ /- FEP_STATUS -/,
   ⟨0xC0008, 0x0, 1, 23, 16, .rc, 0x0⟩ /- FEP_ERR_STATUS -/,
   ⟨0xC0008, 0x0, 1, 15, 8, .rc, 0x0⟩ /- FEP_ERR_STATUS -/,
   ⟨0xC0008, 0x0, 1, 7, 0, .rc, 0x0⟩ /- FEP_ERR_STATUS -/,
   ⟨0xC000C, 0x0, 1, 19, 0, .rw, 0x4E20⟩ /- FEP_RTO -/,
   ⟨0xC0010, 0x0, 1, 11, 0, .rw, 0x0⟩ /- FEP_BOND -/,
   ⟨0xC0014, 0x0, 1, 31, 16, .ro, 0x0⟩ /- FEP_LANDING -/,
   ⟨0xC0014, 0x0, 1, 15, 0, .ro, 0x0⟩ /- FEP_LANDING -/,
   ⟨0xC0020, 0x0, 1, 31, 0, .rc, 0x0⟩ /- FEP_TX_PKTS -/,
   ⟨0xC0024, 0x0, 1, 31, 0, .rc, 0x0⟩ /- FEP_RX_PKTS -/,
   ⟨0xC0028, 0x0, 1, 31, 0, .rc, 0x0⟩ /- FEP_RETX -/,
   ⟨0xC002C, 0x0, 1, 31, 0, .rc, 0x0⟩ /- FEP_DUP -/,
   ⟨0xC0030, 0x0, 1, 31, 0, .rc, 0x0⟩ /- FEP_REORDER_DROP -/,
   ⟨0xC0034, 0x0, 1, 15, 0, .rc, 0x0⟩ /- FEP_HDR_DROP -/,
   ⟨0xC0038, 0x0, 1, 15, 0, .rc, 0x0⟩ /- FEP_PCRC_DROP -/,
   ⟨0xC003C, 0x0, 1, 31, 0, .rc, 0x0⟩ /- FEP_FORWARDED -/,
   ⟨0xC0040, 0x4, 4, 31, 0, .rc, 0x0⟩ /- FEP_THROTTLE1 to FEP_THROTTLE4 -/,
   ⟨0xC0050, 0x0, 1, 31, 0, .rc, 0x0⟩ /- FEP_GRANT_WAIT -/,
   ⟨0xC0054, 0x0, 1, 15, 0, .rc, 0x0⟩ /- FEP_FLOW_LOST -/,
   ⟨0xC0060, 0x0, 1, 12, 0, .sh, 0x40⟩ /- FEP_INJ_THRESH0 -/,
   ⟨0xC0064, 0x0, 1, 12, 0, .sh, 0x80⟩ /- FEP_INJ_THRESH1 -/,
   ⟨0xC0068, 0x0, 1, 12, 0, .sh, 0xC0⟩ /- FEP_INJ_THRESH2 -/,
   ⟨0xC006C, 0x0, 1, 12, 0, .sh, 0x100⟩ /- FEP_INJ_THRESH3 -/,
   ⟨0xC1000, 0x0, 1, 22, 16, .ro, 0x0⟩ /- FEP_RMA_STATUS -/,
   ⟨0xC1000, 0x0, 1, 15, 0, .ro, 0x0⟩ /- FEP_RMA_STATUS -/,
   ⟨0xC1004, 0x0, 1, 23, 0, .rw, 0x186A0⟩ /- FEP_RMA_TIMEOUT -/,
   ⟨0xC100C, 0x0, 1, 15, 0, .rw, 0x3E8⟩ /- FEP_RMA_POLL -/,
   ⟨0xC1010, 0x0, 1, 16, 0, .ro, 0x0⟩ /- FEP_DEDUP_USED -/,
   ⟨0xC1014, 0x0, 1, 16, 0, .rc, 0x0⟩ /- FEP_DEDUP_PEAK -/,
   ⟨0xC1100, 0x20, 16, 31, 6, .rw, 0x0⟩ /- FEP_RMA_Qq_LO -/,
   ⟨0xC1104, 0x20, 16, 31, 0, .rw, 0x0⟩ /- FEP_RMA_Qq_HI -/,
   ⟨0xC1108, 0x20, 16, 11, 8, .rw, 0x4⟩ /- FEP_RMA_Qq_CTRL -/,
   ⟨0xC1108, 0x20, 16, 0, 0, .rw, 0x0⟩ /- FEP_RMA_Qq_CTRL -/,
   ⟨0xC110C, 0x20, 16, 31, 16, .ro, 0x0⟩ /- FEP_RMA_Qq_PTR -/,
   ⟨0xC110C, 0x20, 16, 15, 0, .ro, 0x0⟩ /- FEP_RMA_Qq_PTR -/,
   ⟨0xC1110, 0x20, 16, 31, 0, .ro, 0x0⟩ /- FEP_RMA_Qq_SEQ -/,
   ⟨0xC1114, 0x20, 16, 31, 0, .ro, 0x0⟩ /- FEP_RMA_Qq_FLOOR -/,
   ⟨0xC1118, 0x20, 16, 0, 0, .wo, 0x0⟩ /- FEP_RMA_Qq_DOORBELL -/]

/-- The fields from offset 0xC1300 on. -/
def regFields8 : List RegField :=
  [⟨0xC1300, 0x20, 4, 31, 6, .rw, 0x0⟩ /- FEP_RMA_WINw_BASE_LO -/,
   ⟨0xC1304, 0x20, 4, 31, 0, .rw, 0x0⟩ /- FEP_RMA_WINw_BASE_HI -/,
   ⟨0xC1308, 0x20, 4, 31, 6, .rw, 0x0⟩ /- FEP_RMA_WINw_LIMIT_LO -/,
   ⟨0xC130C, 0x20, 4, 31, 0, .rw, 0x0⟩ /- FEP_RMA_WINw_LIMIT_HI -/,
   ⟨0xC1310, 0x20, 4, 3, 3, .rw, 0x0⟩ /- FEP_RMA_WINw_ATTR -/,
   ⟨0xC1310, 0x20, 4, 2, 2, .rw, 0x0⟩ /- FEP_RMA_WINw_ATTR -/,
   ⟨0xC1310, 0x20, 4, 1, 1, .rw, 0x0⟩ /- FEP_RMA_WINw_ATTR -/,
   ⟨0xC1310, 0x20, 4, 0, 0, .rw, 0x0⟩ /- FEP_RMA_WINw_ATTR -/,
   ⟨0xC1400, 0x0, 1, 31, 0, .rc, 0x0⟩ /- FEP_RMA_ISSUED -/,
   ⟨0xC1404, 0x0, 1, 31, 0, .rc, 0x0⟩ /- FEP_RMA_SERVED -/,
   ⟨0xC1408, 0x0, 1, 31, 0, .rc, 0x0⟩ /- FEP_RMA_CACHE_HIT -/,
   ⟨0xC140C, 0x0, 1, 31, 0, .rc, 0x0⟩ /- FEP_RMA_CACHE_MISS -/,
   ⟨0xC1410, 0x0, 1, 31, 0, .rc, 0x0⟩ /- FEP_RMA_REISSUE -/,
   ⟨0xC1414, 0x0, 1, 31, 0, .rc, 0x0⟩ /- FEP_RMA_STALE -/,
   ⟨0xC1418, 0x0, 1, 31, 0, .rc, 0x0⟩ /- FEP_RMA_DENIED -/,
   ⟨0xC141C, 0x0, 1, 31, 0, .rc, 0x0⟩ /- FEP_DEDUP_DUP -/,
   ⟨0xC1420, 0x0, 1, 31, 0, .rc, 0x0⟩ /- FEP_DEDUP_FULL -/,
   ⟨0xC1424, 0x0, 1, 15, 0, .rc, 0x0⟩ /- FEP_RMA_UNKNOWN -/,
   ⟨0xC8060, 0x0, 1, 12, 0, .ro, 0x40⟩ /- FEP_INJ_THRESH0_LIVE -/,
   ⟨0xC8064, 0x0, 1, 12, 0, .ro, 0x80⟩ /- FEP_INJ_THRESH1_LIVE -/,
   ⟨0xC8068, 0x0, 1, 12, 0, .ro, 0xC0⟩ /- FEP_INJ_THRESH2_LIVE -/,
   ⟨0xC806C, 0x0, 1, 12, 0, .ro, 0x100⟩ /- FEP_INJ_THRESH3_LIVE -/,
   ⟨0x100000, 0x8000, 24, 2, 2, .rw, 0x0⟩ /- PORTn_CTRL -/,
   ⟨0x100000, 0x8000, 24, 1, 1, .wo, 0x0⟩ /- PORTn_CTRL -/,
   ⟨0x100000, 0x8000, 24, 0, 0, .rw, 0x0⟩ /- PORTn_CTRL -/,
   ⟨0x100004, 0x8000, 24, 31, 28, .ro, 0x0⟩ /- PORTn_STATUS -/,
   ⟨0x100004, 0x8000, 24, 23, 16, .ro, 0x0⟩ /- PORTn_STATUS -/,
   ⟨0x100004, 0x8000, 24, 12, 12, .ro, 0x0⟩ /- PORTn_STATUS -/,
   ⟨0x100004, 0x8000, 24, 9, 8, .ro, 0x0⟩ /- PORTn_STATUS -/,
   ⟨0x100004, 0x8000, 24, 1, 0, .ro, 0x0⟩ /- PORTn_STATUS -/,
   ⟨0x100008, 0x8000, 24, 23, 16, .rc, 0x0⟩ /- PORT_ERR_STATUS -/,
   ⟨0x100008, 0x8000, 24, 15, 8, .rc, 0x0⟩ /- PORT_ERR_STATUS -/,
   ⟨0x100008, 0x8000, 24, 7, 0, .rc, 0x0⟩ /- PORT_ERR_STATUS -/,
   ⟨0x10000C, 0x8000, 24, 15, 0, .ro, 0x0⟩ /- PORTn_DELAY -/,
   ⟨0x100010, 0x8000, 24, 31, 0, .rc, 0x0⟩ /- PORTn_FEC_CORR -/,
   ⟨0x100014, 0x8000, 24, 31, 0, .rc, 0x0⟩ /- PORTn_FEC_UNCORR -/,
   ⟨0x100018, 0x8000, 24, 31, 0, .rc, 0x0⟩ /- PORTn_REPLAY -/,
   ⟨0x10001C, 0x8000, 24, 15, 0, .rc, 0x0⟩ /- PORTn_AUTH_FAIL -/,
   ⟨0x100020, 0x8000, 24, 15, 0, .rc, 0x0⟩ /- PORTn_RETRAINS -/,
   ⟨0x100024, 0x8000, 24, 31, 0, .ro, 0x0⟩ /- PORTn_KEY_FRAMES -/,
   ⟨0x100028, 0x8000, 24, 31, 0, .rc, 0x0⟩ /- PORTn_CREDIT_WAIT -/,
   ⟨0x200000, 0x0, 1, 3, 3, .wo, 0x0⟩ /- SEC_CTRL -/,
   ⟨0x200000, 0x0, 1, 2, 2, .wo, 0x0⟩ /- SEC_CTRL -/,
   ⟨0x200000, 0x0, 1, 1, 1, .wo, 0x0⟩ /- SEC_CTRL -/,
   ⟨0x200000, 0x0, 1, 0, 0, .wo, 0x0⟩ /- SEC_CTRL -/]

/-- The fields from offset 0x200004 on. -/
def regFields9 : List RegField :=
  [⟨0x200004, 0x0, 1, 15, 13, .ro, 0x0⟩ /- SEC_STATUS -/,
   ⟨0x200004, 0x0, 1, 12, 12, .ro, 0x0⟩ /- SEC_STATUS -/,
   ⟨0x200004, 0x0, 1, 8, 8, .ro, 0x0⟩ /- SEC_STATUS -/,
   ⟨0x200004, 0x0, 1, 6, 6, .ro, 0x0⟩ /- SEC_STATUS -/,
   ⟨0x200004, 0x0, 1, 5, 5, .ro, 0x0⟩ /- SEC_STATUS -/,
   ⟨0x200004, 0x0, 1, 4, 4, .ro, 0x0⟩ /- SEC_STATUS -/,
   ⟨0x200004, 0x0, 1, 1, 0, .ro, 0x0⟩ /- SEC_STATUS -/,
   ⟨0x200008, 0x0, 1, 23, 16, .rc, 0x0⟩ /- SEC_ERR_STATUS -/,
   ⟨0x200008, 0x0, 1, 15, 8, .rc, 0x0⟩ /- SEC_ERR_STATUS -/,
   ⟨0x200008, 0x0, 1, 7, 0, .rc, 0x0⟩ /- SEC_ERR_STATUS -/,
   ⟨0x200010, 0x0, 1, 31, 6, .rw, 0x0⟩ /- SEC_KL_LO -/,
   ⟨0x200014, 0x0, 1, 31, 0, .rw, 0x0⟩ /- SEC_KL_HI -/,
   ⟨0x200018, 0x0, 1, 10, 0, .rw, 0x0⟩ /- SEC_KL_LEN -/,
   ⟨0x20001C, 0x0, 1, 31, 0, .ro, 0x0⟩ /- SEC_KL_SERIAL -/,
   ⟨0x200020, 0x0, 1, 15, 1, .ro, 0x0⟩ /- SEC_KL_INDEX -/,
   ⟨0x200030, 0x0, 1, 31, 6, .rw, 0x0⟩ /- SEC_CERT_LO -/,
   ⟨0x200034, 0x0, 1, 31, 0, .rw, 0x0⟩ /- SEC_CERT_HI -/,
   ⟨0x200040, 0x0, 1, 31, 6, .rw, 0x0⟩ /- SEC_TOKEN_LO -/,
   ⟨0x200044, 0x0, 1, 31, 0, .rw, 0x0⟩ /- SEC_TOKEN_HI -/,
   ⟨0x200050, 0x4, 4, 31, 0, .ro, 0x0⟩ /- SEC_DBG_CHAL0 to SEC_DBG_CHAL3 -/,
   ⟨0x200060, 0x0, 1, 31, 16, .ro, 0x0⟩ /- SEC_FUSE -/,
   ⟨0x200060, 0x0, 1, 15, 8, .ro, 0x0⟩ /- SEC_FUSE -/,
   ⟨0x200060, 0x0, 1, 0, 0, .ro, 0x0⟩ /- SEC_FUSE -/,
   ⟨0x200064, 0x0, 1, 31, 0, .ro, 0x0⟩ /- SEC_DEVICE_LO -/,
   ⟨0x200068, 0x0, 1, 31, 0, .ro, 0x0⟩ /- SEC_DEVICE_HI -/,
   ⟨0x200070, 0x0, 1, 31, 0, .rc, 0x0⟩ /- SEC_SIGNS -/,
   ⟨0x200074, 0x0, 1, 31, 0, .rc, 0x0⟩ /- SEC_VERIFY_FAIL -/,
   ⟨0x200078, 0x0, 1, 3, 0, .ro, 0x0⟩ /- SEC_DBG_FAIL -/,
   ⟨0x20007C, 0x0, 1, 11, 8, .ro, 0x0⟩ /- SEC_VERIFY_LAST -/,
   ⟨0x20007C, 0x0, 1, 3, 0, .ro, 0x0⟩ /- SEC_VERIFY_LAST -/,
   ⟨0x200100, 0x4, 12, 31, 0, .ro, 0x0⟩ /- SEC_DEVKEY_X0 to SEC_DEVKEY_X11 -/,
   ⟨0x200140, 0x4, 12, 31, 0, .ro, 0x0⟩ /- SEC_DEVKEY_Y0 to SEC_DEVKEY_Y11 -/,
   ⟨0x200180, 0x4, 12, 31, 0, .ro, 0x0⟩ /- SEC_OWNER_ROOT0 to SEC_OWNER_ROOT11 -/,
   ⟨0x2001C0, 0x4, 12, 31, 0, .ro, 0x0⟩ /- SEC_MFG_ROOT0 to SEC_MFG_ROOT11 -/,
   ⟨0x300000, 0x0, 1, 8, 8, .rw, 0x0⟩ /- TRACE_CTRL -/,
   ⟨0x300000, 0x0, 1, 0, 0, .sh, 0x0⟩ /- TRACE_CTRL -/,
   ⟨0x300008, 0x0, 1, 23, 16, .rc, 0x0⟩ /- TRACE_ERR_STATUS -/,
   ⟨0x300008, 0x0, 1, 15, 8, .rc, 0x0⟩ /- TRACE_ERR_STATUS -/,
   ⟨0x300008, 0x0, 1, 7, 0, .rc, 0x0⟩ /- TRACE_ERR_STATUS -/,
   ⟨0x300010, 0x0, 1, 24, 6, .sh, 0x0⟩ /- TRACE_BASE -/,
   ⟨0x300014, 0x0, 1, 25, 6, .sh, 0x20000⟩ /- TRACE_LIMIT -/,
   ⟨0x300018, 0x0, 1, 7, 0, .rw, 0x0⟩ /- TRACE_LANES -/,
   ⟨0x300020, 0x0, 1, 25, 5, .ro, 0x0⟩ /- TRACE_WR -/,
   ⟨0x300024, 0x0, 1, 31, 31, .ro, 0x0⟩ /- TRACE_STATUS -/,
   ⟨0x300024, 0x0, 1, 30, 30, .ro, 0x0⟩ /- TRACE_STATUS -/]

/-- The fields from offset 0x300024 on. -/
def regFields10 : List RegField :=
  [⟨0x300024, 0x0, 1, 29, 29, .ro, 0x0⟩ /- TRACE_STATUS -/,
   ⟨0x300024, 0x0, 1, 0, 0, .w1c, 0x0⟩ /- TRACE_STATUS -/,
   ⟨0x300028, 0x0, 1, 31, 0, .ro, 0x0⟩ /- TRACE_SEQ -/,
   ⟨0x30002C, 0x0, 1, 31, 0, .rc, 0x0⟩ /- TRACE_CAIRNS -/,
   ⟨0x300030, 0x0, 1, 31, 0, .rc, 0x0⟩ /- TRACE_LOST -/,
   ⟨0x300040, 0x0, 1, 5, 0, .rw, 0x0⟩ /- TRACE_PAGE -/,
   ⟨0x308000, 0x0, 1, 0, 0, .ro, 0x0⟩ /- TRACE_CTRL_LIVE -/,
   ⟨0x308010, 0x0, 1, 24, 6, .ro, 0x0⟩ /- TRACE_BASE_LIVE -/,
   ⟨0x308014, 0x0, 1, 25, 6, .ro, 0x20000⟩ /- TRACE_LIMIT_LIVE -/]

/-- Every field of the window (R457). -/
def regFields : List RegField :=
  regFields0 ++ regFields1 ++ regFields2 ++ regFields3 ++ regFields4 ++ regFields5 ++ regFields6 ++ regFields7 ++ regFields8 ++ regFields9 ++ regFields10

/-- The fields of the register at an offset; none where no register stands (R15). -/
def fieldsAt (a : Nat) : List RegField := regFields.filter (·.at_ a)

/-- The reset word of the register at an offset (R19). -/
def resetWord (a : Nat) : Word32 :=
  (fieldsAt a).foldl (fun w f => w ||| BitVec.ofNat 32 (f.reset * 2 ^ f.lo)) 0

/-- The RW fields whose effect is at the next step, by register (R18). -/
def latchedRegs : List Nat :=
  [0x208, 0x230, 0x234, 0x240, 0x244, 0x248, 0x250, 0x264, 0x268, 0x26C, 0x270, 0x41000, 0x60040, 0x60044, 0x60048, 0x81000]

end Sys2Proof.Machine
end

