-- ==== Sys2Proof/Machine/State.lean ====
section
/-! DEFINITION. The state of the Spaum as plain data, its reset value, and the reasons a step can stop. -/
namespace Sys2Proof.Machine
open Sys2Proof

/-- The faults of the machine. -/
inductive Fault where
  /-- Raised by DBG_SRAM: the address lies beyond the 384 MiB of SRAM that R75 gives the block. Safe: the machine stops
  where the manual gives no word to read. -/
  | sramAbsent
  deriving DecidableEq, Repr

/-- The refusals of the machine. -/
inductive Refusal where
  /-- Raised by the dispatch for a command whose meaning is not modelled. Safe. -/
  | notModelled (mnemonic : String)
  deriving DecidableEq, Repr

/-- A sparse store in one canonical form: keys strictly rising, no entry at its default value. -/
abbrev Store (α : Type) := List (Nat × α)

/-! ### Bring-up, clocks, fuses and the test access port -/

/-- The bring-up stages of R448. -/
inductive Stage where
  | reset | fuse | selftest | timebase | identify | links | calibrate | ready | running | held
  deriving DecidableEq, Repr

/-- Bring-up (R448 to R456): stage, failure record, straps, and what has happened since reset. -/
structure Boot where
  stage : Stage
  bank : Nat
  rclkFail : Bool
  calFail : Bool
  bistFail : Bool
  fuseFail : Bool
  slot : Nat
  tested : Bool
  calibrateWritten : Bool
  exchanges : Nat
  firstDatumDone : Bool
  stepStarted : Bool
  deriving DecidableEq, Repr

/-- The fuse shadow (R392), read once at chip reset. -/
structure Fuses where
  read : Bool
  ownerRoot : Bytes
  mfgRoot : Bytes
  seed : Bytes
  device : Word64
  grade : Byte
  revoke : BitVec 16
  kill : Bool
  deriving DecidableEq, Repr

/-- The device key pair of R395. -/
structure DevKey where
  d : Nat
  x : Nat
  y : Nat
  deriving DecidableEq, Repr

/-- Clock steps and locks (R438, R440, R441). -/
structure Clk where
  aclkStep : Nat
  sclkStep : Nat
  lastAclk : Option Nat
  lastSclk : Option Nat
  holdover : Bool
  rclkLock : Bool
  deriving DecidableEq, Repr

/-- The test access port (R455, R409). -/
structure Tap where
  ir : Byte
  cells : Word64
  extest : Bool
  halted : Bool
  deriving DecidableEq, Repr

/-! ### Plats -/

/-- One owner record of POOLS (R52). -/
structure OwnerRec where
  kind : Nat
  id : Nat
  mins : List Nat
  deriving DecidableEq, Repr

/-- One record of LAYERS (R54). -/
structure LayerRec where
  layer : Nat
  k : Nat
  gateFn : Nat
  classMode : Nat
  base : Nat
  experts : Nat
  jitter : Nat
  normForm : Nat
  band : List Word32
  routerAddr : Nat
  routerFmt : Nat
  deriving DecidableEq, Repr

/-- One record of LOOPS (R56). -/
structure LoopRec where
  first : Nat
  last : Nat
  source : Nat
  bound : Nat
  layer : Nat
  deriving DecidableEq, Repr

/-- INIT (R57): the mask of sets and the register images by shadow address. -/
structure InitRec where
  mask : Nat
  values : List (Nat × Word32)
  deriving DecidableEq, Repr

/-- What the loader keeps of a verified image (R61), with the plat hash of R44 and where CADASTRE stands in memory. -/
structure Plat where
  format : Nat
  contract : Nat
  compiler : Nat
  requireStrict : Bool
  chips : Nat
  slots : Nat
  dModel : Nat
  sfuTable : Nat
  seed : Nat
  norm : Bool
  stations : List (Nat × Nat)
  partition : List Nat
  counts : List Nat
  owners : List OwnerRec
  channels : List Nat
  layers : List LayerRec
  loops : List LoopRec
  init : Option InitRec
  poolBytes : Bytes
  hash : Bytes
  cadDigest : Bytes
  cadAddr : Nat
  cadLen : Nat
  deriving DecidableEq, Repr

/-- The states of the plat loader (R63, R74). -/
inductive LdrStage where
  | empty | loading | staged | armed
  deriving DecidableEq, Repr

/-- The plat loader (R59 to R63). -/
structure Loader where
  stage : LdrStage
  before : LdrStage
  src : Nat
  len : Nat
  progress : Nat
  staged : Option Plat
  active : Option Plat
  deriving DecidableEq, Repr

/-- Pending commit sets (R72, R73): the mask, and the pending value of each shadow by its address. -/
structure Commits where
  mask : Nat
  values : List (Nat × Word32)
  failedSet : Nat
  lastOk : Bool
  deriving DecidableEq, Repr

/-! ### Security -/

/-- One entry of a key list (R398). -/
structure KeyEntry where
  role : Nat
  index : Nat
  key : Bytes
  deriving DecidableEq, Repr

/-- The key list in force (R399). -/
structure KeyList where
  serial : Nat
  entries : List KeyEntry
  deriving DecidableEq, Repr

/-- Where an unlock token came from (R411): an address in memory, or the bits shifted in through the test access port. -/
inductive TokenSrc where
  | memory (addr : Nat)
  | tap (token : Bytes)
  deriving DecidableEq, Repr

/-- The security functions (R393 to R412). -/
structure Sec where
  keyList : Option KeyList
  cert : Option Bytes
  certLoad : Option Nat
  klLoad : Option (Nat × Nat)
  tokenLoad : Option TokenSrc
  tokenChallenge : Option Bytes
  drbgOn : Bool
  drbgRequests : Nat
  challenge : Option Bytes
  scope : Option Nat
  fails : Nat
  lastObject : Nat
  lastReason : Nat
  deriving DecidableEq, Repr

/-! ### The datum, the step and the replay log -/

/-- The phases of SDE_DATUM_STATUS (R389). -/
inductive DatPhase where
  | idle | agreement | actions | startRound | awaitT
  deriving DecidableEq, Repr

/-- The datum in progress (R65, R369 to R373): `began` says that action 1 has been taken, `checking` and `checked` name the
armed plat, by its hash, whose checks of action 2 are under way or done, `refuse` is this chip's refusal code, the three `need`
flags say which builds and reads of action 4 and of R227 are still to be completed, and `listCode` and `listImage` are the
outcome of reading the armed list again: a code, or the records (R233). -/
structure Dat where
  phase : DatPhase
  go : Bool
  began : Bool
  checking : Option Bytes
  checked : Option Bytes
  refusal : Nat
  refuse : Nat
  contribTick : Nat
  start : Nat
  needPools : Bool
  needReload : Bool
  needList : Bool
  listCode : Nat
  listImage : Option Bytes
  platActivated : Bool
  listSwitched : Bool
  listDiscarded : Bool
  proposalWritten : Bool
  listFp : Nat
  repartition : Bool
  late : Bool
  deriving DecidableEq, Repr

/-- The running step (R376, R384, R417); `fences` is the fence set at its datum (R218, R224). -/
structure Run where
  start : Nat
  late : Bool
  strict : Bool
  continue_ : Bool
  byArrival : Bool
  classLive : Nat
  platActivated : Bool
  listSwitched : Bool
  listDiscarded : Bool
  proposalWritten : Bool
  listFp : Nat
  fences : List Nat
  aclkAt : Nat
  sclkAt : Nat
  aclkLow : Nat
  sclkLow : Nat
  changes : Nat
  throttled : Nat
  retry : Nat
  replays : Nat
  skipped : Nat
  spilled : Nat
  readmitted : Nat
  clamps : Nat
  abortCode : Nat
  localCode : Nat
  degraded : Bool
  contributed : Bool
  deriving DecidableEq, Repr

/-- What a checkpoint of R387 will say, fixed when it falls due. -/
structure Checkpoint where
  step : Nat
  first : Nat
  chain : Bytes
  start : Bytes
  seq : Nat
  deriving DecidableEq, Repr

/-- The replay log unit (R384 to R388). -/
structure RLog where
  chain : Option Bytes
  start : Bytes
  startSet : Bool
  loaded : Bool
  first : Nat
  lastFolded : Nat
  seq : Nat
  signing : Option Checkpoint
  waiting : Option Checkpoint
  requested : Bool
  written : Nat
  fault : Bool
  deriving DecidableEq, Repr

/-- A result of R269 as REG_VERDICT shows it (R273): class, local code, code, and the step it belongs to. -/
structure VerdictRec where
  cls : Nat
  localCode : Nat
  code : Nat
  step : Nat
  deriving DecidableEq, Repr

/-! ### Fences and management -/

/-- An outstanding PROBE (R422): peer, tick of sending, identifier, and whether the peer has answered another. -/
structure Probe where
  peer : Nat
  tick : Nat
  id : Nat
  answered : Bool
  deriving DecidableEq, Repr

/-- A tree broadcast of the running step that this chip has originated or passed on (R420). -/
structure Broadcast where
  kind : Nat
  step : Nat
  subject : Nat
  payload : Bytes
  origin : Bool
  deriving DecidableEq, Repr

/-- The notice writer (R431). -/
structure Notes where
  seq : Nat
  pending : Nat
  deriving DecidableEq, Repr

/-! ### The cadastre -/

/-- The states of a change list (R231, R243). -/
inductive ListStage where
  | empty | checking | staged | armed
  deriving DecidableEq, Repr

/-- The change list (R231 to R233): the state, and the one before a STAGE in progress; the list that is staged or armed, by
address, record count, digest and the slots quarantined since its STAGE write (expert and chip); and the same of the list
that is being checked. -/
structure ChangeList where
  stage : ListStage
  before : ListStage
  src : Nat
  count : Nat
  digest : Bytes
  since : List (Nat × Nat)
  newSrc : Nat
  newCount : Nat
  newSince : List (Nat × Nat)
  deriving DecidableEq, Repr

/-- One expert's demand counters (R225), with the running step's trip-0 sum. -/
structure Demand where
  expert : Nat
  demand : Nat
  peak : Nat
  step : Nat
  sum : Nat
  deriving DecidableEq, Repr

/-- A quarantine notice (R238): expert, the chip that quarantines its replica, and the step of the datum it acts at. -/
structure Quarantine where
  expert : Nat
  chip : Nat
  step : Nat
  deriving DecidableEq, Repr

/-- Cadastre words awaited from a peer (R220): the entry, the peers still to be asked, the identifier of the outstanding
request and the tick of the first one. -/
structure CadRefetch where
  entry : Nat
  peer : Nat
  left : List Nat
  id : Nat
  tick : Nat
  deriving DecidableEq, Repr

/-! ### The buffer pool -/

/-- One pool (R80 to R90): how many buffers, the next pointer never handed out, the released pointers as a stack, the
withdrawn count, the lowest free count, and the owner served last. -/
structure Pool where
  count : Nat
  next : Nat
  released : List Nat
  withdrawn : Nat
  low : Nat
  lastOwner : Nat
  deriving DecidableEq, Repr

/-- A buffer in use: pool, pointer, the owner charged (64 is the unreserved owner of R84) and the reference count. -/
structure Buf where
  pool : Nat
  ptr : Nat
  owner : Nat
  refs : Nat
  deriving DecidableEq, Repr

/-- An allocation that waits (R83, R85): pool, owner, and the request that it belongs to. -/
structure Waiter where
  pool : Nat
  owner : Nat
  key : List Nat
  deriving DecidableEq, Repr

/-- A buffer granted to a request and not yet taken up by its engine: pool, pointer, owner and request. -/
structure Granted where
  pool : Nat
  ptr : Nat
  owner : Nat
  key : List Nat
  deriving DecidableEq, Repr

/-- The buffer pool: six pools, the owner records in force, the buffers in use, the allocations that wait, in order of
arrival, and the buffers granted and not yet taken up. -/
structure Pools where
  pools : List Pool
  owners : List OwnerRec
  bufs : List Buf
  waiters : List Waiter
  granted : List Granted
  deriving DecidableEq, Repr

/-! ### Tiles and row blocks -/

/-- A tile header by field (R32). -/
structure TileHdr where
  step : Nat
  kind : Nat
  fmt : Nat
  layer : Nat
  half : Nat
  rows : Nat
  cols : Nat
  base : Nat
  gen : Nat
  expert : Nat
  colBase : Nat
  src : Nat
  poison : Bool
  lastBlock : Bool
  lastCol : Bool
  contract : Nat
  deriving DecidableEq, Repr

/-- A tile between stations (R31): its header, the element codes and E8M0 scales row by row, and the buffer that holds it
until it is released. -/
structure Tile where
  hdr : TileHdr
  elems : List (List Nat)
  scales : List (List Nat)
  buf : Option (Nat × Nat)
  deriving DecidableEq, Repr

/-- A selection entry (R162). -/
structure SelEntry where
  gate : Word32
  expert : Nat
  band : Nat
  fate : Nat
  replica : Nat
  trip : Nat
  dest : Nat
  deriving DecidableEq, Repr

/-- A SELECTION tile (R161). -/
structure SelTile where
  hdr : TileHdr
  rows : List (List SelEntry)
  buf : Option (Nat × Nat)
  deriving DecidableEq, Repr

/-- A row block of a half (R37) and the tiles that the stations have made of it. `anchors` holds, for each column tile of
SCORE, the anchors of its rows fixed by the pre-pass (R110). `results` counts the RESULT tiles handed by EMIT. -/
structure Block where
  base : Nat
  rows : Nat
  fmt : Nat
  gen : Nat
  port : Nat
  lastBlock : Bool
  complete : Bool
  token : List Tile
  norm : Option (List Tile)
  anchors : List (Nat × List Int)
  score : List Tile
  gate : Option (List Tile)
  sel : Option SelTile
  counted : Bool
  combined : List (Nat × List Nat)
  results : Nat
  released : Bool
  deriving DecidableEq, Repr

/-- The phases of TALLY_STATUS (R189). -/
inductive TallyPhase where
  | idle | counting | scanning | awaitClose | awaitGrants | assigning | tripAgreement | finished
  deriving DecidableEq, Repr

/-- One report or grant message in arrival (R171): its sender, the entries so far, and whether LAST has arrived. -/
structure TallyMsg where
  sender : Nat
  entries : List Word64
  last : Bool
  deriving DecidableEq, Repr

/-- The origin's tally of a half (R170 to R188). -/
structure Tally where
  phase : TallyPhase
  trip : Nat
  trips : Nat
  counts : List ((Nat × Nat) × Nat)
  scanTick : Nat
  undelivered : Nat
  contributed : Bool
  closed : Bool
  homes : List Nat
  grants : List TallyMsg
  deriving DecidableEq, Repr

/-- The states of a loan entry (R244). -/
inductive LoanState where
  | out | back | lost
  deriving DecidableEq, Repr

/-- A loan entry that is not NONE (R244), with what the registrar needs of it: the expert, where its route ends, and the
chips that have refused or recalled it (R241). -/
structure Loan where
  state : LoanState
  pool : Nat
  ptr : Nat
  expert : Nat
  dest : Nat
  refused : List Nat
  deriving DecidableEq, Repr

/-- A loan table (R244): entries by `slot × K + krank`; an unlisted entry is NONE. -/
structure LoanTable where
  layer : Nat
  half : Nat
  gen : Nat
  k : Nat
  bufs : List (Nat × Nat)
  entries : List (Nat × Loan)
  deriving DecidableEq, Repr

/-- A list entry of SORT (R196). -/
structure ListEntry where
  slot : Nat
  krank : Nat
  dest : Nat
  offset : Nat
  replica : Nat
  trip : Nat
  deriving DecidableEq, Repr

/-- A list segment that PACK holds (R195): its entries as R196 writes them, whether it is its trip's last, whether a word of
it has read uncorrectable (R78), and its buffer. -/
structure Segment where
  words : List Word64
  last : Bool
  poison : Bool
  buf : Option (Nat × Nat)
  deriving DecidableEq, Repr

/-- The phases of the sorter (R194, R212). -/
inductive SortPhase where
  | idle | passOne | prefix_ | passTwo
  deriving DecidableEq, Repr

/-- A group packet in SEND's queue (R203): the buffer, the image, DEST, and whether it is a re-admission (R241). -/
structure GroupPkt where
  buf : Option (Nat × Nat)
  image : Bytes
  dest : Nat
  trip : Nat
  last : Bool
  again : Bool
  deriving DecidableEq, Repr

/-- An output record held at its origin (R252, R254). -/
structure OutRec where
  slot : Nat
  krank : Nat
  pool : Nat
  ptr : Nat
  ofmt : Nat
  codes : List Nat
  scales : List Nat
  deriving DecidableEq, Repr

/-- A tile of the cores held in INGEST's queue (R36) or in COLLECT's (R30): its port, its image, its buffer, and whether a word of it has read
uncorrectable since (R78). -/
structure HeldTile where
  port : Nat
  image : Bytes
  buf : Nat × Nat
  poison : Bool
  deriving DecidableEq, Repr

/-- One half of one layer of the running step; `fated` counts the trips whose fates have been written, `sortTrip` and
`packTrip` are the trips that SORT and PACK take next, `segBufs` the buffers of the list being sorted, and `loansFreed` says that the registrar has freed the loan table
(R260). -/
structure Half where
  layer : Nat
  half : Nat
  blocks : List Block
  closed : Bool
  tally : Tally
  loans : Option LoanTable
  fated : Nat
  sort : SortPhase
  sortTrip : Nat
  segBufs : List (Nat × Nat)
  segments : List Segment
  packTrip : Nat
  sendQ : List GroupPkt
  outputs : List OutRec
  emitted : Bool
  loansFreed : Bool
  deriving DecidableEq, Repr

/-- The tally of a (layer, half, trip) at its homes (R173 to R182): the reports landed, whether the close has completed
and the decision been made, and what has been admitted to each replica, as expert, slot index and count. -/
structure HomeTally where
  layer : Nat
  half : Nat
  trip : Nat
  reports : List TallyMsg
  closed : Bool
  decided : Bool
  used : List (Nat × Nat × Nat)
  deriving DecidableEq, Repr

/-- A group landed by RECV and held for FEED (R247): the members not yet taken. -/
structure RxGroup where
  src : Nat
  pool : Nat
  ptr : Nat
  image : Bytes
  deriving DecidableEq, Repr

/-- A row held by FEED (R248). -/
structure FeedRow where
  tag : Word64
  elem : Nat
  codes : List Nat
  scales : List Nat
  pool : Nat
  ptr : Nat
  tick : Nat
  deriving DecidableEq, Repr

/-- FEED's account of one (layer, half, trip, expert) (R248, R249, R241). -/
structure Feed where
  layer : Nat
  half : Nat
  trip : Nat
  expert : Nat
  notice : Option Nat
  received : Nat
  rows : List FeedRow
  closed : Bool
  readmitted : Nat
  deriving DecidableEq, Repr

/-- Rows handed to the cores and rows returned for one (layer, half, expert) (R251), with the tags handed and not yet
returned. -/
structure Handed where
  layer : Nat
  half : Nat
  expert : Nat
  handed : Nat
  returned : Nat
  tags : List Word64
  deriving DecidableEq, Repr

/-- An EXPERT_OUT row block that COLLECT is filling (R251). -/
structure Collect where
  port : Nat
  layer : Nat
  half : Nat
  expert : Nat
  fmt : Nat
  rows : Nat
  nextCol : Nat
  tags : List Word64
  poison : Bool
  codes : List (List Nat)
  scales : List (List Nat)
  bufs : List (Nat × Nat)
  deriving DecidableEq, Repr

/-- A token stream port toward the cores (R248, R260): the tiles handed and not yet taken, and the tiles that wait for a
credit; of each, whether it is an EXPERT_IN tile, and its buffer. -/
structure TPort where
  held : List (Bool × Option (Nat × Nat))
  queue : List (Bool × Bytes × Option (Nat × Nat))
  deriving DecidableEq, Repr

/-! ### Express rounds -/

/-- What names an express all-reduce (R296, R303): GROUP (0xFFFF for an internal one), TAG or internal kind, message
index and step. -/
structure RoundKey where
  group : Nat
  tag : Nat
  seq : Nat
  step : Nat
  deriving DecidableEq, Repr

/-- An express round this chip takes part in (R303, R305): its own contribution, and as collector the contributions of its
rack, the partials of the racks, the collectors that have acknowledged its own partial, the collectors asked for a copy of
a fenced collector's partial, the result once held, and whether RESULT has brought it to this chip's own units. -/
structure Round where
  key : RoundKey
  opw : Nat
  members : List Nat
  own : Option Bytes
  contribs : List (Nat × Bytes)
  partials : List (Nat × Bytes)
  sentPartial : Bool
  acks : List Nat
  asked : List (Nat × Nat)
  result : Option Bytes
  taken : Bool
  deriving DecidableEq, Repr

/-! ### The collective engine -/

/-- A group record (R276). -/
structure GroupRec where
  id : Nat
  bytes : Bytes
  deriving DecidableEq, Repr

/-- A descriptor of R280, by field. -/
structure Desc where
  op : Nat
  stream : Bool
  early : Bool
  redop : Nat
  mode : Nat
  fmt : Nat
  wire : Nat
  group : Nat
  tag : Nat
  count : Nat
  root : Nat
  port : Nat
  src : Nat
  dst : Nat
  cnt : Nat
  chain : Nat
  timeout : Nat
  stride : Nat
  deriving DecidableEq, Repr

/-- The phases of an active collective (R282 to R300). -/
inductive CollPhase where
  | handshake | counts | data | completion
  deriving DecidableEq, Repr

/-- The progress of one EXACT chain at a member (R289): the blocks' anchors as far as agreed, the special flag, the
converted integers with the residue, the steward's decision (R290), the slices received in the rack stage by rack
position, this member's slice summed over its rack and whether it has been sent, the slices received in the cross-rack
stage by rack, the total slices by rack position, and whether the result has been written. -/
structure ExactChain where
  ix : Nat
  anchors : List Int
  special : Option Bool
  own : List Nat
  slot : Option Bool
  sentRack : Bool
  rackIn : List (Nat × List Nat)
  sum : Option (List Nat)
  sentCross : Bool
  cross : List (Nat × List Nat)
  total : List (Nat × List Nat)
  written : Bool
  deriving DecidableEq, Repr

/-- A chain message that waits for a credit, or has been sent and not yet released (R285, R298): its receiver, TYPE, chain
index and bytes, whether it goes to the rack switch, the credit that its release returns upstream (chip, TYPE, index),
whether it has been sent, and whether it has been sent again. -/
structure OutChain where
  dst : Nat
  type : Nat
  ix : Nat
  bytes : Bytes
  toSwitch : Bool
  owed : Option (Nat × Nat × Nat)
  sent : Bool
  again : Bool
  deriving DecidableEq, Repr

/-- An active collective (R282): ring index, descriptor, group record, members in rank order, this chip's rank, launch tick
and step; the digest's maximum and minimum; the express message in progress and what the express path has gathered by rank
(R284); the EXACT chains; the count tables and where this member's block stands in each sender's data; this member's elements and what of a stream has arrived; chains to send and sent,
credits by receiver and TYPE, receive buffers, chains that wait for streamed elements, chains that failed once, the results
written, whether completion has been reported early, the abort code, and the completion round. -/
structure Coll where
  index : Nat
  desc : Desc
  group : Bytes
  members : List Nat
  rank : Nat
  start : Nat
  step : Nat
  phase : CollPhase
  digestMax : Option Bytes
  digestMin : Option Bytes
  msg : Nat
  gathered : List Bytes
  exact : List ExactChain
  sendCounts : List Nat
  recvCounts : List (Nat × Nat)
  recvAt : List Nat
  data : List Nat
  have_ : List (Nat × Nat)
  outQ : List OutChain
  credits : List ((Nat × Nat) × Nat)
  bufs : List (Nat × Nat)
  inbox : List (Nat × Bytes)
  failed : List (Nat × Nat × Nat)
  done : List Nat
  reported : Bool
  abortCode : Nat
  sentAbort : Bool
  contributed : Bool
  deriving DecidableEq, Repr

/-- The collective engine (R274 to R302). `next` is the ring entry to start next; `finished` the entries beyond `head` whose STATUS
has been written out of ring order. -/
structure Cce where
  groups : List GroupRec
  head : Nat
  tail : Nat
  next : Nat
  finished : List Nat
  active : List Coll
  ringWait : Bool
  slots : Nat
  held : List (Nat × Nat)
  lastCode : Nat
  lastGroup : Nat
  lastTag : Nat
  deriving DecidableEq, Repr

/-! ### Remote access -/

/-- A command entry of R344, by field. -/
structure RmaCmd where
  op : Nat
  flags : Nat
  target : Nat
  addr : Nat
  opnd : Nat
  cmp : Nat
  laddr : Nat
  len : Nat
  ctr : Nat
  deriving DecidableEq, Repr

/-- An outstanding command (R345 to R362): its ring index, sequence number where it is an atomic, the tick and number of
its sendings (of a WAIT, its readings), the pieces of a PUT or GET still to be sent and those in flight with the buffer of
each, whether it is provisionally UNKNOWN, whether its line may no longer fill the read cache, and the first code of a
failed piece. -/
structure RmaOut where
  index : Nat
  cmd : RmaCmd
  seq : Nat
  tick : Nat
  sends : Nat
  toSend : List Nat
  waiting : List (Nat × Option (Nat × Nat))
  unknown : Bool
  noFill : Bool
  code : Nat
  deriving DecidableEq, Repr

/-- One command queue (R342, R343): TAIL as last read, HEAD, the next entry to start, the next sequence number, the tick of
the latest reading of the control line, the outstanding commands, the entries finished beyond HEAD, and for each target the
floor last sent and the tick of the latest sending. -/
structure RmaQueue where
  tail : Nat
  head : Nat
  read : Nat
  seq : Nat
  polled : Nat
  outs : List RmaOut
  finished : List Nat
  floorSent : List (Nat × Nat)
  lastSent : List (Nat × Nat)
  deriving DecidableEq, Repr

/-- A dedup entry (R356): requester identifier, sequence number, outcome, code and the value found. -/
structure DedupEntry where
  requester : Nat
  seq : Nat
  outcome : Nat
  code : Nat
  value : Nat
  deriving DecidableEq, Repr

/-- The dedup table (R356 to R360): entries, the floors of the requesters that differ from 0, and whether it was lost. -/
structure Dedup where
  entries : List DedupEntry
  floors : Store Nat
  lost : Bool
  deriving DecidableEq, Repr

/-- A line of the remote read cache (R351). -/
structure CacheLine where
  chip : Nat
  line : Nat
  data : Bytes
  deriving DecidableEq, Repr

/-! ### Transport -/

/-- What the sender does once a whole message is acknowledged (R174, R238, R247, R253). -/
inductive Tie where
  | none
  | buffer (pool ptr : Nat)
  | report (layer half trip : Nat)
  | quarantine
  deriving DecidableEq, Repr

/-- A message that waits to be cut into packets (R320); `off` bytes have been cut, and `first` is the PSN of its first
packet once one has been cut. -/
structure Message where
  dst : Nat
  lc : Nat
  kind : Nat
  step : Nat
  payload : Bytes
  tie : Tie
  off : Nat
  first : Option Nat
  deriving DecidableEq, Repr

/-- A packet of a flow that its receiver has not acknowledged (R322, R326): the port it has been put on (none while it
waits for one), the port of its previous sending, and the tick at which its latest sending began. -/
structure TxPacket where
  psn : Nat
  bytes : Bytes
  port : Option Nat
  avoid : Option Nat
  tick : Option Nat
  sends : Nat
  units : Nat
  deriving DecidableEq, Repr

/-- The sender's side of a flow (R322 to R329): next PSN, unacknowledged packets, the ties of its messages by their first
and last PSN, the units spent and not returned, the FREED count last seen, the units granted, the tick of the last packet, and the
port a pinned flow stands on. -/
structure TxFlow where
  dst : Nat
  lc : Nat
  psn : Nat
  packets : List TxPacket
  ties : List (Nat × Nat × Tie)
  spent : Nat
  freedSeen : Nat
  granted : Nat
  asked : Nat
  lastTick : Nat
  port : Option Nat
  deriving DecidableEq, Repr

/-- The receiver's side of a flow (R322, R323, R326): NEXT, the packets held out of order or of an unfinished message by
PSN, the PSN of the first packet not yet delivered, units freed, packets acknowledged and not yet covered by an ACK, and the tick of the first of them. -/
structure RxFlow where
  src : Nat
  lc : Nat
  next : Nat
  base : Nat
  held : List (Nat × Bytes)
  freed : Nat
  due : Nat
  dueTick : Option Nat
  deriving DecidableEq, Repr

/-- A message of VC2 or VC3 that stands in the landing until its consumer has taken it (R328): sender, LC, length and the
units it holds. -/
structure Landed where
  src : Nat
  lc : Nat
  len : Nat
  units : Nat
  deriving DecidableEq, Repr

/-- The fabric endpoint (R320 to R333). -/
structure Fep where
  waiting : List Message
  tx : List TxFlow
  rx : List RxFlow
  landed : List Landed
  dynFree : Nat
  given : List ((Nat × Nat) × Nat)
  wanted : List ((Nat × Nat) × Nat)
  replyUsed : Nat
  throttle : Nat
  path : Nat
  noPortSince : Option Nat
  deriving DecidableEq, Repr

/-- The port states of R312. -/
inductive PortState where
  | down | train | keying | up | retrain | failed | loopback
  deriving DecidableEq, Repr

/-- The keys of one direction of a link (R337, R338): key, salt and frame counter. -/
structure LinkKey where
  key : Bytes
  salt : Bytes
  counter : Nat
  deriving DecidableEq, Repr

/-- A keying or rekey handshake in progress (R338, R339, R404): the ephemeral scalar, the HELLO of the chip, the HELLO of
the switch once it has been accepted, whether our signature is still to come, whether our FINISH has been queued, whether
the switch's FINISH has been verified, whether it is a rekey and whether this chip started it. -/
structure Keying where
  d : Nat
  own : Bytes
  peer : Option Bytes
  signing : Bool
  ownDone : Bool
  peerDone : Bool
  rekey : Bool
  started : Bool
  deriving DecidableEq, Repr

/-- A frame kept for replay (R317): FSEQ, header without its acknowledgement fields, and payload. -/
structure KeptFrame where
  fseq : Nat
  ftype : Nat
  lc : Nat
  sop : Bool
  eop : Bool
  payload : Bytes
  deriving DecidableEq, Repr

/-- A port (R312 to R319, R337 to R340). Of a bonded link, the lowest port holds the link's frames, credits and keys.
`since` is the tick at which the state was entered; `keyed` the tick at which keying began; `spent` the credits spent and
not yet returned, `freedSeen` the CRED last seen and `freed` the frames freed, each by link channel; `packets` the packets
that wait to leave, `sending` those of which a part has left, `partials` those of which a part has passed to the transport;
`dealNext` is the place within the link of the port that sends the next frame (R311), and `aside` what waits through a
RETRAIN: FSEQ, the next FSEQ expected, and the frames not acknowledged (R319). -/
structure Port where
  state : PortState
  since : Nat
  trained : Bool
  lanes : Nat
  bonded : Nat
  stage : Nat
  slots : Nat
  kph : Bool
  rxKph : Bool
  tx : Option LinkKey
  rx : Option LinkKey
  rxNext : Option LinkKey
  keying : Option Keying
  keyed : Nat
  idleOnly : Bool
  th : Bytes
  peerKey : Option (Nat × Nat)
  retrains : List Nat
  authFails : Nat
  fseq : Nat
  kept : List KeptFrame
  replay : List Nat
  replays : Nat
  rxSeq : Nat
  nakDue : Bool
  nakArmed : Bool
  clc : Nat
  lcTurn : Nat
  spent : List Nat
  freedSeen : List Nat
  freed : List Nat
  shares : List Nat
  packets : List (Nat × Bytes)
  sending : List (Nat × Bytes)
  rekeyOut : List KeptFrame
  partials : List (Nat × Bytes)
  rekeyIn : Bytes
  dealNext : Nat
  aside : Option (Nat × Nat × List KeptFrame)
  deriving DecidableEq, Repr

/-! ### Trace -/

/-- An item of a trace lane queue (R94, R464). -/
inductive LaneItem where
  | event (code : Nat) (tick : Nat) (arg : Nat)
  | cairn (count : Nat) (corrupt : Bool) (first : Nat)
  deriving DecidableEq, Repr

/-- The trace unit (R463 to R470). -/
structure Trace where
  lanes : List (List LaneItem)
  last : Nat
  wr : Nat
  seq : Nat
  wrapped : Bool
  full : Bool
  marker : Option (Nat × Nat)
  ring : Store Byte
  deriving DecidableEq, Repr

/-- What the block has put on its interfaces (R2). -/
inductive Out where
  | busRead (value : Word32)
  | tap (width value : Nat)
  | throttleAck (sclk : Bool) (step : Nat)
  | tile (port : Nat) (bytes : Bytes)
  | frame (port : Nat) (bytes : Bytes)
  | packet (port : Nat) (bytes : Bytes)
  | keyMessage (port : Nat) (bytes : Bytes)
  | delivered (src port kind step : Nat) (payload : Bytes)
  deriving DecidableEq, Repr

/-- The state of one chip's Spaum. -/
structure State where
  pending : List Instr
  out : List Out
  regs : Store Word32
  mem : Store Byte
  freshCount : Nat
  boot : Boot
  fuses : Fuses
  devKey : Option DevKey
  clk : Clk
  tb : Nat
  tbRun : Bool
  tbExhausted : Bool
  tap : Tap
  ldr : Loader
  commits : Commits
  latched : Store Word32
  sec : Sec
  dat : Dat
  run : Option Run
  stepNum : Nat
  prevT : Nat
  verdict : VerdictRec
  rlog : RLog
  fences : List Nat
  fenceSelf : Bool
  unfences : List Nat
  probes : List Probe
  broadcasts : List Broadcast
  mgmtNext : Nat
  note : Notes
  trace : Trace
  sfuVersion : Nat
  sfuCopying : Bool
  sfuLocked : Bool
  cad : Store (List Word32)
  lst : ChangeList
  demand : List Demand
  quarPending : List Quarantine
  quarUndelivered : Nat
  quarActing : List Nat
  quarSeen : List Quarantine
  cadRefetch : List CadRefetch
  pools : Pools
  tports : List TPort
  tokenLast : List (Option TileHdr)
  halves : List Half
  ingestHeld : List HeldTile
  homes : List HomeTally
  bucketMaps : List (Nat × List (Nat × Nat × Nat))
  chipHist : List (Nat × Nat)
  sortCounters : List Nat
  recv : List RxGroup
  feeds : List Feed
  handed : List Handed
  collects : List Collect
  collectHeld : List HeldTile
  gen : Nat
  raiseDue : Bool
  orphans : List LoanTable
  rounds : List Round
  cce : Cce
  rma : List RmaQueue
  rmaTurn : Nat
  dedup : Dedup
  cache : List CacheLine
  fep : Fep
  ports : List Port
  deriving DecidableEq, Repr

/-! ### Reset -/

/-- A port after reset: DOWN, no keys, all counters zero (R312). -/
def Port.reset : Port :=
  { state := .down, since := 0, trained := false, lanes := 0, bonded := 0, stage := 0, slots := 0, kph := false,
    rxKph := false, tx := none, rx := none, rxNext := none, keying := none, keyed := 0, idleOnly := false, th := [],
    peerKey := none, retrains := [], authFails := 0, fseq := 0, kept := [], replay := [], replays := 0, rxSeq := 0,
    nakDue := false, nakArmed := true, clc := 0, lcTurn := 0, spent := List.replicate 9 0,
    freedSeen := List.replicate 9 0, freed := List.replicate 9 0, shares := List.replicate 9 0, packets := [],
    sending := [], rekeyOut := [], partials := [], rekeyIn := [], dealNext := 0, aside := none }

/-- A pool with no buffer (R102: POOL_COUNTn resets to zero, then takes the reset count in SELFTEST). -/
def Pool.empty : Pool := { count := 0, next := 0, released := [], withdrawn := 0, low := 0, lastOwner := 64 }

/-- A command queue after reset (R364). -/
def RmaQueue.reset : RmaQueue :=
  { tail := 0, head := 0, read := 0, seq := 0, polled := 0, outs := [], finished := [], floorSent := [], lastSent := [] }

/-- No datum in progress. -/
def Dat.idle : Dat :=
  { phase := .idle, go := false, began := false, checking := none, checked := none, refusal := 0, refuse := 0, contribTick := 0,
    start := 0, needPools := false, needReload := false, needList := false, listCode := 0, listImage := none, platActivated := false,
    listSwitched := false, listDiscarded := false, proposalWritten := false, listFp := 0, repartition := false, late := false }

/-- Bring-up at stage RESET (R447, R456). -/
def Boot.reset : Boot :=
  { stage := .reset, bank := 0, rclkFail := false, calFail := false, bistFail := false, fuseFail := false, slot := 0, tested := false,
    calibrateWritten := false, exchanges := 0, firstDatumDone := false,
    stepStarted := false }

/-- The fuse shadow before the fuse read (log entry 10). -/
def Fuses.unread : Fuses :=
  { read := false, ownerRoot := [], mfgRoot := [], seed := [], device := 0, grade := 0, revoke := 0, kill := false }

/-- The security functions after reset (R399, R411, R414). -/
def Sec.reset : Sec :=
  { keyList := none, cert := none, certLoad := none, klLoad := none, tokenLoad := none, tokenChallenge := none,
    drbgOn := false, drbgRequests := 0, challenge := none, scope := none, fails := 0, lastObject := 0, lastReason := 0 }

/-- The collective engine after reset: no group, an empty ring (R278, R306). -/
def Cce.reset : Cce :=
  { groups := [], head := 0, tail := 0, next := 0, finished := [], active := [], ringWait := false, slots := 0,
    held := [], lastCode := 0, lastGroup := 0, lastTag := 0 }

/-- The fabric endpoint after reset: every flow at PSN 0 (R322). -/
def Fep.reset : Fep :=
  { waiting := [], tx := [], rx := [], landed := [], dynFree := 0, given := [], wanted := [], replyUsed := 0, throttle := 0,
    path := 0, noPortSince := none }

/-- The Spaum right after reset (R19, R447): every field at the value the manual states, and where it states none at the
value the assumption log names (log entries 4, 5, 8, 10, 11 and 12). -/
def State.reset : State :=
  { pending := [], out := [], regs := [], mem := [], freshCount := 0,
    boot := Boot.reset, fuses := Fuses.unread, devKey := none,
    clk := { aclkStep := 0, sclkStep := 0, lastAclk := none, lastSclk := none, holdover := false, rclkLock := false },
    tb := 0, tbRun := false, tbExhausted := false,
    tap := { ir := 0x01, cells := 0, extest := false, halted := false },
    ldr := { stage := .empty, before := .empty, src := 0, len := 0, progress := 0, staged := none, active := none },
    commits := { mask := 0, values := [], failedSet := 0, lastOk := false },
    latched := [], sec := Sec.reset, dat := Dat.idle, run := none, stepNum := 0, prevT := 0,
    verdict := { cls := 3, localCode := 0, code := 0, step := 0 },
    rlog := { chain := none, start := List.replicate 48 0, startSet := false, loaded := false, first := 0,
              lastFolded := 0, seq := 0, signing := none, waiting := none, requested := false, written := 0, fault := false },
    fences := [], fenceSelf := false, unfences := [], probes := [], broadcasts := [], mgmtNext := 0,
    note := { seq := 0, pending := 0 },
    trace := { lanes := List.replicate 8 [], last := 7, wr := 0, seq := 0, wrapped := false, full := false,
               marker := none, ring := [] },
    sfuVersion := 0x0400, sfuCopying := true, sfuLocked := false,
    cad := [],
    lst := { stage := .empty, before := .empty, src := 0, count := 0, digest := [], since := [], newSrc := 0,
             newCount := 0, newSince := [] },
    demand := [], quarPending := [], quarUndelivered := 0, quarActing := [], quarSeen := [], cadRefetch := [],
    pools := { pools := List.replicate 6 Pool.empty, owners := [], bufs := [], waiters := [], granted := [] },
    tports := List.replicate 16 { held := [], queue := [] },
    tokenLast := List.replicate 16 none,
    halves := [], ingestHeld := [], homes := [], bucketMaps := [], chipHist := [], sortCounters := [], recv := [], feeds := [], handed := [],
    collects := [], collectHeld := [], gen := 0, raiseDue := false, orphans := [], rounds := [], cce := Cce.reset,
    rma := List.replicate 16 RmaQueue.reset, rmaTurn := 0, dedup := { entries := [], floors := [], lost := false }, cache := [],
    fep := Fep.reset, ports := List.replicate 24 Port.reset }

end Sys2Proof.Machine
end

