-- ==== Sys2Proof/Machine/Ops.lean ====
section
/-! DEFINITION. The named operations over registers and memory, error recording (R69), notices (R431 to R434), trace lanes
(R94, R463 to R469) and free values. -/
namespace Sys2Proof.Machine
open Sys2Proof

/-! ### Sparse stores -/

/-- The value a sparse store holds for a key, or the default. -/
def storeGet {α : Type} (d : α) (k : Nat) (xs : Store α) : α :=
  match xs with
  | [] => d
  | (j, v) :: ys => if j = k then v else storeGet d k ys

/-- The store with a key's entry removed. -/
def storeErase {α : Type} (k : Nat) (xs : Store α) : Store α :=
  match xs with
  | [] => []
  | (j, v) :: ys => if j = k then storeErase k ys else (j, v) :: storeErase k ys

/-- The store with a key's entry put in its place, keys strictly rising. -/
def storePut {α : Type} (k : Nat) (v : α) (xs : Store α) : Store α :=
  match xs with
  | [] => [(k, v)]
  | (j, w) :: ys => if k < j then (k, v) :: (j, w) :: ys else if k = j then (k, v) :: ys else (j, w) :: storePut k v ys

/-- A write in canonical form: writing the default removes the entry. -/
def storeSet {α : Type} [DecidableEq α] (d : α) (k : Nat) (v : α) (xs : Store α) : Store α :=
  if v = d then storeErase k xs else storePut k v xs

/-- The canonical form of a store whose default depends on the key: keys strictly rising, no entry at its default. -/
def storeWf {α : Type} [DecidableEq α] (d : Nat → α) : Store α → Bool
  | [] => true
  | [(k, v)] => decide (v ≠ d k)
  | (k, v) :: (j, w) :: ys => decide (k < j) && decide (v ≠ d k) && storeWf d ((j, w) :: ys)

/-! ### Memory -/

/-- What a byte of memory that nothing has written reads as (DESIGN CHOICE, unsafe; log entry 4). -/
def emptyByte : Byte := 0

/-- The canonical form of memory. -/
def Memory.wf (m : Store Byte) : Bool := storeWf (fun _ => emptyByte) m

/-- One byte of memory. -/
def memByte (m : Store Byte) (a : Nat) : Byte := storeGet emptyByte a m

/-- `n` bytes of memory from an address. -/
def memBytes (m : Store Byte) (a n : Nat) : Bytes := (List.range n).map (fun i => memByte m (a + i))

/-- Memory with bytes written from an address on. -/
def memPut (m : Store Byte) (a : Nat) : Bytes → Store Byte
  | [] => m
  | b :: bs => memPut (storeSet emptyByte a b m) (a + 1) bs

/-- Write bytes to memory over the memory stream ports. -/
def memWrite (a : Nat) (bs : Bytes) (s : State) : State := { s with mem := memPut s.mem a bs }

/-- The writes of other agents that a command brings with it (log entry 4). -/
def applyWrites : List (Nat × Bytes) → Store Byte → Store Byte
  | [], m => m
  | (a, bs) :: ws, m => applyWrites ws (memPut m a bs)

/-- The state as a command with memory reads finds it. -/
def withEnv (env : MemEnv) (s : State) : State := { s with mem := applyWrites env.writes s.mem }

/-- Whether a read of `n` bytes meets a 64-byte line that stays uncorrectable (R236). -/
def badLine (env : MemEnv) (a n : Nat) : Bool := env.bad.any (fun l => a < (l + 1) * 64 && l * 64 < a + n)

/-! ### Registers -/

/-- The stored word of a register: fields kept by the register itself; an unlisted register holds its reset word. -/
def State.word (s : State) (a : Nat) : Word32 := storeGet (resetWord a) a s.regs

/-- Store a register's word. -/
def State.setWord (s : State) (a : Nat) (w : Word32) : State := { s with regs := storeSet (resetWord a) a w s.regs }

/-- A field of a stored register word. -/
def State.field (s : State) (a hi lo : Nat) : Nat := bits (s.word a).toNat hi lo

/-- A word with a field replaced. -/
def putBits (w : Word32) (hi lo v : Nat) : Word32 :=
  BitVec.ofNat 32 (w.toNat - bits w.toNat hi lo * 2 ^ lo + v % 2 ^ (hi + 1 - lo) * 2 ^ lo)

/-- Set a field of a stored register word. -/
def State.setField (s : State) (a hi lo v : Nat) : State := s.setWord a (putBits (s.word a) hi lo v)

/-- Raise a counter field, saturating at its width (R69, R102). -/
def State.bumpField (s : State) (a hi lo n : Nat) : State :=
  s.setField a hi lo (satAdd (hi + 1 - lo) (s.field a hi lo) n)

/-- Raise a 32-bit counter register. -/
def State.bump (s : State) (a n : Nat) : State := s.bumpField a 31 0 n

/-- Raise a 16-bit counter register. -/
def State.bump16 (s : State) (a n : Nat) : State := s.bumpField a 15 0 n

/-- A field's live value: the mirror of R17. -/
def State.live (s : State) (a hi lo : Nat) : Nat := s.field (a + 0x8000) hi lo

/-- The value latched for the step of a field whose effect is at the next step (R18). -/
def State.step_ (s : State) (a hi lo : Nat) : Nat := bits (storeGet (resetWord a) a s.latched).toNat hi lo

/-- A 64-bit address held in a register pair. -/
def State.addr64 (s : State) (aLo aHi : Nat) : Nat := (s.word aHi).toNat * 2 ^ 32 + (s.word aLo).toNat

/-! ### Free values -/

/-- Draw the next free value's index: the step reads the counter and advances it. -/
def State.fresh (s : State) : Nat × State := (s.freshCount, { s with freshCount := s.freshCount + 1 })

/-! ### Trace lanes -/

/-- Whether the trace is in force (live TRACE_CTRL.ENABLE). -/
def traceOn (s : State) : Bool := s.live 0x300000 0 0 = 1

/-- An arrival at a trace or event lane (R94): admitted while at least two of the 8 stages are empty, otherwise recorded
in a cairn. -/
def lanePush (q : List LaneItem) (code tick arg : Nat) : List LaneItem :=
  if q.length ≤ 6 then q ++ [LaneItem.event code tick arg]
  else match q.reverse with
    | .cairn n c f :: rest => rest.reverse ++ [LaneItem.cairn (satAdd 16 n 1) c f]
    | _ => q ++ [LaneItem.cairn 1 false (tick % 2 ^ 32)]

/-- Offer an event to a trace lane (R464, R468). -/
def traceEvent (lane code arg : Nat) (s : State) : State :=
  if traceOn s && (s.word 0x300018).toNat.testBit lane then
    { s with trace := { s.trace with lanes := modifyAt (fun q => lanePush q code s.tb arg) lane s.trace.lanes } }
  else s

/-! ### Notices (R431 to R434) -/

/-- SDE_NOTE_WR and SDE_NOTE_RD. -/
def noteWr (s : State) : Nat := s.field 0x32C 15 0
def noteRdIx (s : State) : Nat := s.field 0x330 15 0

/-- n of R431. -/
def noteLog2 (s : State) : Nat := s.field 0x328 3 0

/-- Free entries of the notice ring. -/
def noteFree (s : State) : Nat := 2 ^ noteLog2 s - serialSub 16 (noteWr s) (noteRdIx s)

/-- Set bit TYPE of SDE_IRQ_STATUS (R434). -/
def setIrq (t : Nat) (s : State) : State := s.setField 0x338 t t 1

/-- One 32-byte notice entry of R432. -/
def noticeBytes (type code unit seq step tb arg : Nat) : Bytes :=
  leBytes 1 type ++ leBytes 1 code ++ leBytes 2 unit ++ leBytes 4 seq ++ leBytes 8 step ++ leBytes 8 tb ++ leBytes 8 arg

/-- Write one entry into the ring and raise WR, SEQ and the interrupt bit. -/
def noteEntry (type code unit arg : Nat) (s : State) : State :=
  let base := s.addr64 0x320 0x324
  let a := base + 32 * (noteWr s % 2 ^ noteLog2 s)
  let s1 := memWrite a (noticeBytes type code unit s.note.seq s.stepNum s.tb arg) s
  let s2 := s1.setField 0x32C 15 0 ((noteWr s + 1) % 2 ^ 16)
  setIrq type { s2 with note := { s2.note with seq := (s2.note.seq + 1) % 2 ^ 32 } }

/-- Write the CAIRN that marks a run of lost notices, once two entries are free (R431). -/
def noteCairn (s : State) : State :=
  if s.note.pending ≠ 0 && noteLog2 s ≠ 0 && 2 ≤ noteFree s then
    let n := s.note.pending
    noteEntry 0x0D 0 0 n { s with note := { s.note with pending := 0 } }
  else s

/-- Send a notice to the runtime (R431): written while two entries are free, otherwise dropped and counted. -/
def notice (type code unit arg : Nat) (s0 : State) : State :=
  let s := noteCairn s0
  if noteLog2 s ≠ 0 && 2 ≤ noteFree s then noteEntry type code unit arg s
  else
    let s1 := s.bump16 0x334 1
    setIrq type { s1 with note := { s1.note with pending := s1.note.pending + 1 } }

/-! ### Error recording -/

/-- The bases of the units (R457). -/
def uSde : Nat := 0x0
def uPlat : Nat := 0x10000
def uPool : Nat := 0x20000
def uScore : Nat := 0x30000
def uSfu : Nat := 0x31000
def uSel : Nat := 0x40000
def uTally : Nat := 0x41000
def uSort : Nat := 0x50000
def uCad : Nat := 0x60000
def uReg : Nat := 0x80000
def uComb : Nat := 0x81000
def uCce : Nat := 0xA0000
def uFep : Nat := 0xC0000
def uSec : Nat := 0x200000
def uTrace : Nat := 0x300000
/-- The block of a port, whose number lies below 24 (R312). -/
def uPort (n : Nat) : Nat := 0x100000 + 0x8000 * (n % 24)

/-- Record a raised code in a unit's error status register (R69, R416). -/
def record (unit code : Nat) (s : State) : State :=
  let a := unit + 8
  let w := (s.word a).toNat
  let first := if bits w 23 16 = 0 then code else bits w 15 8
  s.setWord a (BitVec.ofNat 32 (satAdd 8 (bits w 23 16) 1 * 2 ^ 16 + first * 2 ^ 8 + code))

/-- A code whose effect is Counts (R415): recorded, and an ERROR notice sent. UNIT is bits [23:12] of the unit's base. -/
def countFault (unit code : Nat) (s : State) : State := notice 0x0C code (unit / 4096) 0 (record unit code s)

/-- A security code (R413): recorded, and a SECURITY notice sent. -/
def securityCode (unit code : Nat) (s : State) : State := notice 0x0B code (unit / 4096) 0 (record unit code s)

/-- A plat event's notice (R433): CODE, and PLAT_STATUS after the event is added by the caller's view. -/
def platNotice (code status : Nat) (s : State) : State := notice 0x03 code 0x010 status s

/-- Put an output on an interface. -/
def emitOut (o : Out) (s : State) : State := { s with out := s.out ++ [o] }

/-- Change the account of the running step. -/
def modRun (f : Run → Run) (s : State) : State := { s with run := s.run.map f }

/-! ### Identity -/

/-- The chip identifier: RACK × 64 + SLOT (R23, R450). -/
def chipId (s : State) : Nat := s.field 0x408 15 8 * 64 + s.boot.slot

/-- The installation's racks and chips (R450). -/
def racks (s : State) : Nat := s.field 0x40C 8 0
def chipCount (s : State) : Nat := 64 * racks s

/-- Whether a chip is in the fence bitmap (R421). -/
def fenced (s : State) (c : Nat) : Bool := s.fences.contains c

/-- The chips of the installation that are not fenced. -/
def unfenced (s : State) : List Nat := (List.range (chipCount s)).filter (fun c => !fenced s c)

/-- STRICT and FENCE_POLICY = CONTINUE, live (R367, R264). -/
def strictLive (s : State) : Bool := s.live 0x10 0 0 = 1
def continueLive (s : State) : Bool := s.live 0x10 1 1 = 1

end Sys2Proof.Machine
end

