-- ==== Sys2Proof/Machine/Pool.lean ====
section
/-! DEFINITION. The buffer pool (R80 to R90): allocation against owners and reserved minima, reference counts, and the
commands LOW_REARM, ALLOC_GRANT and POOLS_BUILD's rebuilding. -/
namespace Sys2Proof.Machine
open Sys2Proof

/-- The unreserved owner (R84). -/
def unreserved : Nat := 64

/-- The smallest pool whose buffers hold a size (R81); none holds more than 512 KiB. -/
def poolFor (size : Nat) : Nat := ((List.range 6).find? (fun p => size ≤ Config.poolSizes.getD p 0)).getD 5

/-- The owner number of a station, port or group class (R84), or the unreserved owner. -/
def ownerNum (s : State) (kind id : Nat) : Nat :=
  (s.pools.owners.findIdx? (fun o => o.kind = kind && o.id = id)).getD unreserved

/-- The owner of a station. -/
def stationOwner (s : State) (code : Nat) : Nat := ownerNum s 1 code

/-- A pool by number. -/
def poolAt (s : State) (p : Nat) : Pool := s.pools.pools.getD p Pool.empty

/-- Buffers of a pool in use. -/
def usedCount (s : State) (p : Nat) : Nat := (s.pools.bufs.filter (fun b => b.pool = p)).length

/-- Free buffers of a pool: neither in use nor withdrawn (R89). -/
def freeCount (s : State) (p : Nat) : Nat := (poolAt s p).count - usedCount s p - (poolAt s p).withdrawn

/-- held(o) of R85. -/
def heldBy (s : State) (p o : Nat) : Nat := (s.pools.bufs.filter (fun b => b.pool = p && b.owner = o)).length

/-- min(o) of R85; zero for the unreserved owner (R84). -/
def minOf (s : State) (p o : Nat) : Nat :=
  match s.pools.owners[o]? with
  | some r => r.mins.getD p 0
  | none => 0

/-- unmet(o) of R85. -/
def unmet (s : State) (p o : Nat) : Nat := minOf s p o - heldBy s p o

/-- U of R85. -/
def unmetSum (s : State) (p : Nat) : Nat := sumNat ((List.range s.pools.owners.length).map (unmet s p))

/-- R85's condition for granting an allocation. -/
def grantable (s : State) (p o : Nat) : Bool := (0 < unmet s p o && 0 < freeCount s p) || unmetSum s p < freeCount s p

/-- Change one pool. -/
def modPool (p : Nat) (f : Pool → Pool) (s : State) : State :=
  { s with pools := { s.pools with pools := modifyAt f p s.pools.pools } }

/-- The pointer the stack of a pool gives next: last in, first out, and 0, 1, 2 and so on at first (R82). -/
def nextPtr (q : Pool) : Nat := q.released.headD q.next

/-- The pool after its stack has been popped. -/
def popped (q : Pool) : Pool :=
  match q.released with
  | [] => { q with next := q.next + 1 }
  | _ :: r => { q with released := r }

/-- Take a buffer: it is charged to the owner with a reference count of 1 (R84, R87), POOL_LOWn follows, and the owner is
the one served last (R83). -/
def takeBuf (p o : Nat) (s : State) : Nat × State :=
  let ptr := nextPtr (poolAt s p)
  let s1 := modPool p popped { s with pools := { s.pools with bufs := ⟨p, ptr, o, 1⟩ :: s.pools.bufs } }
  let free := freeCount s1 p
  (ptr, modPool p (fun q => { q with low := min q.low free, lastOwner := o }) s1)

/-- The argument of a pool event of trace lane 7 (R469): pool and owner, or UNRESERVED. -/
def poolArg (p o : Nat) : Nat := p + (if o = unreserved then 2 ^ 14 else o * 2 ^ 8)

/-- An allocation by a request (R81, R83, R85): a buffer granted to the request earlier, a buffer granted at once, or a
wait. A new request is granted at once only while no request that waits at the pool could be granted itself; otherwise
it takes its turn under ALLOC_GRANT. -/
def alloc (size o : Nat) (key : List Nat) (s : State) : Option (Nat × Nat) × State :=
  let p := poolFor size
  match s.pools.granted.find? (fun g => g.pool = p && g.owner = o && g.key = key) with
  | some g => (some (p, g.ptr), { s with pools := { s.pools with granted := s.pools.granted.erase g } })
  | none =>
    if s.pools.waiters.contains ⟨p, o, key⟩ then (none, s)
    else if grantable s p o && !(s.pools.waiters.any (fun w => w.pool = p && grantable s p w.owner)) then
      let r := takeBuf p o s
      (some (p, r.1), r.2)
    else
      (none, traceEvent 7 0x01 (poolArg p o)
        { s with pools := { s.pools with waiters := s.pools.waiters ++ [⟨p, o, key⟩] } })

/-- Buffers that a request has been granted and does not yet use are kept for it. -/
def keepGranted (o : Nat) (bs : List ((Nat × Nat) × List Nat)) (s : State) : State :=
  { s with pools := { s.pools with granted := s.pools.granted ++ bs.map (fun b => ⟨b.1.1, b.1.2, o, b.2⟩) } }

/-- Allocate several buffers for one request: each is granted on its own under R85 and held for the request until all
have been granted. -/
def allocMany (sizes : List Nat) (o : Nat) (key : List Nat) (s : State) : Option (List (Nat × Nat)) × State :=
  let r := (List.range sizes.length).foldl (fun (acc : List ((Nat × Nat) × List Nat) × State) i =>
    match alloc (sizes.getD i 0) o (key ++ [i]) acc.2 with
    | (some b, s') => (acc.1 ++ [(b, key ++ [i])], s')
    | (none, s') => (acc.1, s')) ([], s)
  if r.1.length = sizes.length then (some (r.1.map (·.1)), r.2) else (none, keepGranted o r.1 r.2)

/-- Return a buffer to its stack whatever its count (used where every holder drops it at once). -/
def freeBuf (p ptr : Nat) (s : State) : State :=
  if s.pools.bufs.any (fun b => b.pool = p && b.ptr = ptr) then
    modPool p (fun q => { q with released := ptr :: q.released })
      { s with pools := { s.pools with bufs := s.pools.bufs.filter (fun b => !(b.pool = p && b.ptr = ptr)) } }
  else s

/-- The reference count of a buffer; zero when it is free (R87). -/
def refsOf (s : State) (p ptr : Nat) : Nat :=
  match s.pools.bufs.find? (fun b => b.pool = p && b.ptr = ptr) with
  | some b => b.refs
  | none => 0

/-- Set the reference count of a buffer in use. -/
def setRefs (p ptr n : Nat) (s : State) : State :=
  { s with pools := { s.pools with
      bufs := s.pools.bufs.map (fun b => if b.pool = p && b.ptr = ptr then { b with refs := n } else b) } }

/-- Lower the reference count of a buffer that is in use; the buffer returns to its stack at zero (R87). A release is
checked by `release` (R88). -/
def dropRef (p ptr : Nat) (s : State) : State :=
  if refsOf s p ptr ≤ 1 then freeBuf p ptr s else setRefs p ptr (refsOf s p ptr - 1) s

/-- Withdraw requests that their engine no longer makes: those that wait, and the buffers granted to them. -/
def cancelRequests (p : List Nat → Bool) (s : State) : State :=
  let s1 := (s.pools.granted.filter (fun g => p g.key)).foldl (fun s g => freeBuf g.pool g.ptr s) s
  { s1 with pools := { s1.pools with waiters := s1.pools.waiters.filter (fun w => !p w.key)
                                     granted := s1.pools.granted.filter (fun g => !p g.key) } }

/-- Return a set of buffers to their stacks, every holder dropping them at once. -/
def freeAll (bs : List (Nat × Nat)) (s : State) : State := bs.foldl (fun s b => freeBuf b.1 b.2 s) s

/-- Build the pools with given counts and owner records (R82, R90): every stack full, nothing withdrawn, POOL_LOWn at the
full count. -/
def buildPools (counts : List Nat) (owners : List OwnerRec) (s : State) : State :=
  { s with pools :=
    { pools := (List.range 6).map (fun p => ⟨counts.getD p 0, 0, [], 0, counts.getD p 0, unreserved⟩)
      owners := owners, bufs := [], waiters := [], granted := [] } }

/-- Whether every pool buffer is free (R90). -/
def allFree (s : State) : Bool := s.pools.bufs.isEmpty

/-- LOW_REARM (R102): every POOL_LOWn takes its pool's current free count. -/
def lowRearm (s : State) : State :=
  { s with pools := { s.pools with pools :=
      (List.range s.pools.pools.length).map (fun p => { poolAt s p with low := freeCount s p }) } }

/-- LOW_REARM. -/
def execLowRearm (s : State) : Host.Outcome State Fault Refusal := .next (lowRearm s)

/-- The order in which waiting owners are served: ascending owner number after the owner served last, unreserved requests
after every named owner (R83). -/
def serveKey (last o : Nat) : Nat := if o = unreserved then 200 else if last < o then o else o + 100

/-- The waiting request of a pool that is granted next: the first in serving order whose owner R85 grants. -/
def nextWaiter (s : State) (p : Nat) : Option Waiter :=
  let last := (poolAt s p).lastOwner
  let cur := if last = unreserved then 99 else last
  ((sortBy (fun w => serveKey cur w.owner) (s.pools.waiters.filter (fun w => w.pool = p))).find?
    (fun w => grantable s p w.owner))

/-- The 32-bit word of a stack entry (R82); its check bits follow a code that the manual does not give. -/
def stackWord (ptr : Nat) : Nat := (Config.stackCheck (BitVec.ofNat 24 ptr)).toNat * 2 ^ 24 + ptr % 2 ^ 24

/-- The entry on top of a pool's stack reads uncorrectable (R89): it is discarded and its buffer withdrawn. -/
def withdrawTop (p : Nat) (s : State) : State :=
  if freeCount s p = 0 then s
  else
    let s1 := modPool p (fun q => { popped q with withdrawn := q.withdrawn + 1 }) s
    let free := freeCount s1 p
    modPool p (fun q => { q with low := min q.low free }) (countFault uPool 0x23 s1)

/-! ### The addresses of the SRAM (R75, R76, R80) -/

/-- 4 MiB. -/
def granule : Nat := 4 * 1024 * 1024

/-- The partition in force (R51): the active plat's, or the default one. -/
def partitionOf (s : State) : List Nat := (s.ldr.active.map (·.partition)).getD Config.defaultPartition

/-- The first granule of a region of R51, and its granules. -/
def regionStart (s : State) (r : Nat) : Nat := sumNat ((partitionOf s).take r)
def regionGranules (s : State) (r : Nat) : Nat := (partitionOf s).getD r 0

/-- The granules of a region ahead of its whole banks, and its whole banks (R76). -/
def regionHead (s : State) (r : Nat) : Nat := min (regionStart s r % 2) (regionGranules s r)
def regionBanks (s : State) (r : Nat) : Nat := (regionGranules s r - regionHead s r) / 2

/-- The byte of the SRAM that a region's offset names (R76). DEDUCED (log entry 31): the lines of one bank stand in it in
ascending order of their line numbers. -/
def sramAddr (s : State) (r off : Nat) : Nat :=
  let head := regionHead s r * granule
  let first := (regionStart s r + regionHead s r) / 2
  let w := regionBanks s r
  let o := off - head
  if off < head then regionStart s r * granule + off
  else if o < w * (2 * granule) then
    (first + o / 128 % w) * (2 * granule) + o / 128 / w * 128 + o % 128
  else (first + w) * (2 * granule) + (o - w * (2 * granule))

/-- The bank of a region's offset (R75, R76). -/
def bankAt (s : State) (r off : Nat) : Nat := sramAddr s r off / (2 * granule)

/-- A pool's base within the buffer pool region: pool 5 first (R80). -/
def poolBase (s : State) (p : Nat) : Nat :=
  sumNat ((List.range 6).map (fun q => if p < q then (poolAt s q).count * Config.poolSizes.getD q 0 else 0))

/-- A buffer's address within the buffer pool region (R80). -/
def bufAddr (s : State) (p ptr : Nat) : Nat := poolBase s p + ptr * Config.poolSizes.getD p 0

/-- A word of the SRAM read in error (R78, R102): counted, with its bank. -/
def countSram (fatal : Bool) (bank : Nat) (s : State) : State :=
  if fatal then (s.bumpField 0x20084 15 0 1).setField 0x20088 21 16 bank
  else (s.bump 0x20080 1).setField 0x20088 5 0 bank

end Sys2Proof.Machine
end

