-- ==== Sys2Proof/Machine/Fabric.lean ====
section
/-! DEFINITION. What the block hands to the fabric: messages, express contributions (R296, R303), tree broadcasts (R420);
and the step abort (R271, R417, R418) with the generation (R266), which every unit can bring about. -/
namespace Sys2Proof.Machine
open Sys2Proof

/-! ### Halves -/

/-- Change the state of one (layer, half). -/
def modHalf (l h : Nat) (f : Half → Half) (s : State) : State :=
  { s with halves := s.halves.map (fun x => if x.layer = l && x.half = h then f x else x) }

/-- The state of one (layer, half). -/
def halfAt (s : State) (l h : Nat) : Option Half := s.halves.find? (fun x => x.layer = l && x.half = h)

/-! ### Messages -/

/-- A message leaves no trace with the fabric endpoint: it is for the chip itself and stays within it (R170, R203), or it is for
a fenced chip, which receives nothing but the notice of its fence (R4, R424), or the chip is fenced itself and sends nothing
more on VC0 to VC5 (R424). -/
def endsHere (s : State) (m : Message) : Bool :=
  m.dst = chipId s || (fenced s m.dst && m.lc ≠ 0xC) || (s.fenceSelf && m.lc ≤ 0xA)

/-- The buffer that a tie releases. -/
def Tie.buf : Tie → Option (Nat × Nat)
  | .buffer p ptr => Option.some (p, ptr)
  | _ => Option.none

/-- Hand a message over, its tie aside: to the chip's own units at once, or to the fabric endpoint. -/
def post (m : Message) (s : State) : State :=
  if m.dst = chipId s then emitOut (.delivered m.dst 24 m.kind m.step m.payload) s
  else if endsHere s m then s
  else { s with fep := { s.fep with waiting := s.fep.waiting ++ [m] } }

/-- Hand the same payload to several chips. -/
def postAll (dsts : List Nat) (lc kind : Nat) (payload : Bytes) (s : State) : State :=
  dsts.foldl (fun s d => post ⟨d, lc, kind, s.stepNum, payload, .none, 0, none⟩ s) s

/-- The rack of a chip. -/
def rackOf (c : Nat) : Nat := c / 64

/-- The collector of a rack: its lowest member that is not fenced (R303). -/
def collectorOf (s : State) (members : List Nat) (rack : Nat) : Option Nat :=
  (members.filter (fun c => rackOf c = rack && !fenced s c)).min?

/-- The collectors of a round, one for each rack that has a member left. -/
def collectors (s : State) (members : List Nat) : List Nat :=
  members.filter (fun c => collectorOf s members (rackOf c) = some c)

/-! ### Express messages -/

/-- The TYPEs of R296. -/
def xContrib : Nat := 0x20
def xPartial : Nat := 0x21
def xResult : Nat := 0x22
def xAbort : Nat := 0x23
def xCredit : Nat := 0x24
def xNack : Nat := 0x25
def xCounts : Nat := 0x26
def xSlot : Nat := 0x27

/-- DESIGN CHOICE (log entry 13): the TYPEs of the acknowledgement of a partial (R303) and of the request for a fenced
collector's partial (R305), which the manual describes and gives no code. -/
def xPartialAck : Nat := 0x28
def xCopyRequest : Nat := 0x29

/-- An express message (R296): 16-byte header and payload. -/
def expressBytes (type opw group tag sender seq step : Nat) (payload : Bytes) : Bytes :=
  leBytes 1 type ++ leBytes 1 opw ++ leBytes 2 group ++ leBytes 2 tag ++ leBytes 2 sender ++ leBytes 1 seq ++
    leBytes 1 payload.length ++ leBytes 6 step ++ payload

/-- Send an express message of a round. -/
def sendExpress (dst type opw : Nat) (k : RoundKey) (payload : Bytes) (s : State) : State :=
  post ⟨dst, 0xA, 0x05, s.stepNum, expressBytes type opw k.group k.tag (chipId s) k.seq k.step payload, .none, 0, none⟩ s

/-- DESIGN CHOICE (log entry 13): the internal kinds of R296's TAG field, which the manual does not number. -/
def kAgreement : Nat := 1
def kStart : Nat := 2
def kTallyClose : Nat := 3
def kTrip : Nat := 4
def kVerdict : Nat := 5

/-- The key of an internal all-reduce (R303). -/
def internalKey (s : State) (kind trip seq : Nat) : RoundKey := ⟨0xFFFF, kind + 16 * trip, seq % 256, s.stepNum % 2 ^ 48⟩

/-- The round of a key. -/
def roundAt (s : State) (k : RoundKey) : Option Round := s.rounds.find? (fun r => r.key == k)

/-- Change a round. -/
def modRound (k : RoundKey) (f : Round → Round) (s : State) : State :=
  { s with rounds := s.rounds.map (fun r => if r.key == k then f r else r) }

/-- A round opened when its first message arrives or is sent. -/
def openRound (k : RoundKey) (opw : Nat) (members : List Nat) (s : State) : State :=
  if (roundAt s k).isSome then s
  else { s with rounds := s.rounds ++ [⟨k, opw, members, none, [], [], false, [], [], none, false⟩] }

/-- A round has run its course on this chip: its result has been brought to the chip's own units. -/
def Round.ended (r : Round) : Bool := r.taken && r.result.isSome

/-- A key that is used again names a new round, which stands last (log entry 13). -/
def renewRound (k : RoundKey) (s : State) : State := { s with rounds := s.rounds.filter (fun r => !(r.key == k)) }

/-- The members of a round that have not been fenced. -/
def Round.left (s : State) (r : Round) : List Nat := r.members.filter (fun c => !fenced s c)

/-- The partial that a collector holds of a rack: that of its collector, or of a fenced collector before it. -/
def Round.partialOf (r : Round) (rack : Nat) : Option Bytes := (r.partials.find? (fun p => rackOf p.1 = rack)).map (·.2)

/-- The other collectors of a round. -/
def otherCollectors (s : State) (r : Round) : List Nat := (collectors s r.members).filter (fun c => c ≠ chipId s)

/-- This chip is a collector of a round. -/
def isCollector (s : State) (r : Round) : Bool := collectorOf s r.members (rackOf (chipId s)) = some (chipId s)

/-- Ask this rack's members to contribute again (R305, step 3); that they have been asked is noted against the chip itself. -/
def askRack (k : RoundKey) (s : State) : State :=
  match roundAt s k with
  | none => s
  | some r =>
    let me := chipId s
    ((r.left s).filter (fun c => rackOf c = rackOf me)).foldl (fun s c => sendExpress c xContrib r.opw k [] s)
      (modRound k (fun r => { r with contribs := [], asked := r.asked.filter (fun a => a ≠ (me, me)) ++ [(me, me)] }) s)

/-- Ask a collector for a copy of the partial of another's rack, or of its own. -/
def askCopy (k : RoundKey) (opw c dst : Nat) (s : State) : State :=
  sendExpress dst xCopyRequest opw k (leBytes 2 c) (modRound k (fun r => { r with asked := r.asked ++ [(c, dst)] }) s)

/-- What a collector lacks once f, the collector of a rack, has been fenced (R305, step 1): a copy of f's partial from every
other collector; and the collector that takes f's place needs the partials of the other racks too. -/
def askCopies (k : RoundKey) (f : Nat) (s : State) : State :=
  match roundAt s k with
  | none => s
  | some r =>
    let others := otherCollectors s r
    if others.isEmpty then askRack k s
    else
      let s1 := if (r.partialOf (rackOf f)).isSome then s else others.foldl (fun s c => askCopy k r.opw f c s) s
      if rackOf f = rackOf (chipId s) then
        (others.filter (fun c => (r.partialOf (rackOf c)).isNone)).foldl (fun s c => askCopy k r.opw c c s) s1
      else s1

/-- The fenced member of this chip's rack whose place as collector this chip has taken. -/
def replaced (s : State) (members : List Nat) : Option Nat :=
  (members.filter (fun c => rackOf c = rackOf (chipId s) && c < chipId s && fenced s c)).max?

/-- Contribute to an express all-reduce (R303, first step): the contribution goes to the rack's collector. A collector that
stands in for a fenced one asks for what it lacks (R305). -/
def contribute (k : RoundKey) (opw : Nat) (members : List Nat) (payload : Bytes) (s : State) : State :=
  let s0 := if ((roundAt s k).map Round.ended).getD false then renewRound k s else s
  let s1 := modRound k (fun r => { r with own := some payload, members := members }) (openRound k opw members s0)
  match collectorOf s members (rackOf (chipId s)) with
  | some c =>
    let s2 := sendExpress c xContrib opw k payload s1
    if c = chipId s then (match replaced s members with
      | some f => askCopies k f s2
      | none => s2) else s2
  | none => s1

/-- OPW for lanes of 16 bytes, the digest of R282 (R474): R296 gives no code for them (log entry 13). -/
def opWide (op : Nat) : Nat := 16 * op

/-- OPW for a maximum over lanes of a width (R296). -/
def opMax (w : Nat) : Nat := w
def opMin (w : Nat) : Nat := 0x10 + w
def opOr (w : Nat) : Nat := 0x30 + w

/-! ### Tree broadcast (R420) -/

/-- Whether a broadcast has been seen. -/
def bcastSeen (s : State) (kind step subject : Nat) : Bool :=
  s.broadcasts.any (fun b => b.kind = kind && b.step = step && b.subject = subject)

/-- The link channel of a broadcast's payload kind: ABORT on VC5, FENCE on VC6. -/
def bcastLc (kind : Nat) : Nat := if kind = 0x0A then 0xC else 0xA

/-- What a collector does with a broadcast from a chip of its rack or of its own: to every other collector and to every
member of its rack except the one it came from. -/
def bcastFan (kind : Nat) (payload : Bytes) (from_ : Nat) (s : State) : State :=
  let me := chipId s
  let all := unfenced s
  let rack := (all.filter (fun c => rackOf c = rackOf me)).filter (fun c => c ≠ me && c ≠ from_)
  let others := (collectors s all).filter (fun c => c ≠ me)
  postAll (others ++ rack) (bcastLc kind) kind payload s

/-- Originate a tree broadcast: send it to the rack's collector, or act as the collector. -/
def bcastSend (kind step subject : Nat) (payload : Bytes) (s : State) : State :=
  let me := chipId s
  let s1 := { s with broadcasts := s.broadcasts ++ [⟨kind, step, subject, payload, true⟩] }
  match collectorOf s (unfenced s) (rackOf me) with
  | some c => if c = me then bcastFan kind payload me s1 else post ⟨c, bcastLc kind, kind, s.stepNum, payload, .none, 0, none⟩ s1
  | none => s1

/-- Pass a received broadcast on (R420): only a collector does, once; from another collector only within its own rack. -/
def bcastPass (kind step subject src : Nat) (payload : Bytes) (s : State) : State :=
  let me := chipId s
  let s1 := { s with broadcasts := s.broadcasts ++ [⟨kind, step, subject, payload, false⟩] }
  if collectorOf s (unfenced s) (rackOf me) = some me then
    if rackOf src = rackOf me then bcastFan kind payload src s1
    else
      let rack := ((unfenced s).filter (fun c => rackOf c = rackOf me)).filter (fun c => c ≠ me)
      postAll rack (bcastLc kind) kind payload s1
  else s1

/-! ### The generation (R42, R266) -/

/-- Whether an orphan table holds an OUT entry. -/
def LoanTable.hasOut (t : LoanTable) : Bool := t.entries.any (fun e => e.2.state == .out)

/-- How far behind the current generation the oldest outstanding loans lie, live loan tables included. -/
def genSpan (s : State) : Nat :=
  maxNat (((s.orphans.filter (·.hasOut)).map (fun t => serialSub 10 s.gen t.gen)) ++
    ((s.halves.filterMap (·.loans)).filter (·.hasOut)).map (fun t => serialSub 10 s.gen t.gen))

/-- Raise the generation, or refuse the raise when it would bring the oldest outstanding generation to 512 behind
(R42): E_GEN_WINDOW is recorded and RAISE_DUE set (R266). -/
def raiseGen (s : State) : State :=
  if genSpan s + 1 < 512 then { s with gen := (s.gen + 1) % 1024, raiseDue := false }
  else record uReg 0x17 { s with raiseDue := true }

/-- GEN_RAISE_DUE (R266): a deferred raise is made as soon as the window allows it. -/
def genRaiseDue (s : State) : State :=
  if s.raiseDue && genSpan s + 1 < 512 then { s with gen := (s.gen + 1) % 1024, raiseDue := false } else s

/-- GEN_RAISE_DUE. -/
def execGenRaiseDue (s : State) : Host.Outcome State Fault Refusal := .next (genRaiseDue s)

/-! ### Collectives under an abort (R300) -/

/-- The key of a collective's completion round: message index 255 of its group and TAG. -/
def completionKey (c : Coll) : RoundKey := ⟨c.desc.group, c.desc.tag, 255, c.step % 2 ^ 48⟩

/-- A member aborts a collective (R300): the first code stands; it stops sending chains, sends ABORT to every member and, where
it has not contributed to the completion round yet, contributes class 2 with 0xFF minus its code. -/
def abortColl (ix code : Nat) (s : State) : State :=
  match s.cce.active.find? (fun c => c.index = ix) with
  | none => s
  | some c =>
    if c.abortCode ≠ 0 then s
    else
      let me := chipId s
      let s1 := { s with cce := { s.cce with active := s.cce.active.map (fun x => if x.index = ix then
        { x with abortCode := code, sentAbort := true, contributed := true, outQ := [], phase := .completion } else x) } }
      let k : RoundKey := ⟨c.desc.group, c.desc.tag, 0, c.step % 2 ^ 48⟩
      let s2 := (c.members.filter (· ≠ me)).foldl (fun s d => sendExpress d xAbort 0 k (leBytes 1 code) s) s1
      if c.contributed then s2
      else contribute (completionKey c) (opMax 2) c.members (leBytes 2 (0x200 + (0xFF - code))) s2

/-- Abort every active collective. -/
def abortColls (code : Nat) (s : State) : State :=
  (s.cce.active.map (·.index)).foldl (fun s ix => abortColl ix code s) s

/-! ### Step abort -/

/-- The step a tile of the cores belongs to (R32). -/
def tileStep (bs : Bytes) : Nat := bits (leAt bs 0 8) 55 0

/-- Every pool buffer that a half's tiles, list and unsent groups hold. -/
def Half.bufs (h : Half) : List (Nat × Nat) :=
  h.blocks.flatMap (fun b => (b.token ++ b.norm.getD [] ++ b.score ++ b.gate.getD []).filterMap (·.buf) ++
    (b.sel.bind (·.buf)).toList) ++
  h.segBufs ++ h.segments.filterMap (·.buf) ++ h.sendQ.filterMap (·.buf) ++ h.outputs.map (fun o => (o.pool, o.ptr))

/-- At an abort a loan table becomes an orphan table that keeps its OUT entries (R267). -/
def orphaned (t : LoanTable) : LoanTable := { t with entries := t.entries.filter (fun e => e.2.state == .out) }

/-- Loan tables become orphan tables; a table without an OUT entry is released. -/
def orphanLoans (s : State) : State :=
  (s.halves.filterMap (·.loans)).foldl (fun s t =>
    let o := orphaned t
    if o.entries.isEmpty then freeAll t.bufs s else { s with orphans := s.orphans ++ [o] }) s

/-- A request for a buffer that outlives an abort of the running step (R271): one of the collective engine or of a bulk
copy, or of a TOKEN tile of the following step. -/
def keptRequest (s : State) (key : List Nat) : Bool :=
  match key with
  | c :: rest => 0x10 ≤ c || (c = 1 && rest.getD 1 0 ≠ s.stepNum)
  | [] => true

/-- A group of the running step that waits to leave again from its relay (R222, R271). -/
def relayWaits (s : State) (m : Message) : Bool := m.lc = 5 && m.kind = 1 && m.off = 0 && m.step = s.stepNum

/-- The stations stop (R271): held TOKEN and EXPERT_OUT tiles of the step, held groups and the groups that wait at this
chip as relay are discarded and counted in REG_LATE, and every buffer that only the stations hold is freed. -/
def stopStations (s : State) : State :=
  let mine := s.ingestHeld.filter (fun x => tileStep x.image = s.stepNum)
  let relays := s.fep.waiting.filter (relayWaits s)
  let groups := s.recv.map (fun g => (g.pool, g.ptr)) ++ s.feeds.flatMap (fun f => f.rows.map (fun r => (r.pool, r.ptr)))
  let queued := s.tports.flatMap (fun p => p.queue.filterMap (fun q => q.2.2))
  let bufs := mine.map (·.buf) ++ s.collectHeld.map (·.buf) ++ s.halves.flatMap Half.bufs ++ groups ++
    s.collects.flatMap (·.bufs) ++ queued ++ relays.filterMap (·.tie.buf)
  let drop := s.pools.granted.filter (fun g => !keptRequest s g.key)
  let s1 := (freeAll (bufs ++ drop.map (fun g => (g.pool, g.ptr))) s).bump 0x80050
    (mine.length + s.collectHeld.length + relays.length + groups.eraseDups.length)
  { s1 with
    ingestHeld := s.ingestHeld.filter (fun x => tileStep x.image ≠ s.stepNum), collectHeld := []
    tokenLast := s.tokenLast.map (fun x => x.filter (fun h => h.step ≠ s.stepNum))
    halves := [], homes := [], bucketMaps := [], chipHist := [], sortCounters := [], recv := [], feeds := [], handed := [], collects := []
    tports := s1.tports.map (fun p => { p with queue := [] })
    fep := { s1.fep with waiting := s1.fep.waiting.filter (fun m => !relayWaits s m) }
    pools := { s1.pools with waiters := s1.pools.waiters.filter (fun w => keptRequest s w.key)
                             granted := s1.pools.granted.filter (fun g => keptRequest s g.key) } }

/-- The payload of an ABORT message (R430). -/
def abortPayload (code sender step : Nat) : Bytes :=
  leBytes 1 2 ++ leBytes 1 code ++ leBytes 2 sender ++ leBytes 4 0 ++ leBytes 8 step ++ leBytes 16 0

/-- The step aborts on this chip (R417): the abort code is fixed by the first event; R271 takes hold, loans are orphaned,
the generation is raised, every active collective aborts; a code raised on the chip itself is broadcast (R418). -/
def abortStep (code : Nat) (onSelf : Bool) (s : State) : State :=
  match s.run with
  | none => s
  | some r =>
    let loc := if onSelf && r.localCode = 0 then code else r.localCode
    if r.abortCode ≠ 0 then { s with run := some { r with localCode := loc } }
    else
      let s1 := { s with run := some { r with abortCode := code, localCode := loc } }
      let s2 := raiseGen (stopStations (orphanLoans s1))
      let s3 := abortColls code s2
      let s4 := traceEvent 5 0x06 code s3
      if onSelf then bcastSend 0x06 s4.stepNum 2 (abortPayload code (chipId s4) s4.stepNum) s4 else s4

/-- A code whose effect is Aborts (R415): recorded in its unit, and the running step aborts on every chip. -/
def raiseAborts (unit code : Nat) (s : State) : State := abortStep code true (record unit code s)

/-- A code raised on a collective (R300): the collective aborts with it, and with it the step on every chip (R415). -/
def raiseColl (ix code : Nat) (s : State) : State := raiseAborts uCce code (abortColl ix code s)

/-- A release of a reference (R87); of a free buffer it is a fault (R88). -/
def release (p ptr : Nat) (s : State) : State :=
  if refsOf s p ptr = 0 then raiseAborts uPool 0x22 s else dropRef p ptr s

/-- Release one reference of a buffer that may be absent. -/
def releaseOpt (b : Option (Nat × Nat)) (s : State) : State :=
  match b with
  | some (p, ptr) => release p ptr s
  | none => s

/-- A raise of a reference count (R87); of a free buffer, or above 255, it is a fault (R88). -/
def raiseRefs (p ptr n : Nat) (s : State) : State :=
  if refsOf s p ptr = 0 || refsOf s p ptr + n > 255 then raiseAborts uPool 0x22 s
  else setRefs p ptr (refsOf s p ptr + n) s

/-! ### Messages with a tie -/

/-- What the sender counts when a whole message that holds no buffer has been acknowledged: a report (R174) or a quarantine
notice (R238) delivered. -/
def countDelivered (t : Tie) (s : State) : State :=
  match t with
  | .report l h t =>
    modHalf l h (fun x => if x.tally.trip = t then
      { x with tally := { x.tally with undelivered := x.tally.undelivered - 1 } } else x) s
  | .quarantine => { s with quarUndelivered := s.quarUndelivered - 1 }
  | _ => s

/-- What the sender does when a whole message has been acknowledged: it releases the record's buffer (R247, R253), or counts
the message delivered. -/
def settle (t : Tie) (s : State) : State :=
  match t with
  | .buffer p ptr => release p ptr s
  | _ => countDelivered t s

/-- A consumer has taken a message of VC2 or VC3 (R328): its landing units return through FREED. DEDUCED (log entry 19): the ACK
that carries them goes out under the timer of R326. -/
def passLanded (src len : Nat) (s : State) : State :=
  match s.fep.landed.find? (fun x => x.src = src && x.len = len) with
  | none => s
  | some x => { s with fep := { s.fep with
      landed := s.fep.landed.erase x
      rx := s.fep.rx.map (fun f => if f.src = src && f.lc = x.lc then
        { f with freed := (f.freed + x.units) % 2 ^ 24, dueTick := some (f.dueTick.getD s.tb) } else f) } }

/-- Send a message; one that ends at once is settled at once. -/
def send (m : Message) (s : State) : State := if endsHere s m then settle m.tie (post m s) else post m s

/-- Send a message that holds no buffer. -/
def sendCounted (m : Message) (s : State) : State := if endsHere s m then countDelivered m.tie (post m s) else post m s

/-- Send the same payload to several chips, each counted when it is delivered. -/
def sendAll (dsts : List Nat) (lc kind : Nat) (payload : Bytes) (tie : Tie) (s : State) : State :=
  dsts.foldl (fun s d => sendCounted ⟨d, lc, kind, s.stepNum, payload, tie, 0, none⟩ s) s

/-- Whether a step runs on the chip and has not aborted on it. -/
def stepLive (s : State) : Bool :=
  match s.run with
  | some r => r.abortCode = 0
  | none => false

/-- CANCEL (R265): while a step runs that has not aborted, it aborts with E_CANCELLED, and the generation is raised with
it; ignored otherwise. -/
def cancel (s : State) : State := if stepLive s then raiseAborts uReg 0x1A s else s

/-- CANCEL. -/
def execCancel (s : State) : Host.Outcome State Fault Refusal := .next (cancel s)

/-- FREE_ORPHANS (R267): every orphan of the chip is freed: each OUT entry's group reference is released and every orphan
table's buffers are freed. -/
def freeOrphans (s : State) : State :=
  let s1 := s.orphans.foldl (fun s t =>
    freeAll t.bufs (t.entries.foldl (fun s e => if e.2.state == .out then release e.2.pool e.2.ptr s else s) s)) s
  { s1 with orphans := [] }

/-- FREE_ORPHANS. -/
def execFreeOrphans (s : State) : Host.Outcome State Fault Refusal := .next (freeOrphans s)

end Sys2Proof.Machine
end

