-- ==== Sys2Proof/Machine/Ecc.lean ====
section
/-! DEFINITION. ECDSA and ECDH on P-384 with SHA-384 (R48, R338, R395 to R398) and RFC 6979 nonces (R395).
The manual names these published standards: PRESUMED (log entry 9). -/
namespace Sys2Proof.Machine
open Sys2Proof

/-- The field prime of P-384. -/
def p384 : Nat := 2 ^ 384 - 2 ^ 128 - 2 ^ 96 + 2 ^ 32 - 1

/-- The order `n` of P-384 (R395). -/
def n384 : Nat :=
  0xffffffffffffffffffffffffffffffffffffffffffffffffc7634d81f4372ddf581a0db248b0a77aecec196accc52973

/-- The curve coefficient b. -/
def b384 : Nat :=
  0xb3312fa7e23ee7e4988e056be3f82d19181d9c6efe8141120314088f5013875ac656398d8a2ed19d2a85c8edd3ec2aef

/-- Modular exponentiation over `k` exponent bits. -/
def powMod (m b : Nat) : Nat → Nat → Nat → Nat
  | 0, _, acc => acc
  | k + 1, e, acc =>
    let acc2 := acc * acc % m
    powMod m b k e (if e.testBit k then acc2 * b % m else acc2)

/-- The inverse modulo a prime, by Fermat. -/
def invMod (m a : Nat) : Nat := powMod m (a % m) 384 (m - 2) 1

/-- A Jacobian point: `z = 0` is the point at infinity. -/
structure JPoint where
  x : Nat
  y : Nat
  z : Nat
deriving DecidableEq, Repr

/-- The base point. -/
def g384 : JPoint :=
  ⟨0xaa87ca22be8b05378eb1c71ef320ad746e1d3b628ba79b9859f741e082542a385502f25dbf55296c3a545e3872760ab7,
   0x3617de4a96262c6f5d9e98bf9292dc29f8f41dbd289a147ce9da3113b5f0b8c00a60b1ce1d7e819d7a431d7c90ea0e5f, 1⟩

/-- Subtraction modulo the field prime. -/
def subP (a b : Nat) : Nat := (a + p384 - b % p384) % p384

/-- Point doubling with coefficient −3. -/
def JPoint.dbl (q : JPoint) : JPoint :=
  if q.z = 0 ∨ q.y = 0 then ⟨1, 1, 0⟩ else
    let d := q.z * q.z % p384
    let g := q.y * q.y % p384
    let b := q.x * g % p384
    let al := 3 * subP q.x d * (q.x + d) % p384
    let x3 := subP (al * al % p384) (8 * b)
    let z3 := subP (subP ((q.y + q.z) * (q.y + q.z) % p384) g) d
    let y3 := subP (al * subP (4 * b) x3 % p384) (8 * (g * g % p384))
    ⟨x3, y3, z3⟩

/-- Point addition. -/
def JPoint.add (p q : JPoint) : JPoint :=
  if p.z = 0 then q else if q.z = 0 then p else
    let z1 := p.z * p.z % p384
    let z2 := q.z * q.z % p384
    let u1 := p.x * z2 % p384
    let u2 := q.x * z1 % p384
    let s1 := p.y * q.z % p384 * z2 % p384
    let s2 := q.y * p.z % p384 * z1 % p384
    if u1 = u2 then (if s1 = s2 then p.dbl else ⟨1, 1, 0⟩) else
      let h := subP u2 u1
      let r := subP s2 s1
      let h2 := h * h % p384
      let h3 := h * h2 % p384
      let v := u1 * h2 % p384
      let x3 := subP (subP (r * r % p384) h3) (2 * v)
      ⟨x3, subP (r * subP v x3 % p384) (s1 * h3), h * p.z % p384 * q.z % p384⟩

/-- Scalar multiplication over the `k` low bits of the scalar. -/
def JPoint.mul (q : JPoint) : Nat → Nat → JPoint → JPoint
  | 0, _, acc => acc
  | k + 1, e, acc =>
    let a2 := acc.dbl
    q.mul k e (if e.testBit k then a2.add q else a2)

/-- `e` times a point. -/
def JPoint.smul (e : Nat) (q : JPoint) : JPoint := q.mul 384 e ⟨1, 1, 0⟩

/-- Affine coordinates. -/
def JPoint.affine (q : JPoint) : Option (Nat × Nat) :=
  if q.z = 0 then none else
    let zi := invMod p384 q.z
    let z2 := zi * zi % p384
    some (q.x * z2 % p384, q.y * (z2 * zi % p384) % p384)

/-- Whether a pair is a valid point of P-384 (R397). -/
def onCurve (x y : Nat) : Bool :=
  x < p384 && y < p384 && (y * y % p384 == (x * x % p384 * x + (p384 - 3) * x + b384) % p384)

/-- An uncompressed point of 97 bytes (R48). -/
def pointOfBytes (bs : List Byte) : Option (Nat × Nat) :=
  if bs.length = 97 ∧ bs.head? = some 0x04#8 then
    let x := beNat (bytesAt bs 1 48)
    let y := beNat (bytesAt bs 49 48)
    if onCurve x y then some (x, y) else none
  else none

/-- The uncompressed form of a point. -/
def pointBytes (p : Nat × Nat) : List Byte := 0x04#8 :: (beBytes 48 p.1 ++ beBytes 48 p.2)

/-- A point in SEC1 compressed form, 49 bytes (R398). -/
def pointOfCompressed (bs : List Byte) : Option (Nat × Nat) :=
  let t := leAt bs 0 1
  let x := beNat (bytesAt bs 1 48)
  if bs.length ≠ 49 ∨ (t ≠ 2 ∧ t ≠ 3) ∨ ¬ x < p384 then none else
    let y0 := powMod p384 ((x * x % p384 * x + (p384 - 3) * x + b384) % p384) 383 ((p384 + 1) / 4) 1
    let y := if y0 % 2 = t % 2 then y0 else (p384 - y0) % p384
    if onCurve x y then some (x, y) else none

/-- ECDSA verification of a 96-byte signature (r then s) over a 48-byte digest (R48, R397). -/
def ecdsaVerify (pub : Nat × Nat) (digest sig : List Byte) : Bool :=
  let r := beNat (bytesAt sig 0 48)
  let s := beNat (bytesAt sig 48 48)
  if sig.length ≠ 96 ∨ r = 0 ∨ s = 0 ∨ ¬ r < n384 ∨ ¬ s < n384 ∨ ¬ onCurve pub.1 pub.2 then false else
    let w := invMod n384 s
    let u1 := beNat digest * w % n384
    let u2 := r * w % n384
    match ((g384.smul u1).add (JPoint.smul u2 ⟨pub.1, pub.2, 1⟩)).affine with
    | some (x, _) => x % n384 == r
    | none => false

/-- The candidate nonces of RFC 6979 with SHA-384, until one lies in range. -/
def rfc6979Loop : Nat → List Byte → List Byte → Nat
  | 0, _, _ => 1
  | fuel + 1, k, v =>
    let v1 := hmac384 k v
    let c := beNat v1
    if 0 < c ∧ c < n384 then c else
      let k2 := hmac384 k (v1 ++ [0#8])
      rfc6979Loop fuel k2 (hmac384 k2 v1)

/-- The deterministic nonce of RFC 6979. -/
def rfc6979 (d : Nat) (digest : List Byte) : Nat :=
  let h1 := beBytes 48 (beNat digest % n384)
  let x := beBytes 48 d
  let v0 := List.replicate 48 0x01#8
  let k0 := List.replicate 48 0x00#8
  let k1 := hmac384 k0 (v0 ++ [0#8] ++ x ++ h1)
  let v1 := hmac384 k1 v0
  let k2 := hmac384 k1 (v1 ++ [1#8] ++ x ++ h1)
  rfc6979Loop 16 k2 (hmac384 k2 v1)

/-- A device-key signature over a 48-byte digest: r then s (R395). -/
def ecdsaSign (d : Nat) (digest : List Byte) : List Byte :=
  let k := rfc6979 d digest
  let r := match (g384.smul k).affine with
    | some (x, _) => x % n384
    | none => 0
  let s := invMod n384 k * (beNat digest + r * d) % n384
  beBytes 48 r ++ beBytes 48 s

/-- The public point of a private scalar. -/
def publicOf (d : Nat) : Nat × Nat := ((g384.smul d).affine).getD (0, 0)

/-- The x-coordinate of the ECDH shared secret (R404). -/
def ecdhX (d : Nat) (pub : Nat × Nat) : List Byte :=
  match (JPoint.smul d ⟨pub.1, pub.2, 1⟩).affine with
  | some (x, _) => beBytes 48 x
  | none => List.replicate 48 0#8

/-- The private scalar from 56 bytes (R395). -/
def scalarOf (c : List Byte) : Nat := beNat c % (n384 - 1) + 1

end Sys2Proof.Machine
end

