-- ==== Sys2Proof/Machine/Secure.lean ====
section
/-! DEFINITION. The security functions (R392 to R414): lifecycle, randomness, key list, certificates, tokens, and the
commands of SEC_CTRL, of the debug lock and of the noise source. -/
namespace Sys2Proof.Machine
open Sys2Proof

/-! ### Gates and refusals -/

/-- A privileged register's write (R68): without the privilege bit it is ignored and E_PRIV is recorded in the unit. -/
def privGate (unit : Nat) (priv : Bool) (k : State → State) (s : State) : State := if priv then k s else record unit 0x02 s

/-- A verification that fails (R397): counted, and object and reason are shown in SEC_VERIFY_LAST. -/
def verifyFail (object reason : Nat) (s : State) : State :=
  let s1 := s.bump 0x200074 1
  { s1 with sec := { s1.sec with lastObject := object, lastReason := reason } }

/-! ### Lifecycle (R393) -/

/-- OWNER_ROOT is set. -/
def ownerSet (s : State) : Bool := !allZero s.fuses.ownerRoot

/-- The lifecycle code of R393: UNOWNED 0, OWNED 1, SEALED 2, KILLED 3. -/
def lifecycle (s : State) : Nat :=
  match ownerSet s, s.fuses.kill with
  | false, false => 0
  | true, false => 1
  | true, true => 2
  | false, true => 3

/-- OWNED. -/
def isOwned (s : State) : Bool := ownerSet s && !s.fuses.kill

/-- Plats and key lists can be authenticated: OWNED or SEALED. -/
def authState (s : State) : Bool := ownerSet s

/-- The open debug scope (R393, R411, R412): full when UNOWNED, the accepted tokens' SCOPE otherwise, none when DEBUG_KILL
reads blown. -/
def debugScope (s : State) : Nat :=
  if s.fuses.kill || !s.fuses.read then 0
  else if !ownerSet s then 7
  else s.sec.scope.getD 0

/-- Debug is open. -/
def debugOpen (s : State) : Bool := s.fuses.read && !s.fuses.kill && (!ownerSet s || s.sec.scope.isSome)

/-! ### Randomness (R394) -/

/-- Draw `n` bytes, at most 64, from the DRBG: a free value. -/
def drbg (n : Nat) (s : State) : Bytes × State :=
  let f := s.fresh
  (leBytes n (Config.drbgDraw f.1).toNat, { f.2 with sec := { f.2.sec with drbgRequests := s.sec.drbgRequests + 1 } })

/-- DRBG_RESEED (R394): due after 2^20 requests; without effect before, or once the DRBG has stopped. -/
def drbgReseed (s : State) : State :=
  if s.sec.drbgOn && 2 ^ 20 ≤ s.sec.drbgRequests then { s with sec := { s.sec with drbgRequests := 0 } } else s

/-- DRBG_RESEED. -/
def execDrbgReseed (s : State) : Host.Outcome State Fault Refusal := .next (drbgReseed s)

/-- ENTROPY_FAIL (R394): the DRBG stops and E_SEC_ENTROPY is raised. -/
def entropyFail (s : State) : State :=
  if s.sec.drbgOn then securityCode uSec 0x65 { s with sec := { s.sec with drbgOn := false } } else s

/-- ENTROPY_FAIL. -/
def execEntropyFail (s : State) : Host.Outcome State Fault Refusal := .next (entropyFail s)

/-! ### Keys and certificates -/

/-- The entry of a role and index of the list in force, and whether it is revoked (R399). -/
def keyEntry (s : State) (role index : Nat) : Option (KeyEntry × Bool) :=
  match s.sec.keyList with
  | none => none
  | some kl => (kl.entries.find? (fun e => e.role = role && e.index = index)).map
      (fun e => (e, s.fuses.revoke.getLsbD index))

/-- The point of an entry's compressed key. -/
def KeyEntry.point (e : KeyEntry) : Option (Nat × Nat) := pointOfCompressed e.key

/-- Verify a signature under a public key given as bytes (R397): an invalid point fails. -/
def verifyBytes (pub digest sig : Bytes) : Bool :=
  match pointOfBytes pub with
  | some p => ecdsaVerify p digest sig
  | none => false

/-- The format of a certificate of a kind (R402). -/
def certFormat (kind : Nat) (c : Bytes) : Bool :=
  c.length = 320 && leAt c 0 4 = 0x54524344 && leAt c 4 2 = 1 && leAt c 6 1 = kind && leAt c 7 1 = 0 &&
    allZero (bytesAt c 0x71 7) && allZero (bytesAt c 0xD9 7)

/-- The fields of a certificate (R402). -/
def certSerial (c : Bytes) : Nat := leAt c 8 8
def certSubject (c : Bytes) : Bytes := bytesAt c 0x10 97
def certIssuer (c : Bytes) : Bytes := bytesAt c 0x78 97
def certSig (c : Bytes) : Bytes := bytesAt c 0xE0 96

/-- A certificate's signature verifies under its issuer key (R402). -/
def certSigned (c : Bytes) : Bool := verifyBytes (certIssuer c) (sha384 (c.take 0xE0)) (certSig c)

/-- The device public key, uncompressed (R395). -/
def devPublic (s : State) : Bytes :=
  match s.devKey with
  | some k => pointBytes (k.x, k.y)
  | none => []

/-- The device key pair derived from a seed (R395). -/
def deriveDevKey (seed : Bytes) : DevKey :=
  let d := scalarOf (hkdfExpand (hkdfExtract [] seed) (ascii "spaum device key") 56)
  let p := publicOf d
  ⟨d, p.1, p.2⟩

/-- The reason a chip certificate fails (R403), zero when it is accepted: format 1, serial 6, key not found 3, root
mismatch 4, signature 5. -/
def certReason (s : State) (c : Bytes) : Nat :=
  if !certFormat 1 c then 1
  else if certSerial c ≠ s.fuses.device.toNat then 6
  else if s.devKey.isNone || certSubject c ≠ devPublic s then 3
  else if sha384 (certIssuer c) ≠ s.fuses.mfgRoot then 4
  else if !certSigned c then 5
  else 0

/-- CERT_LOAD (R403): refused while any port is in KEYING or RETRAIN. -/
def certLoad (s : State) : State :=
  if s.ports.any (fun p => p.state == .keying || p.state == .retrain) then record uSec 0x03 s
  else { s with sec := { s.sec with certLoad := some (s.addr64 0x200030 0x200034) } }

/-- CERT_LOAD. -/
def execCertLoad (priv : Bool) (s : State) : Host.Outcome State Fault Refusal := .next (privGate uSec priv certLoad s)

/-- CERT_CHECK_DONE (R403): the certificate is accepted, or rejected with E_SEC_CERT. -/
def certCheckDone (env : MemEnv) (s0 : State) : State :=
  let s := withEnv env s0
  match s.sec.certLoad with
  | none => s
  | some a =>
    let c := memBytes s.mem a 320
    let r := if badLine env a 320 then 1 else certReason s c
    let s1 := { s with sec := { s.sec with certLoad := none } }
    if r = 0 then { s1 with sec := { s1.sec with cert := some c } }
    else securityCode uSec 0x64 (verifyFail 3 r s1)

/-- CERT_CHECK_DONE. -/
def execCertCheckDone (env : MemEnv) (s : State) : Host.Outcome State Fault Refusal := .next (certCheckDone env s)

/-! ### Key lists (R398, R399) -/

/-- The entries of a key list. -/
def klEntries (b : Bytes) : List KeyEntry :=
  (List.range (leAt b 6 1)).map (fun i =>
    let o := 0x10 + 64 * i
    ⟨leAt b o 1, leAt b (o + 1) 1, bytesAt b (o + 0xF) 49⟩)

/-- The length and fields of a key list meet R398. -/
def klFormat (b : Bytes) : Bool :=
  let n := leAt b 6 1
  let es := klEntries b
  b.length = 216 + 64 * n && leAt b 0 4 = 0x54534C4B && leAt b 4 2 = 1 && 1 ≤ n && n ≤ 15 && leAt b 7 1 = 0 &&
    leAt b 0xC 4 = 0 && allZero (bytesAt b (0x10 + 64 * n + 97) 7) &&
    (List.range n).all (fun i => allZero (bytesAt b (0x10 + 64 * i + 2) 13)) &&
    es.all (fun e => 1 ≤ e.role && e.role ≤ 3 && 1 ≤ e.index && e.index ≤ 15) &&
    es.all (fun e => (es.filter (fun f => f.index = e.index)).length = 1)

/-- The reason a key list is rejected (R399), zero when it is accepted. -/
def klReason (s : State) (b : Bytes) : Nat :=
  let n := leAt b 6 1
  let root := bytesAt b (0x10 + 64 * n) 97
  if !klFormat b then 1
  else if !authState s || sha384 root ≠ s.fuses.ownerRoot then 4
  else if !verifyBytes root (sha384 (b.take (b.length - 96))) (b.drop (b.length - 96)) then 5
  else match s.sec.keyList with
    | some kl => if leAt b 8 4 < kl.serial then 6 else 0
    | none => 0

/-- KL_LOAD (R399): refused while a load is in progress. -/
def klLoad (s : State) : State :=
  if s.sec.klLoad.isSome || s.sec.certLoad.isSome then record uSec 0x03 s
  else { s with sec := { s.sec with klLoad := some (s.addr64 0x200010 0x200014, s.field 0x200018 10 0) } }

/-- KL_LOAD. -/
def execKlLoad (priv : Bool) (s : State) : Host.Outcome State Fault Refusal := .next (privGate uSec priv klLoad s)

/-- KEYLIST_CHECK_DONE (R399): the list replaces the list in force, or is rejected with E_KEYLIST. -/
def keylistCheckDone (env : MemEnv) (s0 : State) : State :=
  let s := withEnv env s0
  match s.sec.klLoad with
  | none => s
  | some (a, n) =>
    let b := memBytes s.mem a n
    let r := if badLine env a n then 1 else klReason s b
    let s1 := { s with sec := { s.sec with klLoad := none } }
    if r = 0 then { s1 with sec := { s1.sec with keyList := some ⟨leAt b 8 4, klEntries b⟩ } }
    else securityCode uSec 0x61 (verifyFail 2 r s1)

/-- KEYLIST_CHECK_DONE. -/
def execKeylistCheckDone (env : MemEnv) (s : State) : Host.Outcome State Fault Refusal := .next (keylistCheckDone env s)

/-! ### The debug lock (R409 to R412) -/

/-- A challenge draw (R411, R394): refused once the DRBG has stopped. -/
def drawChallenge (s : State) : State :=
  if s.sec.drbgOn then
    let r := drbg 16 s
    { r.2 with sec := { r.2.sec with challenge := some r.1 } }
  else s

/-- CHAL_NEW. -/
def execChalNew (priv : Bool) (s : State) : Host.Outcome State Fault Refusal := .next (privGate uSec priv drawChallenge s)

/-- A delivery (R411): refused with E_BUSY while another is being verified; otherwise it uses up the challenge. -/
def deliver (src : TokenSrc) (s : State) : State :=
  if s.sec.tokenLoad.isSome then record uSec 0x03 s
  else { s with sec := { s.sec with tokenLoad := some src, tokenChallenge := s.sec.challenge, challenge := none } }

/-- TOKEN_LOAD. -/
def execTokenLoad (priv : Bool) (s : State) : Host.Outcome State Fault Refusal :=
  .next (privGate uSec priv (fun s => deliver (.memory (s.addr64 0x200040 0x200044)) s) s)

/-- The format of a token (R410). -/
def tokenFormat (t : Bytes) : Bool :=
  t.length = 128 && leAt t 0 4 = 0x54474244 && leAt t 4 2 = 1 && 1 ≤ leAt t 6 1 && leAt t 6 1 ≤ 15 && leAt t 7 1 < 8

/-- Conditions 1 and 2 of R411. -/
def tokenAllowed (s : State) : Bool :=
  isOwned s && s.sec.fails < 8 && s.ports.all (fun p => p.state == .down || p.state == .loopback) &&
    s.ldr.stage == .empty && s.ldr.active.isNone

/-- The reason a token fails conditions 3 to 5 of R411, zero when it meets them. -/
def tokenReason (s : State) (t : Bytes) : Nat :=
  if !tokenFormat t then 1
  else if leAt t 8 8 ≠ s.fuses.device.toNat || s.sec.tokenChallenge ≠ some (bytesAt t 0x10 16) then 6
  else match keyEntry s 3 (leAt t 6 1) with
    | none => 3
    | some (_, true) => 2
    | some (e, false) =>
      match e.point with
      | none => 5
      | some p => if ecdsaVerify p (sha384 (t.take 0x20)) (t.drop 0x20) then 0 else 5

/-- A failed delivery (R411): E_DEBUG_TOKEN, and SEC_DBG_FAIL rises to at most 8. -/
def tokenFail (s : State) : State :=
  securityCode uSec 0x67 { s with sec := { s.sec with fails := min 8 (s.sec.fails + 1) } }

/-- TOKEN_CHECK_DONE (R411): debug opens with the token's SCOPE, or the delivery fails. -/
def tokenCheckDone (env : MemEnv) (s0 : State) : State :=
  let s := withEnv env s0
  match s.sec.tokenLoad with
  | none => s
  | some src =>
    let t := match src with | .memory a => memBytes s.mem a 128 | .tap b => b
    let bad := match src with | .memory a => badLine env a 128 | .tap _ => false
    let s1 := { s with sec := { s.sec with tokenLoad := none, tokenChallenge := none } }
    if !tokenAllowed s then tokenFail s1
    else
      let r := if bad then 1 else tokenReason s t
      if r = 0 then { s1 with sec := { s1.sec with scope := some (s.sec.scope.getD 0 ||| leAt t 7 1) } }
      else tokenFail (verifyFail 6 r s1)

/-- TOKEN_CHECK_DONE. -/
def execTokenCheckDone (env : MemEnv) (s : State) : Host.Outcome State Fault Refusal := .next (tokenCheckDone env s)

end Sys2Proof.Machine
end

