-- ==== Sys2Proof/Machine/Link.lean ====
section
/-! DEFINITION. Ports and links (R307 to R319, R337 to R340, R402 to R406): port states, keying and rekey, and the frames
a port receives. -/
namespace Sys2Proof.Machine
open Sys2Proof

/-- The link channel codes of R314, in ascending order. -/
def lcCodes : List Nat := [0x0, 0x2, 0x4, 0x5, 0x6, 0x7, 0x8, 0xA, 0xC]

/-- The place of a link channel in the order of `lcCodes`; 9 when the code is illegal. -/
def lcIx (lc : Nat) : Nat := (lcCodes.findIdx? (· = lc)).getD 9

/-- STATE of PORTn_STATUS (R312). -/
def PortState.code : PortState → Nat
  | .down => 0
  | .train => 1
  | .keying => 2
  | .up => 3
  | .retrain => 4
  | .failed => 5
  | .loopback => 6

/-- A port by number. -/
def portAt (s : State) (n : Nat) : Port := s.ports.getD n Port.reset

/-- Change a port. -/
def modPort (n : Nat) (f : Port → Port) (s : State) : State := { s with ports := modifyAt f n s.ports }

/-- How many ports a bonding mode joins (R311). -/
def bondWidth (mode : Nat) : Nat := if mode = 1 then 2 else if mode = 2 then 4 else 1

/-- A port in LOOPBACK stands alone, whatever the mode of its group. -/
def alone (s : State) (n : Nat) : Bool := (portAt s n).state == .loopback

/-- The lowest port of the link a port belongs to. -/
def leadOf (s : State) (n : Nat) : Nat := if alone s n then n else n - n % bondWidth (portAt s n).bonded

/-- The places of a link. -/
def placesOf (s : State) (n : Nat) : List Nat := (List.range (bondWidth (portAt s n).bonded)).map (leadOf s n + ·)

/-- The ports of a link. -/
def linkOf (s : State) (n : Nat) : List Nat := if alone s n then [n] else (placesOf s n).filter (fun p => !alone s p)

/-- The ports in state UP, and the links that are UP by their lowest port. -/
def portsUp (s : State) : List Nat := (List.range 24).filter (fun n => (portAt s n).state == .up)
def linksUp (s : State) : List Nat := (portsUp s).filter (fun n => leadOf s n = n)

/-- The frames of the 1,024 of a port's receive buffer that a link channel has (R53, R314, R315), which the switch holds as
credits at first: shares of 16 frames under the active plat, else the default split; of VC2 and VC3 the first-hop LC has the
larger half of the shares (DEDUCED, log entry 16). -/
def rxShare (s : State) (lc : Nat) : Nat :=
  let v := ((s.ldr.active.map (·.channels)).getD Config.defaultChannels).getD (lc / 2) 0
  16 * (if lc = 4 || lc = 6 then ceilDiv v 2 else if lc = 5 || lc = 7 then v / 2 else v)

/-- PORTn_CTRL.DISABLE. -/
def portDisabled (s : State) (n : Nat) : Bool := s.field (uPort n) 0 0 = 1

/-! ### Transmit flows -/

/-- The flow of a destination and link channel. -/
def txFlow (s : State) (dst lc : Nat) : Option TxFlow := s.fep.tx.find? (fun f => f.dst = dst && f.lc = lc)

/-- Change a flow. -/
def modTx (dst lc : Nat) (f : TxFlow → TxFlow) (s : State) : State :=
  { s with fep := { s.fep with tx := s.fep.tx.map (fun x => if x.dst = dst && x.lc = lc then f x else x) } }

/-- DST, LC and PSN of a packet (R320). -/
def pktDst (b : Bytes) : Nat := bits (leAt b 2 2) 13 0
def pktLc (b : Bytes) : Nat := bits (leAt b 4 1) 3 0
def pktPsn (b : Bytes) : Nat := leAt b 8 3

/-- A packet that a port has not yet sent waits for another port (R319, R325). -/
def unplace (b : Bytes) (s : State) : State :=
  modTx (pktDst b) (pktLc b) (fun f => { f with packets := f.packets.map (fun p =>
    if p.psn = pktPsn b then { p with avoid := p.port, port := none } else p) }) s

/-- Take the packets that wait at a port away from it. -/
def clearPackets (n : Nat) (s : State) : State :=
  (portAt s n).packets.foldl (fun s x => unplace x.2 s) (modPort n (fun q => { q with packets := [] }) s)

/-! ### State changes -/

/-- When no port is left UP, the time of R422's isolation starts. -/
def noteIsolation (s : State) : State :=
  if (portsUp s).isEmpty then { s with fep := { s.fep with noPortSince := some (s.fep.noPortSince.getD s.tb) } }
  else { s with fep := { s.fep with noPortSince := none } }

/-- CCE_ISR follows what the rack switch has advertised on the ports that are UP (R290). DEDUCED (log entry 17): of several
adverts the largest stands. -/
def noteSlots (s : State) : State :=
  { s with cce := { s.cce with slots := maxNat ((portsUp s).map (fun n => (portAt s n).slots)) } }

/-- D of R333. -/
def throttleD (s : State) : Nat :=
  let up := linksUp s
  if (portsUp s).isEmpty then 0
  else sumNat (up.map (fun n => ((portAt s n).packets.filter (fun x => x.1 = 0 || x.1 = 4 || x.1 = 8)).length)) /
    (portsUp s).length

/-- The live thresholds of R333. -/
def thresholds (s : State) : List Nat := [0xC0060, 0xC0064, 0xC0068, 0xC006C].map (fun a => s.live a 12 0)

/-- The throttle step rises at once when D reaches the next threshold (R333). -/
def throttleRise (s : State) : State :=
  let n := ((thresholds s).filter (fun t => t ≤ throttleD s)).length
  if s.fep.throttle < n then traceEvent 2 0x03 n { s with fep := { s.fep with throttle := n } } else s

/-- What follows the ports that are UP: R422's isolation, CCE_ISR, and D. -/
def notePorts (s : State) : State := throttleRise (noteSlots (noteIsolation s))

/-- Move a link to a state (R312): each port's change is traced; an entry into FAILED and a departure from UP raise
E_LINK_DOWN and send a PORT notice. A security code that goes with the change is recorded and noticed in its place
(R434). -/
def setState (n : Nat) (st : PortState) (sec : Option Nat) (s : State) : State :=
  let was := (portAt s n).state
  let link := linkOf s n
  let s1 := link.foldl (fun s p => traceEvent 3 0x01 (p + st.code * 256)
    (modPort p (fun q => { q with state := st, since := s.tb }) s)) s
  let s2 := if was == .up || st == .up then notePorts s1 else s1
  let tell := st == .failed || (was == .up && st != .up)
  let s3 := if tell then
    link.foldl (fun s p => notice 0x07 0x40 (uPort p / 4096) (p * 2 ^ 16 + st.code) s) s2 else s2
  let s4 := match sec with
    | some c => securityCode (uPort (leadOf s n)) c s3
    | none => s3
  if tell then link.foldl (fun s p => countFault (uPort p) 0x40 s) s4 else s4

/-- Link keys and ephemeral keys are erased (R406). -/
def eraseKeys (q : Port) : Port :=
  { q with tx := none, rx := none, rxNext := none, keying := none, idleOnly := false, authFails := 0, rekeyOut := [],
           rekeyIn := [], kph := false, rxKph := false }

/-- The link as it stands after it has been taken down: no frames, no credits, no keys. -/
def coldPort (q : Port) : Port :=
  { Port.reset with state := q.state, since := q.since, bonded := q.bonded, retrains := q.retrains, packets := q.packets }

/-- Take a link down to DOWN or FAILED: keys are erased and waiting packets go to other ports. -/
def dropLink (n : Nat) (st : PortState) (sec : Option Nat) (s : State) : State :=
  let link := linkOf s n
  let s1 := link.foldl (fun s p => modPort p coldPort (clearPackets p s)) s
  setState n st sec s1

/-- What waits through a RETRAIN (R319): the sequence in force and its unacknowledged frames stand aside, and the keying that
ends the RETRAIN runs its REKEY frames in a sequence of its own, as at KEYING (R337; log entry 14). -/
def setAside (q : Port) : Port :=
  { q with aside := some (q.fseq, q.rxSeq, q.kept), fseq := 0, rxSeq := 0, kept := [], replay := [], replays := 0,
           nakDue := false, nakArmed := true }

/-- The sequence that stood aside is in force again, and its frames are sent again (R319). -/
def takeUp (q : Port) : Port :=
  match q.aside with
  | some x => { q with aside := none, fseq := x.1, rxSeq := x.2.1, kept := x.2.2, replay := x.2.2.map (·.fseq) }
  | none => q

/-- Move a link to RETRAIN (R312, R319, R339): its unacknowledged frames wait; after 3 retrains within 10^9 ticks it
moves to FAILED. -/
def toRetrain (n : Nat) (sec : Option Nat) (s : State) : State :=
  let l := leadOf s n
  let link := linkOf s n
  let s1 := link.foldl (fun s p => (modPort p (fun q =>
      { setAside (eraseKeys q) with trained := false, lanes := 0, dealNext := 0
                                    retrains := (q.retrains.filter (fun t => s.tb < t + 10 ^ 9)) ++ [s.tb] }) (clearPackets p s)).bump16
      (uPort p + 0x20) 1) s
  let s2 := setState n .retrain sec s1
  if 3 ≤ (portAt s2 l).retrains.length then dropLink n .failed none s2 else s2

/-! ### Leaving DOWN -/

/-- Whether a port may leave DOWN for TRAIN (R312, R393, R412, R438, R448, R454). -/
def mayTrain (s : State) (n : Nat) : Bool :=
  !portDisabled s n && !debugOpen s && authState s && racks s ≠ 0 && !s.clk.holdover &&
    (s.boot.stage == .links || s.boot.stage == .calibrate || s.boot.stage == .ready || s.boot.stage == .running)

/-- The bonding mode FEP_BOND gives a port's group (R311). -/
def bondMode (s : State) (n : Nat) : Nat := s.field 0xC0010 (2 * (n / 4) + 1) (2 * (n / 4))

/-- The ports of a bonding group (R311). -/
def groupPorts (n : Nat) : List Nat := (List.range 4).map (n / 4 * 4 + ·)

/-- A port runs no link: DOWN, FAILED or LOOPBACK. -/
def idlePort (q : Port) : Bool := q.state == .down || q.state == .failed || q.state == .loopback

/-- FEP_BOND takes hold at the next TRAIN of the group (R341). DEDUCED (log entry 18): when a port of it enters TRAIN while
none of the group runs a link; a port that joins others of its group takes the mode in use. -/
def latchBond (n : Nat) (s : State) : State :=
  if (groupPorts n).all (fun p => idlePort (portAt s p)) then
    (groupPorts n).foldl (fun t p => modPort p (fun q => { q with bonded := bondMode s n }) t) s
  else s

/-- Enter TRAIN from DOWN: the bonding mode takes hold (R311, R341). -/
def enterTrain (n : Nat) (s : State) : State :=
  if (portAt s n).state == .down && mayTrain s n then
    traceEvent 3 0x01 (n + 256) (modPort n (fun q => { coldPort q with state := .train, since := s.tb }) (latchBond n s))
  else s

/-- SIGNAL_PRESENT (R312): signal on all 8 lanes moves a DOWN port to TRAIN. -/
def execSignalPresent (port : Nat) (s : State) : Host.Outcome State Fault Refusal := .next (enterTrain port s)

/-- LOSS_OF_SIGNAL (R312): a port in TRAIN, KEYING, UP or RETRAIN moves to DOWN. -/
def lossOfSignal (n : Nat) (s : State) : State :=
  match (portAt s n).state with
  | .train => dropLink n .down none s
  | .keying => dropLink n .down none s
  | .up => dropLink n .down none s
  | .retrain => dropLink n .down none s
  | _ => s

/-- LOSS_OF_SIGNAL. -/
def execLossOfSignal (port : Nat) (s : State) : Host.Outcome State Fault Refusal := .next (lossOfSignal port s)

/-- DISABLE (R312): setting it holds the port in DOWN; a FAILED port leaves FAILED only by RETRAIN. -/
def disable (n : Nat) (on : Bool) (s : State) : State :=
  if 24 ≤ n then s
  else
    let s1 := s.setField (uPort n) 0 0 (b2n on)
    match (portAt s n).state with
    | .down => s1
    | .failed => s1
    | _ => if on then dropLink n .down none s1 else s1

/-- DISABLE. -/
def execDisable (port : Nat) (on : Bool) (s : State) : Host.Outcome State Fault Refusal := .next (disable port on s)

/-- RETRAIN (R312): a FAILED port moves to DOWN, an UP port to RETRAIN. -/
def retrain (n : Nat) (s : State) : State :=
  match (portAt s n).state with
  | .failed => dropLink n .down none s
  | .up => toRetrain n none s
  | _ => s

/-- RETRAIN. -/
def execRetrain (port : Nat) (s : State) : Host.Outcome State Fault Refusal := .next (retrain port s)

/-- A port moves to LOOPBACK, alone (R312). -/
def enterLoopback (n : Nat) (s : State) : State :=
  traceEvent 3 0x01 (n + PortState.loopback.code * 256) (modPort n (fun q => { q with state := .loopback, since := s.tb }) s)

/-- LOOPBACK (R312, R405): entered from DOWN, with a key from one DRBG draw; refused its key once the DRBG has stopped. -/
def loopback (n : Nat) (on : Bool) (s : State) : State :=
  if 24 ≤ n then s
  else
    let s1 := s.setField (uPort n) 2 2 (b2n on)
    match on, (portAt s n).state with
    | true, .down =>
      if portDisabled s n || s.boot.stage == .held then s1
      else if s.sec.drbgOn then
        let r := drbg 40 s1
        let k : LinkKey := ⟨r.1.take 32, r.1.drop 32, 0⟩
        enterLoopback n (modPort n (fun q => { coldPort q with tx := some k, rx := some k }) r.2)
      else enterLoopback n (modPort n coldPort s1)
    | false, .loopback => dropLink n .down none s1
    | _, _ => s1

/-- LOOPBACK. -/
def execLoopback (port : Nat) (on : Bool) (s : State) : Host.Outcome State Fault Refusal := .next (loopback port on s)

/-- Hold every port in DOWN (R448, R438). -/
def holdPorts (s : State) : State :=
  (List.range 24).foldl (fun s n => if (portAt s n).state == .down then s else dropLink n .down none s) s

/-! ### Keying (R337, R338, R402 to R405) -/

/-- The REKEY frames of a keying message (R404). -/
def keyFrames (m : Bytes) : List KeptFrame :=
  let k := ceilDiv m.length 232
  (List.range k).map (fun i => ⟨0, 2, 0xF, i = 0, i + 1 = k, bytesAt m (232 * i) 232⟩)

/-- Draw an ephemeral key and a nonce (R338, R404): scalar, public key and nonce. -/
def ephemeral (s : State) : Nat × Bytes × Bytes × State :=
  let a := drbg 56 s
  let b := drbg 32 a.2
  let d := scalarOf a.1
  (d, pointBytes (publicOf d), b.1, b.2)

/-- Begin a keying (R404): our HELLO is sent, unless no certificate has been accepted (R403) or the DRBG has stopped
(R394). -/
def beginKeying (n : Nat) (s : State) : State :=
  let s0 := modPort n (fun q => { q with keyed := s.tb }) s
  match s.sec.cert, s.sec.drbgOn with
  | some c, true =>
    let (d, pub, nonce, s1) := ephemeral s0
    let m := 0x01#8 :: (c ++ pub ++ nonce)
    modPort n (fun q => { q with keying := some ⟨d, m, none, false, false, false, false, true⟩, rekeyOut := keyFrames m }) s1
  | _, _ => s0

/-- Whether every port of a link is in a state and has trained. -/
def linkTrained (s : State) (n : Nat) (st : PortState) : Bool :=
  (placesOf s n).all (fun p => (portAt s p).state == st && (portAt s p).trained)

/-- LANES_TRAINED (R312, R310): the lanes and the measured delay are recorded; in RETRAIN, keying begins once every lane of
the link has trained again. -/
def lanesTrained (n : Nat) (lanes : Byte) (delay : Nat) (s : State) : State :=
  let st := (portAt s n).state
  if st == .train || st == .retrain then
    let s1 := (modPort n (fun q => { q with lanes := lanes.toNat, trained := lanes == 0xFF }) s).setField
      (uPort n + 0xC) 15 0 delay
    if st == .retrain && linkTrained s1 n .retrain then beginKeying (leadOf s1 n) s1 else s1
  else s

/-- LANES_TRAINED. -/
def execLanesTrained (port : Nat) (lanes : Byte) (delay : Nat) (s : State) : Host.Outcome State Fault Refusal :=
  .next (lanesTrained port lanes delay s)

/-- KEYING_ENTER (R451): the lowest trained link enters KEYING while fewer than four ports are in KEYING. -/
def keyingEnter (n : Nat) (s : State) : State :=
  let keying := ((List.range 24).filter (fun p => (portAt s p).state == .keying)).length
  let first := (List.range 24).find? (fun p => leadOf s p = p && linkTrained s p .train)
  if first = some n && keying < 4 then beginKeying n (setState n .keying none s) else s

/-- KEYING_ENTER. -/
def execKeyingEnter (port : Nat) (s : State) : Host.Outcome State Fault Refusal := .next (keyingEnter port s)

/-- TRAIN_TIMEOUT (R312): after 10,000,000 ticks in TRAIN, the wait for a place in KEYING included (R451). -/
def trainTimeout (n : Nat) (s : State) : State :=
  let q := portAt s n
  if q.state == .train && q.since + 10000000 ≤ s.tb then dropLink n .failed none s else s

/-- TRAIN_TIMEOUT. -/
def execTrainTimeout (port : Nat) (s : State) : Host.Outcome State Fault Refusal := .next (trainTimeout port s)

/-- A port is in keying (R337): in KEYING, or in the keying that ends a RETRAIN. -/
def inKeying (q : Port) : Bool :=
  q.state == .keying || (q.state == .retrain && (match q.keying with | some k => !k.rekey | none => false))

/-- KEYING_TIMEOUT (R312): after 1,000,000 ticks of keying. -/
def keyingTimeout (n : Nat) (s : State) : State :=
  let q := portAt s n
  if (q.state == .keying || (q.state == .retrain && q.trained)) && q.keyed + 1000000 ≤ s.tb then
    dropLink n .failed none s
  else s

/-- KEYING_TIMEOUT. -/
def execKeyingTimeout (port : Nat) (s : State) : Host.Outcome State Fault Refusal := .next (keyingTimeout port s)

/-- The ephemeral public key within a HELLO (R404): after the certificate, which a rekey leaves out. -/
def helloPub (rekey : Bool) (m : Bytes) : Bytes := bytesAt m (if rekey then 1 else 321) 97

/-- The length of a HELLO (R404). -/
def helloLen (rekey : Bool) : Nat := if rekey then 130 else 450

/-- TH (R404): at a rekey it also covers the TH of the previous keying. -/
def handshakeHash (q : Port) (k : Keying) : Bytes :=
  sha384 ((if k.rekey then q.th else []) ++ k.own ++ k.peer.getD [])

/-- What a FINISH signs (R404). -/
def finishDigest (th : Bytes) : Bytes := sha384 (ascii "spaum finish" ++ th)

/-- The two directions' keys (R338): the chip's transmit key first. -/
def linkKeys (th : Bytes) (d : Nat) (peer : Nat × Nat) : LinkKey × LinkKey :=
  let prk := hkdfExtract th (ecdhX d peer)
  let t := hkdfExpand prk (ascii "spaum link tx") 40
  let r := hkdfExpand prk (ascii "spaum link rx") 40
  (⟨t.take 32, t.drop 32, 0⟩, ⟨r.take 32, r.drop 32, 0⟩)

/-- The switch fails R405: E_LINK_PEER; the port moves to FAILED, or at a rekey to RETRAIN. -/
def peerFail (n object reason : Nat) (rekey : Bool) (s : State) : State :=
  let s1 := verifyFail object reason s
  if rekey then toRetrain n (some 0x63) s1 else dropLink n .failed (some 0x63) s1

/-- The reason a switch certificate fails (R405), zero when it is accepted. -/
def switchReason (s : State) (c : Bytes) : Nat :=
  let known : List KeyEntry := match s.sec.keyList with
    | none => []
    | some kl => kl.entries.filter (fun e => e.role = 2 && e.point.isSome && e.point = pointOfBytes (certIssuer c))
  if !certFormat 2 c then 1
  else if sha384 (certIssuer c) ≠ s.fuses.mfgRoot && known.isEmpty then 4
  else if sha384 (certIssuer c) ≠ s.fuses.mfgRoot && known.all (fun e => s.fuses.revoke.getLsbD e.index) then 2
  else if !certSigned c then 5
  else 0

/-- HELLO (R404, R405): the peer's HELLO. At keying its certificate is checked; our FINISH's signature is then requested.
At a rekey that the peer starts, our own HELLO answers it. -/
def hello (n : Nat) (m : Bytes) (s : State) : State :=
  let q := portAt s n
  if inKeying q then
    match q.keying with
    | none => s
    | some k =>
      if k.peer.isSome then s
      else
        let c := bytesAt m 1 320
        let r := if m.length ≠ 450 || leAt m 0 1 ≠ 1 || (pointOfBytes (helloPub false m)).isNone then 1 else switchReason s c
        if r ≠ 0 then peerFail n 4 r false s
        else modPort n (fun q => { q with keying := some { k with peer := some m, signing := true }
                                          peerKey := pointOfBytes (certSubject c) }) s
  else if q.state == .up then
    if m.length ≠ 130 || leAt m 0 1 ≠ 1 || (pointOfBytes (helloPub true m)).isNone then peerFail n 4 1 true s
    else match q.keying with
      | some k =>
        if k.peer.isSome then s
        else modPort n (fun q => { q with keying := some { k with peer := some m, signing := true } }) s
      | none =>
        if s.sec.drbgOn then
          let (d, pub, nonce, s1) := ephemeral s
          let own := 0x01#8 :: (pub ++ nonce)
          modPort n (fun q => { q with keying := some ⟨d, own, some m, true, false, false, true, false⟩
                                       rekeyOut := q.rekeyOut ++ keyFrames own }) s1
        else toRetrain n none s
  else s

/-- HELLO. -/
def execHello (port : Nat) (msg : Bytes) (s : State) : Host.Outcome State Fault Refusal := .next (hello port msg s)

/-- The count of failed tags starts again under a new key, on every port of a link (R340). -/
def clearAuth (n : Nat) (s : State) : State :=
  (linkOf s n).foldl (fun t p => modPort p (fun q => { q with authFails := 0 }) t) s

/-- Complete a keying or a rekey once our FINISH has left the port and the switch's has been verified (R312, R338, R339):
at a keying the port goes UP under the new keys once the switch has acknowledged our REKEY frames (DEDUCED, log entry 14); at a rekey that this chip started the sender switches, and the receiver holds the next
key until a frame of the new phase arrives. -/
def tryComplete (n : Nat) (s : State) : State :=
  let q := portAt s n
  match q.keying with
  | none => s
  | some k =>
    match k.ownDone && k.peerDone && q.rekeyOut.isEmpty && (k.rekey || q.kept.isEmpty), pointOfBytes (helloPub k.rekey (k.peer.getD [])) with
    | true, some p =>
      let th := handshakeHash q k
      let ks := linkKeys th k.d p
      if k.rekey then
        let s1 := modPort n (fun q => { q with keying := none, th := th, rxNext := some ks.2 }) s
        if k.started then
          traceEvent 3 0x03 (n + b2n (!q.kph) * 256)
            (modPort n (fun q => { q with tx := some ks.1, kph := !q.kph, idleOnly := false }) s1)
        else s1
      else
        setState n .up none (clearAuth n (modPort n (fun q =>
          { takeUp q with keying := none, th := th, tx := some ks.1, rx := some ks.2, rxNext := none, kph := false
                          rxKph := false, replays := 0, nakDue := false, nakArmed := true }) s))
    | _, _ => s

/-- LINK_SIGNATURE_DONE (R396, R404): the signature of a port's FINISH is made and the FINISH is queued. -/
def linkSignatureDone (n : Nat) (s : State) : State :=
  let q := portAt s n
  match q.keying, s.devKey with
  | some k, some dk =>
    if k.signing then
      let m := 0x02#8 :: ecdsaSign dk.d (finishDigest (handshakeHash q k))
      modPort n (fun q => { q with keying := some { k with signing := false, ownDone := true }
                                   rekeyOut := q.rekeyOut ++ keyFrames m }) (s.bump 0x200070 1)
    else s
  | _, _ => s

/-- LINK_SIGNATURE_DONE. -/
def execLinkSignatureDone (port : Nat) (s : State) : Host.Outcome State Fault Refusal := .next (linkSignatureDone port s)

/-- FINISH (R405): the switch's FINISH is verified under its certificate's key, with what it has advertised (R312). -/
def finish (n : Nat) (m : Bytes) (adv : Advert) (s : State) : State :=
  let q := portAt s n
  match q.keying with
  | none => s
  | some k =>
    if k.peer.isNone || k.peerDone then s
    else
      let ok := m.length = 97 && leAt m 0 1 = 2 && (match q.peerKey with
        | some p => ecdsaVerify p (finishDigest (handshakeHash q k)) (m.drop 1)
        | none => false)
      if !ok then peerFail n 5 (if m.length = 97 && leAt m 0 1 = 2 then 5 else 1) k.rekey s
      else
        let s1 := modPort n (fun q => { q with keying := some { k with peerDone := true } }) s
        tryComplete n (if k.rekey then s1 else modPort n (fun q =>
          { q with shares := (List.range 9).map (fun i => adv.shares.getD i 0), slots := adv.slots, stage := adv.stage }) s1)

/-- FINISH. -/
def execFinish (port : Nat) (msg : Bytes) (advert : Advert) (s : State) : Host.Outcome State Fault Refusal :=
  .next (finish port msg advert s)

/-- The transmit counter of a port under its current key. -/
def txCounter (q : Port) : Nat := (q.tx.map (·.counter)).getD 0

/-- REKEY_START (R339): at counter 2^31 the sender starts a rekey; with the DRBG stopped the port moves to RETRAIN
(R394). -/
def rekeyStart (n : Nat) (s : State) : State :=
  let q := portAt s n
  if q.state == .up && q.keying.isNone && 2 ^ 31 ≤ txCounter q then
    if s.sec.drbgOn then
      let (d, pub, nonce, s1) := ephemeral s
      let own := 0x01#8 :: (pub ++ nonce)
      modPort n (fun q => { q with keying := some ⟨d, own, none, false, false, false, true, true⟩
                                   rekeyOut := q.rekeyOut ++ keyFrames own }) s1
    else toRetrain n none s
  else s

/-- REKEY_START. -/
def execRekeyStart (port : Nat) (s : State) : Host.Outcome State Fault Refusal := .next (rekeyStart port s)

/-- REKEY_IDLE_ONLY (R339): at counter 2^32 − 2^20 with the rekey unfinished, only IDLE and REKEY frames are sent. -/
def rekeyIdleOnly (n : Nat) (s : State) : State :=
  let q := portAt s n
  if q.state == .up && 2 ^ 32 - 2 ^ 20 ≤ txCounter q then modPort n (fun q => { q with idleOnly := true }) s else s

/-- REKEY_IDLE_ONLY. -/
def execRekeyIdleOnly (port : Nat) (s : State) : Host.Outcome State Fault Refusal := .next (rekeyIdleOnly port s)

/-- REKEY_TIMEOUT (R339): at counter 2^32 with the rekey unfinished, the port moves to RETRAIN. -/
def rekeyTimeout (n : Nat) (s : State) : State :=
  let q := portAt s n
  if q.state == .up && 2 ^ 32 ≤ txCounter q then toRetrain n none s else s

/-- REKEY_TIMEOUT. -/
def execRekeyTimeout (port : Nat) (s : State) : Host.Outcome State Fault Refusal := .next (rekeyTimeout port s)

/-! ### Link frames (R313, R317, R337) -/

/-- The fields of a link frame's header. -/
structure FrameHeader where
  ftype : Nat
  lc : Nat
  sop : Bool
  eop : Bool
  fseq : Nat
  ack : Nat
  nak : Bool
  clc : Nat
  cred : Nat
  len : Nat
  kph : Bool
  deriving DecidableEq, Repr

/-- The 8 bytes of a header (R313). -/
def FrameHeader.bytes (h : FrameHeader) : Bytes :=
  leBytes 8 (h.ftype * 2 ^ 60 + h.lc * 2 ^ 56 + b2n h.sop * 2 ^ 55 + b2n h.eop * 2 ^ 54 + h.fseq % 4096 * 2 ^ 42 +
    h.ack % 4096 * 2 ^ 30 + b2n h.nak * 2 ^ 29 + h.clc * 2 ^ 25 + h.cred % 1024 * 2 ^ 15 + h.len * 2 ^ 7 + b2n h.kph * 2 ^ 6)

/-- A header from its 8 bytes. -/
def headerOf (b : Bytes) : FrameHeader :=
  let w := leAt b 0 8
  { ftype := bits w 63 60, lc := bits w 59 56, sop := bit w 55, eop := bit w 54, fseq := bits w 53 42
    ack := bits w 41 30, nak := bit w 29, clc := bits w 28 25, cred := bits w 24 15, len := bits w 14 7, kph := bit w 6 }

/-- A header's FTYPE and LC are legal and its reserved bits clear (R313, R314). -/
def headerOk (b : Bytes) : Bool :=
  let h := headerOf b
  h.ftype ≤ 2 && (if h.ftype = 1 then lcIx h.lc < 9 else h.lc = 0xF) && bits (leAt b 0 8) 5 0 = 0 &&
    (if h.ftype = 0 then h.len = 0 && h.fseq = 0 else 1 ≤ h.len && h.len ≤ 232)

/-- The IV of a key (R337): the salt, then the frame counter. -/
def LinkKey.iv (k : LinkKey) : Bytes := k.salt ++ leBytes 4 k.counter

/-- Seal a frame under a key (R337): header, cipher text and tag. -/
def sealFrame (k : LinkKey) (h payload : Bytes) : Bytes :=
  let c := gcmCrypt k.key k.iv payload
  h ++ c ++ gcmTag k.key k.iv h c

/-- Open a frame under a key (R337): the payload when the tag matches. -/
def openFrame (k : LinkKey) (f : Bytes) : Option Bytes :=
  let h := f.take 8
  let c := bytesAt f 8 232
  if gcmTag k.key k.iv h c = f.drop 240 then some (gcmCrypt k.key k.iv c) else none

/-- The key's counter moves on by one frame slot. -/
def LinkKey.next (k : LinkKey) : LinkKey := { k with counter := k.counter + 1 }

/-- A frame is lost or out of order (R317): the first discard sets NAK on the next frame sent. -/
def discardFrame (q : Port) : Port := if q.nakArmed then { q with nakDue := true, nakArmed := false } else q

/-- A link replay (R317, R318, R319): every unacknowledged frame is to be sent again; where 8 replays in a row have brought
no advance of ACK, an UP port moves to RETRAIN in place of a ninth. A port in keying goes on until KEYING_TIMEOUT (R312). -/
def linkReplay (n ack : Nat) (s : State) : State :=
  if 8 ≤ (portAt s n).replays && (portAt s n).state == .up then toRetrain n none s
  else
    traceEvent 3 0x02 (n + ack * 2 ^ 16) (modRun (fun r => { r with replays := r.replays + 1 })
      ((modPort n (fun q => { q with replay := q.kept.map (·.fseq), replays := q.replays + 1 }) s).bump (uPort n + 0x18) 1))

/-- A port whose frames are replayed (R317): UP, or in keying. -/
def replays (q : Port) : Bool := q.state == .up || inKeying q

/-- The acknowledgement part of a received header (R317): frames up to ACK leave the replay buffer; NAK starts a replay. -/
def takeAck (n : Nat) (h : FrameHeader) (s : State) : State :=
  let q := portAt s n
  let covered := match q.kept with
    | [] => 0
    | f :: _ => if serialSub 12 h.ack f.fseq < q.kept.length then serialSub 12 h.ack f.fseq + 1 else 0
  let left := q.kept.drop covered
  let s1 := modPort n (fun q =>
    { q with kept := left, replay := q.replay.filter (fun i => left.any (fun f => f.fseq = i))
             replays := if covered = 0 then q.replays else 0 }) s
  if h.nak && !left.isEmpty && replays q then linkReplay n h.ack s1 else s1

/-- The credit part of a received header (R315). -/
def takeCredit (n : Nat) (h : FrameHeader) (s : State) : State :=
  let i := lcIx h.clc
  if i < 9 then
    modPort n (fun q =>
      let back := serialSub 10 h.cred (q.freedSeen.getD i 0)
      { q with spent := modifyAt (· - back) i q.spent, freedSeen := q.freedSeen.set i h.cred }) s
  else s

/-- Payload of an accepted REKEY frame: a whole message is handed to the keying (R404). -/
def takeRekey (n : Nat) (h : FrameHeader) (payload : Bytes) (s : State) : State :=
  let whole := (if h.sop then [] else (portAt s n).rekeyIn) ++ payload.take h.len
  if h.eop then emitOut (.keyMessage n whole) (modPort n (fun q => { q with rekeyIn := [] }) s)
  else modPort n (fun q => { q with rekeyIn := whole }) s

/-- Payload of an accepted DATA frame (R315, R316): it leaves the port for the transport at once, which frees its frame of the
receive buffer; the transport puts the frames of a packet together. -/
def takeData (n : Nat) (h : FrameHeader) (payload : Bytes) (s : State) : State :=
  let q := portAt s n
  let before := ((q.partials.find? (fun x => x.1 = h.lc)).map (·.2)).getD []
  let whole := (if h.sop then [] else before) ++ payload.take h.len
  let rest := q.partials.filter (fun x => x.1 ≠ h.lc)
  let s1 := modPort n (fun q => { q with partials := if h.eop then rest else rest ++ [(h.lc, whole)]
                                         freed := modifyAt (fun x => (x + 1) % 1024) (lcIx h.lc) q.freed }) s
  if h.eop then emitOut (.packet n whole) s1 else s1

/-- An authenticated frame (R317): the frame next in order is accepted. -/
def takeFrame (n : Nat) (h : FrameHeader) (payload : Bytes) (s : State) : State :=
  let s1 := takeCredit n h (takeAck n h s)
  if h.ftype = 0 then s1
  else if h.fseq = (portAt s1 n).rxSeq then
    let s2 := modPort n (fun q => { q with rxSeq := (q.rxSeq + 1) % 4096, nakArmed := true }) s1
    if h.ftype = 2 then takeRekey n h payload s2 else takeData n h payload s2
  else if serialSub 12 h.fseq (portAt s1 n).rxSeq < 2048 then modPort n discardFrame s1
  else s1

/-- A frame slot whose frame is lost: the receive counter moves on (R337). -/
def lostFrame (n : Nat) (s : State) : State :=
  modPort n (fun q => discardFrame { q with rx := q.rx.map LinkKey.next }) s

/-- A tag of a frame of a port that fails (R340): counted; the sixteenth of one port under one key moves it to FAILED with
E_LINK_AUTH. -/
def authFail (port n : Nat) (s : State) : State :=
  let s1 := (modPort port (fun q => { q with authFails := q.authFails + 1 }) (lostFrame n s)).bump16 (uPort port + 0x1C) 1
  if 16 ≤ (portAt s1 port).authFails then dropLink n .failed (some 0x62) s1 else s1

/-- A frame under the keys of a port (R337, R339, R340): a frame of the new key phase makes the next key the current
one. -/
def receiveKeyed (port n : Nat) (f : Bytes) (s : State) : State :=
  let q := portAt s n
  let h := headerOf (f.take 8)
  if h.kph = q.rxKph then
    match q.rx with
    | none => s
    | some k =>
      match openFrame k f with
      | some p =>
        let s1 := modPort n (fun q => { q with rx := some k.next }) s
        if headerOk (f.take 8) then takeFrame n h p s1 else modPort n discardFrame s1
      | none => authFail port n s
  else
    match q.rxNext with
    | none => authFail port n s
    | some k =>
      match openFrame k f with
      | some p =>
        let s1 := clearAuth n (modPort n (fun q => { q with rx := some k.next, rxNext := none, rxKph := h.kph }) s)
        if headerOk (f.take 8) then takeFrame n h p s1 else modPort n discardFrame s1
      | none => authFail port n s

/-- A frame during keying (R337): IDLE or REKEY, in clear, with a zero tag. -/
def receiveClear (n : Nat) (f : Bytes) (s : State) : State :=
  let h := headerOf (f.take 8)
  if headerOk (f.take 8) && h.ftype ≠ 1 && allZero (f.drop 240) then tryComplete n (takeFrame n h (bytesAt f 8 232) s)
  else modPort n discardFrame s

/-- FRAME_RECEIVE (R317, R308, R341): a frame of any other length than 256 bytes stands for one that the decoder could not
correct; `corrected` codewords are counted as corrected with it. -/
def frameReceive (port : Nat) (f : Bytes) (corrected : Nat) (s0 : State) : State :=
  let n := leadOf s0 port
  let q := portAt s0 n
  let s := s0.bump (uPort port + 0x10) corrected
  if q.state == .up || q.state == .loopback then
    if f.length ≠ 256 then lostFrame n (s.bump (uPort port + 0x14) 1) else receiveKeyed port n f s
  else if inKeying q then
    if f.length ≠ 256 then modPort n discardFrame (s.bump (uPort port + 0x14) 1) else receiveClear n f s
  else s0

/-- FRAME_RECEIVE. -/
def execFrameReceive (port : Nat) (frame : Bytes) (s : State) (corrected : Nat := 0) : Host.Outcome State Fault Refusal :=
  .next (frameReceive port frame corrected s)

/-- REPLAY_TIMEOUT (R317, R319): the oldest unacknowledged frame has waited 1,024 LCLK without the ACK advancing. -/
def replayTimeout (n : Nat) (s : State) : State :=
  let q := portAt s n
  if replays q && !q.kept.isEmpty then linkReplay n (serialSub 12 ((q.kept.map (·.fseq)).headD 0) 1) s else s

/-- REPLAY_TIMEOUT. -/
def execReplayTimeout (port : Nat) (s : State) : Host.Outcome State Fault Refusal := .next (replayTimeout port s)

end Sys2Proof.Machine
end

