-- ==== Sys2Proof/Machine/Num.lean ====
section
/-! DEFINITION. Element formats (R34, R103), exact values, the one rounding (R116, R122, R130, R145) and the binary32
operations of NORM, GATE, SELECT and COMBINE (R130). -/
namespace Sys2Proof.Machine
open Sys2Proof

/-- An exact value: NaN, an infinity, or `(−1)^neg × m × 2^e`. -/
inductive Val where
  | nan
  | inf (neg : Bool)
  | fin (neg : Bool) (m : Nat) (e : Int)
deriving DecidableEq, Repr

/-- Decode one code of a format with `eb` exponent bits, `mb` mantissa bits and bias `bias`; `specials` tells what an
all-ones exponent means: 0 as E4M3 (only all ones in the mantissa is NaN), 1 as IEEE 754. -/
def decodeVal (eb mb bias : Nat) (ieee : Bool) (c : Nat) : Val :=
  let neg := c.testBit (eb + mb)
  let x := bits c (eb + mb - 1) mb
  let m := c % 2 ^ mb
  if x = 2 ^ eb - 1 ∧ ieee then (if m = 0 then .inf neg else .nan)
  else if x = 2 ^ eb - 1 ∧ m = 2 ^ mb - 1 then .nan
  else if x = 0 then .fin neg m (1 - (bias : Int) - mb)
  else .fin neg (2 ^ mb + m) ((x : Int) - bias - mb)

/-- E4M3 (R103). -/
def decE4M3 (c : Nat) : Val := decodeVal 4 3 7 false c
/-- E5M2 (R103). -/
def decE5M2 (c : Nat) : Val := decodeVal 5 2 15 true c
/-- bfloat16 (R103). -/
def decBf16 (c : Nat) : Val := decodeVal 8 7 127 true c
/-- binary32. -/
def decF32 (c : Nat) : Val := decodeVal 8 23 127 true c

/-- An element of one of the FMT codes of R34, without its scale. -/
def decFmt (fmt c : Nat) : Val :=
  match fmt with
  | 0x01 => decE4M3 c
  | 0x02 => decE5M2 c
  | 0x03 => decE4M3 c
  | 0x04 => decE5M2 c
  | 0x05 => decBf16 c
  | 0x06 => decF32 c
  | _ => .nan

/-- Whether a format has scales (R34). -/
def fmtMx (fmt : Nat) : Bool := fmt = 0x03 || fmt = 0x04

/-- Element size in bytes (R34, R161: 16 bytes in a SELECTION tile). -/
def fmtSize (fmt : Nat) : Nat :=
  match fmt with
  | 0x05 => 2
  | 0x06 => 4
  | 0x00 => 16
  | _ => 1

/-- An MX element as element × scale (R104: a scale of 0xFF makes the element NaN). -/
def applyScale (v : Val) (scale : Nat) : Val :=
  if scale = 0xFF then .nan else
    match v with
    | .fin n m e => .fin n m (e + (scale : Int) - 127)
    | w => w

/-- An element with its scale, where the format has scales. -/
def elemVal (fmt code scale : Nat) : Val :=
  if fmtMx fmt then applyScale (decFmt fmt code) scale else decFmt fmt code

/-- Whether a value is zero. -/
def Val.isZero : Val → Bool
  | .fin _ 0 _ => true
  | _ => false

/-- Whether a value is finite. -/
def Val.isFin : Val → Bool
  | .fin _ _ _ => true
  | _ => false

/-- The sign of a value. -/
def Val.sign : Val → Bool
  | .nan => false
  | .inf n => n
  | .fin n _ _ => n

/-- The exact product (R117: an infinity times a zero is NaN). -/
def Val.mul : Val → Val → Val
  | .nan, _ => .nan
  | _, .nan => .nan
  | .inf a, .inf b => .inf (a != b)
  | .inf a, .fin b m _ => if m = 0 then .nan else .inf (a != b)
  | .fin a m _, .inf b => if m = 0 then .nan else .inf (a != b)
  | .fin a m e, .fin b n f => .fin (a != b) (m * n) (e + f)

/-- `⌊log2 |v|⌋` of a finite non-zero value. -/
def Val.log2 : Val → Option Int
  | .fin _ m e => if m = 0 then none else some ((Nat.log2 m : Int) + e)
  | _ => none

/-- The signed integer `v / 2^base`, truncated toward zero, and whether a non-zero bit was lost (R114, R119). -/
def truncTo (base : Int) (neg : Bool) (m : Nat) (e : Int) : Int × Bool :=
  let sh := e - base
  let mag := if 0 ≤ sh then m <<< sh.toNat else m >>> (-sh).toNat
  let lost := if 0 ≤ sh then false else mag <<< (-sh).toNat ≠ m
  (if neg then -(mag : Int) else mag, lost)

/-- `m / 2^k` rounded to nearest, ties to even. -/
def rneShift (m k : Nat) : Nat :=
  if k = 0 then m else
    let q := m >>> k
    let r := m % 2 ^ k
    let half := 2 ^ (k - 1)
    if r > half ∨ (r = half ∧ q % 2 = 1) then q + 1 else q

/-- The significand and quantum exponent of a non-zero magnitude rounded to `p` bits with least quantum `2^qmin`. -/
def roundMag (p : Nat) (qmin : Int) (m : Nat) (e : Int) : Nat × Int :=
  let q := max qmin ((Nat.log2 m : Int) + e - (p - 1 : Nat))
  let r := if q ≤ e then m <<< (e - q).toNat else rneShift m (q - e).toNat
  if r = 2 ^ p then (2 ^ (p - 1), q + 1) else (r, q)

/-- A rounded result: the code without sign, or an overflow. -/
inductive Rounded where
  | code (c : Nat)
  | over
deriving DecidableEq, Repr

/-- Encode a rounded magnitude in a format of `p` significand bits, least quantum `2^qmin`, largest quantum `2^qmax`. -/
def encodeMag (p : Nat) (qmin qmax : Int) (m : Nat) (e : Int) : Rounded :=
  if m = 0 then .code 0 else
    let (r, q) := roundMag p qmin m e
    if r = 0 then .code 0
    else if q > qmax then .over
    else if r < 2 ^ (p - 1) then .code r
    else .code (((q - qmin).toNat + 1) * 2 ^ (p - 1) + (r - 2 ^ (p - 1)))

/-- The canonical quiet NaN of binary32 (R117). -/
def f32NaN : Word32 := 0x7FC00000
/-- `+∞`. -/
def f32Inf : Word32 := 0x7F800000
/-- `−∞`. -/
def f32NegInf : Word32 := 0xFF800000
/-- `1.0`. -/
def f32One : Word32 := 0x3F800000

/-- A binary32 word from its sign and the rest. -/
def f32Sign (neg : Bool) (c : Nat) : Word32 := BitVec.ofNat 32 (c + (if neg then 2 ^ 31 else 0))

/-- Round an exact value to binary32, IEEE 754 overflow to an infinity (R130). -/
def f32Round (v : Val) : Word32 :=
  match v with
  | .nan => f32NaN
  | .inf n => if n then f32NegInf else f32Inf
  | .fin n m e =>
    match encodeMag 24 (-149) 104 m e with
    | .code c => f32Sign n c
    | .over => if n then f32NegInf else f32Inf

/-- The value of a binary32 word. -/
def f32Val (x : Word32) : Val := decF32 x.toNat

/-- The exact sum of two values; a zero sum is −0 only when both are −0 (IEEE 754, nearest even). -/
def Val.add : Val → Val → Val
  | .nan, _ => .nan
  | _, .nan => .nan
  | .inf a, .inf b => if a = b then .inf a else .nan
  | .inf a, _ => .inf a
  | _, .inf b => .inf b
  | .fin a m e, .fin b n f =>
    let q := min e f
    let x : Int := (m <<< (e - q).toNat : Nat)
    let y : Int := (n <<< (f - q).toNat : Nat)
    let s := (if a then -x else x) + (if b then -y else y)
    if s = 0 then .fin (a && b) 0 q else .fin (decide (s < 0)) s.natAbs q

/-- Negation. -/
def Val.neg : Val → Val
  | .nan => .nan
  | .inf a => .inf (!a)
  | .fin a m e => .fin (!a) m e

/-- Whether `a ≤ b` as numbers; false when either is NaN. -/
def Val.le (a b : Val) : Bool :=
  match a, b with
  | .nan, _ => false
  | _, .nan => false
  | .inf x, .inf y => x || !y
  | .inf x, _ => x
  | _, .inf y => !y
  | .fin s m e, .fin t n f =>
    let q := min e f
    let x : Int := (m <<< (e - q).toNat : Nat)
    let y : Int := (n <<< (f - q).toNat : Nat)
    decide ((if s then -x else x) ≤ (if t then -y else y))

/-- Whether `a < b` as numbers. -/
def Val.lt (a b : Val) : Bool := a.le b && !(b.le a)

/-- binary32 addition (R130). -/
def f32Add (a b : Word32) : Word32 := f32Round ((f32Val a).add (f32Val b))
/-- binary32 subtraction. -/
def f32Sub (a b : Word32) : Word32 := f32Round ((f32Val a).add (f32Val b).neg)
/-- binary32 multiplication. -/
def f32Mul (a b : Word32) : Word32 := f32Round ((f32Val a).mul (f32Val b))

/-- The quotient of two finite values with enough bits that one more rounding is exact: a sticky low bit stands for the
remainder. -/
def Val.div : Val → Val → Val
  | .nan, _ => .nan
  | _, .nan => .nan
  | .inf _, .inf _ => .nan
  | .inf a, .fin b _ _ => .inf (a != b)
  | .fin a _ _, .inf b => .fin (a != b) 0 0
  | .fin a m e, .fin b n f =>
    if n = 0 then (if m = 0 then .nan else .inf (a != b))
    else if m = 0 then .fin (a != b) 0 0
    else
      let k := Nat.log2 n + 64
      let t := m <<< k
      .fin (a != b) (2 * (t / n) + (if t % n = 0 then 0 else 1)) (e - f - k - 1)

/-- binary32 division (R143). -/
def f32Div (a b : Word32) : Word32 := f32Round ((f32Val a).div (f32Val b))

/-- A number as binary32. -/
def f32OfNat (n : Nat) : Word32 := f32Round (.fin false n 0)

/-- Whether a binary32 word is NaN. -/
def f32IsNaN (x : Word32) : Bool := f32Val x == .nan

/-- Round an exact value to bfloat16 with overflow to an infinity (R145, bfloat16 row). -/
def bf16Round (v : Val) : Nat :=
  match v with
  | .nan => 0x7FC0
  | .inf n => if n then 0xFF80 else 0x7F80
  | .fin n m e =>
    match encodeMag 8 (-133) 120 m e with
    | .code c => c + (if n then 0x8000 else 0)
    | .over => if n then 0xFF80 else 0x7F80

/-- Round to an 8-bit element format with saturation judged on the value rounded as though the exponent range had no
upper bound (R145); the flag tells a saturation. -/
def fp8Round (p : Nat) (qmin : Int) (maxCode nanCode : Nat) (maxM : Nat) (maxQ : Int) (v : Val) : Nat × Bool :=
  match v with
  | .nan => (nanCode, false)
  | .inf n => (maxCode + (if n then 0x80 else 0), true)
  | .fin n m e =>
    if m = 0 then ((if n then 0x80 else 0), false) else
      let (r, q) := roundMag p qmin m e
      if (Val.fin false maxM maxQ).lt (.fin false r q) then (maxCode + (if n then 0x80 else 0), true)
      else
        match encodeMag p qmin maxQ m e with
        | .code c => (c + (if n then 0x80 else 0), false)
        | .over => (maxCode + (if n then 0x80 else 0), true)

/-- Conversion to E4M3: largest 448 = 14 × 2^5. -/
def toE4M3 (v : Val) : Nat × Bool := fp8Round 4 (-9) 0x7E 0x7F 14 5 v
/-- Conversion to E5M2: largest 57,344 = 7 × 2^13. -/
def toE5M2 (v : Val) : Nat × Bool := fp8Round 3 (-16) 0x7B 0x7E 7 13 v

/-- The E8M0 scale of a block of values (R145): `⌊log2 M⌋ − e_max` clamped, biased; 0x00 when nothing finite and
non-zero is there. -/
def mxScale (emax : Int) (vs : List Val) : Nat :=
  match vs.filterMap Val.log2 with
  | [] => 0x00
  | x :: xs => ((max (-127) (min 127 (xs.foldl max x - emax))) + 127).toNat

/-- One MX block converted: its scale, its element codes and how many saturated (R145). -/
def mxBlock (e5 : Bool) (vs : List Val) : Nat × List Nat × Nat :=
  let s := mxScale (if e5 then 15 else 8) vs
  let div := fun v => match v with
    | .fin n m e => Val.fin n m (e - ((s : Int) - 127))
    | w => w
  let rs := vs.map (fun v => if e5 then toE5M2 (div v) else toE4M3 (div v))
  (s, rs.map Prod.fst, (rs.filter (fun r => r.2)).length)

end Sys2Proof.Machine
end

