-- ==== Sys2Proof/Machine/Image.lean ====
section
/-! DEFINITION. The plat image: parsing and the nine checks of R60, and where the loader reads CADASTRE again (R62). -/
namespace Sys2Proof.Machine
open Sys2Proof

/-! ### Sizes of tiles and records -/

/-- A length rounded up to a multiple of 64. -/
def pad64 (n : Nat) : Nat := ceilDiv n 64 * 64

/-- The bytes of a tile image (R31): header, tag block, element block and scale block, each padded to 64. -/
def tileBytes (tags : Bool) (rows cols size : Nat) (mx : Bool) : Nat :=
  64 + (if tags then pad64 (rows * 8) else 0) + pad64 (rows * cols * size) + (if mx then pad64 (rows * cols / 32) else 0)

/-- The bytes of a group's image (R197). -/
def groupBytes (members dModel : Nat) : Nat := 16 * members + 33 * (dModel / 32)

/-! ### The directory (R45, R47, R49) -/

/-- A directory entry: KIND, OFFSET and LENGTH. -/
structure Sect where
  kind : Nat
  off : Nat
  len : Nat
  deriving DecidableEq, Repr

/-- The directory entries in use. -/
def sections (img : Bytes) : List Sect :=
  (List.range (leAt img 0x10 2)).map (fun i =>
    let o := 0x100 + 16 * i
    ⟨leAt img o 2, leAt img (o + 4) 4, leAt img (o + 8) 4⟩)

/-- The section of a kind. -/
def section_ (ss : List Sect) (kind : Nat) : Option Sect := ss.find? (fun x => x.kind = kind)

/-- The bytes of a section; empty when absent. -/
def sectBytes (img : Bytes) (ss : List Sect) (kind : Nat) : Bytes :=
  match section_ ss kind with
  | some x => bytesAt img x.off x.len
  | none => []

/-- The LENGTH a section's layout fixes (R47). DESIGN CHOICE (log entry 46): a ZA-3 plat's CADASTRE, whose LENGTH no rule fixes, is
any number of the 16-byte entries of R67; check 8 limits them. -/
def lengthOk (img : Bytes) (x : Sect) : Bool :=
  let layers := leAt img 0x16 2
  let za3 := leAt img 4 2 = 2
  match x.kind with
  | 1 => x.len = 62
  | 2 => x.len = 8
  | 3 =>
    let owners := leAt img (x.off + 0x18) 1
    owners ≤ 64 && x.len = 32 + 32 * owners
  | 4 => x.len = 7
  | 5 => x.len = 64 * layers
  | 6 => if za3 then x.len % 16 = 0 && 16 ≤ x.len else x.len % 32 = 0 && 32 ≤ x.len && x.len ≤ 262144 * 32
  | 7 => x.len % 8 = 0 && 8 ≤ x.len && x.len ≤ 64
  | 8 => x.len = 48
  | _ => false

/-- Whether the sections stand in order without gaps other than zero padding, from the directory's end to the trailer
(R45, R47). -/
def placed (img : Bytes) (next : Nat) : List Sect → Bool
  | [] => next + 256 = img.length
  | x :: xs => x.off = next && x.off + x.len ≤ img.length &&
      allZero (bytesAt img (x.off + x.len) (pad64 x.len - x.len)) && placed img (x.off + pad64 x.len) xs

/-- Check 4 of R60. DESIGN CHOICE (log entry 47): a ZA-3 image that holds one of the sections that R67 calls absent fails it. -/
def directoryOk (img : Bytes) : Bool :=
  let n := leAt img 0x10 2
  let ss := sections img
  let za3 := leAt img 4 2 = 2
  1 ≤ n && n ≤ 64 && allZero (bytesAt img (0x100 + 16 * n) (16 * (64 - n))) &&
    (List.range n).all (fun i => leAt img (0x100 + 16 * i + 12) 4 = 0) &&
    ss.all (lengthOk img) && placed img 0x500 ss &&
    ss.all (fun x => (ss.filter (fun y => y.kind = x.kind)).length = 1) &&
    (if za3 then [1, 3, 5, 6] else [1, 2, 3, 4, 5, 6]).all (fun k => (section_ ss k).isSome) &&
    ss.all (fun x => if za3 then [1, 3, 5, 6].contains x.kind else x.kind ≤ 8)

/-! ### Parsing the sections -/

/-- Station records of GRAPH as DEPTH and BIND, codes 0x1 to 0xF (R50). -/
def stationsOf (g : Bytes) : List (Nat × Nat) :=
  (List.range 15).map (fun i => let w := leAt g (2 + 4 * i) 4; (bits w 7 0, bits w 9 8))

/-- Owner records of POOLS (R52). -/
def ownersOf (p : Bytes) : List OwnerRec :=
  (List.range (leAt p 0x18 1)).map (fun j =>
    let o := 0x20 + 32 * j
    ⟨leAt p o 1, leAt p (o + 1) 1, (List.range 6).map (fun q => bits (leAt p (o + 4 + 4 * q) 4) 23 0)⟩)

/-- Records of LAYERS (R54); CLASS_MODE is absent from a ZA-3 plat and 0x0 (R67). -/
def layersOf (za3 : Bool) (b : Bytes) : List LayerRec :=
  (List.range (b.length / 64)).map (fun i =>
    let o := 64 * i
    { layer := leAt b o 1, k := leAt b (o + 1) 1, gateFn := leAt b (o + 2) 1
      classMode := if za3 then 0 else leAt b (o + 3) 1, base := bits (leAt b (o + 4) 4) 19 0
      experts := leAt b (o + 8) 2, jitter := leAt b (o + 0xA) 1, normForm := leAt b (o + 0xB) 1
      band := (List.range 3).map (fun j => BitVec.ofNat 32 (leAt b (o + 0xC + 4 * j) 4))
      routerAddr := leAt b (o + 0x18) 8, routerFmt := leAt b (o + 0x20) 1 })

/-- Records of LOOPS (R56). -/
def loopsOf (b : Bytes) : List LoopRec :=
  (List.range (b.length / 8)).map (fun i =>
    let o := 8 * i
    ⟨bits (leAt b o 1) 3 0, bits (leAt b (o + 1) 1) 3 0, leAt b (o + 2) 1, leAt b (o + 3) 1, leAt b (o + 4) 1⟩)

/-- The shadows that INIT gives, by commit set and offset in the section (R57). -/
def initMap : List (Nat × Nat × Nat) :=
  [(1, 0x04, 0xC0060), (1, 0x08, 0xC0064), (1, 0x0C, 0xC0068), (1, 0x10, 0xC006C), (2, 0x14, 0x14), (2, 0x18, 0x41030),
   (2, 0x1C, 0xA0080), (3, 0x20, 0x6000C), (4, 0x24, 0x300010), (4, 0x28, 0x300014), (4, 0x2C, 0x300000)]

/-- INIT (R57). -/
def initOf (b : Bytes) : InitRec :=
  let mask := leAt b 0 1
  { mask := mask
    values := (initMap.filter (fun e => bit mask e.1)).map (fun e => (e.2.2, BitVec.ofNat 32 (leAt b e.2.1 4))) }

/-- A live-cadastre entry from a plat's entry: eight slot words; a ZA-3 entry has four, and slots 4 to 7 are empty (R67). -/
def slotsOf (za3 : Bool) (b : Bytes) (x : Nat) : List Word32 :=
  let n := if za3 then 4 else 8
  (List.range 8).map (fun i => if i < n then BitVec.ofNat 32 (leAt b (4 * n * x + 4 * i) 4) else 0)

/-- The plat hash: SHA-384 from byte 0 up to the trailer (R44). -/
def platHash (img : Bytes) : Bytes := sha384 (img.take (img.length - 256))

/-- What the loader keeps of a verified image at an address (R61, R67). -/
def parsePlat (addr : Nat) (img : Bytes) : Plat :=
  let ss := sections img
  let za3 := leAt img 4 2 = 2
  let part := sectBytes img ss 2
  let pools := sectBytes img ss 3
  let chan := sectBytes img ss 4
  let cad := sectBytes img ss 6
  { format := leAt img 4 2, contract := leAt img 6 2, compiler := leAt img 8 4
    requireStrict := !za3 && bit (leAt img 0x12 2) 0
    chips := leAt img 0x14 2, slots := leAt img 0x18 4, dModel := leAt img 0x1C 2, sfuTable := leAt img 0x1E 2
    seed := leAt img 0x20 8, norm := bit (leAt (sectBytes img ss 1) 0 2) 2, stations := stationsOf (sectBytes img ss 1)
    partition := if za3 then Config.defaultPartition else part.map BitVec.toNat
    counts := (List.range 6).map (fun p => bits (leAt pools (4 * p) 4) 23 0), owners := ownersOf pools
    channels := if za3 then Config.defaultChannels else chan.map BitVec.toNat
    layers := layersOf za3 (sectBytes img ss 5), loops := loopsOf (sectBytes img ss 7)
    init := (section_ ss 8).map (fun _ => initOf (sectBytes img ss 8))
    poolBytes := (if za3 then Config.defaultPartition.map (BitVec.ofNat 8) else part) ++ pools
    hash := platHash img, cadDigest := sha384 cad
    cadAddr := addr + ((section_ ss 6).map (·.off)).getD 0, cadLen := cad.length }

/-! ### Check 7: every field within its permitted values -/

/-- The permitted values of a register's fields, where the maps name them (R8, R70): of a written word, given the word the
register holds. -/
def legalWord (a : Nat) (w : Nat) : Bool :=
  if a = 0x14 || a = 0x41030 || a = 0xA0080 then w ≠ 0
  else if a = 0x6000C then 1 ≤ bits w 23 0
  else if a = 0xC0060 || a = 0xC0064 || a = 0xC0068 || a = 0xC006C then 1 ≤ bits w 12 0 && bits w 12 0 ≤ 4096
  else if a = 0x20070 then bits w 10 8 < 6
  else if a = 0x60018 then 1 ≤ bits w 14 0 && bits w 14 0 ≤ 16384
  else if a = 0xA0018 then 4 ≤ bits w 3 0 && bits w 3 0 ≤ 12
  else if a = 0xC000C then 1000 ≤ bits w 19 0 && bits w 19 0 ≤ 1000000
  else if a = 0xC0010 then (List.range 6).all (fun j => bits w (2 * j + 1) (2 * j) ≠ 3)
  else if a = 0xC1004 then 10000 ≤ bits w 23 0 && bits w 23 0 ≤ 16000000
  else if a = 0xC100C then 100 ≤ bits w 15 0
  else if 0xC1100 ≤ a && a < 0xC1300 && a % 0x20 = 8 then 4 ≤ bits w 11 8 && bits w 11 8 ≤ 12
  else if a = 0x208 then 1024 ≤ bits w 15 0
  else if a = 0x248 then 4 ≤ bits w 4 0 && bits w 4 0 ≤ 16
  else if a = 0x250 then bits w 1 0 ≠ 3
  else if a = 0x270 then 4 ≤ bits w 3 0 && bits w 3 0 ≤ 12
  else if a = 0x328 then bits w 3 0 = 0 || 6 ≤ bits w 3 0
  else if a = 0x40C then bits w 8 0 ≤ 256
  else true

/-- The bits of a register that its map lets software write. -/
def writableMask (a : Nat) : Nat :=
  (fieldsAt a).foldl (fun m f => match f.acc with
    | .rw | .sh | .w1c | .wo => m ||| ((2 ^ (f.hi + 1 - f.lo) - 1) * 2 ^ f.lo)
    | _ => m) 0

/-- A written word sets no reserved bit: every bit that no field covers is zero (R8). -/
def reservedClear (a w : Nat) : Bool :=
  let covered := (fieldsAt a).foldl (fun m f => m ||| ((2 ^ (f.hi + 1 - f.lo) - 1) * 2 ^ f.lo)) 0
  w &&& (2 ^ 32 - 1 - covered) = 0

/-- GRAPH's permitted values (R50). -/
def graphOk (g : Bytes) : Bool :=
  let mask := leAt g 0 2
  let norm := bit mask 2
  !bit mask 0 && ((List.range 15).all (fun i => i + 1 = 2 || bit mask (i + 1))) &&
    (List.range 15).all (fun i =>
      let code := i + 1
      let w := leAt g (2 + 4 * i) 4
      let bind := bits w 9 8
      if code = 2 && !norm then w = 0
      else 2 ≤ bits w 7 0 && bits w 7 0 ≤ 64 && bits w 31 10 = 0 &&
        (if code = 2 || code = 3 || code = 4 then bind ≠ 0 else bind = 0))

/-- The permitted granules of each region (R51). -/
def partitionBounds : List (Nat × Nat) := [(32, 82), (4, 16), (0, 8), (2, 2), (2, 4), (0, 8), (1, 1), (1, 1)]

/-- PARTITION's permitted values (R51). -/
def partitionOk (p : List Nat) : Bool :=
  (p.zip partitionBounds).all (fun e => e.2.1 ≤ e.1 && e.1 ≤ e.2.2) && sumNat p = 96

/-- POOLS's permitted values (R52), given the granules of the buffer pool region. -/
def poolsOk (granules : Nat) (b : Bytes) : Bool :=
  let counts := (List.range 6).map (fun p => bits (leAt b (4 * p) 4) 23 0)
  let os := ownersOf b
  (List.range 6).all (fun p => bits (leAt b (4 * p) 4) 31 24 = 0) && allZero (bytesAt b 0x19 7) &&
    sumNat (counts.zipWith (· * ·) Config.poolSizes) ≤ granules * 4194304 &&
    os.all (fun o => (o.kind = 1 && 1 ≤ o.id && o.id ≤ 15) || (o.kind = 2 && o.id ≤ 23) || (o.kind = 3 && o.id ≤ 15)) &&
    os.all (fun o => (os.filter (fun q => q.kind = o.kind && q.id = o.id)).length = 1) &&
    (List.range os.length).all (fun j =>
      let o := 0x20 + 32 * j
      leAt b (o + 2) 2 = 0 && leAt b (o + 0x1C) 4 = 0 &&
        (List.range 6).all (fun q => bits (leAt b (o + 4 + 4 * q) 4) 31 24 = 0)) &&
    (List.range 6).all (fun p => sumNat (os.map (fun o => o.mins.getD p 0)) ≤ counts.getD p 0)

/-- CHANNELS' permitted values (R53). -/
def channelsOk (c : List Nat) : Bool := sumNat c = 64 && c.all (2 ≤ ·) && 4 ≤ c.getD 5 0

/-- NORM_FORM's permitted values (R54, R140). -/
def normFormOk (present : Bool) (v : Nat) : Bool :=
  if present then bits v 1 0 ≠ 0 && bits v 6 3 ≤ 6 && !(bit v 7 && bits v 1 0 = 3) else v = 0

/-- The permitted values of one record of LAYERS (R54, R42, R67, R160). DESIGN CHOICE (log entry 48): the byte at CLASS_MODE's place,
which R67 calls absent from a ZA-3 plat, must be zero there. -/
def layerOk (za3 norm : Bool) (pos : Nat) (b : Bytes) (r : LayerRec) : Bool :=
  let o := 64 * pos
  let kMax := if za3 then 8 else 16
  let eMax := if za3 then 8192 else 16384
  let bv := r.band.map f32Val
  r.layer = pos && 1 ≤ r.k && r.k ≤ kMax && r.k ≤ r.experts && r.gateFn ≤ 1 && leAt b (o + 3) 1 ≤ (if za3 then 0 else 1) &&
    bits (leAt b (o + 4) 4) 31 20 = 0 && 1 ≤ r.experts && r.experts ≤ eMax && r.base + r.experts ≤ 1048576 &&
    r.jitter ≤ 1 && normFormOk norm r.normForm &&
    (if r.classMode = 0 then r.band.all (· == 0)
     else bv.all (· != .nan) && (bv.getD 0 .nan).le (bv.getD 1 .nan) && (bv.getD 1 .nan).le (bv.getD 2 .nan)) &&
    r.routerAddr % 64 = 0 && 1 ≤ r.routerFmt && r.routerFmt ≤ 5 && allZero (bytesAt b (o + 0x21) 31)

/-- Whether the ranges of expert identifiers of a list of layers overlap (R54). -/
def rangesApart : List LayerRec → Bool
  | [] => true
  | r :: rs => rs.all (fun q => r.base + r.experts ≤ q.base || q.base + q.experts ≤ r.base) && rangesApart rs

/-- LOOPS's permitted values (R56, R186). -/
def loopsOk (b : Bytes) : Bool :=
  let ls := loopsOf b
  (List.range ls.length).all (fun i =>
    bits (leAt b (8 * i) 1) 7 4 = 0 && bits (leAt b (8 * i + 1) 1) 7 4 = 0 && allZero (bytesAt b (8 * i + 5) 3)) &&
    ls.all (fun r => r.first = 6 && r.last = 0xD && (r.source = 1 || r.source = 2) && 1 ≤ r.bound) &&
    ls.all (fun r => (ls.filter (fun q => q.layer = r.layer)).length = 1)

/-- INIT's permitted values (R57): SETS, unused values zero, and each value as a write of its shadow would be. -/
def initOk (b : Bytes) : Bool :=
  let mask := leAt b 0 1
  !bit mask 0 && bits mask 7 5 = 0 && leAt b 1 3 = 0 &&
    initMap.all (fun e =>
      let v := leAt b e.2.1 4
      if bit mask e.1 then v &&& (2 ^ 32 - 1 - writableMask e.2.2) = 0 && legalWord e.2.2 v &&
        (e.2.2 ≠ 0x300000 || !bit v 8) else v = 0)

/-- STATE, CHIP and CAP of a slot word (R215). -/
def slotState (w : Word32) : Nat := bits w.toNat 31 30
def slotChip (w : Word32) : Nat := bits w.toNat 29 16
def slotCap (w : Word32) : Nat := bits w.toNat 15 0

/-- R217's rules for an entry, the resident limit apart. -/
def entryOk (chips : Nat) (e : List Word32) : Bool :=
  let live := e.filter (fun w => slotState w ≠ 0)
  !live.isEmpty && (live.map slotChip).eraseDups.length = live.length && live.all (fun w => slotChip w < chips) &&
    e.all (fun w => slotState w ≠ 0 || w == 0)

/-- The entries of a CADASTRE section. -/
def entriesOf (za3 : Bool) (b : Bytes) : List (List Word32) :=
  (List.range (b.length / (if za3 then 16 else 32))).map (slotsOf za3 b)

/-- The largest number of non-EMPTY slots that name one chip (R217). -/
def maxResident (chips : Nat) (es : List (List Word32)) : Nat :=
  let named := es.flatMap (fun e => (e.filter (fun w => slotState w ≠ 0)).map slotChip)
  maxNat ((List.range chips).map (fun c => named.count c))

/-- Check 7 of R60. DESIGN CHOICE (log entry 48): bit 0 of FLAGS, REQUIRE_STRICT, which R67 calls absent from a ZA-3 plat, must be zero
there. -/
def valuesOk (chips : Nat) (img : Bytes) : Bool :=
  let ss := sections img
  let za3 := leAt img 4 2 = 2
  let p := parsePlat 0 img
  let lb := sectBytes img ss 5
  bits (leAt img 0x12 2) 15 (if za3 then 0 else 1) = 0 && leAt img 0x14 2 % 64 = 0 && 1 ≤ leAt img 0x16 2 && leAt img 0x16 2 ≤ 256 &&
    1 ≤ p.slots && p.slots ≤ 65536 && p.dModel % 32 = 0 && 32 ≤ p.dModel && p.dModel ≤ 16384 &&
    allZero (bytesAt img 0x28 0xD8) && graphOk (sectBytes img ss 1) && partitionOk p.partition &&
    poolsOk (p.partition.getD 0 0) (sectBytes img ss 3) && channelsOk p.channels &&
    (List.range p.layers.length).all (fun i => match p.layers[i]? with
      | some r => layerOk za3 p.norm i lb r
      | none => false) &&
    rangesApart p.layers && ((section_ ss 7).isNone || loopsOk (sectBytes img ss 7)) &&
    ((section_ ss 8).isNone || initOk (sectBytes img ss 8)) &&
    (entriesOf za3 (sectBytes img ss 6)).all (entryOk chips)

/-! ### Check 9: across sections (R58) -/

/-- The largest input image of a station under the bounds of R58, in bytes. -/
def largestInput (p : Plat) (code : Nat) : Nat :=
  let rows := min 256 p.slots
  let cols := min 256 p.dModel
  let kMax := maxNat (p.layers.map (·.k))
  let eCols := min 256 (maxNat (p.layers.map (·.experts)))
  if code = 1 || code = 2 || code = 3 then max (tileBytes false rows cols 2 false) (tileBytes false rows cols 1 true)
  else if code = 4 || code = 5 then tileBytes false rows eCols 4 false
  else if code = 6 || code = 7 then tileBytes false rows kMax 16 false
  else if code = 8 then 8 * min 65536 (p.slots * kMax)
  else if code = 9 then groupBytes (min 16 kMax) p.dModel
  else if code = 0xC then tileBytes true rows cols 4 false
  else tileBytes false rows cols 4 false

/-- The stations whose queues R58 checks. -/
def checkedStations : List Nat := [1, 2, 3, 4, 5, 6, 7, 8, 9, 0xC, 0xF]

/-- Check 9 of R60. -/
def crossOk (p : Plat) : Bool :=
  checkedStations.all (fun code =>
    let depth := (p.stations.getD (code - 1) (0, 0)).1
    let size := largestInput p code
    let pool := ((List.range 6).find? (fun q => size ≤ Config.poolSizes.getD q 0)).getD 6
    let m := match p.owners.find? (fun o => o.kind = 1 && o.id = code) with
      | some o => o.mins.getD pool 0
      | none => 0
    (code = 2 && !p.norm) || depth ≤ m) &&
  p.cadLen / (if p.format = 2 then 16 else 32) = sumNat (p.layers.map (·.experts)) &&
  p.loops.all (fun r => r.layer < p.layers.length)

end Sys2Proof.Machine
end

