-- ==== Sys2Proof/Machine/Loader.lean ====
section
/-! DEFINITION. The plat loader (R59 to R67, R74) and the commit sets (R71 to R73): LOAD, ABANDON, ACTIVATE, DISARM,
PLAT_LOAD_DONE and COMMIT. -/
namespace Sys2Proof.Machine
open Sys2Proof

/-- STAGE of PLAT_STATUS (R74). -/
def LdrStage.code : LdrStage → Nat
  | .empty => 0
  | .loading => 1
  | .staged => 2
  | .armed => 3

/-- PLAT_STATUS (R74). -/
def platStatus (s : State) : Nat :=
  s.ldr.stage.code + b2n s.ldr.active.isSome * 2 ^ 4 +
    b2n ((s.ldr.active.map (·.format)).getD 0 = 2) * 2 ^ 5 + s.ldr.progress % 2 ^ 16 * 2 ^ 16

/-- A PLAT notice with the status after the event (R433). -/
def platEvent (code : Nat) (s : State) : State := platNotice code (platStatus s) s

/-- LOAD (R63, R401, R453): refused with E_DEBUG_OPEN while debug is open; before SELFTEST refused with E_BUSY. -/
def ldrLoad (s : State) : State :=
  if debugOpen s then securityCode uPlat 0x68 s
  else if s.boot.stage == .reset || s.boot.stage == .fuse then record uPlat 0x03 s
  else match s.ldr.stage with
    | .loading => record uPlat 0x03 s
    | .armed => record uPlat 0x0B s
    | st => { s with ldr := { s.ldr with stage := .loading, before := st, progress := 0
                                         src := s.addr64 0x10010 0x10014, len := (s.word 0x10018).toNat } }

/-- LOAD. -/
def execLoad (priv : Bool) (s : State) : Host.Outcome State Fault Refusal := .next (privGate uPlat priv ldrLoad s)

/-- ABANDON (R63). -/
def ldrAbandon (s : State) : State :=
  match s.ldr.stage with
  | .loading => { s with ldr := { s.ldr with stage := s.ldr.before, progress := 0 } }
  | _ => record uPlat 0x0C s

/-- ABANDON. -/
def execAbandon (priv : Bool) (s : State) : Host.Outcome State Fault Refusal := .next (privGate uPlat priv ldrAbandon s)

/-- ACTIVATE (R63). -/
def ldrActivate (s : State) : State :=
  match s.ldr.stage with
  | .staged => { s with ldr := { s.ldr with stage := .armed } }
  | .armed => record uPlat 0x0B s
  | _ => record uPlat 0x0C s

/-- ACTIVATE. -/
def execActivate (priv : Bool) (s : State) : Host.Outcome State Fault Refusal := .next (privGate uPlat priv ldrActivate s)

/-- DISARM (R63). -/
def ldrDisarm (s : State) : State :=
  match s.ldr.stage with
  | .armed => { s with ldr := { s.ldr with stage := .staged } }
  | _ => record uPlat 0x0C s

/-- DISARM. -/
def execDisarm (priv : Bool) (s : State) : Host.Outcome State Fault Refusal := .next (privGate uPlat priv ldrDisarm s)

/-! ### The checks of R60 -/

/-- Check 1: lengths, MAGIC and FORMAT (R45, R46). -/
def check1 (len : Nat) (img : Bytes) : Bool :=
  len % 64 = 0 && 0x600 ≤ len && len ≤ 32 * 1024 * 1024 && leAt img 0xC 4 = len && leAt img 0 4 = 0x54414C50 &&
    (leAt img 4 2 = 3 || leAt img 4 2 = 2)

/-- The reason check 3 fails (R400), zero when it passes: root mismatch 4, format 1, key not found 3, revoked 2,
signature 5. -/
def check3Reason (s : State) (img : Bytes) : Nat :=
  let t := img.drop (img.length - 256)
  let ix := leAt t 0 4
  let pub := bytesAt t 4 97
  let point := pointOfBytes pub
  let keyReason :=
    if ix = 0 then (if sha384 pub = s.fuses.ownerRoot then 0 else 4)
    else if 15 < ix then 3
    else match keyEntry s 1 ix with
      | none => 3
      | some (_, true) => 2
      | some (e, false) => if e.point.isSome && e.point = point then 0 else 3
  match ownerSet s, point with
  | false, _ => 4
  | true, none => 1
  | true, some p =>
    if !(allZero (bytesAt t 0x65 3) && allZero (bytesAt t 0xC8 56)) then 1
    else if keyReason ≠ 0 then keyReason
    else if ecdsaVerify p (platHash img) (bytesAt t 0x68 96) then 0 else 5

/-- CONTRACT is supported (check 5 of R60, R67). -/
def contractOk (format contract : Nat) : Bool :=
  if format = 2 then 0x200 ≤ contract && contract ≤ 0x2FF
  else Config.contractLow ≤ contract && contract ≤ Config.contractHigh

/-- The installation's chip count is known: IDENTIFY has ended, and the chip is not standalone (R453, R454). -/
def installKnown (s : State) : Bool :=
  racks s ≠ 0 && (match s.boot.stage with
    | .links => true | .calibrate => true | .ready => true | .running => true | .held => s.boot.calFail | _ => false)

/-- The code of the first check of R60 after check 3 that fails, zero when all pass. The plat needs a cadastre entry for each expert
of its LAYERS, and holds those of its CADASTRE (R42). -/
def laterChecks (s : State) (img : Bytes) : Nat :=
  let p := parsePlat 0 img
  let za3 := p.format = 2
  let es := entriesOf za3 (sectBytes img (sections img) 6)
  if !directoryOk img then 0x04
  else if !contractOk p.format p.contract then 0x05
  else if p.sfuTable ≠ s.sfuVersion then 0x06
  else if !installKnown s || p.chips ≠ chipCount s then 0x07
  else if !valuesOk p.chips img then 0x08
  else if 262144 < max es.length (sumNat (p.layers.map (·.experts))) then 0x0F
  else if 256 < maxResident p.chips es then 0x10
  else if !crossOk p then 0x09
  else 0

/-- A rejected image (R60): the loader returns to its earlier state; the code is recorded and noticed. -/
def rejectImage (code : Nat) (s : State) : State :=
  let s1 := platEvent code { s with ldr := { s.ldr with stage := s.ldr.before } }
  if code = 0x60 then securityCode uPlat code s1 else record uPlat code s1

/-- PLAT_LOAD_DONE (R60, R61): the image is staged, or rejected with the code of the first check that fails. -/
def platLoadDone (env : MemEnv) (s0 : State) : State :=
  let s := withEnv env s0
  match s.ldr.stage with
  | .loading =>
    let len := s.ldr.len
    let head := memBytes s.mem s.ldr.src 16
    if !check1 len head then rejectImage 0x04 s
    else
      let s1 := { s with ldr := { s.ldr with progress := len / 1024 } }
      if badLine env s.ldr.src len then rejectImage 0x21 s1
      else
        let img := memBytes s.mem s.ldr.src len
        let r := check3Reason s img
        if r ≠ 0 then rejectImage 0x60 (verifyFail 1 r s1)
        else
          let c := laterChecks s img
          if c ≠ 0 then rejectImage c s1
          else platEvent 0 { s1 with
            ldr := { s1.ldr with stage := .staged, staged := some (parsePlat s.ldr.src img) }, sfuLocked := true }
  | _ => s

/-- PLAT_LOAD_DONE. -/
def execPlatLoadDone (env : MemEnv) (s : State) : Host.Outcome State Fault Refusal := .next (platLoadDone env s)

/-! ### Commit sets (R71) -/

/-- The shadows of each commit set, by register address. -/
def setRegs (n : Nat) : List Nat :=
  match n with
  | 0 => [0x10]
  | 1 => [0xC0060, 0xC0064, 0xC0068, 0xC006C]
  | 2 => [0x14, 0x41030, 0xA0080]
  | 3 => [0x6000C]
  | 4 => [0x300010, 0x300014, 0x300000]
  | _ => []

/-- The set a shadow belongs to. -/
def setOf (a : Nat) : Nat := ((List.range 5).find? (fun n => (setRegs n).contains a)).getD 5

/-- The bits of a register that are shadowed. -/
def shMask (a : Nat) : Nat :=
  (fieldsAt a).foldl (fun m f => match f.acc with
    | .sh => m ||| ((2 ^ (f.hi + 1 - f.lo) - 1) * 2 ^ f.lo)
    | _ => m) 0

/-- The shadow value of a register. -/
def shadowWord (s : State) (a : Nat) : Word32 := s.word a &&& BitVec.ofNat 32 (shMask a)

/-- The live value of a shadowed register (R17). -/
def liveWord (s : State) (a : Nat) : Word32 := s.word (a + 0x8000)

/-- The value live at the next datum: the pending value if one exists, otherwise the live one (R72). -/
def nextWord (s : State) (a : Nat) : Word32 := ((s.commits.values.find? (fun v => v.1 = a)).map (·.2)).getD (liveWord s a)

/-- The bytes of the trace region under a partition (R51, R71). -/
def traceLen (p : List Nat) : Nat := p.getD 5 0 * 4194304

/-- The partition in force (R51, R71, R460). -/
def partitionLive (s : State) : List Nat := (s.ldr.active.map (·.partition)).getD Config.defaultPartition

/-- Whether a ZA-3 plat is active (R71). -/
def za3Active (s : State) : Bool := (s.ldr.active.map (·.format)).getD 0 = 2

/-- Strictly ascending. -/
def ascending : List Nat → Bool
  | a :: b :: xs => a < b && ascending (b :: xs)
  | _ => true

/-- The rule of a commit set (R71), on the values of all shadows, the length of the trace region, and whether a ZA-3 plat
is active. TRACE_BASE and TRACE_LIMIT are byte offsets within the trace region (R469). -/
def setRule (n : Nat) (v : Nat → Nat) (len : Nat) (za3 : Bool) : Bool :=
  let strict := bit (v 0x10) 0
  let src := bit (v 0x6000C) 31
  match n with
  | 0 => !strict || (!bit (v 0x10) 1 && !src)
  | 1 =>
    let ts := (setRegs 1).map (fun a => bits (v a) 12 0)
    ascending ts && ts.all (fun t => 1 ≤ t && t ≤ 4096)
  | 2 => v 0x14 ≠ 0 && v 0x41030 ≠ 0 && v 0xA0080 ≠ 0 && v 0x41030 < v 0x14 && v 0xA0080 < v 0x14
  | 3 => 1 ≤ bits (v 0x6000C) 23 0 && !(src && (strict || za3))
  | _ => v 0x300010 % 64 = 0 && v 0x300014 % 64 = 0 && v 0x300010 < v 0x300014 && v 0x300014 ≤ len

/-- Make a set's shadow values live (R17, R72). -/
def makeLive (vs : List (Nat × Word32)) (s : State) : State := vs.foldl (fun s v => s.setWord (v.1 + 0x8000) v.2) s

/-- What an accepted COMMIT of set 4 does to the trace (R469). -/
def traceRestart (s : State) : State :=
  let t := s.trace
  { s with trace := { t with wr := s.live 0x300010 24 6 * 64, seq := 0, wrapped := false, full := false
                             lanes := if traceOn s then t.lanes else List.replicate 8 []
                             marker := if traceOn s then t.marker else none } }

/-- A datum that activates a plat of another PARTITION is between action 1 and the end of action 4 (R470). -/
def repartitioning (s : State) : Bool :=
  s.dat.repartition && (s.dat.phase == .agreement || s.dat.phase == .actions)

/-- The lowest named set whose rule fails (R72). -/
def failingSet (s : State) (mask : Nat) : Option Nat :=
  let v := fun a => (if bit mask (setOf a) then shadowWord s a else nextWord s a).toNat
  (List.range 5).find? (fun n => bit mask n && !setRule n v (traceLen (partitionLive s)) (za3Active s))

/-- An accepted COMMIT (R72, R73): sets 1 and 4 become live at once, the others become pending. -/
def commitSets (mask : Nat) (s : State) : State :=
  let vals := fun n => if bit mask n then (setRegs n).map (fun a => (a, shadowWord s a)) else []
  let later := vals 0 ++ vals 2 ++ vals 3
  let s1 := makeLive (vals 1 ++ vals 4)
    { s with commits := { s.commits with
        lastOk := true, mask := s.commits.mask ||| (mask &&& 0xD)
        values := (s.commits.values.filter (fun v => !later.any (fun w => w.1 = v.1))) ++ later } }
  if bit mask 4 then traceRestart s1 else s1

/-- COMMIT (R72, R470): a write of zero is ignored. -/
def doCommit (value : Word32) (s : State) : State :=
  let mask := value.toNat
  if 32 ≤ mask then record uSde 0x1F s
  else if mask = 0 then s
  else if bit mask 4 && repartitioning s then record uSde 0x03 { s with commits := { s.commits with lastOk := false } }
  else match failingSet s mask with
    | some n => record uSde 0x01 { s with commits := { s.commits with failedSet := n, lastOk := false } }
    | none => throttleRise (commitSets mask s)

/-- COMMIT. -/
def execCommit (priv : Bool) (value : Word32) (s : State) : Host.Outcome State Fault Refusal :=
  .next (privGate uSde priv (doCommit value) s)

/-- Pending sets become live at a datum (R65 action 1, R73). -/
def applyPending (s : State) : State :=
  let s1 := makeLive s.commits.values s
  { s1 with commits := { s1.commits with mask := 0, values := [] } }

end Sys2Proof.Machine
end

