-- ==== Sys2Proof/Machine/Transport.lean ====
section
/-! DEFINITION. Packets and flows (R320 to R333): cutting messages into packets, spraying and pinning, frames sent,
acknowledgement, retransmission, landing credits and the throttle step. -/
namespace Sys2Proof.Machine
open Sys2Proof

/-! ### Landing units (R322, R328) -/

/-- The landing units of the chip under the active plat. -/
def landingUnits (s : State) : Nat :=
  ((partitionLive s).getD 1 0 * 4194304 - 147456 * ceilDiv (chipCount s) 1024) / 512

/-- Standing units of each (source, LC) pair. -/
def standingUnits (s : State) : Nat :=
  if s.ldr.active.isNone then 0 else landingUnits s * 3 / 4 / (2 * (63 + (racks s - 1)) + 2 * 63)

/-- Units for dynamic grants, and for reply reservations. -/
def eighthUnits (s : State) : Nat := landingUnits s / 8

/-- Units of a packet of a payload length. -/
def packetUnits (len : Nat) : Nat := ceilDiv (len + 32) 512

/-- Units of a reply of a length, packet by packet. -/
def messageUnits (len : Nat) : Nat := len / 4064 * packetUnits 4064 + (if len % 4064 = 0 && len ≠ 0 then 0 else packetUnits (len % 4064))

/-- A destination at which this chip is a fallback sender (R328). -/
def fallbackTo (s : State) (dst lc : Nat) : Bool :=
  (lc = 4 || lc = 6) && rackOf dst ≠ rackOf (chipId s) && dst % 64 ≠ chipId s % 64

/-- An LC on which units must be granted before a packet is sent (R329). -/
def byGrant (s : State) (dst lc : Nat) : Bool := lc = 0 || fallbackTo s dst lc

/-- An LC whose packets take landing units that the sender spends (R328). -/
def spendsUnits (lc : Nat) : Bool := lc = 0 || (4 ≤ lc && lc ≤ 7)

/-- A sprayed LC (R314). -/
def sprayed (lc : Nat) : Bool := lc ≤ 8

/-- The units a flow may still spend. -/
def unitsLeft (s : State) (f : TxFlow) : Nat :=
  if byGrant s f.dst f.lc then f.granted - f.spent else standingUnits s - f.spent

/-! ### Packets (R320) -/

/-- A packet with its checksums. -/
def packetBytes (src dst lc kind psn flags path off step : Nat) (payload : Bytes) : Bytes :=
  let h := leBytes 2 src ++ leBytes 2 dst ++ leBytes 1 lc ++ leBytes 1 kind ++ leBytes 2 payload.length ++
    leBytes 3 psn ++ leBytes 1 flags ++ leBytes 1 path ++ leBytes 3 off ++ leBytes 8 step ++ leBytes 4 (crc32c payload)
  h ++ leBytes 4 (crc32c h) ++ payload

/-- A packet with RETX set. -/
def withRetx (b : Bytes) : Bytes :=
  let h := b.take 0xB ++ leBytes 1 (leAt b 0xB 1 ||| 4) ++ bytesAt b 0xC 16
  h ++ leBytes 4 (crc32c h) ++ b.drop 32

/-- Fields of a received packet. -/
def pktSrc (b : Bytes) : Nat := bits (leAt b 0 2) 13 0
def pktKind (b : Bytes) : Nat := leAt b 5 1
def pktLen (b : Bytes) : Nat := bits (leAt b 6 2) 12 0
def pktLast (b : Bytes) : Bool := bit (leAt b 0xB 1) 1

/-- The link channels a payload kind may travel on (R321). -/
def kindLcs (kind : Nat) : List Nat :=
  match kind with
  | 1 => [4, 5]
  | 2 => [6, 7]
  | 3 => [8]
  | 4 => [0xA]
  | 5 => [0xA]
  | 6 => [0xA]
  | 7 => [0xA]
  | 8 => [0]
  | 9 => [2]
  | 0xA => [0xC]
  | 0xB => [2]
  | _ => []

/-! ### Sending packets -/

/-- A flow, opened at PSN 0 when it is first used (R322). -/
def openFlow (dst lc : Nat) (s : State) : State :=
  if (txFlow s dst lc).isSome then s
  else { s with fep := { s.fep with tx := s.fep.tx ++ [⟨dst, lc, 0, [], [], 0, 0, 0, 0, s.tb, none⟩] } }

/-- A transport control entry of 16 bytes (R325). -/
def controlEntry (ctype lc : Nat) (rest : Nat) : Bytes := leBytes 16 (ctype * 2 ^ 124 + lc * 2 ^ 120 + rest)

/-- Send a transport control entry. -/
def sendControl (dst : Nat) (entry : Bytes) (s : State) : State := post ⟨dst, 0xA, 0x07, s.stepNum, entry, .none, 0, none⟩ s

/-! ### Reply reservations (R330) -/

/-- Whether the whole reply of a length can be reserved. -/
def replyRoom (s : State) (len : Nat) : Bool := s.fep.replyUsed + messageUnits len ≤ eighthUnits s

/-- Reserve a reply, and release it when it has been delivered. -/
def reserveReply (len : Nat) (s : State) : State :=
  { s with fep := { s.fep with replyUsed := s.fep.replyUsed + messageUnits len } }
def releaseReply (len : Nat) (s : State) : State :=
  { s with fep := { s.fep with replyUsed := s.fep.replyUsed - messageUnits len } }

/-- A management request (R430): READ, PROBE or TIME; its answer takes one unit, as a packet of 16 bytes does. -/
def mgmtAsk (m : Message) : Bool := m.lc = 0xC && m.off = 0 && leAt m.payload 0 1 ≠ 3
def answerLen : Nat := 16

/-- A management request is given up: one that still waits to be issued is taken away, the reservation of any other is
released. -/
def endRequest (dst id : Nat) (s : State) : State :=
  let p := fun (m : Message) => mgmtAsk m && decide (m.dst = dst) && decide (leAt m.payload 4 4 = id)
  if s.fep.waiting.any p then { s with fep := { s.fep with waiting := s.fep.waiting.filter (fun m => !p m) } }
  else releaseReply answerLen s

/-- Ask for the units that the rest of a message needs, once (R329). -/
def askUnits (m : Message) (f : TxFlow) (s : State) : State :=
  if f.asked = 0 then
    let n := min 512 (max 1 (messageUnits (m.payload.length - m.off) - unitsLeft s f))
    modTx m.dst m.lc (fun f => { f with asked := n }) (sendControl m.dst (controlEntry 2 m.lc (n * 2 ^ 104)) s)
  else s

/-- Cut packets off a message while the flow's window and its landing units allow it; what remains of the message. A management
request is issued only with its answer reserved (R330). -/
def cutMessage : Nat → Message → State → Option Message × State
  | 0, m, s => (some m, s)
  | fuel + 1, m, s =>
    match txFlow s m.dst m.lc with
    | none => (some m, s)
    | some f =>
      let payload := bytesAt m.payload m.off 4064
      let units := packetUnits payload.length
      if 4096 ≤ f.packets.length || (mgmtAsk m && !replyRoom s answerLen) then (some m, s)
      else if spendsUnits m.lc && unitsLeft s f < units then
        (some m, if byGrant s m.dst m.lc then askUnits m f s else s)
      else
        let last := m.payload.length ≤ m.off + payload.length
        let b := packetBytes (chipId s) m.dst m.lc m.kind f.psn (b2n (m.off = 0) + 2 * b2n last)
          (if sprayed m.lc then s.fep.path else 0) m.off m.step payload
        let first := m.first.getD f.psn
        let s1 := modTx m.dst m.lc (fun f => { f with
          psn := (f.psn + 1) % 2 ^ 24, spent := f.spent + (if spendsUnits m.lc then units else 0), lastTick := s.tb
          packets := f.packets ++ [⟨f.psn, b, none, none, none, 0, units⟩]
          ties := if last then f.ties ++ [(first, f.psn, m.tie)] else f.ties })
          (if sprayed m.lc then { s with fep := { s.fep with path := (s.fep.path + 1) % 256 } }
           else if mgmtAsk m then reserveReply answerLen s else s)
        if last then (none, s1) else cutMessage fuel { m with off := m.off + payload.length, first := some first } s1

/-- Cut the waiting messages, in order within each flow. -/
def cutWaiting : List Message → List (Nat × Nat) → State → State
  | [], _, s => s
  | m :: ms, blocked, s =>
    if blocked.contains (m.dst, m.lc) then
      cutWaiting ms blocked { s with fep := { s.fep with waiting := s.fep.waiting ++ [m] } }
    else
      match cutMessage (m.payload.length / 4064 + 1) m (openFlow m.dst m.lc s) with
      | (none, s1) => cutWaiting ms blocked s1
      | (some m', s1) =>
        cutWaiting ms ((m.dst, m.lc) :: blocked) { s1 with fep := { s1.fep with waiting := s1.fep.waiting ++ [m'] } }

/-- A link holds a credit for an LC (R315). -/
def holdsCredit (q : Port) (lc : Nat) : Bool := q.spent.getD (lcIx lc) 0 < q.shares.getD (lcIx lc) 0

/-- Frames waiting to leave a port. -/
def framesWaiting (q : Port) : Nat := sumNat ((q.packets ++ q.sending).map (fun x => ceilDiv x.2.length 232))

/-- The port for a packet of a sprayed LC (R324). -/
def sprayPort (s : State) (lc : Nat) (avoid : Option Nat) : Option Nat :=
  let ok := (linksUp s).filter (fun n => holdsCredit (portAt s n) lc)
  let others := ok.filter (fun n => some n ≠ avoid)
  (sortBy (fun n => framesWaiting (portAt s n)) (if others.isEmpty then ok else others)).head?

/-- The first link that is UP in the cyclic order from a port (R325). -/
def nextUp (s : State) (start : Nat) : Option Nat :=
  (((List.range 24).map (fun i => (start + i) % 24)).find? (fun n => (portAt s n).state == .up)).map (leadOf s)

/-- Put a packet on a port. -/
def placeOn (n : Nat) (f : TxFlow) (p : TxPacket) (s : State) : State :=
  modPort n (fun q => { q with packets := q.packets ++ [(f.lc, p.bytes)] })
    (modTx f.dst f.lc (fun f => { f with packets := f.packets.map (fun x =>
      if x.psn = p.psn then { x with port := some n } else x) }) s)

/-- Place a packet that waits for a port. -/
def placePacket (f : TxFlow) (p : TxPacket) (s : State) : State :=
  if p.port.isSome then s
  else if sprayed f.lc then
    match sprayPort s f.lc p.avoid with
    | some n => placeOn n f p s
    | none => s
  else
    match (txFlow s f.dst f.lc).bind (·.port) with
    | some n => if (portAt s n).state == .up then placeOn n f p s else s
    | none =>
      match nextUp s (f.dst % 24) with
      | some n => placeOn n f p (modTx f.dst f.lc (fun f => { f with port := some n }) s)
      | none => s

/-- Cut what can be cut and place what can be placed. -/
def pump (s : State) : State :=
  let s1 := cutWaiting s.fep.waiting [] { s with fep := { s.fep with waiting := [] } }
  throttleRise (s1.fep.tx.foldl (fun s f => f.packets.foldl (fun s p => placePacket f p s) s) s1)

/-- THROTTLE_STEP_FALL (R333): D has stayed below the threshold of the current step for 1,024 SCLK. -/
def throttleFall (s : State) : State :=
  let n := s.fep.throttle
  if 0 < n && throttleD s < (thresholds s).getD (n - 1) 0 then
    traceEvent 2 0x03 (n - 1) { s with fep := { s.fep with throttle := n - 1 } }
  else s

/-- THROTTLE_STEP_FALL. -/
def execThrottleStepFall (s : State) : Host.Outcome State Fault Refusal := .next (throttleFall s)

/-! ### Frames sent (R313, R315, R316) -/

/-- The header of the next frame of a port, with its acknowledgement and its credit count. -/
def nextHeader (q : Port) (f : KeptFrame) : FrameHeader :=
  { ftype := f.ftype, lc := f.lc, sop := f.sop, eop := f.eop, fseq := f.fseq, ack := serialSub 12 q.rxSeq 1
    nak := q.nakDue, clc := lcCodes.getD q.clc 0, cred := q.freed.getD q.clc 0, len := f.payload.length, kph := q.kph }

/-- Send a frame in the port's next slot: sealed under its key, or in clear while keying (R337). -/
def emitFrame (port n : Nat) (f : KeptFrame) (s : State) : State :=
  let q := portAt s n
  let h := (nextHeader q f).bytes
  let payload := f.payload ++ List.replicate (232 - f.payload.length) 0
  let b := match q.tx with
    | some k => sealFrame k h payload
    | none => h ++ payload ++ List.replicate 16 0
  emitOut (.frame port b)
    (modPort n (fun q => { q with tx := q.tx.map LinkKey.next, nakDue := false, clc := (q.clc + 1) % 9 }) s)

/-- The IDLE frame. -/
def idleFrame : KeptFrame := ⟨0, 0, 0xF, false, false, []⟩

/-- A packet's first frame leaves: its sending is timed from here (R326). -/
def startPacket (b : Bytes) (s : State) : State :=
  match txFlow s (pktDst b) (pktLc b) with
  | none => s
  | some f =>
    match f.packets.find? (fun p => p.psn = pktPsn b) with
    | none => s
    | some p =>
      (modTx f.dst f.lc (fun f => { f with lastTick := s.tb, packets := f.packets.map (fun x =>
        if x.psn = p.psn then { x with tick := some s.tb, sends := x.sends + 1 } else x) })
        (if p.sends = 0 then s else modRun (fun r => { r with replays := r.replays + 1 }) s)).bump
        (if p.sends = 0 then 0xC0020 else 0xC0028) 1

/-- The LC whose turn it is: the first eligible one after the LC served last (R316). -/
def dataTurn (q : Port) : Option Nat :=
  (((List.range 9).map (fun i => (q.lcTurn + i) % 9)).find? (fun i =>
    let lc := lcCodes.getD i 0
    holdsCredit q lc && (q.sending ++ q.packets).any (fun x => x.1 = lc)))

/-- Send the next DATA frame of an LC. -/
def sendData (port n i : Nat) (s : State) : State :=
  let lc := lcCodes.getD i 0
  let q := portAt s n
  let cur := q.sending.find? (fun x => x.1 = lc)
  match cur.orElse (fun _ => q.packets.find? (fun x => x.1 = lc)) with
  | none => emitFrame port n idleFrame s
  | some x =>
    let f : KeptFrame := ⟨q.fseq, 1, lc, cur.isNone, x.2.length ≤ 232, x.2.take 232⟩
    let rest := x.2.drop 232
    let s1 := if cur.isNone then startPacket x.2 s else s
    let s2 := modPort n (fun q => { q with
      packets := if cur.isNone then q.packets.erase x else q.packets
      sending := q.sending.filter (fun y => y.1 ≠ lc) ++ (if rest.isEmpty then [] else [(lc, rest)])
      fseq := (q.fseq + 1) % 4096, kept := q.kept ++ [f], lcTurn := (i + 1) % 9
      spent := modifyAt (· + 1) i q.spent }) s1
    emitFrame port n f s2

/-- Send the next queued REKEY frame. -/
def sendRekey (port n : Nat) (f : KeptFrame) (s : State) : State :=
  let q := portAt s n
  let g := { f with fseq := q.fseq }
  tryComplete n (emitFrame port n g (modPort n (fun q => { q with
    rekeyOut := q.rekeyOut.drop 1, fseq := (q.fseq + 1) % 4096, kept := q.kept ++ [g] }) s))

/-- The next frame to be replayed (R317); past counter 2^32 − 2^20 only a REKEY frame (R339). -/
def replayNext (q : Port) : Option KeptFrame :=
  let frames := q.replay.filterMap (fun i => q.kept.find? (fun f => f.fseq = i))
  if q.idleOnly then frames.find? (fun f => f.ftype = 2) else frames.head?

/-- Send a frame again (R317). -/
def sendAgain (port n : Nat) (f : KeptFrame) (s : State) : State :=
  emitFrame port n f (modPort n (fun q => { q with replay := q.replay.filter (fun i => i ≠ f.fseq) }) s)

/-- A frame slot of a port in keying (R337): a replayed frame, a REKEY frame, or IDLE, in clear. -/
def keyingSlot (port n : Nat) (s : State) : State :=
  match replayNext (portAt s n), (portAt s n).rekeyOut with
  | some f, _ => sendAgain port n f s
  | none, f :: _ => sendRekey port n f s
  | none, [] => emitFrame port n idleFrame s

/-- A frame slot of a link that is UP (R316): a replayed frame, a REKEY frame, a DATA frame, or IDLE. At most 512 frames
are unacknowledged (R317), and no frame is sent once the counter has run out (R337, R339). -/
def fillSlot (port n : Nat) (s : State) : State :=
  let q := portAt s n
  if 2 ^ 32 ≤ txCounter q then s
  else match replayNext q with
    | some f => sendAgain port n f s
    | none =>
      if 512 ≤ q.kept.length then emitFrame port n idleFrame s
      else match q.rekeyOut with
        | f :: _ => sendRekey port n f s
        | [] =>
          match (if q.idleOnly then none else dataTurn q) with
          | some i => sendData port n i s
          | none => emitFrame port n idleFrame s

/-- The slots of a bonded link go round its ports in ascending number (R311): whether it is a port's turn. -/
def dealt (s : State) (port : Nat) : Bool :=
  let link := linkOf s port
  link.getD ((portAt s (leadOf s port)).dealNext % link.length) 24 = port

/-- The turn passes to the next port of a link. -/
def dealOn (port : Nat) (s : State) : State :=
  let k := (linkOf s port).length
  modPort (leadOf s port) (fun q => { q with dealNext := (q.dealNext + 1) % k }) s

/-- FRAME_SEND (R316): one frame slot of a port, whose turn it is within its link. In LOOPBACK the frame comes back to the
port's own receiver (R312). -/
def frameSend (port : Nat) (s : State) : State :=
  let n := leadOf s port
  if !dealt s port then s
  else
    let s0 := dealOn port s
    match (portAt s n).state with
    | .up => fillSlot port n (pump s0)
    | .loopback =>
      if (portAt s n).tx.isNone then s
      else
        let s1 := emitFrame port n idleFrame s0
        match s1.out.getLast? with
        | some (.frame _ b) => frameReceive port b 0 s1
        | _ => s1
    | _ => if inKeying (portAt s n) then keyingSlot port n s0 else s

/-- FRAME_SEND. -/
def execFrameSend (port : Nat) (s : State) : Host.Outcome State Fault Refusal := .next (frameSend port s)

/-! ### Packets received (R321 to R327) -/

/-- A packet's header is sound and meant for this chip (R320, R321). -/
def packetOk (s : State) (b : Bytes) : Bool :=
  32 ≤ b.length && leAt b 0x1C 4 = crc32c (b.take 0x1C) && bits (leAt b 0 2) 15 14 = 0 && bits (leAt b 2 2) 15 14 = 0 &&
    bits (leAt b 4 1) 7 4 = 0 && bits (leAt b 6 2) 15 13 = 0 && bits (leAt b 0xB 1) 7 3 = 0 &&
    bits (leAt b 0x10 8) 63 56 = 0 && pktLen b ≤ 4064 && pktLen b = b.length - 32 && pktDst b = chipId s &&
    (kindLcs (pktKind b)).contains (pktLc b)

/-- The receiver's side of a flow. -/
def rxFlow (s : State) (src lc : Nat) : RxFlow :=
  (s.fep.rx.find? (fun f => f.src = src && f.lc = lc)).getD ⟨src, lc, 0, 0, [], 0, 0, none⟩

/-- Store a receive flow. -/
def putRx (f : RxFlow) (s : State) : State :=
  { s with fep := { s.fep with rx := s.fep.rx.filter (fun g => !(g.src = f.src && g.lc = f.lc)) ++ [f] } }

/-- A flow holds a packet out of order (R327). -/
def RxFlow.context (f : RxFlow) : Bool := f.held.any (fun x => serialSub 24 x.1 f.next < 4096)

/-- Reorder contexts in use. -/
def contexts (s : State) : Nat := (s.fep.rx.filter RxFlow.context).length

/-- The ACK of a flow (R325, R326). -/
def sendAck (src lc : Nat) (s : State) : State :=
  let f := rxFlow s src lc
  let sack := (List.range 64).foldl (fun m i =>
    if f.held.any (fun x => x.1 = (f.next + 1 + i) % 2 ^ 24) then m + 2 ^ i else m) 0
  sendControl src (controlEntry 1 lc (f.next * 2 ^ 96 + sack * 2 ^ 32 + f.freed * 2 ^ 8))
    (putRx { f with due := 0, dueTick := none } s)

/-- NEXT moves past every packet held in order. -/
def advanceNext : Nat → RxFlow → RxFlow
  | 0, f => f
  | fuel + 1, f =>
    if f.held.any (fun x => x.1 = f.next) then advanceNext fuel { f with next := (f.next + 1) % 2 ^ 24 } else f

/-- The packets of the first undelivered message, when all are held in order. -/
def wholeMessage (f : RxFlow) : Nat → Nat → List Bytes → Option (List Bytes)
  | 0, _, _ => none
  | fuel + 1, psn, acc =>
    if psn = f.next then none
    else match f.held.find? (fun x => x.1 = psn) with
      | none => none
      | some x => if pktLast x.2 then some (acc ++ [x.2]) else wholeMessage f fuel ((psn + 1) % 2 ^ 24) (acc ++ [x.2])

/-- A message is delivered (R328): a group or a record keeps its units until its consumer has taken it; those of any other
message return at once. -/
def landMessage (src lc len units : Nat) (f : RxFlow) (s : State) : State :=
  if 4 ≤ lc && lc ≤ 7 then putRx f { s with fep := { s.fep with landed := s.fep.landed ++ [⟨src, lc, len, units⟩] } }
  else putRx { f with freed := if lc ≤ 3 then (f.freed + units) % 2 ^ 24 else f.freed } s

/-- Deliver the whole messages of a flow in PSN order (R323). -/
def deliverAll : Nat → Nat → Nat → Nat → State → State
  | 0, _, _, _, s => s
  | fuel + 1, port, src, lc, s =>
    let f := rxFlow s src lc
    match wholeMessage f (f.held.length + 1) f.base [] with
    | none => s
    | some ps =>
      let payload := ps.flatMap (fun b => b.drop 32)
      let kind := pktKind (ps.headD [])
      let units := sumNat (ps.map (fun b => packetUnits (pktLen b)))
      let gone := ps.map pktPsn
      let g := { f with base := (f.base + ps.length) % 2 ^ 24, held := f.held.filter (fun x => !gone.contains x.1) }
      deliverAll fuel port src lc (emitOut (.delivered src port kind (bits (leAt (ps.headD []) 0x10 8) 55 0) payload)
        (landMessage src lc payload.length units g s))

/-- A packet is taken and acknowledged (R323, R326): 16 packets awaiting acknowledgement send the ACK at once. -/
def takePacket (port src lc : Nat) (b : Bytes) (s : State) : State :=
  let f := rxFlow s src lc
  let g := advanceNext (f.held.length + 1) { f with held := f.held ++ [(pktPsn b, b)] }
  let s1 := (putRx { g with due := g.due + 1, dueTick := some (g.dueTick.getD s.tb) } s).bump 0xC0024 1
  let s2 := deliverAll (g.held.length + 1) port src lc s1
  if 16 ≤ g.due + 1 then sendAck src lc s2 else s2

/-- A duplicate (R322, R325, R326): discarded and counted, and its ACK is repeated. -/
def takeDuplicate (src lc : Nat) (s : State) : State :=
  let f := rxFlow s src lc
  (putRx { f with dueTick := some (f.dueTick.getD s.tb) } s).bump 0xC002C 1

/-- PACKET_RECEIVE (R321, R323, R325, R327). -/
def packetReceive (port : Nat) (b : Bytes) (s : State) : State :=
  if !packetOk s b then s.bump16 0xC0034 1
  else if leAt b 0x18 4 ≠ crc32c (b.drop 32) then s.bump16 0xC0038 1
  else
    let src := pktSrc b
    let lc := pktLc b
    let f := rxFlow s src lc
    let ahead := serialSub 24 (pktPsn b) f.next
    if (if sprayed lc then 4096 ≤ ahead else ahead ≠ 0) || f.held.any (fun x => x.1 = pktPsn b) then takeDuplicate src lc s
    else if ahead ≠ 0 && !f.context && 1024 ≤ contexts s then
      traceEvent 2 0x04 (pktDst b + lc * 2 ^ 16 + pktPsn b * 2 ^ 24) (s.bump 0xC0030 1)
    else takePacket port src lc b s

/-- PACKET_RECEIVE. -/
def execPacketReceive (port : Nat) (packet : Bytes) (s : State) : Host.Outcome State Fault Refusal :=
  .next (packetReceive port packet s)

/-! ### Acknowledgements and timers (R325, R326) -/

/-- Settle the messages of a flow all of whose packets have been acknowledged. -/
def settleTies (dst lc : Nat) (s : State) : State :=
  match txFlow s dst lc with
  | none => s
  | some f =>
    let done := f.ties.filter (fun t => !f.packets.any (fun p => serialSub 24 p.psn t.1 ≤ serialSub 24 t.2.1 t.1))
    done.foldl (fun s t => settle t.2.2 s) (modTx dst lc (fun f => { f with ties := f.ties.filter (fun t => !done.contains t) }) s)

/-- The chip that is this chip's own relay in a destination's rack (R222, R328). -/
def ownRelay (s : State) (dst : Nat) : Nat := rackOf dst * 64 + chipId s % 64

/-- Give a grant back (R329). -/
def giveBack (dst lc : Nat) (s : State) : State :=
  modTx dst lc (fun f => { f with granted := 0, spent := 0, asked := 0 }) (sendControl dst (controlEntry 2 lc 0) s)

/-- A fallback sender whose own relay is no longer fenced releases its grant once nothing of the flow is left (R328). -/
def releaseFallback (dst lc : Nat) (s : State) : State :=
  match txFlow s dst lc with
  | none => s
  | some f =>
    if fallbackTo s dst lc && !fenced s (ownRelay s dst) && f.granted ≠ 0 && f.packets.isEmpty &&
      !s.fep.waiting.any (fun m => m.dst = dst && m.lc = lc) then giveBack dst lc s else s

/-- ACK (R325, R326): the packets it covers are delivered, and freed units return. -/
def takeAckEntry (src : Nat) (e : Bytes) (s : State) : State :=
  let w := leAt e 0 16
  let lc := bits w 123 120
  let next := bits w 119 96
  let sack := bits w 95 32
  let covered := fun (psn : Nat) => (0 < serialSub 24 next psn && serialSub 24 next psn ≤ 4096) ||
    (serialSub 24 psn (next + 1) < 64 && bit sack (serialSub 24 psn (next + 1)))
  releaseFallback src lc (settleTies src lc (modTx src lc (fun f =>
    { f with packets := f.packets.filter (fun p => !covered p.psn)
             spent := f.spent - serialSub 24 (bits w 31 8) f.freedSeen, freedSeen := bits w 31 8 }) s))

/-- ACK. -/
def execAck (src : Nat) (entry : Bytes) (s : State) : Host.Outcome State Fault Refusal := .next (takeAckEntry src entry s)

/-- ACK_TIMER (R326): 160 ticks after a packet was acknowledged. -/
def ackTimer (peer lc : Nat) (s : State) : State :=
  match (rxFlow s peer lc).dueTick with
  | some t => if t + 160 ≤ s.tb then sendAck peer lc s else s
  | none => s

/-- ACK_TIMER. -/
def execAckTimer (peer lc : Nat) (s : State) : Host.Outcome State Fault Refusal := .next (ackTimer peer lc s)

/-- FEP_RTO. -/
def rto (s : State) : Nat := s.field 0xC000C 19 0

/-- A packet's retransmission timer has expired. -/
def expired (s : State) (p : TxPacket) : Bool :=
  match p.tick with
  | some t => t + rto s ≤ s.tb
  | none => false

/-- A packet is to be sent again, with RETX (R326). -/
def TxPacket.again (p : TxPacket) : TxPacket :=
  { p with bytes := withRetx p.bytes, avoid := p.port, port := none, tick := none }

/-- A packet leaves its port for another: as a sending again where it has been sent, unchanged where it has not (R325). -/
def TxPacket.move (p : TxPacket) : TxPacket := if p.sends = 0 then { p with avoid := p.port, port := none } else p.again

/-- The buffer of a message that will never be acknowledged is released. -/
def giveUpTie (t : Tie) (s : State) : State :=
  match t with
  | .buffer p ptr => release p ptr s
  | _ => s

/-- A flow is lost (R326): its packets are given up and the step aborts with E_FLOW_LOST; not so the flow that took a fenced
chip the notice of its fence, which nothing acknowledges (R424). -/
def loseFlow (dst lc psn : Nat) (s : State) : State :=
  let ties := ((txFlow s dst lc).map (·.ties)).getD []
  let s1 := ties.foldl (fun s t => giveUpTie t.2.2 s) (modTx dst lc (fun f => { f with packets := [], ties := [] }) s)
  if fenced s dst then s1
  else raiseAborts uFep 0x41 (traceEvent 2 0x02 (dst + lc * 2 ^ 16 + psn * 2 ^ 24) (s1.bump16 0xC0054 1))

/-- RETRANSMIT_TIMEOUT (R326): the packet is sent again; an expiry after its fourth sending makes the flow lost. -/
def retransmitTimeout (peer lc psn : Nat) (s : State) : State :=
  match txFlow s peer lc with
  | none => s
  | some f =>
    match f.packets.find? (fun p => p.psn = psn) with
    | none => s
    | some p =>
      if !expired s p then s
      else if 4 ≤ p.sends then loseFlow peer lc psn s
      else traceEvent 2 0x01 (peer + lc * 2 ^ 16 + psn * 2 ^ 24)
        (modTx peer lc (fun f => { f with packets := f.packets.map (fun x => if x.psn = psn then x.again else x) }) s)

/-- RETRANSMIT_TIMEOUT. -/
def execRetransmitTimeout (peer lc psn : Nat) (s : State) : Host.Outcome State Fault Refusal :=
  .next (retransmitTimeout peer lc psn s)

/-- PINNED_FLOW_MOVE (R325): the flow's port has left UP and every unacknowledged packet's timer has expired, or has never
started; the flow moves to the next port UP and sends again what is unacknowledged. -/
def pinnedFlowMove (peer lc : Nat) (s : State) : State :=
  match txFlow s peer lc with
  | none => s
  | some f =>
    match f.port with
    | none => s
    | some n =>
      if (portAt s n).state == .up || sprayed lc || !f.packets.all (fun p => p.tick.isNone || expired s p) then s
      else match nextUp s ((n + 1) % 24) with
        | none => s
        | some m => modTx peer lc (fun f => { f with port := some m, packets := f.packets.map TxPacket.move }) s

/-- PINNED_FLOW_MOVE. -/
def execPinnedFlowMove (peer lc : Nat) (s : State) : Host.Outcome State Fault Refusal := .next (pinnedFlowMove peer lc s)

/-! ### Grants (R329) -/

/-- What a requester holds over all its LCs. -/
def givenTo (s : State) (src : Nat) : Nat := sumNat ((s.fep.given.filter (fun g => g.1.1 = src)).map (·.2))

/-- Add to the grant of a requester and LC. -/
def addGiven (k : Nat × Nat) (n : Nat) (s : State) : State :=
  let old := ((s.fep.given.find? (fun g => g.1 = k)).map (·.2)).getD 0
  { s with fep := { s.fep with dynFree := s.fep.dynFree - n
                               given := s.fep.given.filter (fun g => g.1 ≠ k) ++ [(k, old + n)] } }

/-- Meet waiting requests in order, in full or in part. -/
def serveGrants : List ((Nat × Nat) × Nat) → State → State
  | [], s => s
  | w :: ws, s =>
    let n := min (min w.2 (512 - givenTo s w.1.1)) s.fep.dynFree
    let left := w.2 - n
    let s1 := if n = 0 then s else sendControl w.1.1 (controlEntry 3 w.1.2 (n * 2 ^ 104)) (addGiven w.1 n s)
    serveGrants ws (if left = 0 then s1 else { s1 with fep := { s1.fep with wanted := s1.fep.wanted ++ [(w.1, left)] } })

/-- Serve every waiting request again. -/
def reserveGrants (s : State) : State := serveGrants s.fep.wanted { s with fep := { s.fep with wanted := [] } }

/-- GRANT_REQ (R329): units are granted in the order of the requests; UNITS 0 releases the grant. -/
def grantReq (src : Nat) (e : Bytes) (s : State) : State :=
  let w := leAt e 0 16
  let k := (src, bits w 123 120)
  let units := bits w 119 104
  if units = 0 then
    let old := ((s.fep.given.find? (fun g => g.1 = k)).map (·.2)).getD 0
    reserveGrants { s with fep := { s.fep with dynFree := s.fep.dynFree + old
                                               given := s.fep.given.filter (fun g => g.1 ≠ k)
                                               wanted := s.fep.wanted.filter (fun g => g.1 ≠ k) } }
  else reserveGrants { s with fep := { s.fep with wanted := s.fep.wanted ++ [(k, units)] } }

/-- GRANT_REQ. -/
def execGrantReq (src : Nat) (entry : Bytes) (s : State) : Host.Outcome State Fault Refusal := .next (grantReq src entry s)

/-- GRANT (R329). -/
def takeGrant (src : Nat) (e : Bytes) (s : State) : State :=
  let w := leAt e 0 16
  let lc := bits w 123 120
  let n := bits w 119 104
  modTx src lc (fun f => { f with granted := f.granted + n, asked := f.asked - n }) (openFlow src lc s)

/-- GRANT. -/
def execGrant (src : Nat) (entry : Bytes) (s : State) : Host.Outcome State Fault Refusal := .next (takeGrant src entry s)

/-- GRANT_IDLE_TIMEOUT (R329): 10,000 ticks without a packet on an LC to a target release its grant. -/
def grantIdleTimeout (peer lc : Nat) (s : State) : State :=
  match txFlow s peer lc with
  | none => s
  | some f =>
    if f.granted ≠ 0 && f.lastTick + 10000 ≤ s.tb && f.packets.isEmpty then
      giveBack peer lc s
    else s

/-- GRANT_IDLE_TIMEOUT. -/
def execGrantIdleTimeout (peer lc : Nat) (s : State) : Host.Outcome State Fault Refusal :=
  .next (grantIdleTimeout peer lc s)

/-! ### The division (R328) -/

/-- The division of the landing units at a plat activation (R328); units gained meet the requests that wait (R329). -/
def divideLanding (s : State) : State :=
  reserveGrants { s with fep := { s.fep with dynFree := eighthUnits s - sumNat (s.fep.given.map (·.2)) } }

end Sys2Proof.Machine
end

