-- ==== Sys2Proof/Machine/Boot.lean ====
section
/-! DEFINITION. Clocks, bring-up, resets and the test access port's plain instructions (R436 to R456, R476), and the tick
of the time base. -/
namespace Sys2Proof.Machine
open Sys2Proof

/-! ### The time base -/

/-- A clock runs below its step at the datum (R376). -/
def Run.slow (r : Run) (c : Clk) : Bool := r.aclkAt < c.aclkStep || r.sclkAt < c.sclkStep

/-- A port replays or retrains, or a packet awaits sending again (R376). -/
def retrying (s : State) : Bool :=
  s.ports.any (fun p => p.state == .retrain || !p.replay.isEmpty) ||
    s.fep.tx.any (fun f => f.packets.any (fun p => 0 < p.sends && p.tick.isNone))

/-- One tick of the time base (R439, R42): TB counts while it runs and stops at all ones; the running step's ticks of
throttling and of retries are counted (R376). -/
def tbTick (s : State) : State :=
  if s.tbRun && s.tb < 2 ^ 64 - 1 then
    modRun (fun r => { r with throttled := r.throttled + b2n (r.slow s.clk), retry := r.retry + b2n (retrying s) })
      { s with tb := s.tb + 1 }
  else s

/-- SDE_TB_SET_LO (R439, R43). -/
def tbSetLo (value : Word32) (s : State) : State :=
  let v := (s.word 0x41C).toNat * 2 ^ 32 + value.toNat
  match s.boot.stage with
  | .identify => if 2 ^ 64 - 1 - 2 ^ 62 < v then record uSde 0x16 s else { s with tb := v }
  | .links => if 2 ^ 64 - 1 - 2 ^ 62 < v then record uSde 0x16 s else { s with tb := v }
  | .calibrate => record uSde 0x1B s
  | .ready => record uSde 0x1B s
  | .running => record uSde 0x1B s
  | _ => record uSde 0x03 s

/-- SDE_TB_SET_LO. -/
def execTbSetLo (value : Word32) (s : State) : Host.Outcome State Fault Refusal := .next (tbSetLo value s)

/-- SDE_TB_LO_READ (R439): TB[31:0] is returned and TB[63:32] latched into SDE_TB_HI in the same access. -/
def tbLoRead (s : State) : Word32 × State :=
  (BitVec.ofNat 32 s.tb, s.setWord 0x414 (BitVec.ofNat 32 (s.tb / 2 ^ 32)))

/-- SDE_TB_LO_READ. -/
def execTbLoRead (s : State) : Host.Outcome State Fault Refusal :=
  .next (emitOut (.busRead (tbLoRead s).1) (tbLoRead s).2)

/-- TB_EXHAUSTED (R42): at all ones TB stops and raises E_ID_EXHAUSTED. -/
def tbExhausted (s : State) : State :=
  if s.tb = 2 ^ 64 - 1 && !s.tbExhausted then record uSde 0x16 { s with tbRun := false, tbExhausted := true } else s

/-- TB_EXHAUSTED. -/
def execTbExhausted (s : State) : Host.Outcome State Fault Refusal := .next (tbExhausted s)

/-! ### Resets (R447) -/

/-- A chip reset: every register takes its reset value and bring-up starts at stage RESET. Memory, the outputs already
made, the commands that wait and the test access port lie outside it; debug closes (R412). -/
def chipReset (s : State) : State :=
  { State.reset with pending := s.pending, out := s.out, mem := s.mem, freshCount := s.freshCount
                     tap := { s.tap with halted := false } }

/-- CHIP_RESET. -/
def execChipReset (s : State) : Host.Outcome State Fault Refusal := .next (chipReset s)

/-- POWER_ON_RESET: the same effect as a chip reset. -/
def execPowerOnReset (s : State) : Host.Outcome State Fault Refusal := .next (chipReset s)

/-- Move the chip to HELD (R448): every port is held in DOWN. -/
def toHeld (f : Boot → Boot) (s : State) : State :=
  holdPorts { s with boot := { f s.boot with stage := .held } }

/-- RESET_RELEASE (R448, R450): the slot is read from the straps and stage FUSE follows. -/
def resetRelease (slot : Nat) (s : State) : State :=
  if s.boot.stage == .reset then { s with boot := { s.boot with stage := .fuse, slot := slot % 64 } } else s

/-- RESET_RELEASE. -/
def execResetRelease (slot : Nat) (s : State) : Host.Outcome State Fault Refusal := .next (resetRelease slot s)

/-! ### Fuses (R392, R394, R395) -/

/-- A fuse field has its length and its CRC-32C. -/
def fuseFieldOk (f : FuseField) (n : Nat) : Bool := f.bytes.length = n && crc32c f.bytes = f.crc.toNat

/-- Three copies that are all equal. -/
def tripleOk {α : Type} [DecidableEq α] (xs : List α) : Bool := xs.length = 3 && xs.all (fun x => some x = xs.head?)

/-- The integrity check of R392. -/
def fusesOk (i : FuseImage) : Bool :=
  fuseFieldOk i.ownerRoot 48 && fuseFieldOk i.mfgRoot 48 && fuseFieldOk i.seed 48 && fuseFieldOk i.device 8 &&
    fuseFieldOk i.grade 1 && tripleOk i.revoke &&
    tripleOk i.kill

/-- The fuse shadow: a bit reads as blown when any copy does (R392). -/
def fusesOf (i : FuseImage) : Fuses :=
  { read := true, ownerRoot := i.ownerRoot.bytes, mfgRoot := i.mfgRoot.bytes, seed := i.seed.bytes
    device := BitVec.ofNat 64 (leNat i.device.bytes), grade := BitVec.ofNat 8 (leNat i.grade.bytes)
    revoke := i.revoke.foldl (· ||| ·) 0, kill := i.kill.any id }

/-- Seed the DRBG (R394). -/
def seedDrbg (ok : Bool) (s : State) : State :=
  if ok then { s with sec := { s.sec with drbgOn := true, drbgRequests := 0 } } else securityCode uSec 0x65 s

/-- FUSE_READ_DONE (R392, R395, R448). -/
def fuseReadDone (i : FuseImage) (s : State) : State :=
  if s.boot.stage == .fuse then
    let s1 := { s with fuses := fusesOf i }
    if fusesOk i then
      seedDrbg i.entropyOk { s1 with devKey := some (deriveDevKey i.seed.bytes), boot := { s1.boot with stage := .selftest } }
    else toHeld (fun b => { b with fuseFail := true }) (securityCode uSec 0x66 s1)
  else s

/-- FUSE_READ_DONE. -/
def execFuseReadDone (image : FuseImage) (s : State) : Host.Outcome State Fault Refusal := .next (fuseReadDone image s)

/-! ### Self-test and SFU tables (R449, R90, R136, R137) -/

/-- SELFTEST_DONE (R449): the pools are built with the reset counts, or the chip moves to HELD. -/
def selftestDone (fails : List Nat) (romOk : Bool) (s : State) : State :=
  if s.boot.stage == .selftest && !s.boot.tested then
    if fails.isEmpty && romOk then
      buildPools Config.resetCounts [] { s with boot := { s.boot with tested := true } }
    else toHeld (fun b => { b with bistFail := true, bank := (fails.min?).getD 0x3F }) s
  else s

/-- SELFTEST_DONE. -/
def execSelftestDone (fails : List Nat) (romOk : Bool) (s : State) : Host.Outcome State Fault Refusal :=
  .next (selftestDone fails romOk s)

/-- SFU_TABLE_COPY_DONE (R136): the copy completes; in SELFTEST, where it follows the self-test, stage TIMEBASE follows. -/
def sfuCopyDone (s : State) : State :=
  if s.sfuCopying then
    if s.boot.stage == .selftest then
      if s.boot.tested then { s with sfuCopying := false, boot := { s.boot with stage := .timebase } } else s
    else { s with sfuCopying := false }
  else s

/-- SFU_TABLE_COPY_DONE. -/
def execSfuTableCopyDone (s : State) : Host.Outcome State Fault Refusal := .next (sfuCopyDone s)

/-- SFU_TABLE_SEL (R137). DESIGN CHOICE (log entry 53): where several causes of refusal hold at once, E_SFU_LOCKED
(0x18) comes before E_SFU_TABLE (0x19), and that before E_BUSY (0x03). -/
def sfuTableSel (value : Word32) (s : State) : State :=
  if 65536 ≤ value.toNat then record uSfu 0x1F s
  else if !(s.ldr.stage == .empty) || s.ldr.active.isSome || s.sfuLocked then record uSfu 0x18 s
  else if !Config.sfuVersions.contains value.toNat then record uSfu 0x19 s
  else if s.sfuCopying then record uSfu 0x03 s
  else { s with sfuVersion := value.toNat, sfuCopying := true }

/-- SFU_TABLE_SEL. -/
def execSfuTableSel (value : Word32) (s : State) : Host.Outcome State Fault Refusal := .next (sfuTableSel value s)

/-! ### Clocks (R438, R440, R441) -/

/-- RCLK_LOCK (R448, R439): TB starts at 0 and the chip enters IDENTIFY. -/
def rclkLock (s : State) : State :=
  if s.boot.stage == .timebase then
    { s with boot := { s.boot with stage := .identify }, clk := { s.clk with rclkLock := true }, tb := 0, tbRun := true }
  else s

/-- RCLK_LOCK. -/
def execRclkLock (s : State) : Host.Outcome State Fault Refusal := .next (rclkLock s)

/-- TIMEBASE_TIMEOUT (R448). -/
def timebaseTimeout (s : State) : State :=
  if s.boot.stage == .timebase then toHeld (fun b => { b with rclkFail := true }) s else s

/-- TIMEBASE_TIMEOUT. -/
def execTimebaseTimeout (s : State) : Host.Outcome State Fault Refusal := .next (timebaseTimeout s)

/-- HOLDOVER (R438): the PLLs move to LREF; XCLK stops, so every port leaves UP. -/
def holdover (s : State) : State :=
  if s.clk.rclkLock then
    (List.range 24).foldl (fun s n => if (portAt s n).state == .up || (portAt s n).state == .retrain then
      dropLink n .down none s else s) { s with clk := { s.clk with holdover := true, rclkLock := false } }
  else s

/-- HOLDOVER. -/
def execHoldover (s : State) : Host.Outcome State Fault Refusal := .next (holdover s)

/-- A step change of a clock (R440, R441): it is counted, in the step record too, and acknowledged. -/
def clockStep (sclk : Bool) (step : Nat) (s : State) : State :=
  let c := s.clk
  let c1 := if sclk then { c with sclkStep := step, lastSclk := some s.tb } else { c with aclkStep := step, lastAclk := some s.tb }
  emitOut (.throttleAck sclk step) ((modRun (fun r =>
    { r with changes := r.changes + 1, aclkLow := max r.aclkLow c1.aclkStep, sclkLow := max r.sclkLow c1.sclkStep })
    { s with clk := c1 }).bump 0x428 1)

/-- 10,000 ticks have passed since the clock's latest change (R441). -/
def clockFree (sclk : Bool) (s : State) : Bool :=
  match (if sclk then s.clk.lastSclk else s.clk.lastAclk) with
  | some t => t + 10000 ≤ s.tb
  | none => true

/-- THROTTLE_REQUEST (R441). -/
def throttleRequest (sclk : Bool) (step : Nat) (s : State) : State :=
  if step ≤ 4 && clockFree sclk s then clockStep sclk step s else s

/-- THROTTLE_REQUEST. -/
def execThrottleRequest (sclk : Bool) (step : Nat) (s : State) : Host.Outcome State Fault Refusal :=
  .next (throttleRequest sclk step s)

/-- EMERGENCY_THROTTLE (R441): straight to step 4, whatever the spacing. -/
def execEmergencyThrottle (sclk : Bool) (s : State) : Host.Outcome State Fault Refusal := .next (clockStep sclk 4 s)

/-! ### LINKS and calibration (R375, R450 to R454) -/

/-- LINKS (R450, R451): every port whose DISABLE is clear enters TRAIN. -/
def bootLinks (s : State) : State :=
  if !(s.boot.stage == .identify) then record uSde 0x03 s
  else if racks s ≠ 0 && (racks s ≤ s.field 0x408 15 8 || s.sec.cert.isNone) then record uSde 0x01 s
  else (List.range 24).foldl (fun s n => enterTrain n s) { s with boot := { s.boot with stage := .links } }

/-- LINKS. -/
def execLinks (priv : Bool) (s : State) : Host.Outcome State Fault Refusal := .next (privGate uSde priv bootLinks s)

/-- A management message's header (R430). -/
def mgmtHeader (mtype status sender id arg0 arg1 : Nat) : Bytes :=
  leBytes 1 mtype ++ leBytes 1 status ++ leBytes 2 sender ++ leBytes 4 id ++ leBytes 4 arg0 ++ leBytes 4 arg1

/-- Send a management request on VC6 (R430); the requester chooses the identifier, and the endpoint reserves the answer as it
issues the request (R330). -/
def mgmtRequest (dst mtype arg0 arg1 : Nat) (body : Bytes) (s : State) : State :=
  let id := s.mgmtNext
  post ⟨dst, 0xC, 0x0A, s.stepNum, mgmtHeader mtype 0 (chipId s) id arg0 arg1 ++ body, .none, 0, none⟩
    { s with mgmtNext := (id + 1) % 2 ^ 32 }

/-- The time master (R375): the unfenced chip with the lowest identifier. -/
def timeMaster (s : State) : Nat := ((unfenced s).head?).getD (chipId s)

/-- Send the next TIME request to the master: the first takes coarse time, the next 256 are the exchanges (R375). -/
def askTime (s : State) : State :=
  if timeMaster s = chipId s || 257 ≤ s.boot.exchanges then s
  else
    let f := s.fresh
    mgmtRequest (timeMaster s) 0x04 0 0 (Config.timeRequest f.1 s.tb) f.2

/-- CALIBRATE (R452): refused with E_BUSY unless the chip is in LINKS with a port UP. -/
def bootCalibrate (s : State) : State :=
  if s.boot.stage == .links && !(portsUp s).isEmpty then
    askTime { s with boot := { s.boot with stage := .calibrate, calibrateWritten := true, exchanges := 0 } }
  else record uSde 0x03 s

/-- CALIBRATE. -/
def execCalibrate (priv : Bool) (s : State) : Host.Outcome State Fault Refusal := .next (privGate uSde priv bootCalibrate s)

/-- TIME (R375, R430): a request is answered on VC1 with an IEEE 1588 message. -/
def mgmtTime (src : Nat) (m : Bytes) (s : State) : State :=
  let f := s.fresh
  post ⟨src, 0x2, 0x0B, s.stepNum, mgmtHeader 0x84 0 (chipId s) (leAt m 4 4) 0 0 ++ Config.timeAnswer f.1 s.tb (m.drop 16),
    .none, 0, none⟩ f.2

/-- TIME. -/
def execTime (src : Nat) (msg : Bytes) (s : State) : Host.Outcome State Fault Refusal := .next (mgmtTime src msg s)

/-- TIME_ANSWER (R375): coarse time or one of the 256 exchanges; the next request follows. -/
def timeAnswer (src : Nat) (s0 : State) : State :=
  let s := releaseReply answerLen s0
  if s.boot.stage == .calibrate && src = timeMaster s && s.boot.exchanges < 257 then
    askTime { s with boot := { s.boot with exchanges := s.boot.exchanges + 1 } }
  else s

/-- TIME_ANSWER. -/
def execTimeAnswer (src : Nat) (_msg : Bytes) (s : State) : Host.Outcome State Fault Refusal := .next (timeAnswer src s)

/-- CALIBRATION_DONE (R375, R452): the offset is applied once, never on the master; a residual above 1 tick, or a drift of
more than 1 tick, moves the chip to HELD with CAL_FAIL. -/
def calibrationDone (c : Calibration) (s : State) : State :=
  let master := timeMaster s
  if s.boot.stage == .calibrate && (master = chipId s || s.boot.exchanges = 257) then
    let tb := if master = chipId s then s.tb else ((s.tb : Int) + c.offset).toNat % 2 ^ 64
    let s1 := ({ s with tb := tb }).setWord 0x424
      (BitVec.ofNat 32 (master * 2 ^ 16 + (c.residual % 65536).toNat))
    if 16 < c.residual.natAbs || 1 < c.drift.natAbs then toHeld (fun b => { b with calFail := true }) s1
    else { s1 with boot := { s1.boot with stage := .ready } }
  else s

/-- CALIBRATION_DONE. -/
def execCalibrationDone (result : Calibration) (s : State) : Host.Outcome State Fault Refusal :=
  .next (calibrationDone result s)

/-! ### The test access port (R455, R409, R447) -/

/-- Select an instruction whose register is the one-bit bypass register. -/
def tapBypass (ir : Byte) (s : State) : State :=
  emitOut (.tap 1 0) { s with tap := { s.tap with ir := ir, extest := false } }

/-- The IDCODE (R455). -/
def idcodeValue : Nat := Config.stepping % 16 * 2 ^ 28 + Config.part * 2 ^ 12 + Config.jep106.toNat * 2 + 1

/-- EXTEST (R409): the boundary cells drive the chip's pins. -/
def execExtest (cells : Word64) (s : State) : Host.Outcome State Fault Refusal :=
  .next { s with tap := { s.tap with ir := 0x00, cells := cells, extest := true } }

/-- IDCODE (R455). -/
def execIdcode (s : State) : Host.Outcome State Fault Refusal :=
  .next (emitOut (.tap 32 idcodeValue) { s with tap := { s.tap with ir := 0x01, extest := false } })

/-- SAMPLE/PRELOAD (R455): the cells take the sampled or preloaded values. -/
def execSamplePreload (cells : Word64) (s : State) : Host.Outcome State Fault Refusal :=
  .next (emitOut (.tap 64 cells.toNat) { s with tap := { s.tap with ir := 0x02, cells := cells, extest := false } })

/-- The opcodes of R455 that are not BYPASS. -/
def tapOpcodes : List Nat := [0x00, 0x01, 0x02, 0x20, 0x21, 0x22, 0x23, 0x24]

/-- BYPASS (R455): 0xFF and every opcode not listed. -/
def execBypass (opcode : Byte) (s : State) : Host.Outcome State Fault Refusal :=
  .next (if tapOpcodes.contains opcode.toNat then s else tapBypass opcode s)

/-- DBG_CHAL (R411). -/
def execDbgChal (s : State) : Host.Outcome State Fault Refusal :=
  .next (drawChallenge { s with tap := { s.tap with ir := 0x20, extest := false } })

/-- DBG_UNLOCK (R411): the 1,024 bits shifted in are delivered as a token. -/
def execDbgUnlock (token : Bytes) (s : State) : Host.Outcome State Fault Refusal :=
  .next (deliver (.tap token) { s with tap := { s.tap with ir := 0x21, extest := false } })

/-- DBG_HALT (R409): engines halt while debug is open with that scope; otherwise as BYPASS. -/
def execDbgHalt (s : State) : Host.Outcome State Fault Refusal :=
  .next (if bit (debugScope s) 2 then { s with tap := { s.tap with ir := 0x24, extest := false, halted := true } }
    else tapBypass 0x24 s)

/-- TAP_RESET (R447): only the test access port; IDCODE is selected. -/
def execTapReset (s : State) : Host.Outcome State Fault Refusal :=
  .next { s with tap := { s.tap with ir := 0x01, extest := false } }

end Sys2Proof.Machine
end

