-- ==== Sys2Proof/Machine/Cadastre.lean ====
section
/-! DEFINITION. The cadastre (R213 to R219), routes (R221 to R224), spill orders (R175, R176) and change lists (R229 to
R233): STAGE, LIST_CHECK_DONE, ARM and LIST_DISARM. -/
namespace Sys2Proof.Machine
open Sys2Proof

/-! ### The active plat -/

/-- A layer of the active plat. -/
def layerRec (s : State) (l : Nat) : Option LayerRec := s.ldr.active.bind (fun p => p.layers[l]?)

/-- The layers of the active plat. -/
def platLayers (s : State) : List LayerRec := (s.ldr.active.map (·.layers)).getD []

/-- D_MODEL of the active plat. -/
def dModel (s : State) : Nat := (s.ldr.active.map (·.dModel)).getD 0

/-- The layer an expert belongs to. -/
def layerOf (s : State) (e : Nat) : Option LayerRec := (platLayers s).find? (fun r => r.base ≤ e && e < r.base + r.experts)

/-- The LOOPS record of a layer (R56). -/
def loopOf (s : State) (l : Nat) : Option LoopRec := (s.ldr.active.map (·.loops)).getD [] |>.find? (fun r => r.layer = l)

/-- The number of the step the next datum starts (R39). -/
def nextStep (s : State) : Nat := if s.boot.stepStarted then s.stepNum + 1 else s.stepNum

/-! ### Entries (R213 to R219) -/

/-- An entry of zeros. -/
def zeroEntry : List Word32 := List.replicate 8 0

/-- Entry x of the live cadastre. -/
def cadEntry (s : State) (x : Nat) : List Word32 := storeGet zeroEntry x s.cad

/-- F_l of R214. -/
def firstEntry (s : State) (r : LayerRec) : Nat :=
  sumNat (((platLayers s).filter (fun q => q.base < r.base)).map (·.experts))

/-- The entry of an expert (R214). -/
def entryIx (s : State) (e : Nat) : Option Nat := (layerOf s e).map (fun r => firstEntry s r + (e - r.base))

/-- The expert of an entry. -/
def expertAt (s : State) (x : Nat) : Option Nat :=
  ((platLayers s).find? (fun r => firstEntry s r ≤ x && x < firstEntry s r + r.experts)).map
    (fun r => r.base + (x - firstEntry s r))

/-- The slots of an expert's entry. -/
def slotsFor (s : State) (e : Nat) : List Word32 := ((entryIx s e).map (cadEntry s)).getD zeroEntry

/-- A slot word. -/
def slotWord (state chip cap : Nat) : Word32 := BitVec.ofNat 32 (state * 2 ^ 30 + chip * 2 ^ 16 + cap)

/-- A slot word with another state. -/
def withState (w : Word32) (st : Nat) : Word32 := putBits w 31 30 st

/-- The fence set of the step: that of its datum (R218, R224). -/
def stepFences (s : State) : List Nat := (s.run.map (·.fences)).getD s.fences

/-- A slot is not EMPTY under R216 and R218. -/
def slotUsed (s : State) (w : Word32) : Bool := slotState w ≠ 0 && !(stepFences s).contains (slotChip w)

/-- The tally home of an expert (R219). -/
def homeOf (s : State) (e : Nat) : Option Nat := ((slotsFor s e).find? (slotUsed s)).map slotChip

/-- The slots of an expert with their indices. -/
def indexed (ws : List Word32) : List (Nat × Word32) := (List.range ws.length).zip ws

/-- The accepting replicas of an expert: LIVE and nothing else (R176, R216, R218). -/
def accepting (s : State) (e : Nat) : List (Nat × Word32) :=
  (indexed (slotsFor s e)).filter (fun x => slotState x.2 = 1 && slotUsed s x.2)

/-- This chip's slot for an expert that counts as non-EMPTY. -/
def ownSlot (s : State) (e : Nat) : Option (Nat × Word32) :=
  (indexed (slotsFor s e)).find? (fun x => slotUsed s x.2 && slotChip x.2 = chipId s)

/-- The experts this chip is home for, ascending. -/
def homedExperts (s : State) : List Nat :=
  (s.cad.filterMap (fun x => expertAt s x.1)).filter (fun e => homeOf s e = some (chipId s))

/-- The tier of R175. -/
def tierOf (o c : Nat) : Nat :=
  if c = o then 0 else if c / 8 = o / 8 then 1 else if rackOf c = rackOf o then 2 else 3

/-- The key by which R175 orders replica (index, word) for an origin. -/
def spillKey (o : Nat) (x : Nat × Word32) : Nat :=
  let c := slotChip x.2
  tierOf o c * 2 ^ 20 + (c + 16384 - o % 16384) % 16384 * 8 + x.1

/-- The spill order of an expert for an origin (R175). -/
def spillOrder (s : State) (e o : Nat) : List (Nat × Word32) := sortBy (spillKey o) (accepting s e)

/-! ### Routes (R221 to R224) -/

/-- The relay of a sender in a rack (R222). -/
def relayIn (s : State) (sender rack : Nat) : Option Nat :=
  ((List.range 64).map (fun i => rack * 64 + (sender % 64 + i) % 64)).find? (fun c => !(stepFences s).contains c)

/-- The first hop of a record from a sender to a chip (R221, R222). -/
def firstHop (s : State) (sender dst : Nat) : Nat :=
  if rackOf sender = rackOf dst then dst else (relayIn s sender (rackOf dst)).getD dst

/-- Whether a record from `src` for `dst` is forwarded by this chip (R224). -/
def mayForward (s : State) (src dst : Nat) (hop : Bool) : Bool :=
  !hop && rackOf dst = rackOf (chipId s) && rackOf src ≠ rackOf (chipId s)

/-! ### Change lists (R229 to R233) -/

/-- STAGE of CAD_STATUS (R243). -/
def ListStage.code : ListStage → Nat
  | .empty => 0
  | .checking => 1
  | .staged => 2
  | .armed => 3

/-- A CAD notice (R433). -/
def cadNotice (code event : Nat) (s : State) : State := notice 0x04 code 0x060 event s

/-- A record of a change list (R229). -/
structure ListRec where
  op : Nat
  expert : Nat
  slot : Nat
  chip : Nat
  cap : Nat
  rest : Nat
  deriving DecidableEq, Repr

/-- The records of a list image. -/
def listRecs (b : Bytes) : List ListRec :=
  (List.range (b.length / 8)).map (fun i =>
    let w := leAt b (8 * i) 8
    ⟨bits w 63 60, bits w 59 40, bits w 39 37, bits w 36 23, bits w 22 7, bits w 6 0⟩)

/-- The form of a record (check 1 of R230): a legal OP, no reserved bit, no field that the OP does not use. -/
def recForm (r : ListRec) : Bool :=
  1 ≤ r.op && r.op ≤ 5 && r.rest = 0 && (r.op = 1 || r.chip = 0) && (r.op = 1 || r.op = 4 || r.cap = 0)

/-- The precondition of a record on a slot (R230), given the slot before the list. -/
def recAllowed (r : ListRec) (live now : Word32) : Bool :=
  match r.op with
  | 1 => slotState now = 0
  | 2 => slotState now = 1 || slotState now = 3
  | 3 => slotState live = 2 && slotState now = 2
  | 4 => slotState now ≠ 0
  | _ => slotState now = 3

/-- The effect of a record on a slot (R230). -/
def recEffect (r : ListRec) (w : Word32) : Word32 :=
  match r.op with
  | 1 => slotWord 1 r.chip r.cap
  | 2 => withState w 2
  | 3 => 0
  | 4 => putBits w 15 0 r.cap
  | _ => withState w 1

/-- One record on the table: the table after it, or the code of R230. -/
def checkRec (s : State) (r : ListRec) (cad : Store (List Word32)) : Except Nat (Store (List Word32)) :=
  match entryIx s r.expert with
  | none => .error 0x11
  | some x =>
    let now := storeGet zeroEntry x cad
    if !recForm r then .error 0x11
    else if recAllowed r ((cadEntry s x).getD r.slot 0) (now.getD r.slot 0) then
      .ok (storeSet zeroEntry x (now.set r.slot (recEffect r (now.getD r.slot 0))) cad)
    else if r.op = 1 && now.all (fun w => slotState w ≠ 0) then .error 0x0F
    else .error 0x11

/-- Records in list order (check 1 of R230). -/
def checkRecs (s : State) : List ListRec → Store (List Word32) → Except Nat (Store (List Word32))
  | [], cad => .ok cad
  | r :: rs, cad =>
    match checkRec s r cad with
    | .ok c => checkRecs s rs c
    | .error e => .error e

/-- The code that rejects a list (R230), zero when it passes. -/
def listCode (s : State) (b : Bytes) : Nat :=
  let rs := listRecs b
  if rs.isEmpty then 0x11
  else match checkRecs s rs s.cad with
    | .error e => e
    | .ok cad =>
      let touched := (rs.filterMap (fun r => entryIx s r.expert)).map (fun x => storeGet zeroEntry x cad)
      if !touched.all (entryOk (chipCount s)) then 0x11
      else if 256 < maxResident (chipCount s) (cad.map (·.2)) then 0x10
      else 0

/-- STAGE (R231). -/
def listStage (s : State) : State :=
  match s.lst.stage with
  | .checking => record uCad 0x03 s
  | .armed => record uCad 0x12 s
  | st => { s with lst := { s.lst with stage := .checking, before := st, newSince := []
                                       newSrc := s.addr64 0x60010 0x60014, newCount := s.field 0x60018 14 0 } }

/-- STAGE. -/
def execStage (priv : Bool) (s : State) : Host.Outcome State Fault Refusal := .next (privGate uCad priv listStage s)

/-- LIST_CHECK_DONE (R230, R231): the list is staged, or rejected with the code of the first check that fails. -/
def listCheckDone (env : MemEnv) (s0 : State) : State :=
  let s := withEnv env s0
  match s.lst.stage with
  | .checking =>
    let l := s.lst
    let b := memBytes s.mem l.newSrc (8 * l.newCount)
    let code := if badLine env l.newSrc (8 * l.newCount) then 0x2B else listCode s b
    if code = 0 then
      cadNotice 0 0 { s with lst := { l with stage := .staged, src := l.newSrc, count := l.newCount, digest := sha384 b
                                             since := l.newSince, newSince := [] } }
    else cadNotice code 0 (record uCad code { s with lst := { l with stage := l.before, newSince := [] } })
  | _ => s

/-- LIST_CHECK_DONE. -/
def execListCheckDone (env : MemEnv) (s : State) : Host.Outcome State Fault Refusal := .next (listCheckDone env s)

/-- ARM (R231). -/
def listArm (s : State) : State :=
  match s.lst.stage with
  | .staged => { s with lst := { s.lst with stage := .armed } }
  | .armed => record uCad 0x12 s
  | _ => record uCad 0x13 s

/-- ARM. -/
def execArm (priv : Bool) (s : State) : Host.Outcome State Fault Refusal := .next (privGate uCad priv listArm s)

/-- DISARM of CAD_CTRL (R231). -/
def listDisarm (s : State) : State :=
  match s.lst.stage with
  | .armed => { s with lst := { s.lst with stage := .staged } }
  | _ => record uCad 0x13 s

/-- LIST_DISARM. -/
def execListDisarm (priv : Bool) (s : State) : Host.Outcome State Fault Refusal := .next (privGate uCad priv listDisarm s)

/-- One record at the switch (R233): a RESTORE of a slot quarantined since the STAGE write is ignored and counted. -/
def switchRec (r : ListRec) (s : State) : State :=
  match entryIx s r.expert with
  | none => s
  | some x =>
    let e := cadEntry s x
    let w := e.getD r.slot 0
    if r.op = 5 && s.lst.since.contains (r.expert, slotChip w) then s.bump16 0x60098 1
    else { s with cad := storeSet zeroEntry x (e.set r.slot (recEffect r w)) s.cad }

/-- The switch of the armed list (R233). -/
def switchList (b : Bytes) (s : State) : State :=
  let s1 := (listRecs b).foldl (fun s r => switchRec r s) s
  cadNotice 0 1 { s1 with lst := { s1.lst with stage := .empty, src := 0, count := 0, digest := [], since := [] } }

/-- A datum that activates a plat discards the staged or armed list (R65, R232); a list still being checked goes on. -/
def discardList (s : State) : State :=
  let l := s.lst
  let held := l.stage == .staged || l.stage == .armed || (l.stage == ListStage.checking && l.before == ListStage.staged)
  if held then
    cadNotice 0 3 (({ s with lst := { l with
      stage := (if l.stage == ListStage.checking then ListStage.checking else ListStage.empty), before := .empty, src := 0, count := 0, digest := []
      since := [] } }).bump16 0x60098 1)
  else s

/-- Set the slot of an expert on a chip QUARANTINED (R238). -/
def quarantineSlot (e chip : Nat) (s : State) : State :=
  match entryIx s e with
  | none => s
  | some x =>
    { s with
      cad := storeSet zeroEntry x ((cadEntry s x).map (fun w =>
        if slotState w ≠ 0 && slotChip w = chip then withState w 3 else w)) s.cad
      lst := { s.lst with since := s.lst.since ++ [(e, chip)], newSince := s.lst.newSince ++ [(e, chip)] } }

end Sys2Proof.Machine
end

