-- ==== Sys2Proof/Machine/Exa.lean ====
section
/-! DEFINITION. The exact accumulators: EXA-256 with its anchor and sticky flags (R112 to R118) and EXA-96 (R119 to
R123), and the ORDERED arithmetic of the collective engine (R286). -/
namespace Sys2Proof.Machine
open Sys2Proof

/-- An EXA-256 accumulator (R112): the integer, and the three sticky flags; `trunc` tells a truncated term (R114). -/
structure Exa256 where
  n     : Int
  nan   : Bool
  pinf  : Bool
  ninf  : Bool
  trunc : Bool
deriving DecidableEq, Repr

/-- The accumulator at the start of a pair (R112). -/
def Exa256.zero : Exa256 := ⟨0, false, false, false, false⟩

/-- Add one term (R114): converted on its own by truncation toward zero to a multiple of `2^(A − 200)`. -/
def Exa256.add (a : Int) (acc : Exa256) (t : Val) : Exa256 :=
  match t with
  | .nan => { acc with nan := true }
  | .inf false => { acc with pinf := true }
  | .inf true => { acc with ninf := true }
  | .fin s m e =>
    let (x, lost) := truncTo (a - 200) s m e
    { acc with n := acc.n + x, trunc := acc.trunc || lost }

/-- What a rounded score is counted as (R116, R117). -/
inductive ScoreClass where
  | plain | nan | inf | sat
deriving DecidableEq, Repr

/-- Round a signed integer times `2^q` once to binary32 with saturation (R116). -/
def roundSat32 (n : Int) (q : Int) : Word32 × Bool :=
  match encodeMag 24 (-149) 104 n.natAbs q with
  | .code c => (if n = 0 then 0 else f32Sign (n < 0) c, false)
  | .over => (f32Sign (n < 0) 0x7F7FFFFF, true)

/-- The score that an accumulator delivers, by the order of R117. -/
def Exa256.score (a : Int) (acc : Exa256) : Word32 × ScoreClass :=
  if acc.nan then (f32NaN, .nan)
  else if acc.pinf && acc.ninf then (f32NaN, .nan)
  else if acc.pinf then (f32Inf, .inf)
  else if acc.ninf then (f32NegInf, .inf)
  else
    let (w, sat) := roundSat32 acc.n (a - 200)
    (w, if sat then .sat else .plain)

/-- An MX or plain operand's block: 32 element codes and the scale (0x7F where the format has none, R105). -/
structure OpBlock where
  fmt   : Nat
  codes : List Nat
  scale : Nat
deriving DecidableEq, Repr

/-- Unbiased scale exponent, absent for a NaN scale. -/
def OpBlock.exp (b : OpBlock) : Option Int :=
  if fmtMx b.fmt then (if b.scale = 0xFF then none else some ((b.scale : Int) - 127)) else some 0

/-- The elements of a block as exact values, scale applied. -/
def OpBlock.vals (b : OpBlock) : List Val := b.codes.map (fun c => elemVal b.fmt c b.scale)

/-- Whether the pair of formats takes the bfloat16 path (R105). -/
def bf16Path (f g : Nat) : Bool := f = 0x05 || g = 0x05

/-- The block exponent of R113, absent when the block is left out. -/
def blockExp (x w : OpBlock) : Option Int :=
  if bf16Path x.fmt w.fmt then
    let es := (x.vals.zip w.vals).filterMap (fun p =>
      match p.1.log2, p.2.log2 with
      | some a, some b => some (a + b)
      | _, _ => none)
    match es with
    | [] => none
    | e :: rest => some (rest.foldl max e)
  else
    match x.exp, w.exp with
    | some a, some b => some (a + b)
    | _, _ => none

/-- The anchor A of a dot product (R113). -/
def anchorOf (bs : List (OpBlock × OpBlock)) : Int :=
  match bs.filterMap (fun p => blockExp p.1 p.2) with
  | [] => 0
  | e :: rest => rest.foldl max e

/-- The terms of one block (R114): single products in the bfloat16 path; in the 8-bit path the exact block sum when all
products are finite, and otherwise the special products. DESIGN CHOICE (log entry 38): the sum of the finite products of
such a block is still added, so that it can set the truncated flag. -/
def blockTerms (x w : OpBlock) : List Val :=
  let ps := (x.vals.zip w.vals).map (fun p => p.1.mul p.2)
  if bf16Path x.fmt w.fmt then ps
  else
    let specials := ps.filter (fun p => !p.isFin)
    specials ++ [(ps.filter Val.isFin).foldl Val.add (.fin false 0 0)]

/-- One dot product (R112 to R117): its anchor and its accumulator. -/
def dotProduct (bs : List (OpBlock × OpBlock)) : Int × Exa256 :=
  let a := anchorOf bs
  (a, (bs.map (fun p => blockTerms p.1 p.2)).flatten.foldl (Exa256.add a) Exa256.zero)

/-- An EXA-96 value (R119, R120): a finite integer or one of the three reserved values. -/
inductive Exa96 where
  | nan
  | inf (neg : Bool)
  | fin (n : Int)
deriving DecidableEq, Repr

/-- Addition of EXA-96 values (R121). -/
def Exa96.add : Exa96 → Exa96 → Exa96
  | .nan, _ => .nan
  | _, .nan => .nan
  | .inf a, .inf b => if a = b then .inf a else .nan
  | .inf a, .fin _ => .inf a
  | .fin _, .inf b => .inf b
  | .fin m, .fin n => .fin (m + n)

/-- The anchor of a set of terms (R119). -/
def exa96Anchor (ts : List Val) : Int :=
  match ts.filterMap Val.log2 with
  | [] => 0
  | e :: rest => rest.foldl max e

/-- One term converted under an anchor; the flag tells a cut (R119, R121). -/
def exa96Term (a : Int) : Val → Exa96 × Bool
  | .nan => (.nan, false)
  | .inf n => (.inf n, false)
  | .fin s m e =>
    let (x, lost) := truncTo (a - 80) s m e
    (.fin x, lost)

/-- The exact sum of terms under their own anchor. -/
def exa96Sum (ts : List Val) : Int × Exa96 :=
  let a := exa96Anchor ts
  (a, (ts.map (fun t => (exa96Term a t).1)).foldl Exa96.add (.fin 0))

/-- Rounding of an EXA-96 value to binary32 (`wide`) or bfloat16 (R122). -/
def Exa96.round (wide : Bool) (a : Int) : Exa96 → Nat × ScoreClass
  | .nan => (if wide then 0x7FC00000 else 0x7FC0, .nan)
  | .inf n => (if wide then (if n then 0xFF800000 else 0x7F800000) else (if n then 0xFF80 else 0x7F80), .inf)
  | .fin n =>
    if wide then
      let (w, sat) := roundSat32 n (a - 80)
      (w.toNat, if sat then .sat else .plain)
    else
      match encodeMag 8 (-133) 120 n.natAbs (a - 80) with
      | .code c => (if n = 0 then 0 else c + (if n < 0 then 0x8000 else 0), .plain)
      | .over => (0x7F7F + (if n < 0 then 0x8000 else 0), .sat)

/-- The 96-bit integer N of a value, as it travels (R120, R123). -/
def Exa96.code : Exa96 → Nat
  | .nan => 2 ^ 95
  | .inf true => 2 ^ 95 + 1
  | .inf false => 2 ^ 95 - 1
  | .fin n => (n % 2 ^ 96).toNat

/-- The value of a 96-bit integer N (R120). -/
def Exa96.ofCode (c : Nat) : Exa96 :=
  if c = 2 ^ 95 then .nan
  else if c = 2 ^ 95 + 1 then .inf true
  else if c = 2 ^ 95 - 1 then .inf false
  else .fin (if c < 2 ^ 95 then (c : Int) else (c : Int) - 2 ^ 96)

/-- Reduction operations of a descriptor (R280). -/
inductive RedOp where
  | sum | max | min
deriving DecidableEq, Repr

/-- Total order of MAX and MIN: −0.0 below +0.0 (R286). -/
def ltZeroAware (a b : Val) : Bool :=
  a.lt b || (a.isZero && b.isZero && a.sign && !b.sign)

/-- One ORDERED operation in binary32 (R286). -/
def orderedOp (op : RedOp) (a b : Word32) : Word32 :=
  match op with
  | .sum => f32Add a b
  | .max => if f32IsNaN a || f32IsNaN b then f32NaN else if ltZeroAware (f32Val a) (f32Val b) then b else a
  | .min => if f32IsNaN a || f32IsNaN b then f32NaN else if ltZeroAware (f32Val b) (f32Val a) then b else a

/-- An element of FMT 0x05 or 0x06 as binary32. -/
def toF32 (fmt c : Nat) : Word32 := if fmt = 0x05 then BitVec.ofNat 32 (c * 65536) else BitVec.ofNat 32 c

/-- Rounding of a binary32 value to FMT 0x05 or 0x06 (R286). -/
def ofF32 (fmt : Nat) (x : Word32) : Nat := if fmt = 0x05 then bf16Round (f32Val x) else x.toNat

/-- The residue weight base of a chain (R297). -/
def residueP : Nat := 2 ^ 61 - 1

/-- The residue of a list of 96-bit integers (R297). -/
def residueOf (chainIx : Nat) (ns : List Int) : Nat :=
  let h := 37 + 2 * chainIx
  (ns.foldl (fun (acc : Nat × Nat) n =>
    let w := acc.2 * h % residueP
    ((acc.1 + (n % (residueP : Int)).toNat * w) % residueP, w)) (0, 1)).1

end Sys2Proof.Machine
end

