-- ==== Sys2Proof/Machine/Sram.lean ====
section
/-! DEFINITION. Words found in error (R78, R89, R91 to R101, R125, R138, R220, R388): what is counted, which tiles and
records carry POISON from then on (R427), and what is fetched again; with it ALLOC_GRANT, which pops the free stacks. -/
namespace Sys2Proof.Machine
open Sys2Proof

/-! ### Tiles -/

/-- The fields of a tile's header that the stations use most. -/
def Tile.fmt (t : Tile) : Nat := t.hdr.fmt
def Tile.cols (t : Tile) : Nat := t.hdr.cols
def Tile.colBase (t : Tile) : Nat := t.hdr.colBase
def Tile.poison (t : Tile) : Bool := t.hdr.poison
def SelTile.poison (t : SelTile) : Bool := t.hdr.poison

/-- A header with POISON set. -/
def TileHdr.mark (h : TileHdr) : TileHdr := { h with poison := true }

/-- Tiles, of which the one in a buffer carries POISON from now on. -/
def markTiles (b : Nat × Nat) (ts : List Tile) : List Tile :=
  ts.map (fun t => if t.buf = some b then { t with hdr := t.hdr.mark } else t)

/-- The tiles of a row block. -/
def markBlock (b : Nat × Nat) (x : Block) : Block :=
  { x with token := markTiles b x.token, norm := x.norm.map (markTiles b), score := markTiles b x.score
           gate := x.gate.map (markTiles b)
           sel := x.sel.map (fun t => if t.buf = some b then { t with hdr := t.hdr.mark } else t) }

/-- A group's image with POISON in every member header (R198, R199). -/
def poisonGroup (b : Bytes) : Bytes :=
  let m := bits (leAt b 8 8) 18 15 + 1
  (List.range b.length).map (fun i => if i % 16 = 9 && i / 16 < m then b.getD i 0 ||| 0x20 else b.getD i 0)

/-- POISON in the return word of an output record (R252). -/
def poisonRecord (b : Bytes) : Bytes := b.take 8 ++ leBytes 8 (leAt b 8 8 ||| 2 ^ 20) ++ b.drop 16

/-- A group or record that waits to leave from its buffer. -/
def markMessage (b : Nat × Nat) (m : Message) : Message :=
  if m.tie.buf = some b && m.off = 0 then
    { m with payload := if m.kind = 1 then poisonGroup m.payload else if m.kind = 2 then poisonRecord m.payload else m.payload }
  else m

/-- The tiles, list segments and groups of a half. -/
def markHalf (b : Nat × Nat) (h : Half) : Half :=
  { h with blocks := h.blocks.map (markBlock b)
           segments := h.segments.map (fun g => if g.buf = some b then { g with poison := true } else g)
           sendQ := h.sendQ.map (fun g => if g.buf = some b then { g with image := poisonGroup g.image } else g) }

/-- A held tile of the cores. -/
def markHeld (b : Nat × Nat) (t : HeldTile) : HeldTile := if t.buf = b then { t with poison := true } else t

/-- A landed group. -/
def markRx (b : Nat × Nat) (g : RxGroup) : RxGroup := if (g.pool, g.ptr) = b then { g with image := poisonGroup g.image } else g

/-- A row block that COLLECT fills. -/
def markCollect (b : Nat × Nat) (c : Collect) : Collect := if c.bufs.contains b then { c with poison := true } else c

/-- The buffer holds a row that FEED has taken, an output that the registrar has matched, or a tile on its way to the
cores: its data would leave the Spaum or enter a result as it stands. -/
def pastPoison (s : State) (b : Nat × Nat) : Bool :=
  s.feeds.any (fun f => f.rows.any (fun r => decide ((r.pool, r.ptr) = b))) ||
    s.halves.any (fun h => h.outputs.any (fun o => decide ((o.pool, o.ptr) = b))) ||
    s.tports.any (fun p => p.queue.any (fun q => decide (q.2.2 = some b)))

/-- A word of a buffer reads uncorrectable (R78, R427): whatever the buffer holds carries POISON from then on. DEDUCED (log
entry 32): data that has passed the last place of R428 at which POISON is looked for raises E_POISON at once, since no
poisoned value reaches EMIT or the cores. A chain's buffer makes its collective abort with E_COLL_CHECK (R298). -/
def poisonBuf (b : Nat × Nat) (s : State) : State :=
  let s1 := { s with halves := s.halves.map (markHalf b), ingestHeld := s.ingestHeld.map (markHeld b)
                     collectHeld := s.collectHeld.map (markHeld b), recv := s.recv.map (markRx b)
                     collects := s.collects.map (markCollect b)
                     fep := { s.fep with waiting := s.fep.waiting.map (markMessage b) } }
  let s2 := if pastPoison s b then raiseAborts uSde 0x25 s1 else s1
  ((s2.cce.active.filter (fun c => c.bufs.contains b)).map (·.index)).foldl (fun s ix => raiseColl ix 0x2D s) s2

/-! ### Cadastre words read again (R220) -/

/-- The peers of R220 in the order in which they are asked. -/
def cadPeers (s : State) : List Nat :=
  ((List.range 63).map (fun i => rackOf (chipId s) * 64 + (chipId s % 64 + 1 + i) % 64)).filter (fun c => !fenced s c)

/-- Ask a peer for an entry: a management read of its cadastre table window. -/
def askEntry (x : Nat) (peers : List Nat) (tick : Nat) (s : State) : State :=
  match peers with
  | [] => { s with cadRefetch := s.cadRefetch ++ [⟨x, chipId s, [], 2 ^ 32, tick⟩] }
  | p :: rest =>
    mgmtRequest p 0x01 (0x400000 + 32 * x) 8 []
      { s with cadRefetch := s.cadRefetch ++ [⟨x, p, rest, s.mgmtNext, tick⟩] }

/-- Start the fetch of an entry that read uncorrectable, once. -/
def refetchEntry (x : Nat) (s : State) : State :=
  if s.cadRefetch.any (fun r => r.entry = x) then s else askEntry x (cadPeers s) s.tb s

/-! ### Words in error -/

/-- The replay log unit meets a word that both its copies read uncorrectable (R388). -/
def logFault (s : State) : State :=
  if s.rlog.fault then s else securityCode uSde 0x69 { s with rlog := { s.rlog with fault := true } }

/-- A word of a station's input queue (R91, R100). -/
def queueError (c : Nat) (b : Nat × Nat) (fatal : Bool) (s : State) : State :=
  if c = 0 || 15 < c then s
  else if fatal then poisonBuf b (s.setField (0x20100 + 4 * c) 29 29 1)
  else s.bumpField (0x20100 + 4 * c) 23 16 1

/-- One word found in error. A corrected word is used as corrected. The rows of R125 and the lanes of R94 are seen to by the
commands that read them. -/
def takeError (e : ErrEvent) (s : State) : State :=
  match e.place with
  | .region r off =>
    let s1 := countSram e.fatal (bankAt s r off) s
    if r = 3 && e.fatal then refetchEntry (off / 32) s1 else s1
  | .buffer p ptr off =>
    let s1 := countSram e.fatal (bankAt s 0 (bufAddr s p ptr + off)) s
    if e.fatal then poisonBuf (p, ptr) s1 else s1
  | .queue c p ptr => queueError c (p, ptr) e.fatal s
  | .path p ptr => if e.fatal then poisonBuf (p, ptr) s else s
  | .accumulator _ => if e.fatal then s.bumpField 0x30030 31 16 1 else s.bumpField 0x30030 15 0 1
  | .table off =>
    let s1 := countSram e.fatal (bankAt s 7 off) s
    if e.fatal then s1.bumpField 0x31038 15 0 1 else s1
  | .stack p off =>
    let s1 := countSram e.fatal (bankAt s 7 off) s
    if e.fatal then withdrawTop p s1 else s1
  | .lane _ => s
  | .log => if e.fatal then logFault s else s

/-- The words that a command found in error, in order. -/
def takeErrors (es : Errs) (s : State) : State := es.foldl (fun s e => takeError e s) s

/-- The rows of a pair of which an accumulator word read uncorrectable (R125). -/
def lostRows (es : Errs) : List Nat :=
  es.filterMap (fun e => match e.place with
    | .accumulator row => if e.fatal then some row else none
    | _ => none)

/-- A word of a region reads uncorrectable. -/
def lostIn (r : Nat) (es : Errs) : Bool :=
  es.any (fun e => match e.place with
    | .region q _ => e.fatal && q = r
    | _ => false)

/-- The entry of an expert is being fetched again (R220); a lookup that needs it waits. -/
def awaiting (s : State) (e : Nat) : Bool :=
  match entryIx s e with
  | some x => s.cadRefetch.any (fun c => c.entry = x)
  | none => false

/-! ### ALLOC_GRANT -/

/-- ALLOC_GRANT (R83, R85, R89): the waiting allocation of a pool that is served next is granted; its engine takes the
buffer up when it goes on. -/
def allocGrant (p : Nat) (s : State) : State :=
  match nextWaiter s p with
  | none => s
  | some w =>
    let r := takeBuf p w.owner { s with pools := { s.pools with waiters := s.pools.waiters.erase w } }
    traceEvent 7 0x02 (poolArg p w.owner)
      { r.2 with pools := { r.2.pools with granted := r.2.pools.granted ++ [⟨p, r.1, w.owner, w.key⟩] } }

end Sys2Proof.Machine
end

