-- ==== Sys2Proof/Machine/Ingest.lean ====
section
/-! DEFINITION. Tiles (R31 to R34), the checks of tiles from the cores (R35), the stations' input queues (R30, R95 to
R97), and INGEST (R36, R37, R41): TOKEN_TILE_ARRIVE. -/
namespace Sys2Proof.Machine
open Sys2Proof

/-! ### Headers (R32) -/

/-- The header of a tile image. -/
def hdrOf (b : Bytes) : TileHdr :=
  let f := leAt b 0x1B 1
  { step := bits (leAt b 0 8) 55 0, kind := leAt b 8 1, fmt := leAt b 9 1, layer := leAt b 0xA 1, half := leAt b 0xB 1 % 2
    rows := leAt b 0xC 2, cols := leAt b 0xE 2, base := leAt b 0x10 2, gen := leAt b 0x12 2 % 1024
    expert := bits (leAt b 0x14 4) 19 0, colBase := leAt b 0x18 2, src := leAt b 0x1A 1 % 16
    poison := bit f 2, lastBlock := bit f 1, lastCol := bit f 0, contract := leAt b 0x1C 2 }

/-- The 64 bytes of a header, HCRC included. -/
def TileHdr.bytes (h : TileHdr) : Bytes :=
  let b := leBytes 8 h.step ++ leBytes 1 h.kind ++ leBytes 1 h.fmt ++ leBytes 1 h.layer ++ leBytes 1 h.half ++
    leBytes 2 h.rows ++ leBytes 2 h.cols ++ leBytes 2 h.base ++ leBytes 2 h.gen ++ leBytes 4 h.expert ++
    leBytes 2 h.colBase ++ leBytes 1 h.src ++ leBytes 1 (b2n h.lastCol + 2 * b2n h.lastBlock + 4 * b2n h.poison) ++
    leBytes 2 h.contract ++ List.replicate 30 0
  b ++ leBytes 4 (crc32c b)

/-- Every reserved bit of R32 is zero. -/
def hdrReserved (b : Bytes) : Bool :=
  leAt b 7 1 = 0 && leAt b 0xB 1 < 2 && leAt b 0x12 2 < 1024 && leAt b 0x14 4 < 2 ^ 20 && leAt b 0x1A 1 < 16 &&
    leAt b 0x1B 1 < 8 && allZero (bytesAt b 0x1E 30)

/-- The formats of R33, by kind, of the tiles that the cores make. -/
def kindFmts (kind : Nat) : List Nat :=
  match kind with
  | 0x01 => [1, 2, 3, 4, 5]
  | 0x06 => [3, 5, 6]
  | 0x09 => [5, 6]
  | _ => []

/-- The station contract version of the loaded plat. -/
def contractOf (s : State) : Nat := (s.ldr.active.map (·.contract)).getD 0

/-- A header from the cores is legal for a kind (R35). -/
def headerLegal (s : State) (kind : Nat) (b : Bytes) : Bool :=
  let h := hdrOf b
  leAt b 0x3C 4 = crc32c (b.take 0x3C) && hdrReserved b && h.kind = kind && (kindFmts kind).contains h.fmt &&
    h.rows ≤ 256 && h.cols ≤ 256 && (!fmtMx h.fmt || h.cols % 32 = 0) &&
    (if kind = 6 then h.base = 0 else h.base + h.rows ≤ (s.ldr.active.map (·.slots)).getD 0) &&
    h.layer < (platLayers s).length && h.contract = contractOf s

/-- The bytes of a tile image of a header. -/
def hdrImage (h : TileHdr) (tags : Bool) : Nat := tileBytes tags h.rows h.cols (fmtSize h.fmt) (fmtMx h.fmt)

/-- The element codes of a tile image, row by row. -/
def elemsOf (h : TileHdr) (tags : Bool) (b : Bytes) : List (List Nat) :=
  let sz := fmtSize h.fmt
  let off := 64 + (if tags then pad64 (8 * h.rows) else 0)
  (List.range h.rows).map (fun r => (List.range h.cols).map (fun c => leAt b (off + (r * h.cols + c) * sz) sz))

/-- The scale bytes of a tile image, row by row; empty where the format has none. -/
def scalesOf (h : TileHdr) (tags : Bool) (b : Bytes) : List (List Nat) :=
  let off := 64 + (if tags then pad64 (8 * h.rows) else 0) + pad64 (h.rows * h.cols * fmtSize h.fmt)
  let n := h.cols / 32
  if fmtMx h.fmt then (List.range h.rows).map (fun r => (List.range n).map (fun j => leAt b (off + r * n + j) 1))
  else List.replicate h.rows []

/-- A tile image: header, tags, elements and scales, each padded (R31). -/
def tileImage (h : TileHdr) (tags : List Nat) (elems scales : List (List Nat)) : Bytes :=
  h.bytes ++ padTo 64 (tags.flatMap (leBytes 8)) ++ padTo 64 (elems.flatten.flatMap (leBytes (fmtSize h.fmt))) ++
    padTo 64 (scales.flatten.flatMap (leBytes 1))

/-- The tile of an image, POISON set when a word of it has read uncorrectable since the cores sent it. -/
def tileOf (b : Bytes) (buf : Nat × Nat) (bad : Bool) : Tile :=
  let h := hdrOf b
  ⟨{ h with poison := h.poison || bad }, elemsOf h false b, scalesOf h false b, some buf⟩

/-- A trace event of lane 0 (R468): a station takes (1) or releases (2) a tile. -/
def traceTile (ev station kind l h base colBase rows : Nat) (s : State) : State :=
  traceEvent 0 ev (station + kind * 2 ^ 8 + l * 2 ^ 16 + h * 2 ^ 24 + base * 2 ^ 32 + colBase * 2 ^ 48 + rows * 2 ^ 64) s

/-! ### Halves -/

/-- A tally that has not begun. -/
def Tally.start : Tally :=
  { phase := .idle, trip := 0, trips := 1, counts := [], scanTick := 0, undelivered := 0, contributed := false
    closed := false, homes := [], grants := [] }

/-- A half of which no tile has arrived. -/
def Half.start (l h : Nat) : Half :=
  { layer := l, half := h, blocks := [], closed := false, tally := Tally.start, loans := none, fated := 0, sort := .idle
    sortTrip := 0, segBufs := [], segments := [], packTrip := 0, sendQ := [], outputs := [], emitted := false
    loansFreed := false }

/-- The halves of a step in the order of R30. -/
def halfOrder (s : State) : List (Nat × Nat) :=
  (List.range (platLayers s).length).flatMap (fun l => [(l, 0), (l, 1)])

/-- Whether a half of the step meets a condition; one of which no tile has arrived does not. -/
def halfMeets (s : State) (p : Half → Bool) (x : Nat × Nat) : Bool :=
  match halfAt s x.1 x.2 with
  | some h => p h
  | none => false

/-- Every earlier half of the step meets a condition (R30). -/
def earlier (s : State) (l h : Nat) (p : Half → Bool) : Bool :=
  ((halfOrder s).takeWhile (fun x => x ≠ (l, h))).all (halfMeets s p)

/-- The layer and half that INGEST is taking. -/
def ingestAt (s : State) : Option (Nat × Nat) := (halfOrder s).find? (fun x => !halfMeets s (·.closed) x)

/-- The block of a half by its SLOT_BASE. -/
def blockAt (s : State) (b : BlockId) : Option Block :=
  (halfAt s b.layer b.half).bind (fun h => h.blocks.find? (fun x => x.base = b.base))

/-- Change a block. -/
def modBlock (b : BlockId) (f : Block → Block) (s : State) : State :=
  modHalf b.layer b.half (fun h => { h with blocks := h.blocks.map (fun x => if x.base = b.base then f x else x) }) s

/-- NORM is present in the active plat. -/
def normPresent (s : State) : Bool := (s.ldr.active.map (·.norm)).getD false

/-! ### Row blocks and the queues between stations (R30, R95 to R97) -/

/-- DEPTH of a station's input queue (R50). -/
def depthOf (s : State) (code : Nat) : Nat := ((s.ldr.active.map (fun p => (p.stations.getD (code - 1) (0, 0)).1))).getD 0

/-- BIND of a station (R50). -/
def bindOf (s : State) (code : Nat) : Nat := (s.ldr.active.map (fun p => (p.stations.getD (code - 1) (0, 0)).2)).getD 0

/-- The columns a block has so far. -/
def Block.cols (b : Block) : Nat := sumNat (b.token.map Tile.cols)

/-- A row block without rows and columns (R41). -/
def Block.empty (b : Block) : Bool := b.rows = 0 && b.cols = 0

/-- The tiles that SCORE and PACK take (R139). -/
def Block.input (s : State) (b : Block) : Option (List Tile) :=
  if normPresent s then b.norm else if b.complete then some b.token else none

/-- The column blocks of a row block's SCORE tiles: one for an empty half (R111). -/
def colBlocks (r : LayerRec) (b : Block) : Nat := if b.empty then 1 else ceilDiv r.experts 256

/-- The array that takes a column block (R108). -/
def arrayOf (s : State) (c : Nat) : Nat :=
  match bindOf s 3 with
  | 1 => 0
  | 2 => 1
  | _ => c % 2

/-- A column block of a block has its SCORE tile. -/
def scored (b : Block) (c : Nat) : Bool := b.score.any (fun t => t.colBase = 256 * c)

/-- The column blocks of a row block that an array takes. -/
def shareOf (s : State) (r : LayerRec) (b : Block) (array : Nat) : List Nat :=
  (List.range (colBlocks r b)).filter (fun c => arrayOf s c = array)

/-- An array has done its share of a row block. -/
def arrayDone (s : State) (array : Nat) (k : BlockId) (b : Block) : Bool :=
  b.gate.isSome || match layerRec s k.layer with
    | some r => (shareOf s r b array).all (scored b)
    | none => true

/-- The SCORE tiles that have entered GATE's queue: in ascending COL_BASE, a tile finished early waiting its turn (R111). -/
def handedScores (b : Block) : Nat := ((List.range b.score.length).takeWhile (scored b)).length

/-- The complete row blocks of the step in the order in which every station takes them (R30, R108). -/
def stepBlocks (s : State) : List (BlockId × Block) :=
  (halfOrder s).flatMap (fun x => match halfAt s x.1 x.2 with
    | some h => (h.blocks.filter (·.complete)).map (fun b => (⟨x.1, x.2, b.base⟩, b))
    | none => [])

/-- The row blocks that wait behind the one a station works on: the station takes the descriptors of that one at once, so
they stand no longer in its queue (log entry 30). -/
def behind (s : State) (done : BlockId → Block → Bool) : List Block :=
  (((stepBlocks s).filter (fun x => !done x.1 x.2)).drop 1).map (·.2)

/-- The row blocks that neither array has reached. -/
def behindScore (s : State) : List Block :=
  let arrays := (List.range 2).filter (fun a => bit (bindOf s 3) a)
  let waits := arrays.map (fun a => behind s (arrayDone s a))
  (waits.foldl (fun acc w => match acc with
    | none => some w
    | some v => some (if w.length < v.length then w else v)) none).getD []

/-- The packets that wait at a station (R95, R97, R102; log entry 30). A request that waits for RECV's buffer stands for a
group in RECV's queue. -/
def queueLen (s : State) (c : Nat) : Nat :=
  let sum := fun (bs : List Block) (f : Block → Nat) => sumNat (bs.map f)
  let rest := fun (n : Nat) => min (depthOf s c) (n - 1)
  match c with
  | 1 => s.ingestHeld.length
  | 2 => if normPresent s then sum (behind s (fun _ b => b.norm.isSome)) (·.token.length) else 0
  | 3 => sum (behindScore s) (fun b => ((b.input s).map (·.length)).getD 0)
  | 4 => sum (behind s (fun _ b => b.gate.isSome)) handedScores
  | 5 => sum (behind s (fun _ b => b.sel.isSome)) (fun b => (b.gate.map (·.length)).getD 0)
  | 6 => sum (behind s (fun _ b => b.counted)) (fun b => b2n b.sel.isSome)
  | 7 => min (depthOf s 7) (sumNat ((s.halves.flatMap (fun h => List.replicate (h.fated - h.sortTrip) h.blocks.length)).drop 1))
  | 8 => rest (sumNat (s.halves.map (fun h => h.segments.length)))
  | 9 => sumNat (s.halves.map (fun h => h.sendQ.length))
  | 0xA => min (depthOf s 0xA) (s.pools.waiters.filter (fun w => w.key.head? = some 0xA)).length
  | 0xB => min (depthOf s 0xB) s.recv.length
  | 0xC => s.collectHeld.length
  | 0xD => min (depthOf s 0xD) (s.pools.waiters.filter (fun w => w.key.head? = some 0xD)).length
  | 0xE => min (depthOf s 0xE) (sumNat (s.halves.map (fun h => h.outputs.length)))
  | 0xF => min (depthOf s 0xF) (sumNat (s.tports.map (fun p => (p.queue.filter (fun x => !x.1)).length)))
  | _ => 0

/-- A station's queue holds no more than DEPTH packets (R95). -/
def fits (s : State) (c : Nat) : Bool := queueLen s c ≤ depthOf s c

/-- A station has written into the queue of the next one: where the packets do not fit, the station stalls before the first
of them and nothing changes (R30, R93, R96). -/
def intoQueue (c : Nat) (before after : State) : State := if fits after c then after else before

/-! ### INGEST -/

/-- An illegal tile (R35): discarded, its buffer released, and the step aborts with E_TILE_HEADER. -/
def illegalTile (buf : Nat × Nat) (s : State) : State := raiseAborts uSde 0x20 (release buf.1 buf.2 s)

/-- Two column tiles belong to one row block (R37). -/
def sameBlock (a b : TileHdr) : Bool :=
  a.step = b.step && a.layer = b.layer && a.half = b.half && a.base = b.base && a.rows = b.rows && a.fmt = b.fmt &&
    a.lastBlock = b.lastBlock

/-- The empty tile of a half without tokens (R41). -/
def TileHdr.empty (h : TileHdr) : Bool := h.rows = 0 && h.cols = 0

/-- A tile follows the delivery order of its port (R37). -/
def deliveryOk (s : State) (port : Nat) (h : TileHdr) : Bool :=
  let next := match s.tokenLast.getD port none with
    | some g => if g.lastCol then decide (h.colBase = 0) else sameBlock g h && h.colBase = g.colBase + g.cols
    | none => decide (h.colBase = 0)
  next && (if h.empty then h.lastBlock && h.lastCol else
    h.colBase + h.cols ≤ dModel s && h.lastCol = decide (h.colBase + h.cols = dModel s) && (h.lastCol || h.cols = 256))

/-- A new row block may stand in a half (R37, R41). -/
def blockFits (x : Half) (h : TileHdr) : Bool :=
  !(x.blocks.any (fun b => b.base < h.base + h.rows && h.base < b.base + b.rows)) &&
    !(h.lastBlock && x.blocks.any (·.lastBlock)) && !(h.empty && !x.blocks.isEmpty) &&
    !(x.blocks.any (fun b => b.base = h.base))

/-- Every slot below the highest one delivered is covered (R41). -/
def covered (bs : List Block) : Bool :=
  (sortBy (·.base) bs).foldl (fun (acc : Bool × Nat) b => (acc.1 && b.base ≤ acc.2, max acc.2 (b.base + b.rows))) (true, 0) |>.1

/-- A block opened by its first column tile. -/
def newBlock (port : Nat) (h : TileHdr) : Block :=
  { base := h.base, rows := h.rows, fmt := h.fmt, gen := h.gen, port := port, lastBlock := h.lastBlock, complete := false
    token := [], norm := none, anchors := [], score := [], gate := none, sel := none, counted := false, combined := []
    results := 0, released := false }

/-- INGEST takes a tile of the layer and half in progress (R37, R41); its buffer is held for the stations that follow and
for COMBINE's residual (R139, R205). The complete blocks of a half stand in the order of their last column tile (R108). -/
def takeToken (t : HeldTile) (s : State) : State :=
  let h := hdrOf t.image
  let x := (halfAt s h.layer h.half).getD (Half.start h.layer h.half)
  let cur := x.blocks.find? (fun b => b.base = h.base && b.port = t.port && !b.complete)
  if !headerLegal s 1 t.image || x.closed || (cur.isNone && (h.colBase ≠ 0 || !blockFits x h)) then illegalTile t.buf s
  else
    let b := cur.getD (newBlock t.port h)
    let b1 := { b with token := b.token ++ [tileOf t.image t.buf t.poison], complete := h.lastCol }
    let others := x.blocks.filter (fun y => y.base ≠ h.base)
    let blocks := if h.lastCol then others.filter (·.complete) ++ [b1] ++ others.filter (!·.complete)
      else if cur.isSome then x.blocks.map (fun y => if y.base = h.base then b1 else y) else x.blocks ++ [b1]
    let last := h.lastCol && h.lastBlock
    if last && !covered blocks then illegalTile t.buf s
    else
      let x1 := { x with blocks := blocks, closed := last }
      let s1 := { s with halves :=
        if (halfAt s h.layer h.half).isSome then s.halves.map (fun y => if y.layer = h.layer && y.half = h.half then x1 else y)
        else s.halves ++ [x1] }
      traceTile 1 1 1 h.layer h.half h.base h.colBase h.rows (setRefs t.buf.1 t.buf.2 2 s1)

/-- The station that INGEST hands its row blocks to. -/
def afterIngest (s : State) : Nat := if normPresent s then 2 else 3

/-- Take the held tiles that INGEST has reached, in queue order (R36), while the queue of the next station has room for the
row blocks that they complete (R30). -/
def takeHeld : Nat → State → State
  | 0, s => s
  | n + 1, s =>
    if !stepLive s then s
    else match ingestAt s with
      | none => s
      | some x =>
        match s.ingestHeld.find? (fun t => (hdrOf t.image).step = s.stepNum && ((hdrOf t.image).layer, (hdrOf t.image).half) = x) with
        | none => s
        | some t =>
          let s1 := takeToken t { s with ingestHeld := s.ingestHeld.erase t }
          if fits s1 (afterIngest s) then takeHeld n s1 else s

/-- INGEST goes on as far as it can: when a tile arrives, when the step starts and when the next station has taken a row
block. -/
def ingestOn (s : State) : State := takeHeld s.ingestHeld.length s

/-- An armed plat whose PARTITION or POOLS section differs from the active plat's (R90); the first activation always
builds the pools. -/
def rebuildArmed (s : State) : Bool :=
  s.ldr.stage == .armed && (match s.ldr.staged, s.ldr.active with
    | some p, some a => p.partition ≠ a.partition || p.poolBytes ≠ a.poolBytes
    | some _, none => true
    | none, _ => false)

/-- INGEST accepts no tile of the following step (R90): such a plat is armed, or the pools still wait to be built for it. -/
def rebuilding (s : State) : Bool := rebuildArmed s || s.dat.needPools

/-- The tile is held at its port, whose credits stall the cores (R36, R90): INGEST's queue is full, or the pools are to be
built before the step of the tile. -/
def stallsPort (s : State) (h : TileHdr) : Bool :=
  (0 < depthOf s 1 && depthOf s 1 ≤ s.ingestHeld.length) ||
    (rebuilding s && h.step = nextStep s && !(s.boot.stepStarted && h.step = s.stepNum))

/-- A legal TOKEN tile enters INGEST's queue and is taken from there (R36). A tile of a half already finished is illegal
(R37). -/
def placeToken (t : HeldTile) (s : State) : State :=
  let h := hdrOf t.image
  let mine := s.boot.stepStarted && h.step = s.stepNum
  if mine && halfMeets s (·.closed) (h.layer, h.half) then illegalTile t.buf s
  else
    ingestOn { s with ingestHeld := s.ingestHeld ++ [t], tokenLast := s.tokenLast.set t.port (some h) }

/-- A TOKEN tile whose buffer has been allocated (R35, R36). -/
def landToken (t : HeldTile) (s : State) : State :=
  let h := hdrOf t.image
  if !headerLegal s 1 t.image then illegalTile t.buf s
  else if s.boot.stepStarted && h.step = s.stepNum && !stepLive s then (release t.buf.1 t.buf.2 s).bump 0x80050 1
  else if !deliveryOk s t.port h then illegalTile t.buf s
  else if (s.boot.stepStarted && h.step = s.stepNum) || h.step = nextStep s then placeToken t s
  else illegalTile t.buf s

/-- A word of the arriving tile itself read uncorrectable on its way in (R93, R101). -/
def arrivedBad (es : Errs) : Bool :=
  es.any (fun e => match e.place with
    | .path _ _ => e.fatal
    | _ => false)

/-- The errors of a command that brings a tile, those on the tile's own way in apart. -/
def otherErrors (es : Errs) : Errs :=
  es.filter (fun e => match e.place with
    | .path _ _ => false
    | _ => true)

/-- TOKEN_TILE_ARRIVE (R35, R36, R101): the tile waits at the port while its queue is full, while no buffer can be granted
(R85) or while R90 keeps INGEST from accepting tiles of the following step. -/
def tokenTileArrive (port : Nat) (b : Bytes) (errs : Errs) (s0 : State) : State :=
  let s := takeErrors (otherErrors errs) s0
  let h := hdrOf b
  if stallsPort s h then s
  else match alloc (hdrImage h false) (stationOwner s 1) [1, port, h.step] s with
    | (none, s1) => s1
    | (some buf, s1) => landToken ⟨port, b, buf, arrivedBad errs⟩ s1

/-- TOKEN_TILE_ARRIVE. -/
def execTokenTileArrive (port : Nat) (tile : Bytes) (s : State) (errs : Errs := []) : Host.Outcome State Fault Refusal :=
  .next (tokenTileArrive port tile errs s)

end Sys2Proof.Machine
end

