-- ==== Sys2Proof/Machine/Rounds.lean ====
section
/-! DEFINITION. The express path (R296, R303, R305): CONTRIB, PARTIAL, PARTIAL_ACK and PARTIAL_COPY_REQUEST, and what a fence
does to open rounds. -/
namespace Sys2Proof.Machine
open Sys2Proof

/-! ### Express messages (R296) -/

/-- The fields of an express message. -/
def xpType (m : Bytes) : Nat := leAt m 0 1
def xpOpw (m : Bytes) : Nat := leAt m 1 1
def xpGroup (m : Bytes) : Nat := leAt m 2 2
def xpTag (m : Bytes) : Nat := leAt m 4 2
def xpSender (m : Bytes) : Nat := bits (leAt m 6 2) 13 0
def xpStep (m : Bytes) : Nat := leAt m 0xA 6
def xpPayload (m : Bytes) : Bytes := bytesAt m 16 (leAt m 9 1)

/-- The key of the round that a message belongs to. -/
def xpKey (m : Bytes) : RoundKey := ⟨xpGroup m, xpTag m, leAt m 8 1, xpStep m⟩

/-- One lane operation of OPW. -/
def laneOp (op a b : Nat) : Nat :=
  match op with
  | 0 => max a b
  | 1 => min a b
  | 2 => a + b
  | 3 => a ||| b
  | 4 => a &&& b
  | _ => (f32Add (BitVec.ofNat 32 a) (BitVec.ofNat 32 b)).toNat

/-- Two payloads reduced lane by lane; lane width 0 stands for 16 bytes. -/
def reduceTwo (opw : Nat) (a b : Bytes) : Bytes :=
  let w := if opw % 16 = 0 then 16 else opw % 16
  (List.range (a.length / w)).flatMap (fun i => leBytes w (laneOp (opw / 16) (leAt a (i * w) w) (leAt b (i * w) w)))

/-- Payloads reduced in ascending order of their number (R303: binary32 SUM in ascending chip identifier or rack). -/
def reduceAll (opw : Nat) (xs : List (Nat × Bytes)) : Bytes :=
  match sortBy (·.1) xs with
  | [] => []
  | x :: rest => rest.foldl (fun a b => reduceTwo opw a b.2) x.2

/-! ### The collector (R303) -/

/-- The racks of a round. -/
def Round.racks (s : State) (r : Round) : List Nat := ((r.left s).map rackOf).eraseDups

/-- Step 2 of R303: a collector whose rack has contributed sends the rack's partial. -/
def tryPartial (k : RoundKey) (s : State) : State :=
  match roundAt s k with
  | none => s
  | some r =>
    let me := chipId s
    let rack := (r.left s).filter (fun c => rackOf c = rackOf me)
    if !isCollector s r || (r.partialOf (rackOf me)).isSome || !rack.all (fun c => r.contribs.any (fun x => x.1 = c)) then s
    else
      let p := reduceAll r.opw (r.contribs.filter (fun x => rack.contains x.1))
      let s1 := modRound k (fun r => { r with partials := r.partials ++ [(me, p)], sentPartial := true }) s
      (otherCollectors s r).foldl (fun s c => sendExpress c xPartial r.opw k p s) s1

/-- Step 3 of R303: a collector with every partial, whose own has been acknowledged, sends the result to its rack. -/
def tryResult (k : RoundKey) (s : State) : State :=
  match roundAt s k with
  | none => s
  | some r =>
    let me := chipId s
    let racks := r.racks s
    let acked := !r.sentPartial || (otherCollectors s r).all (fun c => r.acks.contains c)
    if !isCollector s r || r.result.isSome || !acked || !racks.all (fun k => (r.partialOf k).isSome) then s
    else
      let v := reduceAll r.opw (racks.map (fun k => (k, (r.partialOf k).getD [])))
      ((r.left s).filter (fun c => rackOf c = rackOf me)).foldl (fun s c => sendExpress c xResult r.opw k v s)
        (modRound k (fun r => { r with result := some v }) s)

/-- A round goes on as far as it can. -/
def runRound (k : RoundKey) (s : State) : State := tryResult k (tryPartial k s)

/-- A round of an express message, opened with no member known until this chip contributes. -/
def openFor (m : Bytes) (s : State) : State := openRound (xpKey m) (xpOpw m) [] s

/-- This chip contributes again at a new collector's request; a chip that holds the result answers with it (R305). -/
def contributeAgain (src : Nat) (k : RoundKey) (s : State) : State :=
  match roundAt s k with
  | none => s
  | some r =>
    match r.result, r.own with
    | some v, _ => sendExpress src xResult r.opw k v s
    | none, some p => sendExpress src xContrib r.opw k p s
    | none, none => s

/-- This chip has asked its rack to contribute again. -/
def Round.askedRack (s : State) (r : Round) : Bool := r.asked.contains (chipId s, chipId s)

/-- A message that opens the next use of a key whose round this chip holds the result of. -/
def openNext (m : Bytes) (s : State) : State :=
  openFor m (if ((roundAt s (xpKey m)).bind (·.result)).isSome then renewRound (xpKey m) s else s)

/-- A contribution joins those of its rack. -/
def takeContrib (src : Nat) (m : Bytes) (s : State) : State :=
  let k := xpKey m
  runRound k (modRound k (fun r => { r with contribs := r.contribs.filter (fun x => x.1 ≠ src) ++ [(src, xpPayload m)] }) (openNext m s))

/-- CONTRIB (R303, R305): an empty payload asks for the contribution again. A contribution that was asked for and comes after
the result has been found is answered with it. -/
def contribArrive (src : Nat) (m : Bytes) (s : State) : State :=
  let k := xpKey m
  if (xpPayload m).isEmpty then contributeAgain src k s
  else match roundAt s k with
    | none => takeContrib src m s
    | some r =>
      match r.result with
      | none => takeContrib src m s
      | some v =>
        if r.askedRack s && !r.contribs.any (fun x => x.1 = src) then sendExpress src xResult r.opw k v s
        else takeContrib src m s

/-- CONTRIB. -/
def execContrib (src : Nat) (msg : Bytes) (s : State) : Host.Outcome State Fault Refusal := .next (contribArrive src msg s)

/-- An answer to a request for a partial (R305): a copy is used, and a collector's own is acknowledged; when every collector
has answered without one for this chip's rack, its collector starts the rack again. -/
def copyAnswer (c src : Nat) (k : RoundKey) (p : Bytes) (s : State) : State :=
  let s1 := modRound k (fun r => { r with
    asked := r.asked.filter (fun a => a ≠ (c, src))
    partials := if p.isEmpty || (r.partialOf (rackOf c)).isSome then r.partials else r.partials ++ [(c, p)] }) s
  match roundAt s1 k with
  | none => s1
  | some r =>
    let s2 := if c = src && !p.isEmpty then sendExpress src xPartialAck r.opw k [] s1 else s1
    if (r.partialOf (rackOf c)).isNone && !r.asked.any (fun a => a.1 = c) && rackOf c = rackOf (chipId s2) && isCollector s2 r then askRack k s2
    else s2

/-- A partial answers a request of this chip's. -/
def answersAsk (s : State) (k : RoundKey) (c src : Nat) : Bool := ((roundAt s k).map (fun r => r.asked.contains (c, src))).getD false

/-- PARTIAL (R303, R305): another collector's partial is kept and acknowledged; one that was asked for is a copy. -/
def partialArrive (src : Nat) (m : Bytes) (s : State) : State :=
  let k := xpKey m
  if answersAsk s k (xpSender m) src then runRound k (copyAnswer (xpSender m) src k (xpPayload m) s)
  else if xpSender m = src then
    let s1 := modRound k (fun r => { r with partials := r.partials.filter (fun x => rackOf x.1 ≠ rackOf src) ++ [(src, xpPayload m)] })
      (openNext m s)
    runRound k (sendExpress src xPartialAck (xpOpw m) k [] s1)
  else s

/-- PARTIAL. -/
def execPartialMsg (src : Nat) (msg : Bytes) (s : State) : Host.Outcome State Fault Refusal := .next (partialArrive src msg s)

/-- PARTIAL_ACK (R303). -/
def partialAck (src : Nat) (m : Bytes) (s : State) : State :=
  let k := xpKey m
  runRound k (modRound k (fun r => { r with acks := if r.acks.contains src then r.acks else r.acks ++ [src] }) s)

/-- PARTIAL_ACK. -/
def execPartialAck (src : Nat) (msg : Bytes) (s : State) : Host.Outcome State Fault Refusal := .next (partialAck src msg s)

/-- PARTIAL_COPY_REQUEST (R305): the payload names a collector; the answer is the partial of its rack, or an empty one. -/
def partialCopyRequest (src : Nat) (m : Bytes) (s : State) : State :=
  let k := xpKey m
  let c := leNat (xpPayload m)
  let p := ((roundAt s k).bind (fun r => r.partialOf (rackOf c))).getD []
  post ⟨src, 0xA, 0x05, s.stepNum, expressBytes xPartial (xpOpw m) k.group k.tag c k.seq k.step p, .none, 0, none⟩ s

/-- PARTIAL_COPY_REQUEST. -/
def execPartialCopyRequest (src : Nat) (msg : Bytes) (s : State) : Host.Outcome State Fault Refusal :=
  .next (partialCopyRequest src msg s)

/-! ### A fence during a round (R305, R423) -/

/-- The collector that a rack of a round had before a chip was fenced. -/
def hadCollector (s : State) (r : Round) (f : Nat) : Option Nat :=
  (r.members.filter (fun c => rackOf c = rackOf f && (c = f || !fenced s c))).min?

/-- Send the result to the other members of this chip's rack that may not hold it yet. -/
def shareResult (r : Round) (v : Bytes) (from_ : Nat) (s : State) : State :=
  let me := chipId s
  ((r.left s).filter (fun c => rackOf c = rackOf me && c ≠ me && c ≠ from_)).foldl (fun s c => sendExpress c xResult r.opw r.key v s) s

/-- The rounds of a group of which this chip holds the result and another member may not (R305): the latest two. An earlier
one had to end on every member before a later one could end anywhere. -/
def lateRounds (s : State) (group : Nat) : List RoundKey :=
  (((s.rounds.filter (fun r => r.key.group = group && r.result.isSome)).map (·.key)).reverse).take 2

/-- A fenced collector is replaced (R305). A new collector that holds the result sends it to its rack and has no more need of
the other racks' partials; every other collector asks for what it lacks. -/
def replaceCollector (r : Round) (f : Nat) (s : State) : State :=
  match r.result with
  | some v =>
    if collectorOf s r.members (rackOf f) = some (chipId s) && (lateRounds s r.key.group).contains r.key then
      shareResult r v f ((otherCollectors s r).foldl (fun s c => sendExpress c xPartialAck r.opw r.key [] s) s)
    else s
  | none => if isCollector s r then askCopies r.key f s else s

/-- A fence of one chip, for one round. -/
def roundFence (f : Nat) (k : RoundKey) (s : State) : State :=
  match roundAt s k with
  | none => s
  | some r =>
    let s1 := modRound k (fun r => { r with contribs := r.contribs.filter (fun x => x.1 ≠ f), asked := r.asked.filter (fun a => a.2 ≠ f) }) s
    let s2 := if r.members.contains f && hadCollector s r f = some f then replaceCollector r f s1 else s1
    let mine := fun (a : Nat × Nat) => rackOf a.1 = rackOf (chipId s) && a.2 ≠ chipId s
    let lastAsked := r.asked.any mine && (r.asked.filter mine).all (fun a => a.2 = f)
    runRound k (if lastAsked && isCollector s2 r && (r.partialOf (rackOf (chipId s))).isNone then askRack k s2 else s2)

/-- A fence, for every open round. -/
def roundsFence (f : Nat) (s : State) : State := (s.rounds.map (·.key)).foldl (fun s k => roundFence f k s) s

end Sys2Proof.Machine
end

