-- ==== Sys2Proof/Machine/Cce.lean ====
section
/-! DEFINITION. The collective engine (R274 to R302): the descriptor ring, groups, the start handshake, the ORDERED, EXACT
and direct paths, streaming, completion and abort. -/
namespace Sys2Proof.Machine
open Sys2Proof

/-! ### Descriptors (R279 to R281) -/

/-- A descriptor by field (R280). -/
def descOf (b : Bytes) : Desc :=
  let m := leAt b 1 1
  { op := leAt b 0 1, stream := bit m 5, early := bit m 4, redop := bits m 3 2, mode := bits m 1 0, fmt := leAt b 2 1
    wire := leAt b 3 1, group := bits (leAt b 4 2) 11 0, tag := leAt b 6 2, count := leAt b 8 4, root := bits (leAt b 0xC 2) 13 0
    port := bits (leAt b 0xE 1) 3 0, src := leAt b 0x10 8, dst := leAt b 0x18 8, cnt := leAt b 0x20 8, chain := leAt b 0x28 4
    timeout := leAt b 0x2C 4, stride := leAt b 0x30 4 }

/-- n of R279, and the address of the descriptor of an index. -/
def ringLog2 (s : State) : Nat := s.field 0xA0018 3 0
def descAddr (s : State) (ix : Nat) : Nat := s.addr64 0xA0010 0xA0014 + 64 * (ix % 2 ^ ringLog2 s)

/-- Bytes of an element of SRC and DST. -/
def elemBytes (d : Desc) : Nat := if d.fmt = 5 then 2 else if d.fmt = 6 then 4 else 1

/-- Bytes of an element on the wire where it is not an EXA-96 integer. -/
def wireBytes (d : Desc) : Nat := if d.mode = 1 then (if d.wire = 5 then 2 else 4) else elemBytes d

/-- Chain length in wire bytes. -/
def chainBytes (d : Desc) : Nat := if d.chain = 0 then 65536 else d.chain

/-- TIMEOUT in ticks. -/
def descTimeout (s : State) (d : Desc) : Nat := if d.timeout = 0 then s.live 0xA0080 31 0 else d.timeout

/-- Elements that a member supplies at SRC, and that it receives at DST at most. -/
def srcElems (d : Desc) (p rank : Nat) : Nat :=
  match d.op with
  | 4 => if rank = d.root then d.count else 0
  | 5 => p * d.count
  | 7 => 0
  | _ => d.count
def dstElems (d : Desc) (p : Nat) : Nat :=
  match d.op with
  | 3 | 5 => p * d.count
  | 7 => 0
  | _ => d.count

/-- Elements of the shard of a rank (R286, R287, R289). -/
def shardElems (d : Desc) (p rank : Nat) : Nat :=
  if d.mode = 1 then (rank + 1) * d.count / p - rank * d.count / p
  else
    let b := ceilDiv d.count 256
    min d.count (256 * ((rank + 1) * b / p)) - min d.count (256 * (rank * b / p))

/-- MODE, REDOP, FMT and WIRE are permitted for OP (R274, R280, R281). -/
def formOk (d : Desc) : Bool :=
  let reduces := d.op = 1 || d.op = 2
  let fl := fun (f : Nat) => f = 5 || f = 6
  d.mode ≠ 3 && d.redop ≠ 3 && (if reduces then d.mode ≠ 0 else d.mode = 0) && (d.mode ≠ 2 || d.redop = 0) &&
    (reduces || d.redop = 0) && (if reduces then fl d.fmt else d.fmt = 0 || fl d.fmt) && (if d.mode = 1 then fl d.wire else d.wire = 0)

/-- Two ranges overlap; an empty one overlaps nothing. -/
def overlap (a n b m : Nat) : Bool := 0 < n && 0 < m && a < b + m && b < a + n

/-- The reserved bits of a descriptor are zero, and with them every field that is zero for its OP (R8, R280). -/
def descReserved (b : Bytes) : Bool :=
  let d := descOf b
  bits (leAt b 1 1) 7 6 = 0 && bits (leAt b 4 2) 15 12 = 0 && bits (leAt b 0xC 2) 15 14 = 0 && bits (leAt b 0xE 1) 7 4 = 0 &&
    leAt b 0xF 1 = 0 && leAt b 0x34 4 = 0 && (d.op = 4 || d.root = 0) && (d.op = 6 || d.cnt = 0) && (d.stream || d.stride = 0)

/-- STREAM is permitted for OP, with its STRIDE (R281, R293). -/
def streamOk (d : Desc) : Bool :=
  !d.stream || ((d.op = 1 || d.op = 2 || d.op = 3) && d.stride % 256 = 0 && 0 < d.stride && d.count % d.stride = 0)

/-- The checks of R281 that need no group: DCRC, reserved fields, OP and its form, CHAIN, TIMEOUT, STREAM and addresses. SRC of
a REGISTER_GROUP is the record itself. -/
def descOk (s : State) (b : Bytes) : Bool :=
  let d := descOf b
  leAt b 0x3C 4 = crc32c (b.take 0x38) && descReserved b && ((1 ≤ d.op && d.op ≤ 7) || d.op = 0x10 || d.op = 0x11) &&
    formOk d && d.chain % 4096 = 0 && d.chain ≤ 1048576 && descTimeout s d < s.live 0x14 31 0 && streamOk d &&
    (d.op = 0x10 || d.src % 64 = 0) && d.dst % 64 = 0 && d.cnt % 64 = 0

/-! ### Groups (R276 to R278) -/

/-- The record of a registered group. -/
def groupAt (s : State) (id : Nat) : Option GroupRec := s.cce.groups.find? (fun g => g.id = id)

/-- The axes of a chip: rack, node and position. -/
def axesOf (c : Nat) : List Nat := [c / 64, c / 8 % 8, c % 8]

/-- A group record's axes: whether each is spanned, and its range. -/
def groupAxes (g : Bytes) : List (Bool × Nat × Nat) :=
  let a := leAt g 0 1
  let n := leAt g 3 1
  let p := leAt g 4 1
  [(bit a 2, leAt g 1 1, leAt g 2 1), (bit a 1, bits n 2 0, bits n 6 4), (bit a 0, bits p 2 0, bits p 6 4)]

/-- A group record is legal (R276). -/
def groupOkRec (s : State) (g : Bytes) : Bool :=
  bits (leAt g 0 1) 7 3 = 0 && (groupAxes g).all (fun a => if a.1 then a.2.1 ≤ a.2.2 else a.2.1 = 0 && a.2.2 = 0) &&
    (leAt g 2 1 < racks s || !bit (leAt g 0 1) 2) && !bit (leAt g 3 1) 7 && !bit (leAt g 3 1) 3 && !bit (leAt g 4 1) 7 &&
    !bit (leAt g 4 1) 3 && bits (leAt g 5 1) 7 4 = 0 && leAt g 6 2 = 0

/-- A chip lies in the instance that a launching chip sees (R277), fences aside. -/
def inInstance (g : Bytes) (me c : Nat) : Bool :=
  ((groupAxes g).zip ((axesOf me).zip (axesOf c))).all (fun x =>
    if x.1.1 then x.1.2.1 ≤ x.2.2 && x.2.2 ≤ x.1.2.2 else x.2.1 = x.2.2)

/-- The instance of a group, in rank order (R277). -/
def groupInstance (s : State) (g : Bytes) : List Nat :=
  ((List.range (chipCount s)).filter (inInstance g (chipId s))).filter (fun c => !(stepFences s).contains c)

/-- SEND_COUNT of the count table of an ALL_TO_ALL_V (R292). -/
def countTable (s : State) (d : Desc) (p : Nat) : List Nat :=
  (List.range p).map (fun j => leNat (memBytes s.mem (d.cnt + 8 * j) 4))

/-- The bytes at SRC and at DST that a collective reads and writes on a member. -/
def srcRange (s : State) (d : Desc) (p rank : Nat) : Nat :=
  elemBytes d * (if d.op = 6 then sumNat (countTable s d p) else srcElems d p rank)
def dstRange (d : Desc) (p rank : Nat) : Nat := elemBytes d * (if d.op = 2 then shardElems d p rank else dstElems d p)

/-- The code that refuses a collective's descriptor (R281); zero when it passes. -/
def collCode (s : State) (b : Bytes) : Nat :=
  let d := descOf b
  if !descOk s b then 0x4B
  else match groupAt s d.group with
    | none => 0x51
    | some g =>
      let ms := groupInstance s g.bytes
      let p := ms.length
      let rank := ms.idxOf (chipId s)
      if !ms.contains (chipId s) then 0x4C
      else if p ≤ d.root || (!(d.op = 1 && d.src = d.dst) && !d.stream &&
          overlap d.src (srcRange s d p rank) d.dst (dstRange d p rank)) then 0x4B
      else if s.run.isNone then 0x4D
      else 0

/-! ### The ring (R279, R306) -/

/-- Change the engine. -/
def modCce (f : Cce → Cce) (s : State) : State := { s with cce := f s.cce }

/-- HEAD over descriptors whose STATUS has been written. -/
def ringAdvance : Nat → Cce → Cce
  | 0, c => c
  | n + 1, c => if c.finished.contains c.head then ringAdvance n { c with head := (c.head + 1) % 65536, finished := c.finished.erase c.head } else c

/-- Write a descriptor's STATUS for good; HEAD follows. -/
def ringStatus (ix status : Nat) (s : State) : State :=
  let s1 := memWrite (descAddr s ix + 0x38) (leBytes 4 status) s
  modCce (fun c => ringAdvance (c.finished.length + 1) { c with finished := c.finished ++ [ix] }) s1

/-- The next descriptor has been taken up. -/
def ringNext (s : State) : State := modCce (fun c => { c with next := (c.next + 1) % 65536, ringWait := false }) s

/-- A descriptor is refused (R281): STATUS has ABORTED and the code. -/
def ringRefuse (ix code : Nat) (s : State) : State := ringStatus ix (2 ^ 30 + code * 2 ^ 16) (record uCce code (ringNext s))

/-- Descriptors whose OP is illegal are refused as they become next. -/
def ringSkip : Nat → State → State
  | 0, s => s
  | n + 1, s =>
    let op := leNat (memBytes s.mem (descAddr s s.cce.next) 1)
    if s.cce.next ≠ s.cce.tail && !((1 ≤ op && op ≤ 7) || op = 0x10 || op = 0x11) then ringSkip n (ringRefuse s.cce.next 0x4B s)
    else s

/-- CCE_DOORBELL (R279): the descriptors appended are in memory by then. -/
def cceDoorbell (value : Word32) (env : MemEnv) (s0 : State) : State :=
  let s := withEnv env s0
  let tail := value.toNat
  if 65536 ≤ tail then record uCce 0x1F s
  else if 2 ^ ringLog2 s < serialSub 16 tail s.cce.head then record uCce 0x4E s
  else ringSkip 65536 (modCce (fun c => { c with tail := tail }) s)

/-- CCE_DOORBELL. -/
def execCceDoorbell (priv : Bool) (value : Word32) (s : State) (env : MemEnv := ⟨[], []⟩) : Host.Outcome State Fault Refusal :=
  .next (privGate uCce priv (cceDoorbell value env) s)

/-- The next descriptor, when its OP is the row's. -/
def nextDesc (s : State) (op : Nat) : Option Bytes :=
  let b := memBytes s.mem (descAddr s s.cce.next) 64
  if s.cce.next ≠ s.cce.tail && leAt b 0 1 = op then some b else none

/-- The lowest free group identifier (R278). -/
def freeGroup (s : State) : Option Nat := (List.range 4096).find? (fun i => (groupAt s i).isNone)

/-- REGISTER_GROUP (R278): the SRC field holds the record (R280). -/
def registerGroup (env : MemEnv) (s0 : State) : State :=
  let s := withEnv env s0
  match nextDesc s 0x10 with
  | none => s
  | some b =>
    let ix := s.cce.next
    let g := bytesAt b 0x10 8
    ringSkip 65536 (
      if !descOk s b || !groupOkRec s g then ringRefuse ix 0x4B s
      else match freeGroup s with
        | none => ringRefuse ix 0x4F s
        | some id => ringStatus ix (2 ^ 31 + id) (ringNext (modCce (fun c => { c with groups := sortBy (·.id) (c.groups ++ [⟨id, g⟩]) }) s)))

/-- REGISTER_GROUP. -/
def execRegisterGroup (env : MemEnv) (s : State) : Host.Outcome State Fault Refusal := .next (registerGroup env s)

/-- A descriptor naming a group waits in the ring behind an index. -/
def groupWaits (s : State) (id : Nat) : Bool :=
  (List.range (serialSub 16 s.cce.tail s.cce.next)).any (fun i =>
    let b := memBytes s.mem (descAddr s ((s.cce.next + 1 + i) % 65536)) 64
    decide (i + 1 < serialSub 16 s.cce.tail s.cce.next) && leAt b 0 1 < 0x10 && (descOf b).group = id)

/-- UNREGISTER_GROUP (R278). -/
def unregisterGroup (env : MemEnv) (s0 : State) : State :=
  let s := withEnv env s0
  match nextDesc s 0x11 with
  | none => s
  | some b =>
    let ix := s.cce.next
    let id := (descOf b).group
    ringSkip 65536 (
      if !descOk s b then ringRefuse ix 0x4B s
      else if (groupAt s id).isNone then ringRefuse ix 0x51 s
      else if s.cce.active.any (fun c => c.desc.group = id) || groupWaits s id then ringRefuse ix 0x50 s
      else ringStatus ix (2 ^ 31) (ringNext (modCce (fun c => { c with groups := c.groups.filter (fun g => g.id ≠ id) }) s)))

/-- UNREGISTER_GROUP. -/
def execUnregisterGroup (env : MemEnv) (s : State) : Host.Outcome State Fault Refusal := .next (unregisterGroup env s)

/-! ### Active collectives -/

/-- A collective by ring index. -/
def collAt (s : State) (ix : Nat) : Option Coll := s.cce.active.find? (fun c => c.index = ix)

/-- Change a collective. -/
def modColl (ix : Nat) (f : Coll → Coll) (s : State) : State :=
  modCce (fun c => { c with active := c.active.map (fun x => if x.index = ix then f x else x) }) s

/-- P, and the chip of a rank. -/
def Coll.p (c : Coll) : Nat := c.members.length
def Coll.chip (c : Coll) (rank : Nat) : Nat := c.members.getD rank 0

/-- The key of one of a collective's express messages. -/
def collKey (c : Coll) (seq : Nat) : RoundKey := ⟨c.desc.group, c.desc.tag, seq, c.step % 2 ^ 48⟩

/-- Contribute to one of a collective's express messages. -/
def collContribute (c : Coll) (seq opw : Nat) (payload : Bytes) (s : State) : State :=
  contribute (collKey c seq) opw c.members payload s

/-- The digest of R282. -/
def handshakeDigest (c : Coll) : Bytes :=
  let d := c.desc
  (sha384 (leBytes 1 d.op ++ leBytes 1 (b2n d.stream * 32 + d.redop * 4 + d.mode) ++ leBytes 1 d.fmt ++ leBytes 1 d.wire ++
    leBytes 2 d.tag ++ (if d.op = 6 then [] else leBytes 4 d.count) ++ leBytes 2 d.root ++ leBytes 4 d.chain ++ c.group ++
    leBytes 2 c.p)).take 16

/-! ### Chains and their layout (R284, R286, R289) -/

/-- A range cut from its start into parts of at most m. -/
def cutRange (a n m : Nat) : List (Nat × Nat) := (List.range (ceilDiv n m)).map (fun i => (a + i * m, min m (n - i * m)))

/-- A chain of the vector: its shard, its first element and its length. -/
abbrev ChainSpan := Nat × Nat × Nat

/-- Bytes of the widest form in which an element of an ORDERED vector travels. The first hop carries FMT, whose value R286 does
not round before the first operation; the chains are cut so that it too stays within CHAIN (log entry 41). -/
def hopBytes (d : Desc) : Nat := max (wireBytes d) (elemBytes d)

/-- The chains of an ORDERED vector (R286): shard by shard. -/
def orderedChains (d : Desc) (p : Nat) : List ChainSpan :=
  (List.range p).flatMap (fun j =>
    let a := j * d.count / p
    (cutRange a ((j + 1) * d.count / p - a) (chainBytes d / hopBytes d)).map (fun x => (j, x)))

/-- The chains of an EXACT vector (R289): whole anchor blocks, the shards cut at blocks. -/
def exactChains (d : Desc) (p : Nat) : List ChainSpan :=
  let blocks := ceilDiv d.count 256
  let shards := if d.op = 2 then p else 1
  let per := (chainBytes d - 12) / 3072
  (List.range shards).flatMap (fun j =>
    let a := j * blocks / shards
    (cutRange a ((j + 1) * blocks / shards - a) per).map (fun x => (j, 256 * x.1, min (256 * x.2) (d.count - 256 * x.1))))

/-- The chains of a block of n elements that travels unchanged. -/
def plainChains (d : Desc) (n : Nat) : List (Nat × Nat) := cutRange 0 n (chainBytes d / elemBytes d)

/-- The whole data of each member is at most 64 bytes (R284): the express path. The members of an ALL_TO_ALL_V learn it from
their first express message, a maximum over their sizes (log entry 13). -/
def isSmall (c : Coll) : Bool :=
  if c.desc.op = 6 then (match c.gathered.head? with
    | some b => decide (leNat b ≤ 64)
    | none => false)
  else c.desc.op ≠ 7 && !c.desc.stream && srcElems { c.desc with root := 0 } c.p 0 * elemBytes c.desc ≤ 64

/-- A collective has data to move. -/
def hasData (c : Coll) : Bool := c.desc.op ≠ 7 && (c.desc.op = 6 || 0 < c.desc.count)

/-- Elements of this member from an index. -/
def Coll.elems (c : Coll) (a n : Nat) : List Nat := (c.data.drop a).take n

/-- Every element of a range has arrived (R293). -/
def Coll.covered (c : Coll) (a n : Nat) : Bool :=
  !c.desc.stream || (List.range n).all (fun i => c.have_.any (fun h => h.1 ≤ a + i && a + i < h.1 + h.2))

/-! ### EXACT geometry (R289) -/

/-- The members of a rack, in rank order. -/
def Coll.inRack (c : Coll) (rack : Nat) : List Nat := c.members.filter (fun x => rackOf x = rack)

/-- A member's rack position. -/
def Coll.pos (c : Coll) (chip : Nat) : Nat := (c.inRack (rackOf chip)).idxOf chip

/-- The racks of the instance, and n_min. -/
def Coll.racks (c : Coll) : List Nat := (c.members.map rackOf).eraseDups
def Coll.nMin (c : Coll) : Nat := ((c.racks.map (fun r => (c.inRack r).length)).min?).getD 0

/-- Slice i of a chain's integers. -/
def sliceOf (c : Coll) (i : Nat) (ns : List Nat) : List Nat :=
  let a := i * ns.length / c.nMin
  (ns.drop a).take ((i + 1) * ns.length / c.nMin - a)

/-- Integers of two slices added (R120, R121). -/
def addInts (a b : List Nat) : List Nat := (a.zip b).map (fun x => (Exa96.add (Exa96.ofCode x.1) (Exa96.ofCode x.2)).code)

/-- Sum of several slices. -/
def sumInts (xs : List (List Nat)) : List Nat :=
  match xs with
  | [] => []
  | x :: rest => rest.foldl addInts x

/-! ### Reservations and credits (R285) -/

/-- The integers of slice i of a chain of I integers (R289). -/
def sliceLen (c : Coll) (i n : Nat) : Nat := (i + 1) * n / c.nMin - i * n / c.nMin

/-- The largest payload of a slice at a rack position over the chains of some shards. -/
def slicePart (c : Coll) (i : Nat) (p : ChainSpan → Bool) : Nat :=
  12 * maxNat (((exactChains c.desc c.p).filter p).map (fun x => sliceLen c i (x.2.2 + 1)))

/-- The senders of each TYPE of chain to this member (R285, R292): chip, TYPE and the largest payload that it can send. -/
def chainSenders (c : Coll) (me : Nat) : List (Nat × Nat × Nat) :=
  let d := c.desc
  let p := c.p
  let before := (c.rank + p - 1) % p
  let prev := c.chip before
  let data := fun (n : Nat) => min (chainBytes d / elemBytes d) n * elemBytes d
  if p = 1 || isSmall c || !hasData c then []
  else match d.op with
    | 3 => [(prev, 3, data d.count)]
    | 4 =>
      let root := c.chip d.root
      let low := (c.inRack (rackOf me)).headD me
      if me = root then [] else if rackOf me = rackOf root || me = low then [(root, 3, data d.count)] else [(low, 3, data d.count)]
    | 5 => (c.members.filter (· ≠ me)).map (fun x => (x, 3, data d.count))
    | 6 => ((c.recvCounts.filter (fun r => r.1 ≠ c.rank && 0 < r.2))).map (fun r => (c.chip r.1, 3, data r.2))
    | _ =>
      if d.mode = 1 then
        let longest := fun (q : ChainSpan → Bool) => maxNat (((orderedChains d p).filter q).map (fun x => x.2.2))
        (prev, 1, hopBytes d * longest (fun x => x.1 ≠ before)) ::
          (if d.op = 1 then [(prev, 2, wireBytes d * longest (fun x => x.1 ≠ c.rank))] else [])
      else
        let all := fun (_ : ChainSpan) => true
        let due := fun (x : ChainSpan) => d.op = 1 || x.1 = c.rank
        let mine := (c.inRack (rackOf me)).filter (· ≠ me)
        let i := c.pos me
        (if i < c.nMin then mine.map (fun x => (x, 4, slicePart c i all)) ++
          (c.racks.filter (· ≠ rackOf me)).map (fun r => ((c.inRack r).getD i 0, 6, slicePart c i all)) else []) ++
        (mine.filter (fun x => c.pos x < c.nMin)).map (fun x => (x, 2, slicePart c (c.pos x) due))

/-- The buffers of a reservation: 4 messages from each sender; one larger than a pool 5 buffer takes several. -/
def reserveSizes (c : Coll) (me : Nat) : List Nat :=
  (chainSenders c me).flatMap (fun x =>
    let n := 32 + x.2.2
    (List.replicate 4 (cutRange 0 n 524288)).flatten.map (·.2))

/-- The owner of a group's class. -/
def classOwner (s : State) (g : Bytes) : Nat := ownerNum s 3 (bits (leAt g 5 1) 3 0)

/-- DESIGN CHOICE (log entry 13): a CREDIT's payload names the chain TYPE, the chain index it releases (all ones for the
first grant) and the credits. -/
def sendCredit (c : Coll) (dst type ix n : Nat) (s : State) : State :=
  sendExpress dst xCredit 0 (collKey c 0) (leBytes 1 type ++ leBytes 4 ix ++ leBytes 1 n) s

/-- Grant the first credits of a reservation. -/
def grantCredits (c : Coll) (s : State) : State :=
  (chainSenders c (chipId s)).foldl (fun s x => sendCredit c x.1 x.2.1 (2 ^ 32 - 1) 4 s) s

/-! ### Sending chains (R295, R298) -/

/-- WIRE code of a chain header. -/
def wireCode (d : Desc) : Nat := if d.mode = 2 then 3 else if d.mode = 1 then (if d.wire = 5 then 1 else 2) else 0

/-- WIRE code of an ORDERED chain: its first hop carries FMT. -/
def hopCode (d : Desc) (type hops : Nat) : Nat :=
  if d.mode = 1 && type = 1 && hops = 0 then (if d.fmt = 5 then 1 else 2) else wireCode d

/-- A chain message (R295). -/
def chainImage (c : Coll) (type hops ix : Nat) (payload : Bytes) : Bytes :=
  let d := c.desc
  let h := leBytes 1 type ++ leBytes 1 (d.redop * 4 + d.mode) ++ leBytes 1 (hopCode d type hops) ++ leBytes 1 0 ++ leBytes 2 d.group ++
    leBytes 2 d.tag ++ leBytes 2 c.rank ++ leBytes 2 hops ++ leBytes 4 ix ++ leBytes 4 payload.length ++
    leBytes 4 (crc32c payload) ++ leBytes 4 c.step
  h ++ leBytes 4 (crc32c h) ++ payload

/-- Put a chain into a collective's queue. -/
def queueChain (ix : Nat) (o : OutChain) (s : State) : State := modColl ix (fun c => { c with outQ := c.outQ ++ [o] }) s

/-- Credits held for a receiver and a TYPE. -/
def creditsOf (c : Coll) (k : Nat × Nat) : Nat := ((c.credits.find? (fun x => x.1 = k)).map (·.2)).getD 0

/-- Change the credits for a receiver and a TYPE. -/
def setCredits (k : Nat × Nat) (n : Nat) (c : Coll) : Coll := { c with credits := c.credits.filter (fun x => x.1 ≠ k) ++ [(k, n)] }

/-- A chain may leave: it spends a credit, or goes to the rack switch. -/
def mayLeave (c : Coll) (o : OutChain) : Bool := !o.sent && (o.toSwitch || 0 < creditsOf c (o.dst, o.type))

/-- A chain leaves. One for the rack switch is addressed by naming its steward, this chip itself where it is the steward, and
does not stay within the chip. -/
def leaveChain (o : OutChain) (s : State) : State :=
  let m : Message := ⟨o.dst, 8, 0x03, s.stepNum, o.bytes, .none, 0, none⟩
  if o.toSwitch && !s.fenceSelf then { s with fep := { s.fep with waiting := s.fep.waiting ++ [m] } } else send m s

/-- Send every chain that has a credit, in queue order (R285); those for the switch need none. Each is kept until its receiver
has released it (R298). -/
def drainColl : Nat → Nat → State → State
  | 0, _, s => s
  | n + 1, ix, s =>
    match collAt s ix with
    | none => s
    | some c =>
      match c.outQ.findIdx? (mayLeave c) with
      | none => s
      | some i =>
        match c.outQ[i]? with
        | none => s
        | some o =>
          let k := (o.dst, o.type)
          let c0 := { c with outQ := modifyAt (fun o => { o with sent := true }) i c.outQ }
          let c1 := if o.toSwitch then c0 else setCredits k (creditsOf c k - 1) c0
          drainColl n ix (leaveChain o (modColl ix (fun _ => c1) s))

/-! ### Results -/

/-- Write result elements of FMT to DST. -/
def writeElems (c : Coll) (at_ : Nat) (codes : List Nat) (s : State) : State :=
  memWrite (c.desc.dst + at_ * elemBytes c.desc) (codes.flatMap (leBytes (elemBytes c.desc))) s

/-- Elements of a payload. -/
def payloadElems (sz : Nat) (b : Bytes) : List Nat := (List.range (b.length / sz)).map (fun i => leAt b (i * sz) sz)

/-- A result unit has been written and checked. -/
def markDone (ix key : Nat) (s : State) : State :=
  modColl ix (fun c => { c with done := if c.done.contains key then c.done else c.done ++ [key] }) s

/-- Count special results (R291, R306). -/
def countResults (vs : List (Nat × ScoreClass)) (s : State) : State :=
  let n := fun (k : ScoreClass) => (vs.filter (fun v => v.2 == k)).length
  ((s.bump 0xA0060 (n .nan)).bump 0xA0064 (n .inf)).bump 0xA0068 (n .sat)

/-- The class of an element of FMT. -/
def elemClass (fmt x : Nat) : ScoreClass :=
  match decFmt fmt x with
  | .nan => .nan
  | .inf _ => .inf
  | _ => .plain

/-- Where the reduction of a span stands at DST: a REDUCE_SCATTER writes its shard from DST on. -/
def dstOf (c : Coll) (chains : List ChainSpan) (x : ChainSpan) : Nat :=
  if c.desc.op = 2 then x.2.1 - ((chains.find? (fun y => y.1 = x.1)).map (fun y => y.2.1)).getD 0 else x.2.1

/-- The units of results a member must write: chain indices, or sender and index in one number. -/
def unitsDue (c : Coll) : Nat :=
  let d := c.desc
  if !hasData c then 0
  else if isSmall c then 1
  else match d.op with
    | 3 => c.p * (plainChains d d.count).length
    | 4 => (plainChains d d.count).length
    | 5 => c.p * (plainChains d d.count).length
    | 6 => sumNat (c.recvCounts.map (fun r => (plainChains d r.2).length))
    | _ => ((if d.mode = 1 then orderedChains d c.p else exactChains d c.p).filter (fun x => d.op = 1 || x.1 = c.rank)).length

/-- STATUS and notice of a collective (R300, R302). -/
def reportColl (c : Coll) (code : Nat) (s : State) : State :=
  let st := if code = 0 then 2 ^ 31 else 2 ^ 30 + code * 2 ^ 16
  notice 0x05 code 0x0A0 (c.index + st * 2 ^ 32) (memWrite (descAddr s c.index + 0x38) (leBytes 4 st) s)

/-- A member that has written and checked all its results contributes to the completion round; EARLY reports first
(R300, R302). It goes on with its part in the results of others until the round ends. -/
def collComplete (ix : Nat) (s : State) : State :=
  match collAt s ix with
  | none => s
  | some c =>
    let ready := c.phase == .data && !c.contributed && c.done.length = unitsDue c
    if !ready then s
    else
      let early := c.desc.early && !strictLive s
      let s1 := modColl ix (fun c => { c with contributed := true, reported := early }) s
      let s2 := if early then reportColl c 0 s1 else s1
      contribute (completionKey c) (opMax 2) c.members (leBytes 2 0xFF) s2

/-! ### The express path for small data (R284) -/

/-- Express messages of a collective after the handshake: message m stands at SEQ 2 + m, modulo 250 (log entry 13). -/
def msgSeq (m : Nat) : Nat := 2 + m % 250

/-- The bytes of a member's elements. -/
def Coll.ownBytes (c : Coll) : Bytes := c.data.flatMap (leBytes (elemBytes c.desc))

/-- The messages of the express path: one gathers each rank's data, or the root's alone, by OR. -/
def smallCount (c : Coll) : Nat := if c.desc.op = 4 then 1 else if c.desc.op = 6 then c.p + 1 else c.p
def smallRank (c : Coll) (m : Nat) : Nat := if c.desc.op = 4 then c.desc.root else if c.desc.op = 6 then m - 1 else m
def smallBytes (c : Coll) : Nat := if c.desc.op = 6 then 64 else srcElems { c.desc with root := 0 } c.p 0 * elemBytes c.desc

/-- Contribute to the express message in progress. -/
def smallContribute (c : Coll) (s : State) : State :=
  let b := if smallRank c c.msg = c.rank then c.ownBytes ++ List.replicate (smallBytes c - c.ownBytes.length) 0
    else List.replicate (smallBytes c) 0
  collContribute c (msgSeq c.msg) (opOr 1) b s

/-- REDOP. -/
def redOpOf (d : Desc) : RedOp := if d.redop = 0 then .sum else if d.redop = 1 then .max else .min

/-- One hop of R286: the operation in binary32, rounded to WIRE. `from_` is the format of the value so far, FMT at the first
hop. -/
def wireHop (d : Desc) (from_ v x : Nat) : Nat := ofF32 d.wire (orderedOp (redOpOf d) (toF32 from_ v) (toF32 d.fmt x))

/-- A WIRE value as FMT. -/
def fromWire (d : Desc) (v : Nat) : Nat := ofF32 d.fmt (toF32 d.wire v)

/-- The ORDERED reduction of one element of shard j from every rank's element (R286). -/
def orderedElem (d : Desc) (p j : Nat) (xs : List Nat) : Nat :=
  let v := (List.range (p - 1)).foldl (fun (acc : Nat × Nat) i => (d.wire, wireHop d acc.1 acc.2 (xs.getD ((j + i + 2) % p) 0)))
    (d.fmt, xs.getD ((j + 1) % p) 0)
  ofF32 d.fmt (toF32 v.1 v.2)

/-- The EXACT reduction of one anchor block's column (R289, R122): code, class and terms cut. -/
def exactElem (d : Desc) (a : Int) (xs : List Nat) : (Nat × ScoreClass) × Nat :=
  let ts := xs.map (fun x => exa96Term a (decFmt d.fmt x))
  (Exa96.round (d.fmt = 6) a ((ts.map (·.1)).foldl Exa96.add (.fin 0)), (ts.filter (·.2)).length)

/-- Every rank's elements as the express path has gathered them. -/
def Coll.ranks (c : Coll) : List (List Nat) := c.gathered.map (payloadElems (elemBytes c.desc))

/-- A reduction of gathered data. -/
def smallReduce (c : Coll) (s : State) : State :=
  let d := c.desc
  let cols := fun (e : Nat) => c.ranks.map (fun r => r.getD e 0)
  if d.mode = 1 then
    let chains := orderedChains d c.p
    (chains.filter (fun x => d.op = 1 || x.1 = c.rank)).foldl (fun s x =>
      let vs := (List.range x.2.2).map (fun i => orderedElem d c.p x.1 (cols (x.2.1 + i)))
      writeElems c (dstOf c chains x) vs (countResults (vs.map (fun v => (v, elemClass d.fmt v))) s)) s
  else
    let a := exa96Anchor (c.ranks.flatten.map (decFmt d.fmt))
    let cut := ((c.elems 0 d.count).filter (fun x => (exa96Term a (decFmt d.fmt x)).2)).length
    let s1 := s.bump 0xA005C cut
    let chains := exactChains d c.p
    (chains.filter (fun x => d.op = 1 || x.1 = c.rank)).foldl (fun s x =>
      let vs := (List.range x.2.2).map (fun i => (exactElem d a (cols (x.2.1 + i))).1)
      writeElems c (dstOf c chains x) (vs.map (·.1)) (countResults vs s)) s1

/-- Where the blocks of this member stand at SRC for a receiver, and of a sender at DST (R292). -/
def sendBlock (c : Coll) (j : Nat) : Nat × Nat :=
  if c.desc.op = 5 then (j * c.desc.count, c.desc.count) else (sumNat (c.sendCounts.take j), c.sendCounts.getD j 0)
def recvCount (c : Coll) (j : Nat) : Nat :=
  if c.desc.op = 5 then c.desc.count else ((c.recvCounts.find? (fun r => r.1 = j)).map (·.2)).getD 0
def recvBlock (c : Coll) (j : Nat) : Nat := sumNat ((List.range j).map (recvCount c))

/-- The results of a small collective, from what every rank supplied. -/
def smallResult (ix : Nat) (s : State) : State :=
  match collAt s ix with
  | none => s
  | some c =>
    let d := c.desc
    let s1 := match d.op with
      | 3 | 4 => writeElems c 0 c.ranks.flatten s
      | 5 => writeElems c 0 (c.ranks.flatMap (fun r => (r.drop (c.rank * d.count)).take d.count)) s
      | 6 => writeElems c 0 ((List.range c.p).flatMap (fun j =>
          ((c.ranks.getD (j + 1) []).drop (c.recvAt.getD j 0)).take (recvCount c j))) s
      | _ => smallReduce c s
    collComplete ix (markDone ix 0 s1)

/-- The result of an express message of the small path. -/
def smallTake (ix : Nat) (b : Bytes) (s : State) : State :=
  let s1 := modColl ix (fun c => { c with gathered := c.gathered ++ [b], msg := c.msg + 1 }) s
  match collAt s1 ix with
  | none => s1
  | some c => if c.msg < smallCount c then smallContribute c s1 else smallResult ix s1

/-! ### The ring and direct paths (R284, R286, R292) -/

/-- The next rank's chip. -/
def Coll.nextChip (c : Coll) : Nat := c.chip ((c.rank + 1) % c.p)

/-- A plain chain's payload. -/
def plainPayload (c : Coll) (a n : Nat) : Bytes := (c.elems a n).flatMap (leBytes (elemBytes c.desc))

/-- A chain to queue. -/
def outChain (c : Coll) (dst type hops ix : Nat) (payload : Bytes) (owed : Option (Nat × Nat × Nat)) : OutChain :=
  ⟨dst, type, ix, chainImage c type hops ix payload, false, owed, false, false⟩

/-- The targets of a BROADCAST chain at a member (R284). -/
def castTargets (c : Coll) (me : Nat) : List Nat :=
  let root := c.chip c.desc.root
  let lows := (c.racks.filter (· ≠ rackOf root)).map (fun r => (c.inRack r).headD 0)
  if me = root then (c.inRack (rackOf root)).filter (· ≠ me) ++ lows
  else if lows.contains me then (c.inRack (rackOf me)).filter (· ≠ me)
  else []

/-- Queue a chain to several chips; the last of them carries the credit owed. -/
def queueAll (ix : Nat) (c : Coll) (dsts : List Nat) (type hops k : Nat) (payload : Bytes) (owed : Option (Nat × Nat × Nat)) (s : State) :
    State :=
  (List.range dsts.length).foldl (fun s i =>
    queueChain ix (outChain c (dsts.getD i 0) type hops k payload (if i + 1 = dsts.length then owed else none)) s) s

/-- What a member sends of its own accord once its elements have arrived: the first chains of ORDERED shards (keys 0 on), a
gather's own block, a BROADCAST's data, direct blocks. -/
def launchChains (ix : Nat) (s : State) : State :=
  match collAt s ix with
  | none => s
  | some c =>
    let d := c.desc
    let me := chipId s
    let started := fun (k : Nat) => c.done.contains k
    match d.op with
    | 3 =>
      let chains := plainChains d d.count
      (List.range chains.length).foldl (fun s i =>
        let x := chains.getD i (0, 0)
        let key := c.rank * chains.length + i
        if started key || !c.covered x.1 x.2 then s
        else
          let s1 := markDone ix key (writeElems c (c.rank * d.count + x.1) (c.elems x.1 x.2) s)
          if c.p = 1 then s1 else queueChain ix (outChain c c.nextChip 3 0 key (plainPayload c x.1 x.2) none) s1) s
    | 4 =>
      if c.rank ≠ d.root then s
      else
        let chains := plainChains d d.count
        (List.range chains.length).foldl (fun s i =>
          let x := chains.getD i (0, 0)
          if started i then s
          else queueAll ix c (castTargets c me) 3 0 i (plainPayload c x.1 x.2) none (markDone ix i (writeElems c x.1 (c.elems x.1 x.2) s))) s
    | _ => s

/-- Queue the direct blocks of an all-to-all, the member's own copied at once. -/
def launchDirect (ix : Nat) (s : State) : State :=
  match collAt s ix with
  | none => s
  | some c =>
    (List.range c.p).foldl (fun s j =>
      let blk := sendBlock c j
      let chains := cutRange blk.1 blk.2 (chainBytes c.desc / elemBytes c.desc)
      (List.range chains.length).foldl (fun s i =>
        let x := chains.getD i (0, 0)
        if j = c.rank then markDone ix (j * 2 ^ 32 + i) (writeElems c (recvBlock c j + (x.1 - blk.1)) (c.elems x.1 x.2) s)
        else queueChain ix (outChain c (c.chip j) 3 0 i (plainPayload c x.1 x.2) none) s) s) s

/-- The first hop of the ORDERED shard this member starts (R286), chain by chain as elements arrive; `msg` counts them. A
single member has its result at once. -/
def launchOrdered : Nat → Nat → State → State
  | 0, _, s => s
  | n + 1, ix, s =>
    match collAt s ix with
    | none => s
    | some c =>
      let d := c.desc
      let chains := orderedChains d c.p
      let mine := (List.range chains.length).filter (fun i => ((chains.getD i (0, 0, 0)).1 + 1) % c.p = c.rank)
      match mine[c.msg]? with
      | none => s
      | some k =>
        let x := chains.getD k (0, 0, 0)
        if !c.covered x.2.1 x.2.2 then s
        else
          let vs := c.elems x.2.1 x.2.2
          let rs := vs.map (fun v => ofF32 d.fmt (toF32 d.fmt v))
          let s1 := modColl ix (fun c => { c with msg := c.msg + 1 }) s
          let s2 := if c.p = 1 then
              markDone ix k (writeElems c x.2.1 rs (countResults (rs.map (fun v => (v, elemClass d.fmt v))) s1))
            else queueChain ix (outChain c c.nextChip 1 0 k (vs.flatMap (leBytes (elemBytes d))) none) s1
          launchOrdered n ix s2

/-! ### The EXACT path (R289 to R291) -/

/-- A fresh chain. -/
def ExactChain.start (ix : Nat) : ExactChain := ⟨ix, [], none, [], none, false, [], none, false, [], [], false⟩

/-- Change a chain. -/
def modExact (ix k : Nat) (f : ExactChain → ExactChain) (s : State) : State :=
  modColl ix (fun c => { c with exact := c.exact.map (fun x => if x.ix = k then f x else x) }) s

/-- The anchor blocks of a span. -/
def blocksOf (x : ChainSpan) : List (Nat × Nat) := cutRange x.2.1 x.2.2 256

/-- The anchor messages of each chain: 32 anchors each by MAX, then the flag by OR (log entry 13). -/
def anchorMsgs (chains : List ChainSpan) : List (Nat × Option Nat) :=
  (List.range chains.length).flatMap (fun k =>
    (List.range (ceilDiv (blocksOf (chains.getD k (0, 0, 0))).length 32)).map (fun j => (k, some j)) ++ [(k, none)])

/-- A member's anchor of a block (R289): −512 when it has no finite non-zero element. -/
def blockAnchor (d : Desc) (xs : List Nat) : Int :=
  match xs.filterMap (fun x => (decFmt d.fmt x).log2) with
  | [] => -512
  | e :: rest => rest.foldl max e

/-- Contribute the anchor message in progress, once the chain's elements have arrived. The anchor travels as its value plus
512 in two bytes. -/
def anchorContribute (ix : Nat) (s : State) : State :=
  match collAt s ix with
  | none => s
  | some c =>
    let chains := exactChains c.desc c.p
    match (anchorMsgs chains)[c.msg]? with
    | none => s
    | some (k, part) =>
      let x := chains.getD k (0, 0, 0)
      let sent := ((roundAt s (collKey c (msgSeq c.msg))).bind (·.own)).isSome
      if sent || !c.covered x.2.1 x.2.2 then s
      else match part with
        | some j =>
          let bs := ((blocksOf x).drop (32 * j)).take 32
          collContribute c (msgSeq c.msg) (opMax 2) (bs.flatMap (fun b => leBytes 2 (blockAnchor c.desc (c.elems b.1 b.2) + 512).toNat)) s
        | none =>
          let flag := (c.elems x.2.1 x.2.2).any (fun e => !(decFmt c.desc.fmt e).isFin)
          collContribute c (msgSeq c.msg) (opOr 1) [BitVec.ofNat 8 (b2n flag)] s

/-- The anchor of an element of a span. -/
def anchorAt (e : ExactChain) (i : Nat) : Int := e.anchors.getD (i / 256) 0

/-- Convert a member's chain (R289, R297): its integers with the residue, and the terms cut. -/
def convertChain (c : Coll) (x : ChainSpan) (e : ExactChain) : List Nat × Nat :=
  let ts := (List.range x.2.2).map (fun i => exa96Term (anchorAt e i) (decFmt c.desc.fmt (c.data.getD (x.2.1 + i) 0)))
  let ns := ts.map (fun t => match t.1 with | .fin n => n | _ => 0)
  (ts.map (fun t => t.1.code) ++ [residueOf e.ix ns], (ts.filter (·.2)).length)

/-- The rack switch may reduce a chain (R290), the steward's slot aside. -/
def switchFits (s : State) (c : Coll) (e : ExactChain) : Bool :=
  0 < s.cce.slots / 64 && 12 * e.own.length ≤ 262144 && e.special = some false && 2 ≤ (c.inRack (rackOf (chipId s))).length

/-- The steward of a chain. -/
def stewardOf (c : Coll) (me k : Nat) : Nat :=
  let r := c.inRack (rackOf me)
  r.getD (k % r.length) me

/-- Reduction slots this chip holds. -/
def slotsHeld (s : State) : Nat := s.cce.held.length

/-- The steward decides and announces (R290); where the switch cannot reduce the chain every member goes directly. -/
def decideSlot (ix : Nat) (e : ExactChain) (s : State) : State :=
  match collAt s ix with
  | none => s
  | some c =>
    let me := chipId s
    if e.slot.isSome then s
    else if !switchFits s c e then modExact ix e.ix (fun e => { e with slot := some false }) s
    else if stewardOf c me e.ix ≠ me then s
    else
      let free := decide (slotsHeld s < s.cce.slots / 64)
      let s1 := modExact ix e.ix (fun e => { e with slot := some free }) s
      let s2 := if free then modCce (fun x => { x with held := x.held ++ [(ix, e.ix)] }) s1 else s1
      ((c.inRack (rackOf me)).filter (· ≠ me)).foldl (fun s m =>
        sendExpress m xSlot 0 (collKey c 0) (leBytes 4 e.ix ++ leBytes 1 (b2n free)) s) s2

/-- A slice on the wire. -/
def sliceBytes (ns : List Nat) : Bytes := ns.flatMap (leBytes 12)

/-- The rack stage of a chain: the whole chain to the switch, named by its steward, or slice i to the member at position
i. -/
def sendRack (ix : Nat) (e : ExactChain) (s : State) : State :=
  match collAt s ix with
  | none => s
  | some c =>
    let me := chipId s
    let mine := c.inRack (rackOf me)
    match e.slot with
    | none => s
    | some sw =>
      if e.sentRack then s
      else
        let s1 := modExact ix e.ix (fun e => { e with sentRack := true }) s
        if sw then
          queueChain ix { (outChain c (stewardOf c me e.ix) 4 0 e.ix (sliceBytes e.own) none) with toSwitch := true } s1
        else (List.range c.nMin).foldl (fun s i =>
          let dst := mine.getD i 0
          if dst = me then modExact ix e.ix (fun e => { e with rackIn := e.rackIn ++ [(i, sliceOf c i e.own)] }) s
          else queueChain ix (outChain c dst 4 0 e.ix (sliceBytes (sliceOf c i e.own)) none) s) s1

/-- The direct rack sum: own slice and those of every other member of the rack, by the sender's position. -/
def rackReady (c : Coll) (me : Nat) (e : ExactChain) : Option (List Nat) :=
  let n := (c.inRack (rackOf me)).length
  let others := (List.range n).filter (fun j => j ≠ c.pos me)
  if e.slot = some false && e.sentRack && others.all (fun j => e.rackIn.any (fun x => x.1 = j)) then
    some (sumInts ((sliceOf c (c.pos me) e.own) :: others.map (fun j => ((e.rackIn.find? (fun x => x.1 = j)).map (·.2)).getD [])))
  else none

/-- The cross-rack stage. -/
def sendCross (ix : Nat) (c : Coll) (me : Nat) (v : List Nat) (k : Nat) (s : State) : State :=
  let i := c.pos me
  (c.racks.filter (· ≠ rackOf me)).foldl (fun s r =>
    queueChain ix (outChain c ((c.inRack r).getD i 0) 6 0 k (sliceBytes v) none) s)
    (modExact ix k (fun e => { e with sum := some v, sentCross := true }) s)

/-- The rack gather of a total slice. -/
def sendTotal (ix : Nat) (c : Coll) (me : Nat) (x : ChainSpan) (v : List Nat) (k : Nat) (s : State) : State :=
  let mine := (c.inRack (rackOf me)).filter (· ≠ me)
  let dsts := if c.desc.op = 1 then mine else mine.filter (fun m => m = c.chip x.1)
  queueAll ix c dsts 2 0 k (sliceBytes v) none (modExact ix k (fun e => { e with total := e.total ++ [(c.pos me, v)] }) s)

/-- The final round of a chain (R297, R122): the residue is checked, unless the chain is special, and every element is
rounded once and written. -/
def finishExact (ix : Nat) (c : Coll) (x : ChainSpan) (e : ExactChain) (s : State) : State :=
  let all := (List.range c.nMin).flatMap (fun i => ((e.total.find? (fun t => t.1 = i)).map (·.2)).getD [])
  let ns := all.dropLast
  let sumN := ns.map (fun n => match Exa96.ofCode n with | .fin z => z | _ => 0)
  let weak := e.special = some true
  if !weak && residueOf e.ix sumN ≠ (all.getLast?.getD 0) % residueP then raiseColl ix 0x2D s
  else
    let vs := (List.range ns.length).map (fun i => Exa96.round (c.desc.fmt = 6) (anchorAt e i) (Exa96.ofCode (ns.getD i 0)))
    let s1 := countResults vs (s.bump 0xA0058 (b2n weak))
    markDone ix e.ix (modExact ix e.ix (fun e => { e with written := true })
      (writeElems c (dstOf c (exactChains c.desc c.p) x) (vs.map (·.1)) s1))

/-- A chain of an active collective. -/
def exactAt (s : State) (ix k : Nat) : Option (Coll × ExactChain) :=
  (collAt s ix).bind (fun c => (c.exact.find? (fun e => e.ix = k)).map (fun e => (c, e)))

/-- A converted chain goes to its rack's switch or steward, once that is decided. -/
def exactRack (ix k : Nat) (s : State) : State :=
  match exactAt s ix k with
  | some (_, e0) =>
    let s1 := decideSlot ix e0 s
    match exactAt s1 ix k with
    | some (_, e) => sendRack ix e s1
    | none => s1
  | none => s

/-- A rack's sum goes to its peers in the other racks. -/
def exactCross (ix k : Nat) (s : State) : State :=
  match exactAt s ix k with
  | some (c, e) =>
    if e.sentCross || c.nMin ≤ c.pos (chipId s) then s
    else match (match e.sum with | some v => some v | none => rackReady c (chipId s) e) with
      | some v => sendCross ix c (chipId s) v k s
      | none => s
  | none => s

/-- The sum over all racks of this member's part goes to the chain's members. -/
def exactTotal (ix k : Nat) (s : State) : State :=
  match exactAt s ix k with
  | some (c, e) =>
    let me := chipId s
    let others := c.racks.filter (· ≠ rackOf me)
    if e.sentCross && !e.total.any (fun t => t.1 = c.pos me) && others.all (fun r => e.cross.any (fun y => y.1 = r)) then
      sendTotal ix c me ((exactChains c.desc c.p).getD k (0, 0, 0)) (sumInts ((e.sum.getD []) :: (e.cross.map (·.2)))) k s
    else s
  | none => s

/-- A chain of which every part has arrived is delivered. -/
def exactEnd (ix k : Nat) (s : State) : State :=
  match exactAt s ix k with
  | some (c, e) =>
    let x := (exactChains c.desc c.p).getD k (0, 0, 0)
    if (c.desc.op = 1 || x.1 = c.rank) && !e.written && (List.range c.nMin).all (fun i => e.total.any (fun t => t.1 = i)) then
      finishExact ix c x e s
    else s
  | none => s

/-- One chain goes on as far as it can. -/
def runExact (ix k : Nat) (s : State) : State :=
  match exactAt s ix k with
  | some (_, e) =>
    if e.special.isNone || e.own.isEmpty then s
    else exactEnd ix k (exactTotal ix k (exactCross ix k (exactRack ix k s)))
  | none => s

/-- The result of an anchor message (R289): anchors of 0 stand for −512, and with the flag the chain is converted. -/
def anchorTake (ix : Nat) (b : Bytes) (s : State) : State :=
  match collAt s ix with
  | none => s
  | some c =>
    let chains := exactChains c.desc c.p
    match (anchorMsgs chains)[c.msg]? with
    | none => s
    | some (k, part) =>
      let s1 := modColl ix (fun c => { c with msg := c.msg + 1
                                              exact := if c.exact.any (fun e => e.ix = k) then c.exact else c.exact ++ [ExactChain.start k] }) s
      let s2 := match part with
        | some _ =>
          let new : List Int := (payloadElems 2 b).map (fun (a : Nat) => if a = 0 then (0 : Int) else (a : Int) - 512)
          modExact ix k (fun e => { e with anchors := e.anchors ++ new }) s1
        | none => modExact ix k (fun e => { e with special := some (b.any (· ≠ 0)) }) s1
      let s3 := if part.isSome then s2
        else match (collAt s2 ix).bind (fun c => c.exact.find? (fun e => e.ix = k)) with
          | none => s2
          | some e =>
            let r := convertChain c (chains.getD k (0, 0, 0)) e
            runExact ix k ((modExact ix k (fun e => { e with own := r.1 }) s2).bump 0xA005C r.2)
      anchorContribute ix s3

/-! ### A collective goes on -/

/-- Everything a collective can do of its own accord in its data phase. -/
def runColl (ix : Nat) (s : State) : State :=
  match collAt s ix with
  | none => s
  | some c =>
    let s1 :=
      if !(c.phase == .data) || c.abortCode ≠ 0 || isSmall c || !hasData c then s
      else if c.desc.mode = 1 then launchOrdered 65536 ix s
      else if c.desc.mode = 2 then anchorContribute ix s
      else launchChains ix s
    collComplete ix (drainColl 65536 ix s1)

/-- The data phase begins: credits are granted, and the first data or messages follow. -/
def enterData (ix : Nat) (s : State) : State :=
  match collAt s ix with
  | none => s
  | some c =>
    let s1 := grantCredits c (modColl ix (fun c => { c with phase := .data }) s)
    if !hasData c then collComplete ix s1
    else if isSmall c then smallContribute c s1
    else runColl ix (if c.desc.op = 5 || c.desc.op = 6 then launchDirect ix s1 else s1)

/-- The reservation of an ALL_TO_ALL_V is made for the counts received (R292), and its data phase begins. -/
def tryReserve (ix : Nat) (s : State) : State :=
  match collAt s ix with
  | none => s
  | some c =>
    if !(c.phase == .counts) || c.gathered.isEmpty || c.abortCode ≠ 0 then s
    else match allocMany (reserveSizes c (chipId s)) (classOwner s c.group) [0x10, ix] s with
      | (none, s1) => s1
      | (some bs, s1) => enterData ix (modColl ix (fun c => { c with bufs := bs }) s1)

/-- Every count has arrived (R292): the capacity is checked, and the members find whether the data of each is small enough for
the express path (R284). -/
def tryCounts (ix : Nat) (s : State) : State :=
  match collAt s ix with
  | none => s
  | some c =>
    if !(c.phase == .counts) || !(List.range c.p).all (fun j => c.recvCounts.any (fun r => r.1 = j)) || c.abortCode ≠ 0 then s
    else if c.desc.count < sumNat (c.recvCounts.map (·.2)) then raiseColl ix 0x53 s
    else collContribute c (msgSeq 0) (opMax 4) (leBytes 4 (min c.ownBytes.length (2 ^ 32 - 1))) s

/-- The largest of the members' sizes. -/
def sizeTake (ix : Nat) (b : Bytes) (s : State) : State :=
  tryReserve ix (modColl ix (fun c => { c with gathered := [b], msg := 1 }) s)

/-- The counts go out (R292), each with the place of its block in the sender's data (log entry 13). -/
def sendCounts (ix : Nat) (s : State) : State :=
  match collAt s ix with
  | none => s
  | some c =>
    let counts := c.recvCounts ++ [(c.rank, c.sendCounts.getD c.rank 0)]
    let places := c.recvAt.set c.rank (sumNat (c.sendCounts.take c.rank))
    let s1 := modColl ix (fun x => { x with phase := .counts, recvCounts := counts, recvAt := places })
      (memWrite (c.desc.cnt + 8 * c.rank + 4) (leBytes 4 (c.sendCounts.getD c.rank 0)) s)
    tryCounts ix (((List.range c.p).filter (· ≠ c.rank)).foldl (fun s j =>
      sendExpress (c.chip j) xCounts 0 (collKey c 0) (leBytes 4 (c.sendCounts.getD j 0) ++ leBytes 4 (sumNat (c.sendCounts.take j))) s) s1)

/-- The result of a half of the handshake (R282): both halves agree, or the collective aborts. -/
def handshakeTake (ix seq : Nat) (b : Bytes) (s : State) : State :=
  let s1 := modColl ix (fun c => if seq = 0 then { c with digestMax := some b } else { c with digestMin := some b }) s
  match collAt s1 ix with
  | none => s1
  | some c =>
    match c.digestMax, c.digestMin with
    | some x, some y =>
      if x ≠ y then raiseColl ix 0x52 s1
      else if c.desc.op = 6 then sendCounts ix s1
      else enterData ix s1
    | _, _ => s1

/-- The active collective that an express message belongs to. -/
def collOf (s : State) (group tag step : Nat) : Option Coll :=
  s.cce.active.find? (fun c => c.desc.group = group && c.desc.tag = tag && c.step % 2 ^ 48 = step % 2 ^ 48)

/-- The result of an internal round or of the completion round is taken; one of a handshake, an anchor phase or an express path
moves its collective on. -/
def resultTake (k : RoundKey) (b : Bytes) (s : State) : State :=
  match collOf s k.group k.tag k.step with
  | none => s
  | some c =>
    if k.group = 0xFFFF || c.abortCode ≠ 0 || k.seq = 255 then s
    else if k.seq < 2 then (if c.phase == .handshake then handshakeTake c.index k.seq b s else s)
    else if k.seq ≠ msgSeq c.msg then s
    else if c.phase == .counts then sizeTake c.index b s
    else if !(c.phase == .data) then s
    else if isSmall c then smallTake c.index b s
    else runColl c.index (anchorTake c.index b s)

/-- RESULT (R303): the result is taken, and a collector that has it from another chip sends it to its rack (R305). The rows of
the internal rounds and of the completion round follow with their outcome. -/
def resultArrive (src : Nat) (m : Bytes) (s : State) : State :=
  let k := xpKey m
  match roundAt s k with
  | none => s
  | some r =>
    if r.taken || r.own.isNone then s
    else
      let v := xpPayload m
      let s1 := (modRound k (fun r => { r with result := some v, taken := true }) s).bump 0xA006C 1
      let s2 := if isCollector s1 r && src ≠ chipId s1 then shareResult r v src s1 else s1
      resultTake k v (runRound k s2)

/-- RESULT. -/
def execResult (src : Nat) (msg : Bytes) (s : State) : Host.Outcome State Fault Refusal := .next (resultArrive src msg s)

/-! ### Starting a collective (R282) -/

/-- The elements of a range of memory. -/
def readElems (s : State) (a n sz : Nat) : List Nat := payloadElems sz (memBytes s.mem a (n * sz))

/-- A collective as it starts. -/
def newColl (s : State) (ix : Nat) (d : Desc) (g : Bytes) : Coll :=
  let ms := groupInstance s g
  let rank := ms.idxOf (chipId s)
  let sends := if d.op = 6 then countTable s d ms.length else []
  let n := if d.op = 6 then sumNat sends else srcElems d ms.length rank
  { index := ix, desc := d, group := g, members := ms, rank := rank, start := s.tb, step := s.stepNum, phase := .handshake
    digestMax := none, digestMin := none, msg := 0, gathered := [], exact := [], sendCounts := sends, recvCounts := []
    recvAt := List.replicate ms.length 0
    data := if d.stream then List.replicate d.count 0 else readElems s d.src n (elemBytes d)
    have_ := [], outQ := [], credits := [], bufs := [], inbox := [], failed := [], done := [], reported := false, abortCode := 0
    sentAbort := false, contributed := false }

/-- A descriptor must wait (R282, R293): 8 collectives are active, its group has one, or its port has a stream. -/
def mustWait (s : State) (d : Desc) : Bool :=
  8 ≤ s.cce.active.length || s.cce.active.any (fun c => c.desc.group = d.group) ||
    (d.stream && s.cce.active.any (fun c => c.desc.stream && c.desc.port = d.port))

/-- A collective takes its place in the engine and contributes to its start handshake (R282). One launched in a step that has
aborted aborts with the step's code (R300). -/
def launchColl (c : Coll) (bad : Bool) (s : State) : State :=
  let d := c.desc
  let ix := c.index
  let s1 := ringNext (modCce (fun x => { x with active := x.active ++ [c] }) s)
  let s2 := traceEvent 4 0x01 (d.group + d.tag * 2 ^ 16 + d.op * 2 ^ 32 + ix * 2 ^ 40) s1
  let dg := handshakeDigest c
  let s3 := collContribute c 1 (opWide 1) dg (collContribute c 0 (opWide 0) dg s2)
  if !stepLive s3 then abortColl ix ((s3.run.map (·.abortCode)).getD 0) s3
  else if bad then raiseColl ix 0x2D s3 else s3

/-- The next descriptor starts (R281, R282, R285). It waits while its reservation is not granted. -/
def startColl (op : Nat) (env : MemEnv) (s0 : State) : State :=
  let s := (withEnv env s0).cce.active.foldl (fun s c => if c.desc.op = op then tryReserve c.index s else s) (withEnv env s0)
  match nextDesc s op with
  | none => s
  | some b =>
    let ix := s.cce.next
    let d := descOf b
    let code := collCode s b
    if code ≠ 0 then ringSkip 65536 (ringRefuse ix code s)
    else if mustWait s d then modCce (fun c => { c with ringWait := true }) s
    else
      let c := newColl s ix d (((groupAt s d.group).map (·.bytes)).getD [])
      match allocMany (if op = 6 then [] else reserveSizes c (chipId s)) (classOwner s c.group) [0x10, ix] s with
      | (none, s1) => s1
      | (some bs, s1) =>
        ringSkip 65536 (launchColl { c with bufs := bs } (!d.stream && badLine env d.src (c.data.length * elemBytes d)) s1)

/-- ALL_REDUCE. -/
def execAllReduce (env : MemEnv) (s : State) : Host.Outcome State Fault Refusal := .next (startColl 1 env s)
/-- REDUCE_SCATTER. -/
def execReduceScatter (env : MemEnv) (s : State) : Host.Outcome State Fault Refusal := .next (startColl 2 env s)
/-- ALL_GATHER. -/
def execAllGather (env : MemEnv) (s : State) : Host.Outcome State Fault Refusal := .next (startColl 3 env s)
/-- BROADCAST. -/
def execBroadcast (env : MemEnv) (s : State) : Host.Outcome State Fault Refusal := .next (startColl 4 env s)
/-- ALL_TO_ALL. -/
def execAllToAll (env : MemEnv) (s : State) : Host.Outcome State Fault Refusal := .next (startColl 5 env s)
/-- ALL_TO_ALL_V. -/
def execAllToAllV (env : MemEnv) (s : State) : Host.Outcome State Fault Refusal := .next (startColl 6 env s)
/-- BARRIER. -/
def execBarrier (env : MemEnv) (s : State) : Host.Outcome State Fault Refusal := .next (startColl 7 env s)

/-! ### Chains in arrival (R295 to R298) -/

/-- Fields of a chain header (R295). -/
def chType (m : Bytes) : Nat := leAt m 0 1
def chRank (m : Bytes) : Nat := bits (leAt m 8 2) 13 0
def chHops (m : Bytes) : Nat := bits (leAt m 0xA 2) 13 0
def chIx (m : Bytes) : Nat := leAt m 0xC 4
def chPayload (m : Bytes) : Bytes := bytesAt m 32 (leAt m 0x10 4)

/-- The active collective that a chain's header names, when the header is legal. -/
def chainColl (s : State) (m : Bytes) : Option Coll :=
  let ok := leAt m 0x1C 4 = crc32c (m.take 0x1C) && bits (leAt m 1 1) 7 4 = 0 && leAt m 3 1 = 0 && bits (leAt m 4 2) 15 12 = 0 &&
    bits (leAt m 8 2) 15 14 = 0 && bits (leAt m 0xA 2) 15 14 = 0 && 1 ≤ chType m && chType m ≤ 6 && leAt m 2 1 ≤ 3
  if ok then s.cce.active.find? (fun c =>
    c.desc.group = bits (leAt m 4 2) 11 0 && c.desc.tag = leAt m 6 2 && c.step % 2 ^ 32 = leAt m 0x18 4)
  else none

/-- The format that a chain's WIRE names (R295). -/
def chFmt (m : Bytes) : Nat := if leAt m 2 1 = 1 then 5 else 6

/-- An ORDERED PARTIAL takes this member's elements in (R286): at the shard's owner it is the result. -/
def takePartial (ix : Nat) (c : Coll) (m : Bytes) (owed : Nat × Nat × Nat) (s : State) : State :=
  let d := c.desc
  let k := chIx m
  let chains := orderedChains d c.p
  let x := chains.getD k (0, 0, 0)
  let vs := ((payloadElems (fmtSize (chFmt m)) (chPayload m)).zip (c.elems x.2.1 x.2.2)).map (fun p => wireHop d (chFmt m) p.1 p.2)
  let b := vs.flatMap (leBytes (wireBytes d))
  if x.1 ≠ c.rank then queueChain ix (outChain c c.nextChip 1 (chHops m + 1) k b (some owed)) s
  else
    let rs := vs.map (fromWire d)
    let s1 := markDone ix k (writeElems c (dstOf c chains x) rs (countResults (rs.map (fun v => (v, elemClass d.fmt v))) s))
    if d.op = 1 then queueChain ix (outChain c c.nextChip 2 0 k b (some owed)) s1 else sendCredit c owed.1 owed.2.1 owed.2.2 1 s1

/-- An ORDERED RESULT is written and goes on until it has reached every member. -/
def takeResultChain (ix : Nat) (c : Coll) (m : Bytes) (owed : Nat × Nat × Nat) (s : State) : State :=
  let d := c.desc
  let k := chIx m
  let x := (orderedChains d c.p).getD k (0, 0, 0)
  let rs := (payloadElems (wireBytes d) (chPayload m)).map (fromWire d)
  let s1 := markDone ix k (writeElems c x.2.1 rs (countResults (rs.map (fun v => (v, elemClass d.fmt v))) s))
  if (c.rank + 1) % c.p = x.1 then sendCredit c owed.1 owed.2.1 owed.2.2 1 s1
  else queueChain ix (outChain c c.nextChip 2 (chHops m + 1) k (chPayload m) (some owed)) s1

/-- A DATA chain (R284): written, and in a gather or a broadcast forwarded. -/
def takeDataChain (ix : Nat) (c : Coll) (me : Nat) (m : Bytes) (owed : Nat × Nat × Nat) (s : State) : State :=
  let d := c.desc
  let k := chIx m
  let es := payloadElems (elemBytes d) (chPayload m)
  let per := chainBytes d / elemBytes d
  let back := sendCredit c owed.1 owed.2.1 owed.2.2 1
  match d.op with
  | 3 =>
    let n := (plainChains d d.count).length
    let s1 := markDone ix k (writeElems c (k / n * d.count + k % n * per) es s)
    if (c.rank + 1) % c.p = k / n then back s1
    else queueChain ix (outChain c c.nextChip 3 (chHops m + 1) k (chPayload m) (some owed)) s1
  | 4 =>
    let s1 := markDone ix k (writeElems c (k * per) es s)
    let dsts := castTargets c me
    if dsts.isEmpty then back s1 else queueAll ix c dsts 3 (chHops m + 1) k (chPayload m) (some owed) s1
  | _ => back (markDone ix (chRank m * 2 ^ 32 + k) (writeElems c (recvBlock c (chRank m) + k * per) es s))

/-- An EXACT slice takes its place (R289, R290). -/
def takeSlice (ix : Nat) (c : Coll) (m : Bytes) (owed : Nat × Nat × Nat) (s : State) : State :=
  let k := chIx m
  let src := c.chip (chRank m)
  let v := payloadElems 12 (chPayload m)
  let s1 := if c.exact.any (fun e => e.ix = k) then s else modColl ix (fun c => { c with exact := c.exact ++ [ExactChain.start k] }) s
  let s2 := modExact ix k (fun e =>
    match chType m with
    | 4 => { e with rackIn := e.rackIn ++ [(c.pos src, v)] }
    | 5 => { e with sum := some (sliceOf c (c.pos (chipId s)) v) }
    | 6 => { e with cross := e.cross ++ [(rackOf src, v)] }
    | _ => { e with total := e.total ++ [(c.pos src, v)] }) s1
  let s3 := if chType m = 5 then
      (modCce (fun x => { x with held := x.held.filter (fun h => h ≠ (ix, k)) })
        (modColl ix (fun c => { c with outQ := c.outQ.filter (fun o => !(o.toSwitch && o.ix = k)) }) s2)).bump 0xA004C 1
    else sendCredit c owed.1 owed.2.1 owed.2.2 1 s2
  runExact ix k s3

/-- A chain that this member's elements are needed for, and have not all arrived (R293). -/
def mustHold (c : Coll) (m : Bytes) : Bool :=
  let x := (orderedChains c.desc c.p).getD (chIx m) (0, 0, 0)
  c.desc.mode = 1 && chType m = 1 && !c.covered x.2.1 x.2.2

/-- A checked chain is taken, or held for streamed elements. -/
def takeChain (ix src : Nat) (m : Bytes) (s : State) : State :=
  match collAt s ix with
  | none => s
  | some c =>
    let owed := (src, chType m, chIx m)
    if c.abortCode ≠ 0 then s
    else if mustHold c m then modColl ix (fun c => { c with inbox := c.inbox ++ [(src, m)] }) s
    else if c.desc.mode = 1 then (if chType m = 1 then takePartial ix c m owed s else takeResultChain ix c m owed s)
    else if c.desc.mode = 2 then takeSlice ix c m owed s
    else takeDataChain ix c (chipId s) m owed s

/-- A chain with a wrong CRC, or lost (R298): sent again once, and then the collective aborts. -/
def badChain (ix src : Nat) (m : Bytes) (s : State) : State :=
  match collAt s ix with
  | none => s
  | some c =>
    let key := (src, chType m, chIx m)
    if c.abortCode ≠ 0 then s
    else if c.failed.contains key then raiseColl ix 0x2D s
    else sendExpress src xNack 0 (collKey c 0) (leBytes 1 (chType m) ++ leBytes 4 (chIx m))
      (modColl ix (fun c => { c with failed := c.failed ++ [key] }) s)

/-- The active collective that a discarded header still names. DEDUCED (log entry 42): R298 has the receiver of a lost chain
send a NACK, and nothing else says whose chain it was; a header that names no active collective is only counted. -/
def lostColl (s : State) (m : Bytes) : Option Coll :=
  s.cce.active.find? (fun c => c.desc.group = bits (leAt m 4 2) 11 0 && c.desc.tag = leAt m 6 2 && c.step % 2 ^ 32 = leAt m 0x18 4)

/-- CHAIN_RECEIVE (R295, R298). -/
def chainReceive (src : Nat) (m : Bytes) (errs : Errs) (s0 : State) : State :=
  let s := takeErrors (otherErrors errs) s0
  match chainColl s m with
  | none =>
    let s1 := s.bump16 0xA0054 1
    (match lostColl s m with
      | some c => badChain c.index src m s1
      | none => s1)
  | some c =>
    if arrivedBad errs then raiseColl c.index 0x2D s
    else if (chPayload m).length ≠ leAt m 0x10 4 || leAt m 0x14 4 ≠ crc32c (chPayload m) then badChain c.index src m s
    else runColl c.index (takeChain c.index src m (s.bump 0xA0048 1))

/-- CHAIN_RECEIVE. -/
def execChainReceive (src : Nat) (msg : Bytes) (s : State) (errs : Errs := []) : Host.Outcome State Fault Refusal :=
  .next (chainReceive src msg errs s)

/-- The collective of an express message on VC5. -/
def expressColl (s : State) (m : Bytes) : Option Coll := collOf s (xpGroup m) (xpTag m) (xpStep m)

/-- CREDIT (R285): it adds credits and releases the sender's copy of the chain it names, with the credit owed upstream. -/
def creditArrive (src : Nat) (m : Bytes) (s : State) : State :=
  match expressColl s m with
  | none => s
  | some c =>
    let b := xpPayload m
    let type := leAt b 0 1
    let k := leAt b 1 4
    let hit := fun (o : OutChain) => o.dst = src && o.type = type && o.ix = k && o.sent
    let s1 := modColl c.index (fun c => setCredits (src, type) (creditsOf c (src, type) + leAt b 5 1)
      { c with outQ := c.outQ.filter (fun o => !hit o) }) s
    let s2 := (c.outQ.filter hit).foldl (fun s o => match o.owed with
      | some w => sendCredit c w.1 w.2.1 w.2.2 1 s
      | none => s) s1
    runColl c.index s2

/-- CREDIT. -/
def execCredit (src : Nat) (msg : Bytes) (s : State) : Host.Outcome State Fault Refusal := .next (creditArrive src msg s)

/-- NACK (R298): the chain is sent again once. -/
def nackArrive (src : Nat) (m : Bytes) (s : State) : State :=
  match expressColl s m with
  | none => s
  | some c =>
    let b := xpPayload m
    let hit := fun (o : OutChain) => o.dst = src && o.type = leAt b 0 1 && o.ix = leAt b 1 4 && o.sent && !o.again
    match c.outQ.find? hit with
    | none => s
    | some o =>
      if c.abortCode ≠ 0 then s
      else
        let s1 := modColl c.index (fun c => { c with outQ := c.outQ.map (fun x => if hit x then { x with again := true } else x) }) s
        let s2 := traceEvent 4 0x03 (c.desc.group + c.desc.tag * 2 ^ 16 + c.desc.op * 2 ^ 32 + c.index * 2 ^ 40 + o.ix * 2 ^ 64) (s1.bump16 0xA0050 1)
        leaveChain o s2

/-- NACK. -/
def execNack (src : Nat) (msg : Bytes) (s : State) : Host.Outcome State Fault Refusal := .next (nackArrive src msg s)

/-- COUNTS (R292): RECV_COUNT of the sender is written into the table. -/
def countsArrive (src : Nat) (m : Bytes) (s : State) : State :=
  match expressColl s m with
  | none => s
  | some c =>
    let j := c.members.idxOf src
    if c.desc.op ≠ 6 || !c.members.contains src || c.recvCounts.any (fun r => r.1 = j) then s
    else
      let n := leAt (xpPayload m) 0 4
      let counts := c.recvCounts ++ [(j, n)]
      let places := c.recvAt.set j (leAt (xpPayload m) 4 4)
      tryCounts c.index (modColl c.index (fun c => { c with recvCounts := counts, recvAt := places })
        (memWrite (c.desc.cnt + 8 * j + 4) (leBytes 4 n) s))

/-- COUNTS. -/
def execCounts (src : Nat) (msg : Bytes) (s : State) : Host.Outcome State Fault Refusal := .next (countsArrive src msg s)

/-- SLOT (R290): the steward's announcement for a chain. -/
def slotArrive (m : Bytes) (s : State) : State :=
  match expressColl s m with
  | none => s
  | some c =>
    let k := leAt (xpPayload m) 0 4
    let s1 := if c.exact.any (fun e => e.ix = k) then s else modColl c.index (fun c => { c with exact := c.exact ++ [ExactChain.start k] }) s
    runColl c.index (runExact c.index k
      (modExact c.index k (fun e => { e with slot := some (leAt (xpPayload m) 4 1 = 1) }) s1))

/-- SLOT. -/
def execSlot (_src : Nat) (msg : Bytes) (s : State) : Host.Outcome State Fault Refusal := .next (slotArrive msg s)

/-! ### Streaming (R293, R294) -/

/-- The positions that a row of a tile covers. -/
def rowSpan (d : Desc) (h : TileHdr) (r : Nat) : Nat × Nat := ((h.base + r) * d.stride + h.colBase, h.cols)

/-- A tile fits a streaming collective (R294). -/
def tileFits (c : Coll) (h : TileHdr) : Bool :=
  h.fmt = c.desc.fmt && !h.poison && (List.range h.rows).all (fun r =>
    let x := rowSpan c.desc h r
    h.colBase + h.cols ≤ c.desc.stride && x.1 + x.2 ≤ c.desc.count && !c.have_.any (fun y => overlap x.1 x.2 y.1 y.2))

/-- Put a row's elements in their place. -/
def placeRow (xs : List Nat) (a : Nat) (es : List Nat) : List Nat := xs.take a ++ es ++ xs.drop (a + es.length)

/-- A tile's elements in their places. -/
def placeTile (h : TileHdr) (b : Bytes) (c : Coll) : Coll :=
  let es := elemsOf h false b
  (List.range h.rows).foldl (fun c r =>
    let x := rowSpan c.desc h r
    { c with data := placeRow c.data x.1 (es.getD r []), have_ := c.have_ ++ [x] }) c

/-- A COLL tile in its buffer (R293, R294, R35, R36): the buffer is released once the tile has been copied. -/
def landColl (port : Nat) (b : Bytes) (bad : Bool) (s : State) : State :=
  let h := hdrOf b
  match s.cce.active.find? (fun c => c.desc.stream && c.desc.port = port) with
  | none => raiseAborts uSde 0x20 s
  | some c =>
    if !headerLegal s 9 b || h.step ≠ s.stepNum then raiseAborts uSde 0x20 s
    else if c.abortCode ≠ 0 then s
    else if !tileFits c h || bad then raiseColl c.index 0x54 s
    else
      let s1 := modColl c.index (fun c => { placeTile h b c with inbox := [] }) s
      runColl c.index (c.inbox.foldl (fun s x => takeChain c.index x.1 x.2 s) s1)

/-- The owner that a tile for a port's streaming collective is charged to (R84); RECV's unreserved one where there is none. -/
def collOwner (s : State) (port : Nat) : Nat :=
  match s.cce.active.find? (fun c => c.desc.stream && c.desc.port = port) with
  | some c => classOwner s c.group
  | none => unreserved

/-- COLL_TILE (R29, R84, R293, R294): the tile takes a buffer charged to its group's class, and waits at its port while none is
granted. -/
def collTile (port : Nat) (b : Bytes) (errs : Errs) (s0 : State) : State :=
  let s := takeErrors (otherErrors errs) s0
  let h := hdrOf b
  match alloc (hdrImage h false) (collOwner s port) [0x10, 65536, port, h.base, h.colBase] s with
  | (none, s1) => s1
  | (some buf, s1) => landColl port b (arrivedBad errs) (release buf.1 buf.2 s1)

/-- COLL_TILE. -/
def execCollTile (port : Nat) (tile : Bytes) (s : State) (errs : Errs := []) : Host.Outcome State Fault Refusal :=
  .next (collTile port tile errs s)

/-! ### Completion and abort (R300 to R302) -/

/-- COLL_ABORT (R300): a member's ABORT carries its code. -/
def collAbort (m : Bytes) (s : State) : State :=
  match expressColl s m with
  | none => s
  | some c => abortColl c.index (leAt (xpPayload m) 0 1) s

/-- COLL_ABORT. -/
def execCollAbort (_src : Nat) (msg : Bytes) (s : State) : Host.Outcome State Fault Refusal := .next (collAbort msg s)

/-- The collective ends with a code, zero for success (R300): its buffers are released, STATUS is written and a notice sent;
after an early report only an abort says more (R302). -/
def endColl (c : Coll) (code : Nat) (s : State) : State :=
  let s1 := freeAll c.bufs (modCce (fun x => { x with
    active := x.active.filter (fun y => y.index ≠ c.index)
    held := x.held.filter (fun h => h.1 ≠ c.index)
    lastCode := if code = 0 then x.lastCode else code
    lastGroup := if code = 0 then x.lastGroup else c.desc.group
    lastTag := if code = 0 then x.lastTag else c.desc.tag }) s)
  let s2 := if c.reported && code = 0 then s1 else reportColl c code s1
  let s3 := modCce (fun x => ringAdvance (x.finished.length + 1) { x with finished := x.finished ++ [c.index] }) s2
  let s4 := if code = 0 then s3.bump 0xA0040 1 else s3.bump 0xA0044 1
  traceEvent 4 0x02 (c.desc.group + c.desc.tag * 2 ^ 16 + c.desc.op * 2 ^ 32 + c.index * 2 ^ 40 + code * 2 ^ 64) s4

/-- COMPLETION_ROUND (R300): the round's value gives the collective's one outcome; an aborted one aborts the step. -/
def completionRound (ix value : Nat) (s : State) : State :=
  match collAt s ix with
  | none => s
  | some c =>
    if !c.contributed then s
    else
      let code := if value / 256 = 2 then 0xFF - value % 256 else 0
      let s1 := endColl c code s
      if code = 0 then s1 else abortStep code false s1

/-- COMPLETION_ROUND. -/
def execCompletionRound (coll code : Nat) (s : State) : Host.Outcome State Fault Refusal := .next (completionRound coll code s)

/-- COLL_TIMEOUT (R301). -/
def collTimeout (ix : Nat) (s : State) : State :=
  match collAt s ix with
  | none => s
  | some c => if s.tb < c.start + descTimeout s c.desc || c.abortCode ≠ 0 then s else raiseColl ix 0x55 s

/-- COLL_TIMEOUT. -/
def execCollTimeout (coll : Nat) (s : State) : Host.Outcome State Fault Refusal := .next (collTimeout coll s)

/-- A fence of a member (R300, R423). -/
def collsFence (f : Nat) (s : State) : State :=
  (s.cce.active.filter (fun c => c.members.contains f)).foldl (fun s c => raiseColl c.index 0x56 s) s

/-- Where a round cannot complete, the step's abort ends the collective with the step's code (R301). -/
def endColls (code : Nat) (s : State) : State := s.cce.active.foldl (fun s c => endColl c code s) s

end Sys2Proof.Machine
end

