-- ==== Sys2Proof/Machine/Philox.lean ====
section
/-! DEFINITION. Seeded jitter: Philox-4×32 with 10 rounds (R166) and the jittered key (R167). The multipliers and key
increments are the manual's; the round is the published one (PRESUMED, log entry 9). -/
namespace Sys2Proof.Machine
open Sys2Proof

/-- The four counter words. -/
structure Ctr4 where
  c0 : Nat
  c1 : Nat
  c2 : Nat
  c3 : Nat
deriving DecidableEq, Repr

/-- One Philox round. -/
def philoxRound (k0 k1 : Nat) (c : Ctr4) : Ctr4 :=
  let p0 := 0xD2511F53 * c.c0
  let p1 := 0xCD9E8D57 * c.c2
  { c0 := (p1 / 2 ^ 32) ^^^ c.c1 ^^^ k0, c1 := p1 % 2 ^ 32,
    c2 := (p0 / 2 ^ 32) ^^^ c.c3 ^^^ k1, c3 := p0 % 2 ^ 32 }

/-- `n` rounds with the key increments of R166. -/
def philoxRounds : Nat → Nat → Nat → Ctr4 → Ctr4
  | 0, _, _, c => c
  | n + 1, k0, k1, c =>
    philoxRounds n ((k0 + 0x9E3779B9) % 2 ^ 32) ((k1 + 0xBB67AE85) % 2 ^ 32) (philoxRound k0 k1 c)

/-- The output word of the expert at `offset` from EXPERT_BASE (R166). -/
def jitterWord (seed step layer half slot offset : Nat) : Nat :=
  let c := philoxRounds 10 (seed % 2 ^ 32) (seed / 2 ^ 32)
    ⟨step % 2 ^ 32, bits step 55 32 + layer * 2 ^ 24, slot + half * 2 ^ 16, offset / 4⟩
  match offset % 4 with
  | 0 => c.c0
  | 1 => c.c1
  | 2 => c.c2
  | _ => c.c3

/-- The key of R167 from the gate value and the output word. -/
def jitterKey (p : Word32) (u : Nat) : Word32 :=
  let v := u / 256
  let j := f32Round (.fin (v < 2 ^ 23) ((v : Int) - 2 ^ 23).natAbs (-28))
  f32Add p (f32Mul p j)

end Sys2Proof.Machine
end

