-- ==== Sys2Proof/Machine/Sfu.lean ====
section
/-! DEFINITION. The special function units: the functions of R129 with their values beyond the domain, the exact points
of R132, the NaN rule of R130, and between them the reduction, the segments and the clamp of R131 to R133 over a table
image whose coefficients are free values, held to the release check of R135. -/
namespace Sys2Proof.Machine
open Sys2Proof

/-- The functions of R129. -/
inductive SfuFn where
  | exp | exp2 | log | reciprocal | rsqrt | sigmoid | tanh | geluErf | geluTanh | silu | softplus
deriving DecidableEq, Repr

/-- The number under which a function's bits are drawn. -/
def SfuFn.code : SfuFn → Nat
  | .exp => 0 | .exp2 => 1 | .log => 2 | .reciprocal => 3 | .rsqrt => 4 | .sigmoid => 5
  | .tanh => 6 | .geluErf => 7 | .geluTanh => 8 | .silu => 9 | .softplus => 10

/-- Fraction bits of the fixed-point enclosures. -/
def fixP : Nat := 512

/-- ln 2 in fixed point. -/
def fixLn2 : Int := 9293584264128987901384440660653081117630633404975079641076009770578364573633075645167623918067512986930843040596952636663673675798576024949780480621393957

/-- 2/√π in fixed point. -/
def fixTwoRsPi : Int := 15129091144565236318728102021357054465931501868382697344855376898009540746382886124033677943963406588385143660408145906714304807668551155360290336851985570

/-- 1/√2 in fixed point. -/
def fixRsTwo : Int := 9480751908109176726832526455652159260084541744031329863792443335050652303478140824795455728407420733006933090614179782624068317238241310650437075740534632

/-- Fixed-point product. -/
def fixMul (a b : Int) : Int := (a * b) / 2 ^ fixP

/-- A finite value in fixed point. -/
def fixOf : Val → Int
  | .fin s m e => (truncTo (-(fixP : Int)) s m e).1
  | _ => 0

/-- The terms of e^r from the k-th on. -/
def fixExpSum (r : Int) : Nat → Int → Int → Int
  | 0, _, _ => 0
  | n + 1, k, t => t + fixExpSum r n (k + 1) (fixMul t r / k)

/-- e^x in the form `m × 2^n` with `m` in fixed point, near [0.7, 1.42]. -/
def fixExp (x : Int) : Int × Int :=
  let n := (2 * x + fixLn2) / (2 * fixLn2)
  let r := x - n * fixLn2
  (fixExpSum r 100 1 (2 ^ fixP), n)

/-- The odd powers of atanh z. -/
def fixAtanhSum (z2 : Int) : Nat → Int → Int → Int
  | 0, _, _ => 0
  | n + 1, k, t => t / k + fixAtanhSum z2 n (k + 2) (fixMul t z2)

/-- ln(1 + q/p) of a non-negative ratio below about 1.5, as twice atanh(q / (2p + q)). -/
def fixLog1p (q p : Int) : Int :=
  let z := q * 2 ^ fixP / (2 * p + q)
  2 * fixAtanhSum (fixMul z z) 200 1 z

/-- The Maclaurin sum of erf without its factor. -/
def fixErfSum (z2 : Int) : Nat → Int → Int → Int
  | 0, _, _ => 0
  | n + 1, k, t => t / (2 * k + 1) + fixErfSum z2 n (k + 1) (-(fixMul t z2) / (k + 1))

/-- 1 + erf(z) in fixed point. -/
def fixOnePlusErf (z : Int) : Int := 2 ^ fixP + fixMul fixTwoRsPi (fixErfSum (fixMul z z) 700 0 z)

/-- A non-negative or negative fixed-point number times `2^n` as a value. -/
def fixVal (x : Int) (n : Int) : Val := .fin (x < 0) x.natAbs (n - fixP)

/-- sigmoid(x) as a value, from e^−|x|. -/
def sigmoidVal (x : Int) : Val :=
  let (m, n) := fixExp (-(x.natAbs : Int))
  let e := m / 2 ^ (-n).toNat
  let d := 2 ^ fixP + e
  if x ≥ 0 then fixVal (2 ^ (2 * fixP) / d) 0 else fixVal (m * 2 ^ fixP / d) n

/-- The exact value of a function, near enough to place the 2 ulp of R129; used only inside the domain. -/
def sfuExact (f : SfuFn) (v : Val) : Val :=
  let x := fixOf v
  match f with
  | .exp => let (m, n) := fixExp x; fixVal m n
  | .exp2 => let (m, n) := fixExp (fixMul x fixLn2); fixVal m n
  | .log =>
    match v with
    | .fin _ m e =>
      let k := (Nat.log2 m : Int) + e
      let f2 := (truncTo (-(fixP : Int)) false m (e - k)).1
      fixVal (k * fixLn2 + fixLog1p (f2 - 2 ^ fixP) (2 ^ fixP)) 0
    | _ => .nan
  | .reciprocal => (Val.fin false 1 0).div v
  | .rsqrt =>
    match v with
    | .fin _ m e =>
      let e2 := if e % 2 = 0 then e else e - 1
      let m2 := if e % 2 = 0 then m else 2 * m
      .fin false (Nat.sqrt (2 ^ (1024 + 2 * Nat.log2 m2) / m2)) (-(e2 / 2) - 512 - Nat.log2 m2)
    | _ => .nan
  | .sigmoid => sigmoidVal x
  | .tanh =>
    match v.log2 with
    | some k =>
      if k < -20 then v.mul ((Val.fin false 1 0).add ((v.mul v).mul (.fin true 0x55555555555 (-44))))
      else (sigmoidVal (2 * x)).add ((sigmoidVal (-2 * x)).neg)
    | none => v
  | .geluErf => (v.mul (.fin false 1 (-1))).mul (fixVal (fixOnePlusErf (fixMul x fixRsTwo)) 0)
  | .geluTanh =>
    let u := 7978846 * (1000000 * x + 44715 * fixMul x (fixMul x x)) / 10000000000000
    v.mul (sigmoidVal (2 * u))
  | .silu => v.mul (sigmoidVal x)
  | .softplus =>
    let (m, n) := fixExp (-(x.natAbs : Int))
    let l := fixLog1p m (2 ^ fixP * 2 ^ (-n).toNat)
    if x ≥ 0 then fixVal (x + l) 0 else fixVal l 0

/-- The ulp of R129 at an exact value, as an exponent of two. -/
def ulpExp (y : Val) : Int := max ((y.log2).getD (-126)) (-126) - 23

/-- Whether `r` lies within 2 ulp of `y`. -/
def within2Ulp (y r : Val) : Bool :=
  match r with
  | .fin _ _ _ =>
    match y.add r.neg with
    | .fin _ m e => (Val.fin false m e).le (.fin false 1 (ulpExp y + 1))
    | _ => false
  | _ => false

/-! ### The table image (R131 to R133, R475) -/

/-- ln 2 and √2 as values. -/
def ln2Val : Val := fixVal fixLn2 0
def sqrt2Val : Val := fixVal (2 * fixRsTwo) 0

/-- A reduced argument (R131): the range and the segment of the table that it falls in, the segment's ends, and how the
result is put together again: times `2^pow`, plus `lns × ln 2`, with a sign. -/
structure Reduced where
  range : Int
  seg : Nat
  left : Val
  right : Val
  arg : Val
  pow : Int
  lns : Int
  neg : Bool
  deriving DecidableEq, Repr

/-- Segment of 64 equal ones between two points of the line, given as fixed-point numbers. -/
def cutFixed (lo hi x : Int) : Nat × Val × Val :=
  let j := min 63 ((64 * (x - lo)) / (hi - lo)).toNat
  (j, fixVal (lo + (hi - lo) * j / 64) 0, fixVal (lo + (hi - lo) * (j + 1) / 64) 0)

/-- Segment of 64 equal ones of `[2^k, (1 + width) × 2^k)`, of a magnitude in that range. -/
def cutBinade (neg : Bool) (k : Int) (width m : Nat) (e : Int) : Nat × Val × Val :=
  let d := 64 * (m <<< (e - k + 512).toNat) - 64 * 2 ^ 512
  let j := min 63 (d / (width * 2 ^ 512))
  let at_ := fun (i : Nat) => Val.fin neg (64 + width * i) (k - 6)
  (j, at_ j, at_ (j + 1))

/-- The reduction of R129 for a finite argument inside the domain. -/
def reduce (f : SfuFn) (v : Val) : Reduced :=
  match v with
  | .fin s m e =>
    let k := (Nat.log2 m : Int) + e
    match f with
    | .exp =>
      let x := fixOf v
      let n := (2 * x + fixLn2) / (2 * fixLn2)
      let r := x - n * fixLn2
      let c := cutFixed (-fixLn2 / 2) (fixLn2 / 2) r
      ⟨0, c.1, c.2.1, c.2.2, fixVal r 0, n, 0, false⟩
    | .exp2 =>
      let x := fixOf v
      let n := (2 * x + 2 ^ fixP) / 2 ^ (fixP + 1)
      let r := x - n * 2 ^ fixP
      let c := cutFixed (-(2 ^ (fixP - 1))) (2 ^ (fixP - 1)) r
      ⟨0, c.1, c.2.1, c.2.2, fixVal r 0, n, 0, false⟩
    | .log =>
      let high := sqrt2Val.le (.fin false m (e - k))
      let n := if high then k + 1 else k
      let r := fixOf (.fin false m (e - n))
      let c := cutFixed fixRsTwo (2 * fixRsTwo) r
      ⟨0, c.1, c.2.1, c.2.2, .fin false m (e - n), 0, n, false⟩
    | .reciprocal =>
      let c := cutBinade false 0 1 m (e - k)
      ⟨0, c.1, c.2.1, c.2.2, .fin false m (e - k), -k, 0, s⟩
    | .rsqrt =>
      let n := k / 2
      let c := cutBinade false 0 3 m (e - 2 * n)
      ⟨0, c.1, c.2.1, c.2.2, .fin false m (e - 2 * n), -n, 0, false⟩
    | _ =>
      if k < -16 then ⟨if s then -1000 else 1000, 0, .fin s 0 0, .fin s 1 (-16), v, 0, 0, false⟩
      else
        let c := cutBinade s k 1 m e
        ⟨if s then -(k + 17) else k + 17, c.1, c.2.1, c.2.2, v, 0, 0, false⟩
  | _ => ⟨0, 0, v, v, v, 0, 0, false⟩

/-- Rounded to the 34-bit significand of the internal format (R131). DESIGN CHOICE (log entry 7): each operation rounds to
nearest, ties to even, and the exponent has no bound. -/
def round34 (v : Val) : Val :=
  match v with
  | .fin n m e =>
    if m = 0 then v else
      let r := roundMag 34 (-(2 ^ 20)) m e
      .fin n r.1 r.2
  | _ => v

/-- A coefficient of the table image, as a value. -/
def coeffVal (ver : Nat) (f : SfuFn) (r : Reduced) (i : Nat) : Val :=
  let c := Config.sfuCoeff ver f.code r.range r.seg i
  .fin c.1 c.2.1.toNat c.2.2

/-- Horner's rule on a segment's cubic in the offset from its left end (R131). -/
def horner (ver : Nat) (f : SfuFn) (r : Reduced) : Val :=
  let d := round34 (r.arg.add r.left.neg)
  [2, 1, 0].foldl (fun acc i => round34 ((round34 (acc.mul d)).add (coeffVal ver f r i))) (coeffVal ver f r 3)

/-- A stored endpoint (R132): the correctly rounded value of the function there. -/
def storedAt (f : SfuFn) (v : Val) : Val := f32Val (f32Round (sfuExact f v))

/-- DESIGN CHOICE (log entry 33): the one segment in which GELU or SiLU has its minimum. Clamped between the segment's
endpoints (R133) the function could not meet the 2 ulp of R129 there, so there the clamp is left out. The minima lie at
−0.7518, −0.7525 and −1.2785. -/
def holdsMinimum (f : SfuFn) (r : Reduced) : Bool :=
  match f with
  | .geluErf => r.range = -16 && r.seg = 32
  | .geluTanh => r.range = -16 && r.seg = 32
  | .silu => r.range = -17 && r.seg = 17
  | _ => false

/-- Clamped into the closed interval between the two stored endpoints (R133). -/
def clampSeg (f : SfuFn) (r : Reduced) (v : Val) : Val :=
  let a := storedAt f r.left
  let b := storedAt f r.right
  let lo := if a.le b then a else b
  let hi := if a.le b then b else a
  if holdsMinimum f r then v else if v.lt lo then lo else if hi.lt v then hi else v

/-- The polynomial's value, or the stored value at an end of the segment (R132). -/
def segmentVal (ver : Nat) (f : SfuFn) (r : Reduced) : Val :=
  if r.arg.le r.left && r.left.le r.arg then storedAt f r.left
  else if r.arg.le r.right && r.right.le r.arg then storedAt f r.right
  else clampSeg f r (horner ver f r)

/-- Reconstruction (R131). -/
def rebuild (r : Reduced) (v : Val) : Val :=
  let w := v.mul (.fin r.neg 1 r.pow)
  if r.lns = 0 then w else round34 (w.add (ln2Val.mul (.fin (r.lns < 0) r.lns.natAbs 0)))

/-- What the table image gives for an argument inside the domain, rounded once (R131). -/
def imageValue (ver : Nat) (f : SfuFn) (x : Word32) : Word32 :=
  let r := reduce f (f32Val x)
  f32Round (rebuild r (segmentVal ver f r))

/-- The sign of the zero that tanh, GELU or SiLU gives for −0 is a free value (log entry 7): the manual does not state it;
+0 gives +0 (R132). -/
def sfuZero (ver : Nat) (f : SfuFn) (x : Word32) : Word32 :=
  if x = 0 || !Config.sfuNegZero ver f.code then 0 else 0x80000000

/-- Whether a finite value is `2^k`, and k. -/
def pow2Of : Val → Option Int
  | .fin _ m e => if m ≠ 0 ∧ m = 2 ^ Nat.log2 m then some ((Nat.log2 m : Int) + e) else none
  | _ => none

/-- Whether a finite value is an integer of at most 8 bits, and which. -/
def smallInt : Val → Option Int
  | .fin s m e =>
    if m = 0 then some 0 else
      let (n, lost) := truncTo 0 s m e
      if lost ∨ n.natAbs > 255 then none else some n
  | _ => none

/-- Comparison with an integer times `2^k`. -/
def geInt (v : Val) (n : Int) (k : Int) : Bool := (Val.fin (n < 0) n.natAbs k).le v

/-- One evaluation over the whole line (R129, R130, R132), given the function inside the domain. -/
def sfuOver (inside : Word32 → Word32) (ver : Nat) (f : SfuFn) (x : Word32) : Word32 :=
  let v := f32Val x
  if v = .nan then f32NaN else
  match f with
  | .exp =>
    if v.isZero then f32One
    else if !((v.mul (.fin false 100000 0)).le (.fin false 8872283 0)) then f32Inf
    else if !(geInt ((v.mul (.fin false 100000 0))) (-10397208) 0) then 0
    else inside x
  | .exp2 =>
    if geInt v 128 0 then f32Inf
    else if v.le (.fin true 150 0) then 0
    else
      match smallInt v with
      | some n => f32Round (.fin false 1 n)
      | none => inside x
  | .log =>
    if v.isZero then f32NegInf
    else if v.sign then f32NaN
    else if v = .inf false then f32Inf
    else if x = f32One then 0
    else inside x
  | .reciprocal =>
    match v with
    | .inf n => f32Sign n 0
    | w =>
      if w.isZero then (if w.sign then f32NegInf else f32Inf)
      else
        match pow2Of w with
        | some k => f32Round (.fin w.sign 1 (-k))
        | none => inside x
  | .rsqrt =>
    if v.isZero then (if v.sign then f32NegInf else f32Inf)
    else if v.sign then f32NaN
    else if v = .inf false then 0
    else
      match pow2Of v with
      | some k => if k % 2 = 0 then f32Round (.fin false 1 (-(k / 2))) else inside x
      | none => inside x
  | .sigmoid =>
    if v.isZero then 0x3F000000
    else if geInt v 128 0 then f32One
    else if v.le (.fin true 128 0) then 0
    else inside x
  | .tanh =>
    if v.isZero then sfuZero ver f x
    else if geInt v 16 0 then f32One
    else if v.le (.fin true 16 0) then 0xBF800000
    else inside x
  | .geluErf =>
    if geInt v 16 0 then x
    else if v.le (.fin true 16 0) then 0x80000000
    else if v.isZero then sfuZero ver f x
    else inside x
  | .geluTanh =>
    if geInt v 16 0 then x
    else if v.le (.fin true 16 0) then 0x80000000
    else if v.isZero then sfuZero ver f x
    else inside x
  | .silu =>
    if geInt v 128 0 then x
    else if v.le (.fin true 128 0) then 0x80000000
    else if v.isZero then sfuZero ver f x
    else inside x
  | .softplus =>
    if geInt v 32 0 then x
    else if v.le (.fin true 128 0) then 0
    else inside x

/-- An argument at which R129 bounds the error: finite, non-zero, and inside the function's domain. -/
def bounded (f : SfuFn) (x : Word32) : Bool :=
  let v := f32Val x
  v.isFin && !v.isZero &&
    match f with
    | .exp => (v.mul (.fin false 100000 0)).le (.fin false 8872283 0) && geInt (v.mul (.fin false 100000 0)) (-10397208) 0
    | .exp2 => !geInt v 128 0 && !v.le (.fin true 150 0)
    | .log => !v.sign
    | .reciprocal => true
    | .rsqrt => !v.sign
    | .sigmoid => !geInt v 128 0 && !v.le (.fin true 128 0)
    | .silu => !geInt v 128 0 && !v.le (.fin true 128 0)
    | .softplus => !geInt v 32 0 && !v.le (.fin true 128 0)
    | _ => !geInt v 16 0 && !v.le (.fin true 16 0)

/-- Two arguments whose results R134 orders, the one with the smaller result first. -/
def ordered (f : SfuFn) (x y : Word32) : Bool :=
  let a := f32Val x
  let b := f32Val y
  match f with
  | .reciprocal => b.le a && a.sign = b.sign
  | .rsqrt => b.le a && a.sign = b.sign
  | .geluErf => a.le b && !a.sign
  | .geluTanh => a.le b && !a.sign
  | .silu => a.le b && !a.sign
  | _ => a.le b

/-- The release check of R135 on one pair of arguments: R129 at the first, R134 between the two. An exact value beyond the
largest binary32 (the reciprocal of a small subnormal) has no 2 ulp to keep to; it rounds to an infinity. -/
def releaseCheck (ver : Nat) (f : SfuFn) (x y : Word32) : Bool :=
  let g := fun z => sfuOver (imageValue ver f) ver f z
  (!bounded f x || within2Ulp (sfuExact f (f32Val x)) (f32Val (g x)) ||
      g x = f32Round (sfuExact f (f32Val x))) && (!ordered f x y || !(f32Val (g y)).lt (f32Val (g x)))

/-- A table version has passed its release check for a function (R135). -/
def released (ver : Nat) (f : SfuFn) : Prop := ∀ x y : Word32, releaseCheck ver f x y = true

/-- FREE VALUE (R129, R131 to R135, R475; log entry 7): the function inside its domain. The table image is published and
not in the manual, so its coefficients are free; every version in ROM has passed the check of R135, so an image that
would not pass it is read as correct rounding, which passes it. -/
def sfuInside (ver : Nat) (f : SfuFn) (x : Word32) : Word32 :=
  have : Decidable (released ver f) := inferInstanceAs (Decidable (∀ x y : Word32, releaseCheck ver f x y = true))
  if released ver f then imageValue ver f x else f32Round (sfuExact f (f32Val x))

/-- One SFU evaluation (R129 to R134). -/
def sfu (ver : Nat) (f : SfuFn) (x : Word32) : Word32 := sfuOver (sfuInside ver f) ver f x

end Sys2Proof.Machine
end

