-- ==== Sys2Proof/Machine/Score.lean ====
section
/-! DEFINITION. NORM (R139 to R147), SCORE (R108 to R126), GATE (R148 to R153), SELECT (R157 to R168) and the re-fetch of
lines (R236, R237): NORM_TILE, ANCHOR_PREPASS_DONE, SCORE_PAIR_DONE, GATE_ROW_BLOCK, SELECT_ROW_BLOCK and
TIER_LINE_UNCORR. -/
namespace Sys2Proof.Machine
open Sys2Proof

/-! ### Blocks between stations -/

/-- Trace events for a list of tiles of a block. -/
def traceTiles (ev station kind : Nat) (k : BlockId) (rows : Nat) (ts : List Tile) (s : State) : State :=
  ts.foldl (fun s t => traceTile ev station kind k.layer k.half k.base t.colBase rows s) s

/-- The image bytes of a tile between stations. -/
def Tile.bytes (t : Tile) : Nat := tileBytes false t.elems.length t.cols (fmtSize t.fmt) (fmtMx t.fmt)

/-- Put tiles into their buffers. -/
def withBufs (ts : List Tile) (bs : List (Nat × Nat)) : List Tile := (ts.zip bs).map (fun x => { x.1 with buf := some x.2 })

/-- Some column tile carries POISON. -/
def poisoned (ts : List Tile) : Bool := ts.any (·.poison)

/-- A row's values across the column tiles, as exact values. -/
def rowVals (ts : List Tile) (r : Nat) : List Val :=
  ts.flatMap (fun t =>
    let cs := t.elems.getD r []
    let sc := t.scales.getD r []
    (List.range cs.length).map (fun c => elemVal t.fmt (cs.getD c 0) (sc.getD (c / 32) 0x7F)))

/-! ### NORM -/

/-- n of R106: the chunks of a column block. -/
def chunkCount (d : Nat) : Nat := ceilDiv d 256

/-- B of R106. -/
def chunkBytes (fmt : Nat) : Nat := if fmt = 5 then 131072 else if fmtMx fmt then 67584 else 65536

/-- The bytes of a layer's router image (R106). -/
def routerBytes (s : State) (r : LayerRec) : Nat := ceilDiv r.experts 256 * chunkCount (dModel s) * chunkBytes r.routerFmt

/-- The address of a layer's NORM parameter block (R141). -/
def normAddr (s : State) (r : LayerRec) : Nat := r.routerAddr + routerBytes s r

/-- A binary32 word in memory. -/
def memF32 (s : State) (a : Nat) : Word32 := BitVec.ofNat 32 (leNat (memBytes s.mem a 4))

/-- The fields of NORM_FORM (R140). -/
def normStat (f : Nat) : Nat := bits f 1 0
def normAffine (f : Nat) : Bool := bit f 2
def normAct (f : Nat) : Nat := bits f 6 3
def normBf16 (f : Nat) : Bool := bit f 7

/-- The bytes of the parameter block that NORM reads (R141). -/
def normBytes (s : State) (r : LayerRec) : Nat := 0x40 + (if normAffine r.normForm then 8 * dModel s else 0)

/-- The parameter block passes the checks of R141: EPS and the reserved bytes whatever STAT is, γ and β where NORM reads
them. -/
def normParamsOk (s : State) (r : LayerRec) : Bool :=
  let a := normAddr s r
  let eps := memF32 s a
  allZero (memBytes s.mem (a + 4) 60) && 1 ≤ bits eps.toNat 31 23 && bits eps.toNat 31 23 ≤ 254 &&
    (!normAffine r.normForm ||
      (List.range (2 * dModel s)).all (fun i => (f32Val (memF32 s (a + 0x40 + 4 * i))).isFin))

/-- One row's statistics (R143): μ, var or q, r, and the increments clamped. -/
structure NormStats where
  mu : Word32
  spread : Word32
  r : Word32
  clamps : Nat
  deriving DecidableEq, Repr

/-- A value at or below zero. -/
def atMostZero (x : Word32) : Bool := (f32Val x).le (.fin false 0 0)

/-- The Welford pass of R143. -/
def welford : Nat → List Word32 → Word32 × Word32 × Nat → Word32 × Word32 × Nat
  | _, [], acc => acc
  | k, x :: xs, (mu, m2, c) =>
    let d := f32Sub x mu
    let mu1 := f32Add mu (f32Div d (f32OfNat k))
    let t := f32Mul d (f32Sub x mu1)
    let t1 := if atMostZero t then 0 else t
    welford (k + 1) xs (mu1, f32Add m2 t1, c + b2n (atMostZero t && !(f32Val t).isZero))

/-- The RMS pass of R143. -/
def rmsPass : Nat → List Word32 → Word32 → Word32
  | _, [], q => q
  | k, x :: xs, q => rmsPass (k + 1) xs (f32Add q (f32Div (f32Sub (f32Mul x x) q) (f32OfNat k)))

/-- The statistics of a row under a STAT code. -/
def normStats (ver stat : Nat) (eps : Word32) (xs : List Word32) : NormStats :=
  match stat with
  | 1 =>
    let (mu, m2, c) := welford 1 xs (0, 0, 0)
    let v := f32Div m2 (f32OfNat xs.length)
    let var := if atMostZero v then 0 else v
    ⟨mu, var, sfu ver .rsqrt (f32Add var eps), c⟩
  | 2 =>
    let q := rmsPass 1 xs 0
    ⟨0, q, sfu ver .rsqrt (f32Add q eps), 0⟩
  | _ => ⟨0, 0, 0, 0⟩

/-- The ACT function of R140. -/
def normActFn (ver code : Nat) (x : Word32) : Word32 :=
  match code with
  | 1 => sfu ver .geluErf x
  | 2 => sfu ver .geluTanh x
  | 3 => sfu ver .silu x
  | 4 => sfu ver .softplus x
  | 5 => sfu ver .sigmoid x
  | 6 => sfu ver .tanh x
  | _ => x

/-- One output element before conversion (R145, steps 1 to 4). -/
def normElem (ver f : Nat) (st : NormStats) (gamma beta x : Word32) : Word32 :=
  let a := match normStat f with
    | 1 => f32Mul (f32Sub x st.mu) st.r
    | 2 => f32Mul x st.r
    | _ => x
  normActFn ver (normAct f) (if normAffine f then f32Add (f32Mul a gamma) beta else a)

/-- A row converted to a format (R145): element codes, scales and saturations. -/
def convertRow (fmt : Nat) (vs : List Val) : List Nat × List Nat × Nat :=
  match fmt with
  | 1 => let rs := vs.map toE4M3; (rs.map (·.1), [], (rs.filter (·.2)).length)
  | 2 => let rs := vs.map toE5M2; (rs.map (·.1), [], (rs.filter (·.2)).length)
  | 5 => (vs.map bf16Round, [], 0)
  | _ =>
    let bs := (List.range (vs.length / 32)).map (fun j => mxBlock (fmt = 4) ((vs.drop (32 * j)).take 32))
    (bs.flatMap (fun b => b.2.1), bs.map (·.1), sumNat (bs.map (fun b => b.2.2)))

/-- The NaN of a format (R145). -/
def nanCode (fmt : Nat) : Nat := if fmt = 5 then 0x7FC0 else if fmt = 2 || fmt = 4 then 0x7E else 0x7F

/-- A row entirely NaN (R146). -/
def nanRow (fmt n : Nat) : List Nat × List Nat × Nat :=
  (List.replicate n (nanCode fmt), if fmtMx fmt then List.replicate (n / 32) 0xFF else [], 0)

/-- One row through NORM: codes, scales, saturations, clamps, and whether it is output as NaN. -/
def normRow (s : State) (r : LayerRec) (fmt : Nat) (vs : List Val) : (List Nat × List Nat × Nat) × Nat × Bool :=
  let xs := vs.map f32Round
  let a := normAddr s r
  let st := normStats s.sfuVersion (normStat r.normForm) (memF32 s a) xs
  let bad := !(xs.all (fun x => (f32Val x).isFin)) || !(f32Val st.mu).isFin || !(f32Val st.spread).isFin
  if bad then (nanRow fmt xs.length, st.clamps, true)
  else
    let ys := (List.range xs.length).map (fun i => f32Val (normElem s.sfuVersion r.normForm st
      (memF32 s (a + 0x40 + 4 * i)) (memF32 s (a + 0x40 + 4 * dModel s + 4 * i)) (xs.getD i 0)))
    (convertRow fmt ys, st.clamps, false)

/-- NORM's output header (R139): that of the input, with SRC and FMT of its own. -/
def normHdr (fmt : Nat) (h : TileHdr) : TileHdr := { h with src := 2, fmt := fmt }

/-- The output tiles of a row block: the rows cut at the input's columns, or NaN throughout under POISON (R147). -/
def normTiles (fmt : Nat) (poison : Bool) (ts : List Tile) (rows : List (List Nat × List Nat)) : List Tile :=
  ts.map (fun t =>
    if poison then
      let q := nanRow fmt t.cols
      ⟨(normHdr fmt t.hdr).mark, t.elems.map (fun _ => q.1), t.elems.map (fun _ => q.2.1), none⟩
    else
      ⟨normHdr fmt t.hdr, rows.map (fun q => (q.1.drop t.colBase).take t.cols),
        rows.map (fun q => (q.2.drop (t.colBase / 32)).take (t.cols / 32)), none⟩)

/-- Every block of an earlier half has what a station gives it (R30). -/
def earlierBlocks (s : State) (k : BlockId) (p : Block → Bool) : Bool :=
  earlier s k.layer k.half (fun h => h.closed && h.blocks.all p)

/-- The blocks of the same half that come before a block in SCORE's order (R108) have what a station gives them. -/
def blocksBefore (s : State) (k : BlockId) (p : Block → Bool) : Bool :=
  match halfAt s k.layer k.half with
  | some h => (h.blocks.takeWhile (fun b => b.base ≠ k.base)).all p
  | none => false

/-- The request of a station for the buffers of a row block's tiles. -/
def blockKey (station : Nat) (k : BlockId) : List Nat := [station, k.layer, k.half, k.base]

/-- NORM's work on a row block (R139 to R147): the output tiles are written in SCORE's buffers, the input is held on as
COMBINE's residual. Rows of a poisoned block are not counted in SFU_NORM_NONFIN (DESIGN CHOICE, log entry 35). -/
def normRun (k : BlockId) (env : MemEnv) (s : State) : State :=
  match blockAt s k, layerRec s k.layer with
  | some b, some r =>
    if !stepLive s || !normPresent s || !b.complete || b.norm.isSome ||
        !earlierBlocks s k (·.norm.isSome) || !blocksBefore s k (·.norm.isSome) then s
    else if badLine env (normAddr s r) (normBytes s r) then raiseAborts uCad 0x2B s
    else if !normParamsOk s r then raiseAborts uSfu 0x1D s
    else
      let fmt := if normBf16 r.normForm then 5 else b.fmt
      let poison := poisoned b.token
      let rows := if poison || b.cols = 0 then [] else (List.range b.rows).map (fun i => normRow s r fmt (rowVals b.token i))
      let out := normTiles fmt poison b.token (rows.map (fun x => (x.1.1, x.1.2.1)))
      match allocMany (out.map Tile.bytes) (stationOwner s 3) (blockKey 3 k) s with
      | (none, s1) => s1
      | (some bs, s1) =>
        let s2 := modBlock k (fun b => { b with norm := some (withBufs out bs) }) s1
        let s3 := ((s2.bump 0x3102C (rows.filter (fun x => x.2.2)).length).bump 0x31030
          (sumNat (rows.map (fun x => x.1.2.2)))).bump 0x31034 (sumNat (rows.map (fun x => x.2.1)))
        let s4 := b.token.foldl (fun s t => releaseOpt t.buf s) (traceTiles 1 2 1 k b.rows b.token s3)
        intoQueue 3 s (ingestOn (traceTiles 2 2 1 k b.rows b.token s4))
  | _, _ => s

/-- NORM_TILE (R139). -/
def normTile (k : BlockId) (env : MemEnv) (errs : Errs) (s : State) : State := normRun k env (takeErrors errs (withEnv env s))

/-- NORM_TILE. -/
def execNormTile (blk : BlockId) (s : State) (env : MemEnv := ⟨[], []⟩) (errs : Errs := []) : Host.Outcome State Fault Refusal :=
  .next (normTile blk env errs s)

/-- The row block that NORM takes next, once it is ready. -/
def normNext (s : State) : Option BlockId :=
  if normPresent s && stepLive s then ((stepBlocks s).find? (fun x => x.2.norm.isNone)).map (·.1) else none

/-- NORM's next row block goes ahead of GATE's on an SFU that both share (R155): it is ready and can be put in place. -/
def normFirst (s : State) : Bool :=
  match normNext s with
  | some k => (bindOf s 2 &&& bindOf s 4) ≠ 0 && (blockAt (normRun k ⟨[], []⟩ s) k).any (fun b => b.norm.isSome)
  | none => false

/-! ### SCORE -/

/-- The experts of a column block. -/
def colExperts (r : LayerRec) (b : Block) (c : Nat) : Nat := if b.empty then 0 else min 256 (r.experts - 256 * c)

/-- A column block of a block has its anchors. -/
def anchored (b : Block) (c : Nat) : Bool := b.anchors.any (fun a => a.1 = c)

/-- SCORE has finished a block. -/
def scoreDone (r : LayerRec) (b : Block) : Bool := b.gate.isSome || b.score.length = colBlocks r b

/-- The pairs of an array that a condition leaves over, in the order in which the array takes them (R30, R108); a row block
that GATE has taken has none left. -/
def pairsLeft (s : State) (array : Nat) (has : Block → Nat → Bool) : List (BlockId × Nat) :=
  (stepBlocks s).flatMap (fun x => match layerRec s x.1.layer with
    | some r => if x.2.gate.isSome then [] else
        ((shareOf s r x.2 array).filter (fun c => !has x.2 c)).map (fun c => (x.1, c))
    | none => [])

/-- The next pair of an array; no half before it is still open (R30). -/
def nextPair (s : State) (array : Nat) (k : BlockId) (c : Nat) (has : Block → Nat → Bool) : Bool :=
  (pairsLeft s array has).head? = some (k, c) && earlier s k.layer k.half (·.closed)

/-- The pair that an array works on: the next one whose row block has reached SCORE. -/
def pairNow (s : State) (array : Nat) : Option (BlockId × Nat) :=
  if !stepLive s then none
  else ((pairsLeft s array scored).head?).filter (fun x =>
    nextPair s array x.1 x.2 scored && (blockAt s x.1).any (fun b => (b.input s).isSome))

/-- The pre-passes of an array whose pairs are still to be worked: one runs while the array works the pair before it
(R110). -/
def prepassesAhead (s : State) (array : Nat) : Nat :=
  ((pairsLeft s array scored).filter (fun x => (blockAt s x.1).any (fun b => anchored b x.2))).length

/-- A chunk's expert column from memory (R106): for each 32-column block its codes and scale. -/
def routerBlock (s : State) (r : LayerRec) (e j : Nat) : OpBlock :=
  let n := chunkCount (dModel s)
  let sz := fmtSize r.routerFmt
  let c := e / 256
  let chunk := r.routerAddr + (c * n + j / 8) * chunkBytes r.routerFmt
  let codes := memBytes s.mem (chunk + ((e % 256) * 256 + (j % 8) * 32) * sz) (32 * sz)
  let scale := if fmtMx r.routerFmt then (memByte s.mem (chunk + 65536 + (e % 256) * 8 + j % 8)).toNat else 0x7F
  ⟨r.routerFmt, (List.range 32).map (fun i => leAt codes (i * sz) sz), scale⟩

/-- A row's blocks of 32 columns across the column tiles. -/
def tokenBlocks (ts : List Tile) (row : Nat) : List OpBlock :=
  ts.flatMap (fun t => (List.range (ceilDiv t.cols 32)).map (fun j =>
    ⟨t.fmt, ((t.elems.getD row []).drop (32 * j)).take 32, (t.scales.getD row []).getD j 0x7F⟩))

/-- The operands of one dot product. -/
def operands (s : State) (r : LayerRec) (ts : List Tile) (row e : Nat) : List (OpBlock × OpBlock) :=
  let xs := tokenBlocks ts row
  xs.zip ((List.range xs.length).map (routerBlock s r e))

/-- The pre-pass of a pair is needed (R109): with scales, or in the bfloat16 path. -/
def needsPrepass (r : LayerRec) (fmt : Nat) : Bool := bf16Path fmt r.routerFmt || fmtMx fmt || fmtMx r.routerFmt

/-- The scale blocks of a column block of the router image, each by address and length (R106); none without scales. -/
def scaleBytes (s : State) (r : LayerRec) (c : Nat) : List (Nat × Nat) :=
  if fmtMx r.routerFmt then
    (List.range (chunkCount (dModel s))).map (fun j =>
      (r.routerAddr + (c * chunkCount (dModel s) + j) * chunkBytes r.routerFmt + 65536, 2048))
  else []

/-- The bytes of a column block of the router image. DESIGN CHOICE (log entry 36): the array reads all of them, those that
enter no result included. -/
def colBytes (s : State) (r : LayerRec) (c : Nat) : Nat × Nat :=
  let n := chunkCount (dModel s) * chunkBytes r.routerFmt
  (r.routerAddr + c * n, n)

/-- A ten-bit two's-complement anchor (R112). -/
def anchorCode (a : Int) : Nat := (a % 1024).toNat
def anchorOfCode (n : Nat) : Int := if n < 512 then n else (n : Int) - 1024

/-- SCORE_ANCHOR takes a pair's anchors in (R127): the first pre-pass of the step writes it first. DESIGN CHOICE (log entry
34): the anchor 0 of a pair that has no pre-pass is not taken in. -/
def noteAnchors (as : List Int) (s : State) : State :=
  match as with
  | [] => s
  | a :: rest =>
    let lo := rest.foldl min a
    let hi := rest.foldl max a
    let fresh := !(s.halves.any (fun h => h.blocks.any (fun b => !b.anchors.isEmpty)))
    let lo1 := if fresh then lo else min lo (anchorOfCode (s.field 0x30034 9 0))
    let hi1 := if fresh then hi else max hi (anchorOfCode (s.field 0x30034 25 16))
    (s.setField 0x30034 9 0 (anchorCode lo1)).setField 0x30034 25 16 (anchorCode hi1)

/-- What the pre-pass of a pair reads uncorrectable (R110, R124): of MX operands only the scale blocks, in the bfloat16 path
the elements too. -/
def prepassBad (s : State) (r : LayerRec) (fmt c : Nat) (env : MemEnv) : Bool :=
  if bf16Path fmt r.routerFmt then badLine env (colBytes s r c).1 (colBytes s r c).2
  else (scaleBytes s r c).any (fun x => badLine env x.1 x.2)

/-- FMT of a row block's tiles. -/
def tilesFmt (d : Nat) (ts : List Tile) : Nat := (ts.head?.map Tile.fmt).getD d

/-- ANCHOR_PREPASS_DONE (R110): the anchors of a pair are fixed before its first addition (R113). -/
def anchorPrepass (k : BlockId) (array c : Nat) (env : MemEnv) (errs : Errs) (s0 : State) : State :=
  let s := takeErrors errs (withEnv env s0)
  match blockAt s k, layerRec s k.layer with
  | some b, some r =>
    match b.input s with
    | some ts =>
      let fmt := tilesFmt b.fmt ts
      if !stepLive s || !nextPair s array k c (fun b c => scored b c || anchored b c) || 1 < prepassesAhead s array ||
          poisoned ts || b.rows = 0 || !needsPrepass r fmt then s
      else if prepassBad s r fmt c env then raiseAborts uCad 0x2B s
      else
        let as := (List.range b.rows).flatMap (fun row => (List.range (colExperts r b c)).map (fun i =>
          anchorOf (operands s r ts row (256 * c + i))))
        modBlock k (fun b => { b with anchors := b.anchors ++ [(c, as)] }) (noteAnchors as s)
    | none => s
  | _, _ => s

/-- ANCHOR_PREPASS_DONE. -/
def execAnchorPrepassDone (blk : BlockId) (array col : Nat) (env : MemEnv) (s : State) (errs : Errs := []) :
    Host.Outcome State Fault Refusal :=
  .next (anchorPrepass blk array col env errs s)

/-- One score with its class and truncation (R112 to R117), under the anchor the pre-pass fixed. -/
def scoreOf (a : Int) (bs : List (OpBlock × OpBlock)) : Word32 × ScoreClass × Bool :=
  let acc := (bs.flatMap (fun p => blockTerms p.1 p.2)).foldl (Exa256.add a) Exa256.zero
  let r := acc.score a
  (r.1, r.2, acc.trunc)

/-- The rows of a pair. -/
def pairScores (s : State) (r : LayerRec) (b : Block) (ts : List Tile) (c : Nat) : List (List (Word32 × ScoreClass × Bool)) :=
  let n := colExperts r b c
  let as := ((b.anchors.find? (fun a => a.1 = c)).map (·.2)).getD []
  (List.range b.rows).map (fun row => (List.range n).map (fun i =>
    scoreOf (as.getD (row * n + i) 0) (operands s r ts row (256 * c + i))))

/-- The scores of a class. -/
def countClass (xs : List (Word32 × ScoreClass × Bool)) (k : ScoreClass) : Nat := (xs.filter (fun x => x.2.1 == k)).length

/-- Tiles in ascending COL_BASE. -/
def putTile (t : Tile) (ts : List Tile) : List Tile := sortBy Tile.colBase (ts ++ [t])

/-- A block's tiles pass out of SCORE once its last SCORE tile is written; NORM's output and the token stay for PACK. -/
def scoreLeaves (k : BlockId) (r : LayerRec) (ts : List Tile) (s : State) : State :=
  match blockAt s k with
  | some b => if scoreDone r b then traceTiles 2 3 1 k b.rows ts s else s
  | none => s

/-- The header of a SCORE tile (R111): STEP, GEN and CONTRACT are those of the TOKEN tiles. -/
def scoreHdr (k : BlockId) (r : LayerRec) (b : Block) (c : Nat) (h : TileHdr) (poison : Bool) : TileHdr :=
  { step := h.step, kind := 2, fmt := 6, layer := k.layer, half := k.half, rows := b.rows, cols := colExperts r b c
    base := k.base, gen := h.gen, expert := 0, colBase := 256 * c, src := 3, poison := poison, lastBlock := b.lastBlock
    lastCol := decide (c + 1 = colBlocks r b), contract := h.contract }

/-- SCORE_PAIR_DONE (R111): a pair's SCORE tile is written in GATE's buffer. A poisoned row block gives NaN tiles with
POISON (R126), an empty half one empty tile (R111), both without the array. A row of which an accumulator word read
uncorrectable is NaN throughout, and the tile carries POISON (R125). -/
def scorePair (k : BlockId) (array c : Nat) (env : MemEnv) (errs : Errs) (s0 : State) : State :=
  let s := takeErrors errs (withEnv env s0)
  match blockAt s k, layerRec s k.layer with
  | some b, some r =>
    match b.input s with
    | some ts =>
      let quiet := poisoned ts || b.rows = 0
      if !stepLive s || !nextPair s array k c scored ||
          (!quiet && needsPrepass r (tilesFmt b.fmt ts) && !anchored b c) then s
      else if !quiet && badLine env (colBytes s r c).1 (colBytes s r c).2 then raiseAborts uCad 0x2B s
      else
        let n := colExperts r b c
        let lost := if quiet then [] else (lostRows errs).filter (· < b.rows)
        let rows := if quiet then [] else pairScores s r b ts c
        let nan := List.replicate n 0x7FC00000
        let elems := if quiet then List.replicate b.rows nan
          else (List.range b.rows).map (fun i =>
            if lost.contains i then nan else (rows.getD i []).map (fun x => x.1.toNat))
        let hdr := scoreHdr k r b c ((ts.head?.map (·.hdr)).getD (hdrOf [])) (poisoned ts || !lost.isEmpty)
        let t : Tile := ⟨hdr, elems, List.replicate b.rows [], none⟩
        match alloc t.bytes (stationOwner s 4) (blockKey 4 k ++ [c]) s with
        | (none, s1) => s1
        | (some buf, s1) =>
          let xs := ((List.range rows.length).filter (fun i => !lost.contains i)).flatMap (fun i => rows.getD i [])
          let s2 := if b.score.isEmpty then traceTiles 1 3 1 k b.rows ts s1 else s1
          let s3 := modBlock k (fun b => { b with score := putTile { t with buf := some buf } b.score }) s2
          let s4 := (((s3.bump 0x30020 (countClass xs .nan)).bump 0x30024 (countClass xs .inf)).bump 0x30028
            (countClass xs .sat)).bump 0x3002C (xs.filter (fun x => x.2.2)).length
          let s5 := if quiet then s4 else s4.bump (0x30010 + 4 * (array % 2)) 1
          let s6 := if array = 0 && !quiet then (s5.setField 0x30000 23 16 k.layer).setField 0x30000 8 8 k.half else s5
          intoQueue 4 s (ingestOn (scoreLeaves k r ts s6))
    | none => s
  | _, _ => s

/-- SCORE_PAIR_DONE. -/
def execScorePairDone (blk : BlockId) (array col : Nat) (env : MemEnv) (s : State) (errs : Errs := []) :
    Host.Outcome State Fault Refusal :=
  .next (scorePair blk array col env errs s)

/-! ### Lines read again (R236, R237) -/

/-- The chips of attempts 2 to 4: the same rack, slots s + 8j, fenced chips skipped; with j. -/
def refetchPeers (s : State) : List (Nat × Nat) :=
  (([1, 2, 3] : List Nat).map (fun j => (j, rackOf (chipId s) * 64 + (chipId s % 64 + 8 * j) % 64))).filter (fun x => !fenced s x.2)

/-- The HBM copy of a line is clean: the memory system's copy in unified mode, the mirror in split mode (R236). -/
def hbmClean (env : MemEnv) (s : State) (line : Nat) : Bool :=
  if s.step_ 0x60040 0 0 = 1 then
    let off := (s.step_ 0x60048 31 0 * 2 ^ 32 + s.step_ 0x60044 31 0) / 64
    off ≠ 0 && !env.bad.contains (line + off)
  else !env.bad.contains line

/-- The copy that peer j of R236 returns is clean: `env` names it as line + j × 2^58 when it is not. -/
def peerClean (env : MemEnv) (line j : Nat) : Bool := !env.bad.contains (line + j * 2 ^ 58)

/-- A line of router weights or of a NORM parameter block of the active plat. -/
def routerLine (s : State) (line : Nat) : Bool :=
  (platLayers s).any (fun r =>
    let len := routerBytes s r + (if normPresent s then 0x40 + 8 * dModel s else 0)
    line * 64 < r.routerAddr + len && r.routerAddr < line * 64 + 64)

/-- TIER_LINE_UNCORR (R236, R237): the attempts in order; when all fail for a line of router weights or NORM parameters, the
layer is aborted. -/
def tierLine (addr : Nat) (env : MemEnv) (s0 : State) : State :=
  let s := withEnv env s0
  let line := addr / 64
  let s1 := (s.setWord 0x6004C (BitVec.ofNat 32 (line * 64))).setWord 0x60050 (BitVec.ofNat 32 (addr / 2 ^ 32))
  if hbmClean env s line then s1.bump 0x60080 1
  else if (refetchPeers s).any (fun x => peerClean env line x.1) then s1.bump 0x60084 1
  else if stepLive s && routerLine s line then raiseAborts uCad 0x2B s1
  else s1

/-- TIER_LINE_UNCORR. -/
def execTierLineUncorr (addr : Nat) (env : MemEnv) (s : State) : Host.Outcome State Fault Refusal :=
  .next (tierLine addr env s)

/-! ### GATE -/

/-- Pass one of R149: m, s and I. -/
def softmaxPass (ver : Nat) (xs : List Word32) : Word32 × Word32 × Nat :=
  xs.foldl (fun (acc : Word32 × Word32 × Nat) x =>
    let (m, sm, i) := acc
    if f32IsNaN x || x = f32NegInf then acc
    else if x = f32Inf then (m, sm, i + 1)
    else if (f32Val m).lt (f32Val x) then (x, f32Add (f32Mul sm (sfu ver .exp (f32Sub m x))) f32One, i)
    else (m, f32Add sm (sfu ver .exp (f32Sub x m)), i)) (f32NegInf, 0, 0)

/-- Pass two of R149. -/
def softmaxRow (ver : Nat) (xs : List Word32) : List Word32 :=
  let (m, sm, i) := softmaxPass ver xs
  if 0 < i then xs.map (fun x => if x = f32Inf then sfu ver .reciprocal (f32OfNat i) else 0)
  else if m = f32NegInf then xs.map (fun _ => 0)
  else
    let w := sfu ver .reciprocal sm
    xs.map (fun x => if (f32Val x).isFin then f32Mul (sfu ver .exp (f32Sub x m)) w else 0)

/-- The sigmoid gate of R150. -/
def sigmoidRow (ver : Nat) (xs : List Word32) : List Word32 := xs.map (fun x => if f32IsNaN x then 0 else sfu ver .sigmoid x)

/-- A row of a row block's SCORE tiles, in ascending column. -/
def scoreRow (ts : List Tile) (row : Nat) : List Word32 := ts.flatMap (fun t => (t.elems.getD row []).map (BitVec.ofNat 32))

/-- GATE's output header (R148): that of the SCORE tile, with KIND and SRC of its own. -/
def gateHdr (h : TileHdr) (poison : Bool) : TileHdr := { h with kind := 3, src := 4, poison := poison }

/-- GATE_ROW_BLOCK (R148 to R153, R155): the GATE tiles of a row block are written in SELECT's buffers, the SCORE tiles
released. -/
def gateBlock (k : BlockId) (errs : Errs) (s0 : State) : State :=
  let s := takeErrors errs s0
  match blockAt s k, layerRec s k.layer with
  | some b, some r =>
    if !stepLive s || b.gate.isSome || b.score.length ≠ colBlocks r b ||
        !earlierBlocks s k (·.gate.isSome) || !blocksBefore s k (·.gate.isSome) || normFirst s then s
    else
      let poison := poisoned b.score
      let soft := r.gateFn = 0
      let rows := if poison then [] else (List.range b.rows).map (scoreRow b.score)
      let gates := rows.map (fun xs => if soft then softmaxRow s.sfuVersion xs else sigmoidRow s.sfuVersion xs)
      let cut := fun (t : Tile) => if poison then t.elems.map (fun e => e.map (fun _ => 0x7FC00000))
        else gates.map (fun g => ((g.drop t.colBase).take t.cols).map (·.toNat))
      let out := b.score.map (fun t => { t with hdr := gateHdr t.hdr poison, buf := none, elems := cut t })
      match allocMany (out.map Tile.bytes) (stationOwner s 5) (blockKey 5 k) s with
      | (none, s1) => s1
      | (some bs, s1) =>
        let infs := rows.filter (fun xs => xs.contains f32Inf)
        let dead := rows.filter (fun xs => xs.all (fun x => f32IsNaN x || x = f32NegInf))
        let s2 := ((s1.bump 0x31020 ((rows.flatten.filter f32IsNaN).length)).bump 0x31024
          (if soft then infs.length else 0)).bump 0x31028 (if soft then dead.length else 0)
        let s3 := b.score.foldl (fun s t => releaseOpt t.buf s)
          (modBlock k (fun b => { b with gate := some (withBufs out bs), score := b.score.map (fun t => { t with buf := none }) })
            (traceTiles 1 4 2 k b.rows b.score s2))
        intoQueue 5 s (traceTiles 2 4 2 k b.rows b.score s3)
  | _, _ => s

/-- GATE_ROW_BLOCK. -/
def execGateRowBlock (blk : BlockId) (s : State) (errs : Errs := []) : Host.Outcome State Fault Refusal :=
  .next (gateBlock blk errs s)

/-- The row block that GATE takes next is ready: its last SCORE tile has been written (R148). -/
def gateReady (s : State) : Bool :=
  stepLive s && match (stepBlocks s).find? (fun x => x.2.gate.isNone) with
    | some x => (layerRec s x.1.layer).any (fun r => x.2.score.length = colBlocks r x.2)
    | none => false

/-- SELECT holds a row block (R189): the next one's GATE tiles have been written. -/
def selReady (s : State) : Bool :=
  stepLive s && match (stepBlocks s).find? (fun x => x.2.sel.isNone) with
    | some x => x.2.gate.isSome
    | none => false

/-! ### SELECT -/

/-- An expert of a row with its key and gate value. -/
structure Ranked where
  key : Word32
  gate : Word32
  offset : Nat
  deriving DecidableEq, Repr

/-- Insertion into a ranking (R157, R158): after every entry whose key is not smaller, so equal keys keep the lower
identifier first. -/
def rankInsert (x : Ranked) : List Ranked → List Ranked
  | [] => [x]
  | y :: ys => if (f32Val y.key).lt (f32Val x.key) then x :: y :: ys else y :: rankInsert x ys

/-- The first n of a row's ranking. -/
def ranking (n : Nat) (xs : List Ranked) : List Ranked := xs.foldl (fun acc x => (rankInsert x acc).take n) []

/-- The experts of a row with their keys (R157, R166, R167). -/
def rankRow (s : State) (k : BlockId) (r : LayerRec) (row : Nat) (ps : List Word32) : List Ranked :=
  let seed := (s.ldr.active.map (·.seed)).getD 0
  (List.range ps.length).map (fun i =>
    let p := ps.getD i 0
    ⟨if r.jitter = 1 then jitterKey p (jitterWord seed s.stepNum k.layer k.half (k.base + row) i) else p, p, i⟩)

/-- BAND of R168. -/
def bandOf (r : LayerRec) (p : Word32) : Nat :=
  if r.classMode = 1 then 3 - (r.band.filter (fun b => (f32Val b).le (f32Val p))).length else 0

/-- An entry as SELECT writes it (R162). -/
def selEntry (r : LayerRec) (x : Ranked) : SelEntry := ⟨x.gate, r.base + x.offset, bandOf r x.gate, 0, 0, 0, 0⟩

/-- An entry of zeros (R164). -/
def SelEntry.zero : SelEntry := ⟨0, 0, 0, 0, 0, 0, 0⟩

/-- K-th and (K+1)-th keys are equal (R189). -/
def tied (k : Nat) (xs : List Ranked) : Bool :=
  match xs[k - 1]?, xs[k]? with
  | some a, some b => (f32Val a.key).le (f32Val b.key) && (f32Val b.key).le (f32Val a.key)
  | _, _ => false

/-- The header of a SELECTION tile (R161). -/
def selHdr (k : BlockId) (r : LayerRec) (b : Block) (h : TileHdr) (poison : Bool) : TileHdr :=
  { h with kind := 4, fmt := 0, layer := k.layer, half := k.half, rows := b.rows, base := k.base, cols := r.k, colBase := 0
           lastCol := true, src := 5, poison := poison }

/-- SELECT_ROW_BLOCK (R157 to R168): the SELECTION tile of a row block is written in TALLY's buffer, the GATE tiles
released. -/
def selectBlock (k : BlockId) (errs : Errs) (s0 : State) : State :=
  let s := takeErrors errs s0
  match blockAt s k, layerRec s k.layer with
  | some b, some r =>
    match b.gate with
    | some gs =>
      if !stepLive s || b.sel.isSome || !earlierBlocks s k (·.sel.isSome) || !blocksBefore s k (·.sel.isSome) then s
      else
        let poison := poisoned gs
        let ranks := if poison then [] else (List.range b.rows).map (fun row =>
          ranking (r.k + 1) (rankRow s k r row (scoreRow gs row)))
        let rows := if poison then List.replicate b.rows (List.replicate r.k SelEntry.zero)
          else ranks.map (fun xs => (xs.take r.k).map (selEntry r))
        match alloc (tileBytes false b.rows r.k 16 false) (stationOwner s 6) (blockKey 6 k) s with
        | (none, s1) => s1
        | (some buf, s1) =>
          let zeros := ((if poison then [] else rows.flatten).filter (fun e => (f32Val e.gate).isZero)).length
          let s2 := (((s1.bump 0x40010 (if poison then 0 else b.rows)).bump 0x40014 (ranks.filter (tied r.k)).length).bump
            0x40018 (if poison then b.rows else 0)).bump 0x4001C zeros
          let s3 := (s2.setField 0x40000 23 16 k.layer).setField 0x40000 8 8 k.half
          let hdr := selHdr k r b ((gs.head?.map (·.hdr)).getD (hdrOf [])) poison
          let s4 := gs.foldl (fun s t => releaseOpt t.buf s)
            (modBlock k (fun b => { b with sel := some ⟨hdr, rows, some buf⟩
                                           gate := b.gate.map (fun ts => ts.map (fun t => { t with buf := none })) })
              (traceTiles 1 5 3 k b.rows gs s3))
          intoQueue 6 s (traceTiles 2 5 3 k b.rows gs s4)
    | none => s
  | _, _ => s

/-- SELECT_ROW_BLOCK. -/
def execSelectRowBlock (blk : BlockId) (s : State) (errs : Errs := []) : Host.Outcome State Fault Refusal :=
  .next (selectBlock blk errs s)

end Sys2Proof.Machine
end

