-- ==== Sys2Proof/Machine/Tally.lean ====
section
/-! DEFINITION. TALLY (R169 to R188): counting, reports, the close, admission at the home, fates at the origin, trips, and
the loan table that TALLY's fates create (R244). -/
namespace Sys2Proof.Machine
open Sys2Proof

/-! ### The tally of a half -/

/-- The chips that take part in the step's tally rounds: those not fenced at the datum (R174). -/
def stepMembers (s : State) : List Nat := (List.range (chipCount s)).filter (fun c => !(stepFences s).contains c)

/-- A cadastre entry of a layer is being fetched again (R220); the lookups of TALLY in the layer wait for it. -/
def awaitingLayer (s : State) (l : Nat) : Bool :=
  match layerRec s l with
  | some r => s.cadRefetch.any (fun c => decide (firstEntry s r ≤ c.entry ∧ c.entry < firstEntry s r + r.experts))
  | none => false

/-- Q of R168. -/
def classCount (r : LayerRec) : Nat := if r.classMode = 1 then 64 else 16

/-- The class of an entry (R168). -/
def classOf (r : LayerRec) (krank : Nat) (e : SelEntry) : Nat := if r.classMode = 1 then 4 * krank + e.band else krank

/-- Change a half's tally. -/
def modTally (l h : Nat) (f : Tally → Tally) (s : State) : State := modHalf l h (fun x => { x with tally := f x.tally }) s

/-- PHASE of TALLY_STATUS (R189). -/
def TallyPhase.code : TallyPhase → Nat
  | .idle => 0
  | .counting => 1
  | .scanning => 2
  | .awaitClose => 3
  | .awaitGrants => 4
  | .assigning => 5
  | .tripAgreement => 6
  | .finished => 0

/-- A change of phase, with its trace event (R468). -/
def setPhase (l h : Nat) (p : TallyPhase) (s : State) : State :=
  let trip := ((halfAt s l h).map (·.tally.trip)).getD 0
  traceEvent 1 0x01 (p.code + l * 2 ^ 8 + h * 2 ^ 16 + trip * 2 ^ 24) (modTally l h (fun t => { t with phase := p }) s)

/-- TALLY has finished a half. -/
def tallyDone (h : Half) : Bool := h.tally.phase == .finished

/-- Arrival-order admission is in use for a layer (R182, R183). -/
def arrivalOrder (s : State) (l : Nat) : Bool := (s.run.map (·.byArrival)).getD false && (loopOf s l).isNone

/-- The fates of a half stand for good: TALLY has finished it, or in arrival-order mode has written them without waiting for
the close (R182). -/
def fatesStand (s : State) (h : Half) : Bool := tallyDone h || (arrivalOrder s h.layer && 0 < h.fated)

/-- An entry is tallied in a trip (R187): pending entries in trip 0, skipped ones later. -/
def tallied (trip : Nat) (e : SelEntry) : Bool := if trip = 0 then e.fate = 0 else e.fate = 3

/-- The entries of a SELECTION tile with their row and k-rank; a poisoned tile has none (R164). -/
def selEntries (t : SelTile) : List (Nat × Nat × SelEntry) :=
  if t.poison then []
  else (List.range t.rows.length).flatMap (fun i =>
    let es := t.rows.getD i []
    (List.range es.length).map (fun k => (i, k, es.getD k SelEntry.zero)))

/-- Raise one origin counter. -/
def countOne (k : Nat × Nat) : List ((Nat × Nat) × Nat) → List ((Nat × Nat) × Nat)
  | [] => [(k, 1)]
  | x :: xs => if x.1 = k then (k, x.2 + 1) :: xs else x :: countOne k xs

/-- TALLY_COUNT (R170): the entries of a row block's SELECTION tile are counted; with the half's last tile the scan
begins. -/
def tallyCount (k : BlockId) (errs : Errs) (s0 : State) : State :=
  let s := takeErrors errs s0
  match halfAt s k.layer k.half, blockAt s k, layerRec s k.layer with
  | some h, some b, some r =>
    match b.sel with
    | some t =>
      let ph := h.tally.phase
      if !stepLive s || b.counted || !(ph == .idle || ph == .counting) || !earlier s k.layer k.half tallyDone then s
      else
        let keys := ((selEntries t).filter (fun x => tallied h.tally.trip x.2.2)).map (fun x => (x.2.2.expert, classOf r x.2.1 x.2.2))
        let s1 := if h.tally.trip = 0 then traceTile 1 6 4 k.layer k.half k.base 0 b.rows s else s
        let s2 := modBlock k (fun b => { b with counted := true })
          (modTally k.layer k.half (fun t => { t with counts := keys.foldl (fun m e => countOne e m) t.counts }) s1)
        let s3 := if ph == .idle then setPhase k.layer k.half .counting s2 else s2
        if h.closed && (h.blocks.all (fun x => x.counted || x.base = k.base)) then setPhase k.layer k.half .scanning s3 else s3
    | none => s
  | _, _, _ => s

/-- TALLY_COUNT. -/
def execTallyCount (blk : BlockId) (s : State) (errs : Errs := []) : Host.Outcome State Fault Refusal :=
  .next (tallyCount blk errs s)

/-! ### Tally packets (R171, R172) -/

/-- One tally packet. -/
def tallyPacket (type l h trip sender step : Nat) (last : Bool) (es : List Nat) : Bytes :=
  leBytes 1 type ++ leBytes 1 l ++ leBytes 1 (h + 2 * b2n last) ++ leBytes 1 trip ++ leBytes 2 sender ++
    leBytes 1 es.length ++ leBytes 1 0 ++ leBytes 8 step ++ es.flatMap (leBytes 8) ++ List.replicate (48 - 8 * es.length) 0

/-- Entries in packets of six. -/
def packetsOf : Nat → List Nat → List (List Nat)
  | 0, _ => []
  | n + 1, es => if es.length ≤ 6 then [es] else es.take 6 :: packetsOf n (es.drop 6)

/-- Send a tally message of one or more packets on VC5. -/
def sendTally (dst type l h trip : Nat) (es : List Nat) (tie : Tie) (s : State) : State :=
  let ps := packetsOf (es.length + 1) es
  (List.range ps.length).foldl (fun s i =>
    sendCounted ⟨dst, 0xA, 0x04, s.stepNum, tallyPacket type l h trip (chipId s) s.stepNum (i + 1 = ps.length) (ps.getD i []), tie, 0,
      none⟩ s) s

/-- The entries of a packet. -/
def packetEntries (m : Bytes) : List Word64 := (List.range (leAt m 6 1)).map (fun i => BitVec.ofNat 64 (leAt m (16 + 8 * i) 8))

/-- Fields of a packet. -/
def tpLayer (m : Bytes) : Nat := leAt m 1 1
def tpHalf (m : Bytes) : Nat := bits (leAt m 2 1) 0 0
def tpLast (m : Bytes) : Bool := bit (leAt m 2 1) 1
def tpTrip (m : Bytes) : Nat := leAt m 3 1

/-- The shape of a packet (R171, R173): its TYPE, no reserved bit, a COUNT from 1 to 6, zeros beyond it, and the running
step's STEP. -/
def packetShape (s : State) (type : Nat) (m : Bytes) : Bool :=
  let c := leAt m 6 1
  m.length = 64 && leAt m 0 1 = type && bits (leAt m 2 1) 7 2 = 0 && bits (leAt m 4 2) 15 14 = 0 && 1 ≤ c && c ≤ 6 &&
    leAt m 7 1 = 0 && leAt m 8 8 = s.stepNum && allZero (m.drop (16 + 8 * c))

/-- Fields common to tally entries, and those of each TYPE (R172). -/
def teExpert (w : Word64) : Nat := bits w.toNat 63 44
def teClass (w : Word64) : Nat := bits w.toNat 43 38
def reportCount (w : Word64) : Nat := bits w.toNat 37 21
def grantSkip (w : Word64) : Bool := bit w.toNat 37
def grantPos (w : Word64) : Nat := bits w.toNat 36 34
def grantCount (w : Word64) : Nat := bits w.toNat 33 17

/-- A report entry, a grant entry and a notice entry. -/
def reportEntry (e q n : Nat) : Nat := e * 2 ^ 44 + q * 2 ^ 38 + n * 2 ^ 21
def grantEntry (e q : Nat) (skip : Bool) (pos n : Nat) : Nat := e * 2 ^ 44 + q * 2 ^ 38 + b2n skip * 2 ^ 37 + pos * 2 ^ 34 + n * 2 ^ 17
def noticeEntry (e slot n : Nat) : Nat := e * 2 ^ 44 + slot * 2 ^ 41 + n * 2 ^ 24

/-- The layer, half and trip that this chip's TALLY has in progress. -/
def tallyAt (s : State) : Option (Nat × Nat × Nat) :=
  ((halfOrder s).find? (fun x => !halfMeets s tallyDone x)).map (fun x =>
    (x.1, x.2, ((halfAt s x.1 x.2).map (·.tally.trip)).getD 0))

/-- A LAYER, HALF and TRIP in progress, or the next one (R173): the next trip of a looped layer, or the next half. -/
def tallyNear (s : State) (l h trip : Nat) : Bool :=
  match tallyAt s with
  | none => false
  | some (al, ah, at_) =>
    let next := ((halfOrder s).dropWhile (fun x => x ≠ (al, ah))).tail.head?
    (l = al && h = ah && (trip = at_ || (trip = at_ + 1 && trip < ((loopOf s l).map (·.bound)).getD 0))) ||
      (next = some (l, h) && trip = 0)

/-! ### Reports from the origin -/

/-- The counters in ascending (expert, class). -/
def sortedCounts (t : Tally) : List ((Nat × Nat) × Nat) := sortBy (fun x => x.1.1 * 64 + x.1.2) t.counts

/-- TALLY_SCAN_END (R170, R178): the report entries go out to the homes; selections of experts without a home are sent
nowhere. -/
def tallyScanEnd (l h : Nat) (errs : Errs) (s0 : State) : State :=
  let s := takeErrors errs s0
  match halfAt s l h with
  | none => s
  | some x =>
    if !stepLive s || !(x.tally.phase == .scanning) || awaitingLayer s l then s
    else
      let cs := sortedCounts x.tally
      let homes := sortBy id ((cs.filterMap (fun c => homeOf s c.1.1)).eraseDups)
      let per := homes.map (fun hm => (hm, (cs.filter (fun c => homeOf s c.1.1 = some hm)).map (fun c => reportEntry c.1.1 c.1.2 c.2)))
      let n := sumNat (per.map (fun p => ceilDiv p.2.length 6))
      let s1 := setPhase l h .awaitClose (modTally l h (fun t =>
        { t with scanTick := s.tb, homes := homes, undelivered := n, contributed := false, closed := false, grants := [] }) s)
      per.foldl (fun s p => sendTally p.1 1 l h x.tally.trip p.2 (.report l h x.tally.trip) s) s1

/-- TALLY_SCAN_END. -/
def execTallyScanEnd (layer half : Nat) (s : State) (errs : Errs := []) : Host.Outcome State Fault Refusal :=
  .next (tallyScanEnd layer half errs s)

/-- The key of a tally close, and of a trip agreement. -/
def closeKey (s : State) (l h trip : Nat) : RoundKey := internalKey s kTallyClose (trip + 256 * h) l
def tripKey (s : State) (l h : Nat) : RoundKey := internalKey s kTrip (256 * h) l

/-- A member of the step's closes has been fenced since the datum (R184). -/
def memberFenced (s : State) : Bool := s.fences.any (fun c => !(stepFences s).contains c)

/-- TALLY_CLOSE_CONTRIBUTE (R174, R184): the scan has ended and every report packet has been delivered. -/
def tallyContribute (l h : Nat) (errs : Errs) (s0 : State) : State :=
  let s := takeErrors errs s0
  match halfAt s l h with
  | none => s
  | some x =>
    let t := x.tally
    let sent := t.phase == .awaitClose || t.phase == .awaitGrants
    if stepLive s && sent && !t.contributed && memberFenced s then raiseAborts uTally 0x45 s
    else if stepLive s && sent && !t.contributed && t.undelivered = 0 then
      contribute (closeKey s l h t.trip) (opMax 1) (stepMembers s) [0] (modTally l h (fun t => { t with contributed := true }) s)
    else s

/-- TALLY_CLOSE_CONTRIBUTE. -/
def execTallyCloseContribute (layer half : Nat) (s : State) (errs : Errs := []) : Host.Outcome State Fault Refusal :=
  .next (tallyContribute layer half errs s)

/-! ### The loan table (R244) -/

/-- A half's rows (R40). -/
def Half.rows (h : Half) : Nat := sumNat (h.blocks.map (·.rows))

/-- The buffers of a loan table of n bytes. -/
def loanSizes (n : Nat) : List Nat := if n ≤ 524288 then [n] else List.replicate (ceilDiv n 524288) 524288

/-- The registrar creates the loan table of a half whose trip-0 fates stand, once; the allocation may wait (R85), and is then
made when SEND or COMBINE next needs it. -/
def makeLoans (l h : Nat) (s : State) : State :=
  match halfAt s l h, layerRec s l with
  | some x, some r =>
    if x.loans.isSome || x.loansFreed || x.fated = 0 then s
    else match allocMany (loanSizes (4 * x.rows * r.k)) (stationOwner s 0xE) [0xE, l, h] s with
      | (none, s1) => s1
      | (some bs, s1) => modHalf l h (fun x => { x with loans := some ⟨l, h, s.gen, r.k, bs, []⟩ }) s1
  | _, _ => s

/-! ### Fates (R179, R187, R188) -/

/-- A run of fates for one expert and class: fate, replica, destination and how many are left. -/
structure FateRun where
  fate : Nat
  replica : Nat
  dest : Nat
  left : Nat
  deriving DecidableEq, Repr

/-- The fates that a grant entry gives (R179). -/
def runOf (s : State) (w : Word64) : FateRun :=
  if grantSkip w then ⟨3, 0, 0, grantCount w⟩
  else match (spillOrder s (teExpert w) (chipId s))[grantPos w]? with
    | some x => ⟨if grantPos w = 0 then 1 else 2, x.1, slotChip x.2, grantCount w⟩
    | none => ⟨3, 0, 0, grantCount w⟩

/-- The runs of each expert and class, in the order of the grants. -/
def runsOf (s : State) (ws : List Word64) : List ((Nat × Nat) × List FateRun) :=
  let keys := (ws.map (fun w => (teExpert w, teClass w))).eraseDups
  keys.map (fun k => (k, (ws.filter (fun w => (teExpert w, teClass w) = k)).map (runOf s)))

/-- Take one from the front of the runs of an expert and class. -/
def popRun (k : Nat × Nat) (m : List ((Nat × Nat) × List FateRun)) : Option FateRun × List ((Nat × Nat) × List FateRun) :=
  match (m.find? (fun x => x.1 = k)).bind (fun x => x.2.find? (fun r => 0 < r.left)) with
  | none => (none, m)
  | some r => (some r, m.map (fun x => if x.1 = k then
      (k, modifyAt (fun r => { r with left := r.left - 1 }) ((x.2.findIdx? (fun r => 0 < r.left)).getD 0) x.2) else x))

/-- The fate of an entry: its run's, or skipped where no home could be asked (R178). -/
def entryFate (trip : Nat) (e : SelEntry) : Option FateRun → SelEntry
  | none => { e with fate := 3 }
  | some r => if r.fate = 3 then { e with fate := 3 } else { e with fate := r.fate, replica := r.replica, trip := trip, dest := r.dest }

/-- Fates along one row. -/
def fateRow (r : LayerRec) (trip : Nat) : Nat → List SelEntry → List ((Nat × Nat) × List FateRun) →
    List SelEntry × List ((Nat × Nat) × List FateRun)
  | _, [], m => ([], m)
  | k, e :: es, m =>
    if tallied trip e then
      let p := popRun (e.expert, classOf r k e) m
      let q := fateRow r trip (k + 1) es p.2
      (entryFate trip e p.1 :: q.1, q.2)
    else
      let q := fateRow r trip (k + 1) es m
      (e :: q.1, q.2)

/-- Fates along the rows of a tile. -/
def fateRows (r : LayerRec) (trip : Nat) : List (List SelEntry) → List ((Nat × Nat) × List FateRun) →
    List (List SelEntry) × List ((Nat × Nat) × List FateRun)
  | [], m => ([], m)
  | row :: rows, m =>
    let p := fateRow r trip 0 row m
    let q := fateRows r trip rows p.2
    (p.1 :: q.1, q.2)

/-- Fates across the row blocks of a half, in ascending slot. -/
def fateBlocks (r : LayerRec) (trip : Nat) (bs : List Block) (m : List ((Nat × Nat) × List FateRun)) : List Block :=
  let sorted := sortBy (·.base) bs
  let done := sorted.foldl (fun (acc : List Block × List ((Nat × Nat) × List FateRun)) b =>
    match b.sel with
    | none => (acc.1 ++ [b], acc.2)
    | some t =>
      if t.poison then (acc.1 ++ [b], acc.2)
      else
        let q := fateRows r trip t.rows acc.2
        (acc.1 ++ [{ b with sel := some { t with rows := q.1 } }], q.2)) ([], m)
  bs.map (fun b => (done.1.find? (fun x => x.base = b.base)).getD b)

/-- The entries of a half. -/
def halfEntries (h : Half) : List SelEntry := h.blocks.flatMap (fun b => ((b.sel.map selEntries).getD []).map (fun x => x.2.2))

/-- The entries of a half with a fate in a trip. -/
def countFate (h : Half) (fate trip : Nat) : Nat := ((halfEntries h).filter (fun e => e.fate = fate && e.trip = trip)).length

/-- Drop one reference of each tile's buffer; a tile whose buffer is freed names none any more. -/
def dropTiles : List Tile → State → List Tile × State
  | [], s => ([], s)
  | t :: ts, s =>
    let s1 := releaseOpt t.buf s
    let gone := match t.buf with
      | some b => decide (refsOf s1 b.1 b.2 = 0)
      | none => true
    let r := dropTiles ts s1
    ((if gone then { t with buf := none } else t) :: r.1, r.2)

/-- PACK releases its references to a half's TOKEN tiles, or NORM's, after the half's last trip (R205). -/
def releaseTokens (l h : Nat) (s : State) : State :=
  match halfAt s l h with
  | none => s
  | some x =>
    let r := x.blocks.foldl (fun (acc : List Block × State) b =>
      match b.norm with
      | some ts => let q := dropTiles ts acc.2; (acc.1 ++ [{ b with norm := some q.1 }], q.2)
      | none => let q := dropTiles b.token acc.2; (acc.1 ++ [{ b with token := q.1 }], q.2)) ([], s)
    modHalf l h (fun x => { x with blocks := r.1 }) r.2

/-- TALLY finishes a half: skips are counted after the last trip (R180), and SRC becomes 0x6 (R161). -/
def finishTally (l h : Nat) (s : State) : State :=
  match halfAt s l h with
  | none => s
  | some x =>
    let n := ((halfEntries x).filter (fun e => e.fate = 3)).length
    let s1 := modRun (fun r => { r with skipped := r.skipped + n }) (s.bump 0x41018 n)
    let s2 := modHalf l h (fun x => { x with blocks := x.blocks.map (fun b =>
      { b with sel := b.sel.map (fun t => { t with hdr := { t.hdr with src := 6 } }) }) }) s1
    let s3 := x.blocks.foldl (fun s b => traceTile 2 6 4 l h b.base 0 b.rows s) (setPhase l h .finished s2)
    if x.packTrip = x.fated then releaseTokens l h s3 else s3

/-- The next trip begins (R187). -/
def nextTrip (l h : Nat) (s : State) : State :=
  setPhase l h .counting (modHalf l h (fun x => { x with
    blocks := x.blocks.map (fun b => { b with counted := false })
    tally := { x.tally with trip := x.tally.trip + 1, counts := [], homes := [], grants := [], contributed := false
                            closed := false, undelivered := 0 } }) s)

/-- Trip-0 demand of an expert in a half, as its home holds it. -/
def homeDemand (s : State) (l h e : Nat) : Nat :=
  match s.homes.find? (fun t => t.layer = l && t.half = h && t.trip = 0) with
  | some t => sumNat (t.reports.map (fun m => sumNat ((m.entries.filter (fun w => teExpert w = e)).map reportCount)))
  | none => 0

/-- The experts of a layer that this chip is home for. -/
def homedIn (s : State) (l : Nat) : List Nat :=
  match layerRec s l with
  | some r => (homedExperts s).filter (fun e => r.base ≤ e && e < r.base + r.experts)
  | none => []

/-- ⌈D/S⌉ of R188 for one expert: 1 where no accepting replica has capacity. -/
def demandRatio (s : State) (l h e : Nat) : Nat :=
  let cap := sumNat ((accepting s e).map (fun x => slotCap x.2))
  if cap = 0 then 1 else ceilDiv (homeDemand s l h e) cap

/-- The contribution to the trip agreement (R188), at most 255. -/
def tripValue (s : State) (l h source : Nat) : Nat :=
  let es := homedIn s l
  let v :=
    if source = 1 then (if es.isEmpty then 1 else maxNat (es.map (demandRatio s l h)))
    else 1 + maxNat (((halfAt s l h).map (·.blocks)).getD [] |>.flatMap (fun b =>
      match b.sel with
      | some t => if t.poison then [] else t.rows.map (fun row => (row.filter (fun e => e.fate = 3)).length)
      | none => []))
  min 255 v

/-- What follows the fates of a trip: the agreement after trip 0 of a looped layer, the next trip, or the end. A half whose
close is still open waits for it (R182). -/
def afterFates (l h : Nat) (s : State) : State :=
  match halfAt s l h with
  | none => s
  | some x =>
    match loopOf s l with
    | some lp =>
      if x.tally.trip = 0 then
        contribute (tripKey s l h) (opMax 1) (stepMembers s) (leBytes 1 (tripValue s l h lp.source)) (setPhase l h .tripAgreement s)
      else if x.tally.trip + 1 < x.tally.trips then nextTrip l h s
      else finishTally l h s
    | none => if x.tally.closed then finishTally l h s else setPhase l h .awaitClose s

/-- Fates of a trip are written (R179): counters, the step record, and the loan table with trip 0 (R244). -/
def writeFates (l h : Nat) (s : State) : State :=
  match halfAt s l h, layerRec s l with
  | some x, some r =>
    let t := x.tally.trip
    let bs := fateBlocks r t x.blocks (runsOf s (x.tally.grants.flatMap (·.entries)))
    let y := { x with blocks := bs, fated := x.fated + 1, tally := { x.tally with counts := [] } }
    let a := countFate y 1 t
    let p := countFate y 2 t
    let s1 := modRun (fun r => { r with spilled := r.spilled + p })
      (((modHalf l h (fun _ => y) (setPhase l h .assigning s)).bump 0x41010 a).bump 0x41014 p)
    afterFates l h (makeLoans l h s1)
  | _, _ => s

/-- Every awaited grant message has ended with LAST. -/
def grantsIn (t : Tally) : Bool := t.homes.all (fun hm => t.grants.any (fun g => g.sender = hm && g.last))

/-- Proceed when the grants are complete: after the close, or without it in arrival-order mode (R179, R182). -/
def tryFates (l h : Nat) (s : State) : State :=
  match halfAt s l h with
  | none => s
  | some x =>
    let waiting := x.tally.phase == .awaitClose || x.tally.phase == .awaitGrants
    if !waiting then s
    else if x.tally.trip < x.fated then (if x.tally.closed then finishTally l h s else s)
    else if grantsIn x.tally && (x.tally.closed || arrivalOrder s l) then writeFates l h s
    else if x.tally.phase == .awaitClose && x.tally.closed then setPhase l h .awaitGrants s
    else s

/-! ### The home (R173 to R178, R181, R182) -/

/-- The home's record of a (layer, half, trip). -/
def homeAt (s : State) (l h t : Nat) : HomeTally :=
  (s.homes.find? (fun x => x.layer = l && x.half = h && x.trip = t)).getD ⟨l, h, t, [], false, false, []⟩

/-- Store a home's record. -/
def putHome (x : HomeTally) (s : State) : State :=
  { s with homes := s.homes.filter (fun y => !(y.layer = x.layer && y.half = x.half && y.trip = x.trip)) ++ [x] }

/-- Report entries held in the landing (R169, R184): those of halves not yet decided. -/
def landingUsed (s : State) : Nat :=
  sumNat ((s.homes.filter (fun x => !x.decided)).map (fun x => sumNat (x.reports.map (fun m => m.entries.length))))

/-- The entries the report landing holds (R169). -/
def landingSize (s : State) : Nat := ((partitionLive s).getD 4 0 * 4194304 - 4194304) / 2 / 8

/-- What has been admitted to a replica. -/
def usedOf (us : List (Nat × Nat × Nat)) (e i : Nat) : Nat := ((us.find? (fun u => u.1 = e && u.2.1 = i)).map (fun u => u.2.2)).getD 0

/-- Add to what has been admitted to a replica. -/
def addUsed (e i n : Nat) (us : List (Nat × Nat × Nat)) : List (Nat × Nat × Nat) :=
  us.filter (fun u => !(u.1 = e && u.2.1 = i)) ++ [(e, i, usedOf us e i + n)]

/-- rem[i] of R177: the capacity less what half 0 admitted in the same trip and what has been admitted since. -/
def remaining (s : State) (l h t : Nat) (us : List (Nat × Nat × Nat)) (e i cap : Nat) : Nat :=
  cap - (if h = 1 then usedOf (homeAt s l 0 t).used e i else 0) - usedOf us e i

/-- Place n selections of (e, q) from an origin along its spill order (R177): the grant entries and what has been
admitted. -/
def placeCount (s : State) (l h t e q : Nat) : Nat → Nat → List (Nat × Word32) → List (Nat × Nat × Nat) →
    List Nat × List (Nat × Nat × Nat)
  | n, _, [], us => (if 0 < n then [grantEntry e q true 0 n] else [], us)
  | n, pos, x :: xs, us =>
    let a := min n (remaining s l h t us e x.1 (slotCap x.2))
    let r := placeCount s l h t e q (n - a) (pos + 1) xs (if 0 < a then addUsed e x.1 a us else us)
    (if 0 < a then grantEntry e q false pos a :: r.1 else r.1, r.2)

/-- One report entry decided: the grants to its origin, and what has been admitted. -/
def decideEntry (s : State) (l h t : Nat) (acc : List (Nat × Nat) × List (Nat × Nat × Nat)) (x : Nat × Word64) :
    List (Nat × Nat) × List (Nat × Nat × Nat) :=
  let e := teExpert x.2
  let r := placeCount s l h t e (teClass x.2) (reportCount x.2) 0 (spillOrder s e x.1) acc.2
  (acc.1 ++ r.1.map (fun g => (x.1, g)), r.2)

/-- The report entries of a record in the order of R177: expert, class, origin. -/
def decisionOrder (x : HomeTally) : List (Nat × Word64) :=
  sortBy (fun p => (teExpert p.2 * 64 + teClass p.2) * 16384 + p.1)
    (x.reports.flatMap (fun m => m.entries.map (fun w => (m.sender, w))))

/-- Send the grants of a decision: one message to every origin that reported. -/
def sendGrants (l h t : Nat) (origins : List Nat) (gs : List (Nat × Nat)) (s : State) : State :=
  origins.foldl (fun s o => sendTally o 2 l h t ((gs.filter (fun g => g.1 = o)).map (·.2)) .none s) s

/-- Replica notices for every accepting replica of the home's experts of the layer (R177, R181). -/
def sendNotices (l h t : Nat) (us : List (Nat × Nat × Nat)) (s : State) : State :=
  let all := (homedIn s l).flatMap (fun e => (accepting s e).map (fun x => (slotChip x.2, noticeEntry e x.1 (usedOf us e x.1))))
  (sortBy id ((all.map (·.1)).eraseDups)).foldl (fun s c =>
    sendTally c 3 l h t ((all.filter (fun x => x.1 = c)).map (·.2)) .none s) s

/-- Demand of R225 for one expert. -/
def addDemand (e n : Nat) (s : State) : State :=
  let d := (s.demand.find? (fun d => d.expert = e)).getD ⟨e, 0, 0, s.stepNum, 0⟩
  let sum := if d.step = s.stepNum then d.sum + n else n
  let d1 : Demand := ⟨e, (d.demand + n) % 2 ^ 64, max d.peak (min sum (2 ^ 32 - 1)), s.stepNum, sum⟩
  { s with demand := sortBy (·.expert) (s.demand.filter (fun d => d.expert ≠ e) ++ [d1]) }

/-- The home decides a half after its close (R177): ordered admission grants here; notices and demand follow in either
mode. -/
def decideHome (l h t : Nat) (s : State) : State :=
  let x := homeAt s l h t
  let res := if arrivalOrder s l then ([], x.used) else (decisionOrder x).foldl (decideEntry s l h t) ([], x.used)
  let s1 := if t = 0 then (homedIn s l).foldl (fun s e => addDemand e (homeDemand s l h e) s) s else s
  let s2 := putHome { x with closed := true, decided := true, used := res.2 } s1
  let s3 := if arrivalOrder s l then s2
    else sendGrants l h t (sortBy id ((x.reports.map (·.sender)).eraseDups)) res.1 s2
  sendNotices l h t res.2 s3

/-- Arrival-order admission of one origin's report (R182). -/
def decideOrigin (l h t o : Nat) (s : State) : State :=
  let x := homeAt s l h t
  match x.reports.find? (fun m => m.sender = o) with
  | none => s
  | some m =>
    let res := (m.entries.map (fun w => (o, w))).foldl (decideEntry s l h t) ([], x.used)
    sendGrants l h t [o] res.1 (putHome { x with used := res.2 } s)

/-- Reports of half 1 may be decided only once half 0 has closed (R182). -/
def mayDecide (s : State) (l h : Nat) : Bool := h = 0 || (homeAt s l 0 0).closed

/-- A report entry passes the home's checks (R173). -/
def reportEntryOk (s : State) (l : Nat) (r : LayerRec) (w : Word64) : Bool :=
  bits w.toNat 20 0 = 0 && homeOf s (teExpert w) = some (chipId s) && (homedIn s l).contains (teExpert w) &&
    teClass w < classCount r && 1 ≤ reportCount w && reportCount w ≤ 65536

/-- Add a packet to a message; a message whose LAST has landed takes its place after those that ended before it. -/
def addPacket (src : Nat) (m : Bytes) (ms : List TallyMsg) : List TallyMsg :=
  let x := (ms.find? (fun x => x.sender = src)).getD ⟨src, [], false⟩
  let y : TallyMsg := { x with entries := x.entries ++ packetEntries m, last := x.last || tpLast m }
  ms.filter (fun x => x.sender ≠ src) ++ [y]

/-- The highest landing count of the step, shown at the next datum (R189, log entry 15). DESIGN CHOICE (log entry 37): of the
16 entries that make a unit, a part counts as a whole one in PEAK and as none in NOW. -/
def notePeak (s : State) : State :=
  let n := min 65535 (ceilDiv (landingUsed s) 16)
  let w := storeGet 0 0x41020 s.latched
  { s with latched := storeSet 0 0x41020 (putBits w 31 16 (max n (bits w.toNat 31 16))) s.latched }

/-- A report packet passes what R173 checks whatever TALLY has in progress. -/
def reportLegal (s : State) (m : Bytes) : Bool :=
  match layerRec s (tpLayer m) with
  | some r => packetShape s 1 m && (packetEntries m).all (reportEntryOk s (tpLayer m) r)
  | none => false

/-- TALLY_REPORT (R173, R184): the entries land at the home; in arrival-order mode a whole report is decided at once. -/
def tallyReport (src : Nat) (m : Bytes) (errs : Errs) (s0 : State) : State :=
  let s := takeErrors errs s0
  let l := tpLayer m
  let h := tpHalf m
  let t := tpTrip m
  if awaitingLayer s l then s
  else if !reportLegal s m then raiseAborts uTally 0x47 s
  else if !stepLive s then s
  else if !tallyNear s l h t then raiseAborts uTally 0x47 s
  else if landingSize s < landingUsed s + (packetEntries m).length then raiseAborts uTally 0x46 s
  else
    let x := homeAt s l h t
    let s1 := notePeak (putHome { x with reports := addPacket src m x.reports } s)
    if arrivalOrder s l && tpLast m && mayDecide s l h then decideOrigin l h t src s1 else s1

/-- TALLY_REPORT. -/
def execTallyReport (src : Nat) (msg : Bytes) (s : State) (errs : Errs := []) : Host.Outcome State Fault Refusal :=
  .next (tallyReport src msg errs s)

/-- The reports of half 1 that waited for half 0's close are decided in the order of landing (R182). -/
def decideWaiting (l : Nat) (s : State) : State :=
  (((homeAt s l 1 0).reports.filter (·.last)).map (·.sender)).foldl (fun s o => decideOrigin l 1 0 o s) s

/-- TALLY_CLOSE (R174): the close completes: every report of the half has landed; the home decides. -/
def tallyClose (l h : Nat) (errs : Errs) (s0 : State) : State :=
  let s := takeErrors errs s0
  match halfAt s l h with
  | none => s
  | some x =>
    let t := x.tally
    if !stepLive s || !t.contributed || t.closed || awaitingLayer s l then s
    else
      let s1 := traceEvent 1 0x02 (l * 2 ^ 8 + h * 2 ^ 16 + t.trip * 2 ^ 24) (modTally l h (fun t => { t with closed := true }) s)
      let s2 := decideHome l h t.trip s1
      let s3 := if arrivalOrder s l && h = 0 then decideWaiting l s2 else s2
      tryFates l h s3

/-- TALLY_CLOSE. -/
def execTallyClose (layer half : Nat) (s : State) (errs : Errs := []) : Host.Outcome State Fault Refusal :=
  .next (tallyClose layer half errs s)

/-- A grant entry passes the origin's checks (R173): an expert it reported to that home, a class below Q, a position of
the spill order. -/
def grantEntryOk (s : State) (x : Half) (r : LayerRec) (src : Nat) (w : Word64) : Bool :=
  bits w.toNat 16 0 = 0 && teClass w < classCount r && homeOf s (teExpert w) = some src &&
    x.tally.counts.any (fun c => c.1 = (teExpert w, teClass w)) && 1 ≤ grantCount w && grantCount w ≤ 65536 &&
    (grantSkip w || grantPos w < (spillOrder s (teExpert w) (chipId s)).length)

/-- A grant packet passes what R173 checks at an origin: that of the trip in progress, with entries that answer the origin's
own reports. -/
def grantLegal (s : State) (src : Nat) (m : Bytes) : Bool :=
  match halfAt s (tpLayer m) (tpHalf m), layerRec s (tpLayer m) with
  | some x, some r =>
    (x.tally.phase == .awaitClose || x.tally.phase == .awaitGrants) && tpTrip m = x.tally.trip &&
      (packetEntries m).all (grantEntryOk s x r src)
  | _, _ => false

/-- TALLY_GRANT (R173, R179). Of a step that has aborted on the chip nothing is left to hold a grant against but its
shape. -/
def tallyGrant (src : Nat) (m : Bytes) (errs : Errs) (s0 : State) : State :=
  let s := takeErrors errs s0
  let l := tpLayer m
  let h := tpHalf m
  if awaitingLayer s l then s
  else if !packetShape s 2 m || (layerRec s l).isNone then raiseAborts uTally 0x47 s
  else if !stepLive s then s
  else if !grantLegal s src m then raiseAborts uTally 0x47 s
  else tryFates l h (modTally l h (fun t => { t with grants := addPacket src m t.grants }) s)

/-- TALLY_GRANT. -/
def execTallyGrant (src : Nat) (msg : Bytes) (s : State) (errs : Errs := []) : Host.Outcome State Fault Refusal :=
  .next (tallyGrant src msg errs s)

/-- TRIP_AGREEMENT (R188): T is the agreed maximum clamped to BOUND; a clamp is counted in the step record (R42). -/
def tripAgreement (l h value : Nat) (s : State) : State :=
  match halfAt s l h, loopOf s l with
  | some x, some lp =>
    if !stepLive s || !(x.tally.phase == .tripAgreement) then s
    else
      let t := min value lp.bound
      let clamped := decide (lp.bound < value)
      let s1 := modRun (fun r => { r with clamps := r.clamps + b2n clamped })
        (traceEvent 1 0x03 (t + b2n clamped * 2 ^ 8 + l * 2 ^ 16) (modTally l h (fun y => { y with trips := t }) s))
      let s2 := { s1 with latched := storeSet 0 0x41024 (BitVec.ofNat 32 (t + b2n clamped * 2 ^ 8)) s1.latched }
      if 1 < t then nextTrip l h s2 else finishTally l h s2
  | _, _ => s

/-- TRIP_AGREEMENT. -/
def execTripAgreement (layer half value : Nat) (s : State) : Host.Outcome State Fault Refusal :=
  .next (tripAgreement layer half value s)

/-- A tally waits for its close, its grants or its agreement. -/
def tallyWaits (h : Half) : Bool :=
  h.tally.phase == .awaitClose || h.tally.phase == .awaitGrants || h.tally.phase == .tripAgreement

/-- TALLY_TIMEOUT (R184, R188): TALLY_TIMEOUT ticks have passed since the scan's end. -/
def tallyTimeout (s : State) : State :=
  if stepLive s && s.halves.any (fun h => tallyWaits h && h.tally.scanTick + s.live 0x41030 31 0 ≤ s.tb) then
    raiseAborts uTally 0x44 s
  else s

/-- TALLY_TIMEOUT. -/
def execTallyTimeout (s : State) : Host.Outcome State Fault Refusal := .next (tallyTimeout s)

end Sys2Proof.Machine
end

