-- ==== Sys2Proof/Machine/Sort.lean ====
section
/-! DEFINITION. SORT and PACK (R190 to R208): the bucket map, the two passes, the groups: BUCKET_MAP_BUILD, SORT_START,
SORT_PHASE_END and GROUP_WRITE. -/
namespace Sys2Proof.Machine
open Sys2Proof

/-! ### SORT -/

/-- SORT has finished the trips of a half whose fates stand. -/
def sortDone (s : State) (h : Half) : Bool := fatesStand s h && h.sort == .idle && h.sortTrip = h.fated

/-- The bucket map of a layer (R192): accepting replicas in ascending (chip, expert, replica). -/
def bucketMap (s : State) (r : LayerRec) : List (Nat × Nat × Nat) :=
  sortBy (fun b => b.1 * 2 ^ 23 + b.2.1 * 8 + b.2.2)
    ((List.range r.experts).flatMap (fun i => (accepting s (r.base + i)).map (fun x => (slotChip x.2, r.base + i, x.1))))

/-- The chip histogram of the counting sort (R192, R193): the buckets of each chip. -/
def histogram (m : List (Nat × Nat × Nat)) : List (Nat × Nat) :=
  ((m.map (·.1)).eraseDups).map (fun c => (c, (m.filter (fun b => b.1 = c)).length))

/-- The map of a layer may be built: layer 0 at once, the next when the last trip of half 1 before it is sorted. -/
def mapDue (s : State) (l : Nat) : Bool := l = 0 || halfMeets s (sortDone s) (l - 1, 1)

/-- The layer whose map SORT is building (R192, R212). -/
def mapBuilding (s : State) : Option Nat :=
  if !stepLive s then none
  else (List.range (platLayers s).length).find? (fun l => !s.bucketMaps.any (fun m => m.1 = l) && mapDue s l)

/-- BUCKET_MAP_BUILD (R192, R193, R220): an entry of the layer that reads uncorrectable is fetched from a peer, and the map
waits for it. -/
def bucketMapBuild (l : Nat) (errs : Errs) (s0 : State) : State :=
  let s := takeErrors errs s0
  match layerRec s l with
  | none => s
  | some r =>
    if mapBuilding s ≠ some l || awaitingLayer s l then s
    else { s with bucketMaps := s.bucketMaps ++ [(l, bucketMap s r)], chipHist := histogram (bucketMap s r)
                  sortCounters := (bucketMap s r).map (fun _ => 0) }

/-- BUCKET_MAP_BUILD. -/
def execBucketMapBuild (layer : Nat) (errs : Errs) (s : State) : Host.Outcome State Fault Refusal :=
  .next (bucketMapBuild layer errs s)

/-- The bucket map of a layer, in bucket numbers. -/
def mapOf (s : State) (l : Nat) : List (Nat × Nat × Nat) := ((s.bucketMaps.find? (fun m => m.1 = l)).map (·.2)).getD []

/-- SORT_START (R190): the fates of a trip stand and the layer's map is ready; pass one begins. -/
def sortStart (l h : Nat) (errs : Errs) (s0 : State) : State :=
  let s := takeErrors errs s0
  match halfAt s l h with
  | none => s
  | some x =>
    if !stepLive s || !(x.sort == .idle) || x.fated ≤ x.sortTrip || !s.bucketMaps.any (fun m => m.1 = l) ||
        !earlier s l h (sortDone s) then s
    else
      let s1 := ((s.setField 0x50000 31 24 x.sortTrip).setField 0x50000 23 16 l).setField 0x50000 8 8 h
      modHalf l h (fun x => { x with sort := .passOne }) { s1 with sortCounters := (mapOf s l).map (fun _ => 0) }

/-- SORT_START. -/
def execSortStart (layer half : Nat) (s : State) (errs : Errs := []) : Host.Outcome State Fault Refusal :=
  .next (sortStart layer half errs s)

/-- The list entries of a trip in scan order (R190, R191). -/
def scanEntries (r : LayerRec) (x : Half) : List ListEntry :=
  (sortBy (·.base) x.blocks).flatMap (fun b =>
    (((b.sel.map selEntries).getD []).filter (fun e =>
      (e.2.2.fate = 1 || e.2.2.fate = 2) && e.2.2.trip = x.sortTrip)).map (fun e =>
        ⟨b.base + e.1, e.2.1, e.2.2.dest, e.2.2.expert - r.base, e.2.2.replica, e.2.2.trip⟩))

/-- A list entry as the list holds it (R196). -/
def ListEntry.word (e : ListEntry) : Word64 :=
  BitVec.ofNat 64 (e.slot * 2 ^ 48 + e.krank * 2 ^ 44 + e.dest * 2 ^ 30 + e.offset * 2 ^ 16 + e.replica * 2 ^ 13 + e.trip * 2 ^ 5)

/-- The entry that a word of the list spells (R196). -/
def listEntry (w : Word64) : ListEntry :=
  let n := w.toNat
  ⟨bits n 63 48, bits n 47 44, bits n 43 30, bits n 29 16, bits n 15 13, bits n 12 5⟩

/-- The bucket of an entry: its replica's number in the layer's map. -/
def bucketOf (m : List (Nat × Nat × Nat)) (r : LayerRec) (e : ListEntry) : Nat :=
  (m.findIdx? (fun b => decide (b.2.1 = r.base + e.offset ∧ b.2.2 = e.replica))).getD 0

/-- Pass one (R194): the counter of each entry's bucket is raised. -/
def passOne (m : List (Nat × Nat × Nat)) (r : LayerRec) (es : List ListEntry) (cs : List Nat) : List Nat :=
  es.foldl (fun cs e => modifyAt (· + 1) (bucketOf m r e) cs) cs

/-- The exclusive prefix sums (R194). -/
def prefixSums (cs : List Nat) : List Nat :=
  (cs.foldl (fun (acc : List Nat × Nat) c => (acc.1 ++ [acc.2], acc.2 + c)) ([], 0)).1

/-- Pass two (R194): each entry is written at its bucket's cursor, which is then raised: the entries with their places, and
the cursors. -/
def passTwo (m : List (Nat × Nat × Nat)) (r : LayerRec) (es : List ListEntry) (cs : List Nat) :
    List (Nat × ListEntry) × List Nat :=
  es.foldl (fun (acc : List (Nat × ListEntry) × List Nat) e =>
    let b := bucketOf m r e
    (acc.1 ++ [(acc.2.getD b 0, e)], modifyAt (· + 1) b acc.2)) ([], cs)

/-- The list in the order of its places. -/
def listOf (places : List (Nat × ListEntry)) : List Word64 := (sortBy (·.1) places).map (fun p => p.2.word)

/-- The list cut into segments of 65,536 entries (R195). -/
def segmentsOf (ws : List Word64) : List (List Word64) :=
  (List.range (ceilDiv ws.length 65536)).map (fun j => (ws.drop (65536 * j)).take 65536)

/-- The bytes of the segments of a list of n entries (R195). -/
def segmentSizes (n : Nat) : List Nat := (List.range (ceilDiv n 65536)).map (fun j => 8 * min 65536 (n - 65536 * j))

/-- The segments of a sorted trip with their buffers; a trip with no entry gives one without a buffer. -/
def trackSegments (segs : List (List Word64)) (bs : List (Nat × Nat)) : List Segment :=
  if segs.isEmpty then [⟨[], true, false, none⟩]
  else (List.range segs.length).map (fun j => ⟨segs.getD j [], j + 1 = segs.length, false, bs[j]?⟩)

/-- SORT_PHASE_END (R194, R195): pass one, the prefix with the segments' allocation, pass two, at whose end the segments
pass to PACK. -/
def sortPhaseEnd (l h : Nat) (errs : Errs) (s0 : State) : State :=
  let s := takeErrors errs s0
  match halfAt s l h, layerRec s l with
  | some x, some r =>
    if !stepLive s then s
    else match x.sort with
      | .idle => s
      | .passOne =>
        modHalf l h (fun x => { x with sort := .prefix_ })
          { s with sortCounters := passOne (mapOf s l) r (scanEntries r x) s.sortCounters }
      | .prefix_ =>
        match allocMany (segmentSizes (scanEntries r x).length) (stationOwner s 8) [7, l, h, x.sortTrip] s with
        | (none, s1) => s1
        | (some bs, s1) =>
          modHalf l h (fun x => { x with sort := .passTwo, segBufs := bs })
            { s1 with sortCounters := prefixSums s1.sortCounters }
      | .passTwo =>
        let p := passTwo (mapOf s l) r (scanEntries r x) s.sortCounters
        (modHalf l h (fun x => { x with
          sort := .idle, sortTrip := x.sortTrip + 1, segBufs := []
          segments := x.segments ++ trackSegments (segmentsOf (listOf p.1)) x.segBufs })
            { s with sortCounters := p.2 }).bump 0x50010 p.1.length
  | _, _ => s

/-- SORT_PHASE_END. -/
def execSortPhaseEnd (layer half : Nat) (s : State) (errs : Errs := []) : Host.Outcome State Fault Refusal :=
  .next (sortPhaseEnd layer half errs s)

/-! ### Groups (R197 to R208) -/

/-- A provenance tag (R207). -/
def tagOf (origin gen l h slot krank : Nat) : Nat :=
  origin * 2 ^ 50 + gen % 1024 * 2 ^ 40 + l * 2 ^ 32 + h * 2 ^ 31 + slot * 2 ^ 15 + krank * 2 ^ 11

/-- The fields of a tag. -/
def tagOrigin (t : Nat) : Nat := bits t 63 50
def tagGen (t : Nat) : Nat := bits t 49 40
def tagLayer (t : Nat) : Nat := bits t 39 32
def tagHalf (t : Nat) : Nat := bits t 31 31
def tagSlot (t : Nat) : Nat := bits t 30 15
def tagKrank (t : Nat) : Nat := bits t 14 11
def tagClear (t : Nat) : Bool := bits t 10 0 = 0

/-- A routing word (R198). -/
def routeWord (e dest replica trip members elem : Nat) (poison : Bool) (blocks : Nat) : Nat :=
  e * 2 ^ 44 + dest * 2 ^ 30 + replica * 2 ^ 27 + trip * 2 ^ 19 + (members - 1) * 2 ^ 15 + elem * 2 ^ 14 + b2n poison * 2 ^ 13 + blocks

/-- The fields of a routing word. -/
def rwExpert (w : Nat) : Nat := bits w 63 44
def rwDest (w : Nat) : Nat := bits w 43 30
def rwReplica (w : Nat) : Nat := bits w 29 27
def rwTrip (w : Nat) : Nat := bits w 26 19
def rwMembers (w : Nat) : Nat := bits w 18 15 + 1
def rwElem (w : Nat) : Nat := bits w 14 14
def rwPoison (w : Nat) : Bool := bit w 13
def rwHop (w : Nat) : Bool := bit w 12
def rwBlocks (w : Nat) : Nat := bits w 9 0

/-- The payload of a row (R200): ELEM, element codes, scales and saturations. -/
def payloadOf (ts : List Tile) (row : Nat) : Nat × List Nat × List Nat × Nat :=
  let codes := ts.flatMap (fun t => t.elems.getD row [])
  let scales := ts.flatMap (fun t => t.scales.getD row [])
  match tilesFmt 0 ts with
  | 3 => (0, codes, scales, 0)
  | 4 => (1, codes, scales, 0)
  | 1 => (0, codes, List.replicate (codes.length / 32) 0x7F, 0)
  | 2 => (1, codes, List.replicate (codes.length / 32) 0x7F, 0)
  | _ =>
    let q := convertRow 3 (codes.map decBf16)
    (0, q.1, q.2.1, q.2.2)

/-- A member of a group: its k-rank and its entry. -/
abbrev Member := Nat × SelEntry

/-- The image of a group (R197). -/
def groupImage (s : State) (l h gen slot trip : Nat) (ms : List Member) (replica : SelEntry → Nat) (dest : Nat)
    (p : Nat × List Nat × List Nat × Nat) (poison : Bool) : Bytes :=
  ms.flatMap (fun m => leBytes 8 (tagOf (chipId s) gen l h slot m.1) ++
    leBytes 8 (routeWord m.2.expert dest (replica m.2) trip ms.length p.1 poison (dModel s / 32))) ++
    p.2.1.flatMap (leBytes 1) ++ p.2.2.1.flatMap (leBytes 1)

/-- The block of a half that holds a slot. -/
def blockOfSlot (x : Half) (slot : Nat) : Option Block :=
  x.blocks.find? (fun b => b.base ≤ slot && slot < b.base + b.rows)

/-- The SELECTION row of a slot. -/
def selRow (x : Half) (slot : Nat) : List SelEntry :=
  match blockOfSlot x slot with
  | some b => ((b.sel.map (·.rows)).getD []).getD (slot - b.base) []
  | none => []

/-- The members of an entry's group (R201), in ascending expert. -/
def membersOf (x : Half) (e : ListEntry) : List Member :=
  let row := selRow x e.slot
  sortBy (fun m => m.2.expert) (((List.range row.length).map (fun k => (k, row.getD k SelEntry.zero))).filter (fun m =>
    (m.2.fate = 1 || m.2.fate = 2) && m.2.dest = e.dest && m.2.trip = e.trip))

/-- An entry whose expert is the lowest among its members writes the group. -/
def leads (r : LayerRec) (x : Half) (e : ListEntry) : Bool :=
  ((membersOf x e).head?.map (fun m => m.2.expert)) = some (r.base + e.offset)

/-- The segments of the trip that PACK works on. -/
def Half.packSegs (x : Half) : List Segment :=
  x.segments.take (((x.segments.findIdx? (·.last)).map (· + 1)).getD x.segments.length)

/-- Cut n entries off the front of the segments; a segment used up is released. -/
def dropEntries : Nat → List Segment → State → List Segment × State
  | _, [], s => ([], s)
  | n, g :: gs, s =>
    if n < g.words.length then ({ g with words := g.words.drop n } :: gs, s)
    else if g.last then ([], releaseOpt g.buf s)
    else dropEntries (n - g.words.length) gs (releaseOpt g.buf s)

/-- A place in SEND's queue is free (R96). -/
def sendRoom (s : State) : Bool := sumNat (s.halves.map (fun x => x.sendQ.length)) < depthOf s 9

/-- Put a group packet into SEND's queue. -/
def pushGroup (l h : Nat) (g : GroupPkt) (s : State) : State := modHalf l h (fun x => { x with sendQ := x.sendQ ++ [g] }) s

/-- PACK takes n entries off the list, and ends the trip with the last of them; after the half's last trip it releases its
references to the tokens (R205). -/
def takeEntries (l h n : Nat) (ended : Bool) (s : State) : State :=
  match halfAt s l h with
  | none => s
  | some x =>
    let segs := x.packSegs
    let r := dropEntries n segs s
    let s1 := modHalf l h (fun y => { y with segments := r.1 ++ x.segments.drop segs.length
                                             packTrip := y.packTrip + b2n ended }) r.2
    if ended && x.packTrip + 1 = x.fated && x.tally.phase == .finished then releaseTokens l h s1 else s1

/-- PACK has finished the trips of a half. -/
def packDone (s : State) (h : Half) : Bool := fatesStand s h && h.packTrip = h.fated

/-- Write the group of a lead entry (R199 to R204): its buffer is charged to SEND and its count raised to m. DEDUCED (log
entry 32): a group formed from a list segment of which a word read uncorrectable carries POISON too. -/
def writeGroup (l h : Nat) (x : Half) (b : Block) (ts : List Tile) (e : ListEntry) (rest : List ListEntry) (r : LayerRec)
    (s : State) : State :=
  let ms := membersOf x e
  match alloc (groupBytes ms.length (dModel s)) (stationOwner s 9) [8, l, h, e.trip, e.slot, e.dest] s with
  | (none, s1) => s1
  | (some buf, s1) =>
    let p := payloadOf ts (e.slot - b.base)
    let poison := poisoned ts || x.packSegs.any (·.poison)
    let img := groupImage s1 l h b.gen e.slot e.trip ms (·.replica) e.dest p poison
    let extra := (rest.takeWhile (fun f => !leads r x f)).length
    let last := decide (extra = rest.length)
    let s2 := raiseRefs buf.1 buf.2 (ms.length - 1) s1
    let s3 := pushGroup l h ⟨some buf, img, e.dest, e.trip, last, false⟩ s2
    let s4 := (((s3.bump 0x50014 1).bump 0x50018 extra).bump 0x5001C p.2.2.2).bump 0x50020 (b2n poison)
    takeEntries l h (1 + extra) last s4

/-- GROUP_WRITE (R201, R203): the group of the list's next lead entry is written, and the entries of groups already
written are passed over; a trip without a group gives one packet with LAST and no buffer. -/
def groupWrite (l h : Nat) (errs : Errs) (s0 : State) : State :=
  let s := takeErrors errs s0
  match halfAt s l h, layerRec s l with
  | some x, some r =>
    if !stepLive s || x.sortTrip ≤ x.packTrip || !earlier s l h (packDone s) || !sendRoom s then s
    else match (x.packSegs.flatMap (·.words)).map listEntry with
      | [] => takeEntries l h 0 true (pushGroup l h ⟨none, [], 0, x.packTrip, true, false⟩ s)
      | e :: rest =>
        match blockOfSlot x e.slot with
        | some b =>
          match b.input s with
          | some ts => writeGroup l h x b ts e rest r s
          | none => s
        | none => s
  | _, _ => s

/-- GROUP_WRITE. -/
def execGroupWrite (layer half : Nat) (s : State) (errs : Errs := []) : Host.Outcome State Fault Refusal :=
  .next (groupWrite layer half errs s)

end Sys2Proof.Machine
end

