-- ==== Sys2Proof/Machine/Exchange.lean ====
section
/-! DEFINITION. The exchange on the way out (R244 to R249, R263, R332, R240, R241): SEND_GROUP, GROUP_RECEIVE,
REPLICA_NOTICE, FEED_WAIT_TIMEOUT, TOKEN_STREAM_PORT_CREDIT, CAD_QUARANTINE and QUARANTINE_NOTICE. -/
namespace Sys2Proof.Machine
open Sys2Proof

/-! ### Token stream ports toward the cores -/

/-- Change a token stream port. -/
def modTPort (n : Nat) (f : TPort → TPort) (s : State) : State := { s with tports := modifyAt f n s.tports }

/-- A token stream port. -/
def tportAt (s : State) (n : Nat) : TPort := s.tports.getD n { held := [], queue := [] }

/-- The tags of a tile that carries them (R31, R209). -/
def tileTags (b : Bytes) : List Word64 :=
  (List.range (hdrOf b).rows).map (fun i => BitVec.ofNat 64 (leAt b (64 + 8 * i) 8))

/-- Rows handed to the cores are counted, with their tags, as the first column tile of their row block is handed (R251). -/
def handRows (b : Bytes) (s : State) : State :=
  let h := hdrOf b
  if h.kind ≠ 5 || h.colBase ≠ 0 then s
  else
    let s1 := s.bump 0x80044 h.rows
    let mine := fun (x : Handed) => x.layer = h.layer && x.half = h.half && x.expert = h.expert
    if s1.handed.any mine then
      { s1 with handed := s1.handed.map (fun x => if mine x then
          { x with handed := x.handed + h.rows, tags := x.tags ++ tileTags b } else x) }
    else { s1 with handed := s1.handed ++ [⟨h.layer, h.half, h.expert, h.rows, 0, tileTags b⟩] }

/-- A credit of a port is free (R101). -/
def portFree (s : State) (n : Nat) : Bool := (tportAt s n).held.length < Config.tilePortCredits

/-- Put a tile on a port whose credits allow it. -/
def giveTile (n : Nat) (expertIn : Bool) (b : Bytes) (buf : Option (Nat × Nat)) (s : State) : State :=
  handRows b (emitOut (.tile n b) (modTPort n (fun p => { p with held := p.held ++ [(expertIn, buf)] }) s))

/-- Hand a tile to a port, or let it wait there for a credit. -/
def handTile (n : Nat) (expertIn : Bool) (b : Bytes) (buf : Option (Nat × Nat)) (s : State) : State :=
  if (tportAt s n).queue.isEmpty && portFree s n then giveTile n expertIn b buf s
  else modTPort n (fun p => { p with queue := p.queue ++ [(expertIn, b, buf)] }) s

/-- The cores take the oldest tile of a port: its buffer is freed, and the next waiting tile is handed. -/
def portCredit (n : Nat) (s : State) : State :=
  match (tportAt s n).held with
  | [] => s
  | x :: rest =>
    let s1 := releaseOpt x.2 (modTPort n (fun p => { p with held := rest }) s)
    match (tportAt s1 n).queue with
    | [] => s1
    | q :: qs => giveTile n q.1 q.2.1 q.2.2 (modTPort n (fun p => { p with queue := qs }) s1)

/-! ### Records on VC2 and VC3 -/

/-- The image of a group by its parts: member headers, as tag and routing word, and the payload. -/
def imageMembers (d : Nat) (b : Bytes) : List (Nat × Nat) :=
  (List.range ((b.length - 33 * (d / 32)) / 16)).map (fun i => (leAt b (16 * i) 8, leAt b (16 * i + 8) 8))
def imageCodes (d : Nat) (b : Bytes) : List Nat :=
  ((b.drop (b.length - 33 * (d / 32))).take d).map (·.toNat)
def imageScales (d : Nat) (b : Bytes) : List Nat := ((b.drop (b.length - d / 32)).take (d / 32)).map (·.toNat)

/-- Set HOP in every member header of a group (R199), or in the return word of a record (R252). -/
def setGroupHop (b : Bytes) : Bytes :=
  let m := rwMembers (leAt b 8 8)
  (List.range m).flatMap (fun i => bytesAt b (16 * i) 8 ++ leBytes 8 (leAt b (16 * i + 8) 8 ||| 2 ^ 12)) ++ b.drop (16 * m)
def setReturnHop (b : Bytes) : Bytes := b.take 8 ++ leBytes 8 (leAt b 8 8 ||| 2 ^ 19) ++ b.drop 16

/-- A return word (R252). -/
def returnWord (kind e sender replica ofmt : Nat) (poison : Bool) (blocks : Nat) : Nat :=
  kind * 2 ^ 60 + e * 2 ^ 40 + sender * 2 ^ 26 + replica * 2 ^ 23 + ofmt * 2 ^ 21 + b2n poison * 2 ^ 20 + blocks

/-- Send a record on VC3 toward its origin (R253, R223). -/
def sendReturn (origin : Nat) (b : Bytes) (tie : Tie) (s : State) : State :=
  send ⟨firstHop s (chipId s) origin, 6, 0x02, s.stepNum, b, tie, 0, none⟩ s

/-- This chip's replica index for an expert. -/
def ownIndex (s : State) (e : Nat) : Nat := ((ownSlot s e).map (·.1)).getD 0

/-- Send a RECALL (2) or REFUSE (3) notice for a tag; the origin of a fenced chip gets none (R263). -/
def sendNotice (kind e tag : Nat) (s : State) : State :=
  if fenced s (tagOrigin tag) then s.bump 0x80038 1
  else
    post ⟨firstHop s (chipId s) (tagOrigin tag), 6, 0x02, s.stepNum,
      leBytes 8 tag ++ leBytes 8 (returnWord kind e (chipId s) (ownIndex s e) 0 false 0), .none, 0, none⟩ s

/-! ### Loans -/

/-- The key of a loan entry. -/
def loanKey (k slot krank : Nat) : Nat := slot * k + krank

/-- A loan entry of a live table; a k-rank of K or more names none (R244). -/
def loanAt (s : State) (l h slot krank : Nat) : Option Loan :=
  ((halfAt s l h).bind (·.loans)).bind (fun t =>
    if krank < t.k then (t.entries.find? (fun e => e.1 = loanKey t.k slot krank)).map (·.2) else none)

/-- Set a loan entry of a live table. -/
def putLoan (l h slot krank : Nat) (v : Loan) (s : State) : State :=
  modHalf l h (fun x => { x with loans := x.loans.map (fun t =>
    let key := loanKey t.k slot krank
    { t with entries := t.entries.filter (fun e => e.1 ≠ key) ++ [(key, v)] }) }) s

/-- OUT entries in live loan tables, and in orphan tables. -/
def outCount (t : LoanTable) : Nat := (t.entries.filter (fun e => e.2.state == .out)).length
def liveLoans (s : State) : Nat := sumNat ((s.halves.filterMap (·.loans)).map outCount)
def orphanCount (s : State) : Nat := sumNat (s.orphans.map outCount)

/-- The step is DEGRADED at best, or aborts, when a member is lost to a fence (R264). -/
def loseMember (s : State) : State :=
  if (s.run.map (·.continue_)).getD false then modRun (fun r => { r with degraded := true }) s else raiseAborts uReg 0x43 s

/-- An OUT entry becomes LOST under R263 or R256: its reference is released. -/
def loseLoan (l h slot krank : Nat) (v : Loan) (s : State) : State :=
  let tag := match halfAt s l h with
    | some x => tagOf (chipId s) (((blockOfSlot x slot).map (·.gen)).getD 0) l h slot krank
    | none => 0
  traceEvent 5 0x04 tag (release v.pool v.ptr (putLoan l h slot krank { v with state := .lost } s))

/-- The chips a group to `dst` and the answer pass: DEST, the first-hop relay and the return relay (R263). -/
def routeChips (s : State) (dst : Nat) : List Nat := [dst, firstHop s (chipId s) dst, firstHop s dst (chipId s)]

/-- A fence since the datum breaks a route. -/
def routeBroken (s : State) (dst : Nat) : Bool := (routeChips s dst).any (fenced s)

/-- The sizes of what may come back for a member (R332): a record in each format, or a notice. -/
def returnSizes (d : Nat) : List Nat := [16 + 33 * (d / 32), 16 + 2 * d, 16 + 4 * d, 16]

/-- The sum of R332 stays below COMBINE's minimum, with m more members lent, in every pool that could hold an answer. -/
def mayLend (s : State) (m : Nat) : Bool :=
  let o := stationOwner s 0xE
  ((returnSizes (dModel s)).map poolFor).all (fun p => liveLoans s + orphanCount s + heldBy s p o + m ≤ minOf s p o)

/-- SEND has finished a half. -/
def sendDone (s : State) (h : Half) : Bool := packDone s h && h.sendQ.isEmpty

/-- Take the group at the head of SEND's queue. -/
def popGroup (l h : Nat) (s : State) : State := modHalf l h (fun x => { x with sendQ := x.sendQ.drop 1 }) s

/-- A member's entry becomes OUT before the group leaves (R245); a re-admission's earlier reference is released (R256). -/
def lendMember (l h : Nat) (g : GroupPkt) (buf : Nat × Nat) (m : Nat × Nat) (s : State) : State :=
  let slot := tagSlot m.1
  let k := tagKrank m.1
  let old := loanAt s l h slot k
  let v : Loan := ⟨.out, buf.1, buf.2, rwExpert m.2, g.dest, (old.map (·.refused)).getD []⟩
  let s1 := putLoan l h slot k v s
  match old with
  | some o => if g.again then release o.pool o.ptr s1 else s1
  | none => s1

/-- A member whose route has been broken is lost at once and not handed to the fabric (R263). -/
def dropMember (l h : Nat) (g : GroupPkt) (buf : Nat × Nat) (m : Nat × Nat) (s : State) : State :=
  let slot := tagSlot m.1
  let k := tagKrank m.1
  let v : Loan := ⟨.out, buf.1, buf.2, rwExpert m.2, g.dest, []⟩
  let s1 := match loanAt s l h slot k with
    | some o => if g.again then release o.pool o.ptr s else s
    | none => s
  (loseLoan l h slot k v s1).bump 0x80038 1

/-- The step of a re-admission counts each sending (R242). -/
def countAgain (g : GroupPkt) (s : State) : State :=
  if g.again then modRun (fun r => { r with readmitted := r.readmitted + 1 }) (s.bump 0x60090 1) else s

/-- The loan of a re-admission is still outstanding. -/
def stillOut (s : State) (l h : Nat) (g : GroupPkt) : Bool :=
  !g.again || (imageMembers (dModel s) g.image).all (fun m =>
    ((loanAt s l h (tagSlot m.1) (tagKrank m.1)).map (·.state)) = some .out)

/-- SEND_GROUP (R245, R263, R332): the head of SEND's queue. A packet without a buffer only ends its trip (R203). -/
def sendGroup (l h : Nat) (errs : Errs) (s0 : State) : State :=
  let s := makeLoans l h (takeErrors errs s0)
  match halfAt s l h with
  | none => s
  | some x =>
    match x.sendQ with
    | [] => s
    | g :: _ =>
      if !stepLive s || !earlier s l h (sendDone s) then s
      else match g.buf with
        | none => popGroup l h s
        | some buf =>
          let ms := imageMembers (dModel s) g.image
          if !stillOut s l h g then release buf.1 buf.2 (popGroup l h s)
          else if x.loans.isNone then s
          else if routeBroken s g.dest then loseMember (ms.foldl (fun s m => dropMember l h g buf m s) (popGroup l h s))
          else if !g.again && !mayLend s ms.length then s
          else
            let s1 := ms.foldl (fun s m => lendMember l h g buf m s) (popGroup l h s)
            let hop := firstHop s1 (chipId s1) g.dest
            post ⟨hop, 4, 0x01, s1.stepNum, g.image, .none, 0, none⟩ (countAgain g s1)

/-- SEND_GROUP. -/
def execSendGroup (layer half : Nat) (s : State) (errs : Errs := []) : Host.Outcome State Fault Refusal :=
  .next (sendGroup layer half errs s)

/-! ### FEED (R248, R249, R240, R241) -/

/-- The trips of a half as far as this chip knows them. -/
def feedTrips (s : State) (l h : Nat) : Nat :=
  match loopOf s l with
  | none => 1
  | some lp =>
    match halfAt s l h with
    | some x => if x.tally.phase == .finished || 0 < x.tally.trip then x.tally.trips else lp.bound
    | none => lp.bound

/-- This chip's replica of an expert has been quarantined in the step. -/
def acting (s : State) (e : Nat) : Bool := s.quarActing.contains e

/-- The experts of a layer that FEED serves here: LIVE replicas not stopped by R240. -/
def fedExperts (s : State) (l : Nat) : List Nat :=
  match layerRec s l with
  | none => []
  | some r => ((s.cad.filterMap (fun x => expertAt s x.1)).filter (fun e => r.base ≤ e && e < r.base + r.experts)).filter
      (fun e => ((ownSlot s e).map (fun x => slotState x.2)) = some 1 && !acting s e)

/-- FEED's account of a (layer, half, trip, expert). -/
def feedAt (s : State) (l h t e : Nat) : Option Feed :=
  s.feeds.find? (fun f => f.layer = l && f.half = h && f.trip = t && f.expert = e)

/-- Change an account, opened at its first use. -/
def modFeed (l h t e : Nat) (f : Feed → Feed) (s : State) : State :=
  if (feedAt s l h t e).isSome then
    { s with feeds := s.feeds.map (fun x => if x.layer = l && x.half = h && x.trip = t && x.expert = e then f x else x) }
  else { s with feeds := s.feeds ++ [f ⟨l, h, t, e, none, 0, [], false, 0⟩] }

/-- FEED has finished a (layer, half, trip). -/
def feedDone (s : State) (l h t : Nat) : Bool :=
  (fedExperts s l).all (fun e => ((feedAt s l h t e).map (·.closed)).getD false)

/-- The layer, half and trip that FEED works on (R30, R262). -/
def feedPos (s : State) : Option (Nat × Nat × Nat) :=
  ((halfOrder s).flatMap (fun x => (List.range (feedTrips s x.1 x.2)).map (fun t => (x.1, x.2, t)))).find?
    (fun p => !feedDone s p.1 p.2.1 p.2.2)

/-- The order of layers, halves and trips. -/
def posKey (p : Nat × Nat × Nat) : Nat := (p.1 * 2 + p.2.1) * 256 + p.2.2

/-- FEED has reached a layer, half and trip. -/
def feedReached (s : State) (p : Nat × Nat × Nat) : Bool :=
  match feedPos s with
  | none => true
  | some q => posKey p ≤ posKey q

/-- The header of a tile that FEED or COMBINE writes. -/
def outHeader (s : State) (kind fmt l h rows cols base e colBase src : Nat) (lastBlock lastCol : Bool) : TileHdr :=
  { step := s.stepNum, kind := kind, fmt := fmt, layer := l, half := h, rows := rows, cols := cols, base := base, gen := s.gen
    expert := e, colBase := colBase, src := src, poison := false, lastBlock := lastBlock, lastCol := lastCol
    contract := contractOf s }

/-- The column tiles of a full row: base and width of each. -/
def columns (d : Nat) : List (Nat × Nat) := (List.range (ceilDiv d 256)).map (fun j => (256 * j, min 256 (d - 256 * j)))

/-- The EXPERT_IN tiles of some rows of one ELEM (R248). -/
def expertTiles (s : State) (l h e : Nat) (rows : List FeedRow) (lastBlock : Bool) : List Bytes :=
  let fmt := if ((rows.head?.map (·.elem)).getD 0) = 0 then 3 else 4
  let d := dModel s
  (columns d).map (fun c => tileImage
    (outHeader s 5 fmt l h rows.length c.2 0 e c.1 0xB lastBlock (c.1 + c.2 = d)) (rows.map (·.tag.toNat))
    (rows.map (fun r => (r.codes.drop c.1).take c.2)) (rows.map (fun r => (r.scales.drop (c.1 / 32)).take (c.2 / 32))))

/-- Hand tiles to a port in order, with their buffers. -/
def handTiles (n : Nat) (expertIn : Bool) (ts : List (Bytes × (Nat × Nat))) (s : State) : State :=
  ts.foldl (fun s t => handTile n expertIn t.1 (some t.2) s) s

/-- Write the tile of some rows of an expert to port EXPERT mod 16, and release their references; false while no buffer is
granted. A tile that has grown since its first request asks anew. -/
def feedTile (l h t e : Nat) (rows : List FeedRow) (lastBlock : Bool) (s : State) : Bool × State :=
  let ts := expertTiles s l h e rows lastBlock
  let key := [0xB, l, h, t, e]
  match allocMany (ts.map (·.length)) (stationOwner s 0xB) key s with
  | (none, s1) => (false, s1)
  | (some bs, s1) =>
    let s2 := handTiles (e % 16) true (ts.zip bs) (cancelRequests (fun k => k.take 5 = key) s1)
    (true, rows.foldl (fun s r => release r.pool r.ptr s) s2)

/-- The EMPTY tile of an expert that nothing is admitted to (R249). -/
def emptyTile (l h t e : Nat) (s : State) : Bool × State :=
  let b := tileImage (outHeader s 7 0 l h 0 0 0 e 0 0xB true true) [] [] []
  match alloc b.length (stationOwner s 0xB) [0xB, l, h, t, e] s with
  | (none, s1) => (false, s1)
  | (some buf, s1) => (true, (handTile (e % 16) false b (some buf) s1).bump 0x80048 1)

/-- The next tile's rows: those of the oldest row's ELEM, at most 256. -/
def tileRows (rows : List FeedRow) : List FeedRow :=
  match rows with
  | [] => []
  | r :: _ => (rows.filter (fun x => x.elem = r.elem)).take 256

/-- Write tiles of an expert while it holds 256 rows, or until it is empty when it closes. -/
def writeRows : Nat → Nat → Nat → Nat → Nat → Bool → State → State
  | 0, _, _, _, _, _, s => s
  | fuel + 1, l, h, t, e, closing, s =>
    match feedAt s l h t e with
    | none => s
    | some f =>
      if f.rows.isEmpty || (!closing && f.rows.length < 256) then s
      else
        let rs := tileRows f.rows
        let rest := f.rows.filter (fun x => !rs.contains x)
        match feedTile l h t e rs (closing && rest.isEmpty) s with
        | (false, s1) => s1
        | (true, s1) => writeRows fuel l h t e closing (modFeed l h t e (fun f => { f with rows := rest }) s1)

/-- The expert's notice has arrived and its rows are complete. -/
def Feed.full (f : Feed) : Bool := f.notice = some f.received

/-- Serve one expert at FEED's position: full tiles, and its closing tile (R249). -/
def serveExpert (l h t e : Nat) (s : State) : State :=
  match feedAt s l h t e with
  | none => s
  | some f =>
    if f.closed then s
    else if f.full && f.received = 0 then
      match emptyTile l h t e s with
      | (false, s1) => s1
      | (true, s1) => modFeed l h t e (fun f => { f with closed := true }) s1
    else
      let s1 := writeRows (f.rows.length + 1) l h t e f.full s
      if f.full && (((feedAt s1 l h t e).map (·.rows.isEmpty)).getD false) then modFeed l h t e (fun f => { f with closed := true }) s1
      else s1

/-- A row of a group as FEED holds it. -/
def rowOf (s : State) (g : RxGroup) (m : Nat × Nat) : FeedRow :=
  ⟨BitVec.ofNat 64 m.1, rwElem m.2, imageCodes (dModel s) g.image, imageScales (dModel s) g.image, g.pool, g.ptr, s.tb⟩

/-- FEED takes a member of a held group: a fenced origin's row is discarded (R263), a stopped expert's is recalled (R240),
a poisoned one aborts the step (R428). -/
def takeMember (g : RxGroup) (m : Nat × Nat) (s : State) : State :=
  let e := rwExpert m.2
  if fenced s (tagOrigin m.1) then release g.pool g.ptr (s.bump 0x80038 1)
  else if acting s e then release g.pool g.ptr (sendNotice 2 e m.1 (s.bump 0x6008C 1))
  else if rwPoison m.2 then raiseAborts uSde 0x25 s
  else modFeed (tagLayer m.1) (tagHalf m.1) (rwTrip m.2) e (fun f => { f with rows := f.rows ++ [rowOf s g m] }) s

/-- The position of a held group. -/
def groupPos (s : State) (g : RxGroup) : Nat × Nat × Nat :=
  match imageMembers (dModel s) g.image with
  | m :: _ => (tagLayer m.1, tagHalf m.1, rwTrip m.2)
  | [] => (0, 0, 0)

/-- A single-member group whose REPLICA is not this chip's index is a re-admission (R241, R247). -/
def isAgain (s : State) (b : Bytes) : Bool :=
  match imageMembers (dModel s) b with
  | [m] => rwReplica m.2 ≠ ownIndex s (rwExpert m.2)
  | _ => false

/-- Both notices of a re-admission's layer and trip, once they have arrived (R241). -/
def bothNotices (s : State) (l t e : Nat) : Option (Nat × Nat) :=
  match (feedAt s l 0 t e).bind (·.notice), (feedAt s l 1 t e).bind (·.notice) with
  | some a, some b => some (a, b)
  | _, _ => none

/-- Re-admissions of an expert accepted in a trip. -/
def readmittedOf (s : State) (l t e : Nat) : Nat :=
  (((feedAt s l 0 t e).map (·.readmitted)).getD 0) + (((feedAt s l 1 t e).map (·.readmitted)).getD 0)

/-- The capacity of this chip's replica. -/
def ownCap (s : State) (e : Nat) : Nat := ((ownSlot s e).map (fun x => slotCap x.2)).getD 0

/-- A re-admission whose turn has come (R241): accepted and handed in a tile of its own, refused, or recalled. It waits
while no buffer is granted. -/
def judgeAgain (g : RxGroup) (s : State) : State :=
  match imageMembers (dModel s) g.image with
  | [m] =>
    let e := rwExpert m.2
    let l := tagLayer m.1
    let h := tagHalf m.1
    let t := rwTrip m.2
    let gone := { s with recv := s.recv.filter (fun x => !(x.pool = g.pool && x.ptr = g.ptr)) }
    if fenced s (tagOrigin m.1) || acting s e || rwPoison m.2 then takeMember g m gone
    else match bothNotices s l t e with
      | none => s
      | some (a, b) =>
        if !feedReached s (l, h, t) then s
        else if readmittedOf s l t e + a + b < ownCap s e then
          match feedTile l h t e [rowOf s g m] true s with
          | (false, s1) => s1
          | (true, s1) => modFeed l h t e (fun f => { f with readmitted := f.readmitted + 1 })
              { s1 with recv := s1.recv.filter (fun x => !(x.pool = g.pool && x.ptr = g.ptr)) }
        else release g.pool g.ptr (sendNotice 3 e m.1 gone)
  | _ => s

/-- FEED takes the held groups of its position. -/
def takeGroups (p : Nat × Nat × Nat) (s : State) : State :=
  let mine := s.recv.filter (fun g => groupPos s g = p && !isAgain s g.image)
  mine.foldl (fun s g =>
    if s.recv.contains g then
      (imageMembers (dModel s) g.image).foldl (fun s m => if stepLive s then takeMember g m s else s)
        { s with recv := s.recv.filter (fun x => x ≠ g) }
    else s) s

/-- FEED goes on from its position as far as it can. -/
def feedPump : Nat → State → State
  | 0, s => s
  | fuel + 1, s =>
    if !stepLive s then s
    else match feedPos s with
      | none => s
      | some p =>
        if awaitingLayer s p.1 then s else
        let s1 := takeGroups p s
        let s2 := if stepLive s1 then (fedExperts s1 p.1).foldl (fun s e => serveExpert p.1 p.2.1 p.2.2 e s) s1 else s1
        if stepLive s2 && feedPos s2 ≠ some p then feedPump fuel s2 else s2

/-- FEED's work after any event: its positions, and the re-admissions that wait. -/
def runFeed (s : State) : State :=
  let s1 := feedPump ((platLayers s).length * 512 + 1) s
  (s1.recv.filter (fun g => isAgain s1 g.image)).foldl (fun s g =>
    if stepLive s && !awaitingLayer s (groupPos s g).1 then judgeAgain g s else s) s1

/-! ### RECV (R247, R272, R224) -/

/-- The owner a received record is charged to (R84): the arrival port's, or RECV's. -/
def recvOwner (s : State) (port : Nat) : Nat :=
  let o := ownerNum s 2 port
  if o = unreserved then stationOwner s 0xA else o

/-- The highest trip of a half whose counting this chip's TALLY has begun. -/
def begunTrip (s : State) (l h : Nat) : Option Nat :=
  (halfAt s l h).bind (fun x => if x.tally.phase == .idle then none else some x.tally.trip)

/-- A member header passes the checks of R247. -/
def memberOk (s : State) (count : Nat) (m : Nat × Nat) : Bool :=
  let l := tagLayer m.1
  let t := rwTrip m.2
  let e := rwExpert m.2
  tagClear m.1 && bits m.2 11 10 = 0 && rwBlocks m.2 = dModel s / 32 && l < (platLayers s).length &&
    (match loopOf s l with
      | none => t = 0
      | some _ => (match begunTrip s l (tagHalf m.1) with | some b => decide (t ≤ b) | none => false)) &&
    (match ownSlot s e with
      | some x => slotState x.2 ≠ 2 && (x.1 = rwReplica m.2 || count = 1)
      | none => false)

/-- The rows received for an expert, with n more, stay within the COUNT of its notice, once that has arrived (R247). -/
def withinNotice (s : State) (l h t e n : Nat) : Bool :=
  match feedAt s l h t e with
  | some f => (match f.notice with
    | some c => decide (f.received + n ≤ c)
    | none => true)
  | none => true

/-- The members of a group keep every expert within its notice; a re-admission is not counted. -/
def groupWithin (s : State) (b : Bytes) : Bool :=
  let ms := imageMembers (dModel s) b
  isAgain s b || ms.all (fun m =>
    withinNotice s (tagLayer m.1) (tagHalf m.1) (rwTrip m.2) (rwExpert m.2)
      (ms.filter (fun x => rwExpert x.2 = rwExpert m.2)).length)

/-- A group's image is legal at its DEST. -/
def groupOk (s : State) (b : Bytes) : Bool :=
  let m := rwMembers (leAt b 8 8)
  b.length = groupBytes m (dModel s) && (imageMembers (dModel s) b).all (memberOk s m) && groupWithin s b

/-- The row of a slot QUARANTINED at the datum is answered under R240. -/
def quarantinedHere (s : State) (e : Nat) : Bool := ((ownSlot s e).map (fun x => slotState x.2)) = some 3

/-- A legal group takes its place in RECV: rows of quarantined slots are recalled, the others counted and held for FEED. -/
def holdGroup (g : RxGroup) (s : State) : State :=
  let ms := imageMembers (dModel s) g.image
  let stop := ms.filter (fun m => quarantinedHere s (rwExpert m.2) || acting s (rwExpert m.2))
  let keep := ms.filter (fun m => !(quarantinedHere s (rwExpert m.2) || acting s (rwExpert m.2)))
  let s1 := stop.foldl (fun s m => release g.pool g.ptr (sendNotice 2 (rwExpert m.2) m.1 (s.bump 0x6008C 1))) s
  if keep.isEmpty then s1
  else
    let img := keep.flatMap (fun m => leBytes 8 m.1 ++ leBytes 8 m.2) ++ g.image.drop (16 * ms.length)
    let s2 := if isAgain s g.image then s1
      else keep.foldl (fun s m => modFeed (tagLayer m.1) (tagHalf m.1) (rwTrip m.2) (rwExpert m.2)
        (fun f => { f with received := f.received + 1 }) s) s1
    runFeed { s2 with recv := s2.recv ++ [{ g with image := img }] }

/-- A group addressed to another chip: forwarded on the forwarded LC with HOP set, kept until delivered; or discarded. -/
def relayGroup (src : Nat) (b : Bytes) (buf : Nat × Nat) (s : State) : State :=
  let w := leAt b 8 8
  if !mayForward s src (rwDest w) (rwHop w) then raiseAborts uFep 0x42 (release buf.1 buf.2 s)
  else if fenced s (rwDest w) then (release buf.1 buf.2 s).bump 0x80038 1
  else send ⟨rwDest w, 5, 0x01, s.stepNum, setGroupHop b, .buffer buf.1 buf.2, 0, none⟩ (s.bump 0xC003C 1)

/-- A layer that a group's members name waits for a cadastre entry (R220). -/
def groupAwaits (s : State) (b : Bytes) : Bool :=
  rwDest (leAt b 8 8) = chipId s && (imageMembers (dModel s) b).any (fun m => awaiting s (rwExpert m.2))

/-- A group lands in its buffer and leaves the landing (R247, R328): forwarded, held for FEED, or illegal. -/
def takeGroup (src n : Nat) (b : Bytes) (buf : Nat × Nat) (s0 : State) : State :=
  let s := passLanded src n s0
  if rwDest (leAt b 8 8) ≠ chipId s then relayGroup src b buf s
  else if !groupOk s b then raiseAborts uReg 0x28 (release buf.1 buf.2 s)
  else holdGroup ⟨src, buf.1, buf.2, b⟩ (raiseRefs buf.1 buf.2 (rwMembers (leAt b 8 8) - 1) s)

/-- A group of a length `n` at its arrival lands (R247, R272, R224): one of an earlier or aborted step is late; one of a later
step is illegal. The group waits in its landing while no buffer is granted. -/
def landGroup (src port step n : Nat) (b : Bytes) (s : State) : State :=
  if s.stepNum < step then raiseAborts uReg 0x28 (passLanded src n s)
  else if step < s.stepNum || !stepLive s then (passLanded src n s).bump 0x80050 1
  else if groupAwaits s b then s
  else match alloc b.length (recvOwner s port) [0xA, src, port, leAt b 0 8] s with
    | (none, s1) => s1
    | (some buf, s1) => takeGroup src n b buf s1

/-- GROUP_RECEIVE. A word of the group that reads uncorrectable on its way into the buffer poisons it. -/
def groupReceive (src port step : Nat) (m : Bytes) (errs : Errs) (s0 : State) : State :=
  landGroup src port step m.length (if arrivedBad errs then poisonGroup m else m) (takeErrors (otherErrors errs) s0)

/-- GROUP_RECEIVE. -/
def execGroupReceive (src port step : Nat) (msg : Bytes) (s : State) (errs : Errs := []) : Host.Outcome State Fault Refusal :=
  .next (groupReceive src port step msg errs s)

/-- A notice entry passes the replica chip's checks (R173): a resident replica, named by its index, no reserved bit. -/
def noticeEntryOk (s : State) (l : Nat) (w : Word64) : Bool :=
  bits w.toNat 23 0 = 0 && ((layerOf s (teExpert w)).map (·.layer)) = ((layerRec s l).map (·.layer)) &&
    (match ownSlot s (teExpert w) with
      | some x => x.1 = bits w.toNat 43 41
      | none => false) && bits w.toNat 40 24 ≤ 65535

/-- A half and trip in progress at a replica chip, or the next one (R173): any half of the running step whose counting its
TALLY has begun is in progress at a replica (R247; DEDUCED, log entry 104). -/
def noticeNear (s : State) (l h t : Nat) : Bool :=
  (match begunTrip s l h with | some b => decide (t ≤ b) | none => false) || tallyNear s l h t

/-- A notice packet passes what R173 checks whatever is in progress. -/
def noticeLegal (s : State) (m : Bytes) : Bool :=
  packetShape s 3 m && decide (tpLayer m < (platLayers s).length) && (packetEntries m).all (noticeEntryOk s (tpLayer m))

/-- REPLICA_NOTICE (R173, R249). DEDUCED (log entry 39): rows received above a COUNT that arrives after them are illegal
records too (R247). -/
def replicaNotice (m : Bytes) (errs : Errs) (s0 : State) : State :=
  let s := takeErrors errs s0
  let l := tpLayer m
  let h := tpHalf m
  let t := tpTrip m
  if awaitingLayer s l then s
  else if !noticeLegal s m then raiseAborts uTally 0x47 s
  else if !stepLive s then s
  else if !noticeNear s l h t then raiseAborts uTally 0x47 s
  else
    let s1 := (packetEntries m).foldl (fun s w =>
      modFeed l h t (teExpert w) (fun f => { f with notice := some (bits w.toNat 40 24) }) s) s
    if (packetEntries m).all (fun w => withinNotice s1 l h t (teExpert w) 0) then runFeed s1 else raiseAborts uReg 0x28 s1

/-- REPLICA_NOTICE. -/
def execReplicaNotice (_src : Nat) (msg : Bytes) (s : State) (errs : Errs := []) : Host.Outcome State Fault Refusal :=
  .next (replicaNotice msg errs s)

/-- The expert of a port whose oldest row has waited longest. -/
def oldestFeed (s : State) (port : Nat) : Option Feed :=
  (sortBy (fun f => (f.rows.head?.map (·.tick)).getD 0)
    (s.feeds.filter (fun f => f.expert % 16 = port && !f.rows.isEmpty && some (f.layer, f.half, f.trip) = feedPos s))).head?

/-- No EXPERT_IN tile stands at a port that the cores have not taken. -/
def portClear (s : State) (port : Nat) : Bool :=
  !((tportAt s port).held.any (·.1)) && !((tportAt s port).queue.any (·.1))

/-- FEED_WAIT_TIMEOUT (R248, R249): the oldest row has waited 1,024 SCLK and the port holds no EXPERT_IN tile. -/
def feedWait (port : Nat) (errs : Errs) (s0 : State) : State :=
  let s := takeErrors errs s0
  if !stepLive s || !portClear s port then s
  else match oldestFeed s port with
    | none => s
    | some f =>
      let rs := tileRows f.rows
      let rest := f.rows.filter (fun x => !rs.contains x)
      match feedTile f.layer f.half f.trip f.expert rs (f.full && rest.isEmpty) s with
      | (false, s1) => s1
      | (true, s1) => runFeed (modFeed f.layer f.half f.trip f.expert (fun f => { f with rows := rest }) s1)

/-- FEED_WAIT_TIMEOUT. -/
def execFeedWaitTimeout (port : Nat) (s : State) (errs : Errs := []) : Host.Outcome State Fault Refusal :=
  .next (feedWait port errs s)

/-- TOKEN_STREAM_PORT_CREDIT (R101, R248, R260). -/
def execTokenStreamPortCredit (port : Nat) (s : State) (errs : Errs := []) : Host.Outcome State Fault Refusal :=
  .next (runFeed (portCredit port (takeErrors errs s)))

/-! ### Quarantine (R238 to R240) -/

/-- The payload of a quarantine notice (R430). -/
def quarantinePayload (sender e step : Nat) : Bytes :=
  leBytes 1 1 ++ leBytes 1 0 ++ leBytes 2 sender ++ leBytes 4 e ++ leBytes 8 step ++ leBytes 16 0

/-- This chip's stored slot for an expert is LIVE. -/
def ownLive (s : State) (e : Nat) : Bool := (slotsFor s e).any (fun w => slotState w = 1 && slotChip w = chipId s)

/-- Send a RECALL for a row and count it (R240). -/
def recallRow (e tag : Nat) (s : State) : State := sendNotice 2 e tag (s.bump 0x6008C 1)

/-- The tiles at a port whose rows have not been handed to the cores: what follows the rest of a row block begun. -/
def unhanded (q : List (Bool × Bytes × Option (Nat × Nat))) : List (Bool × Bytes × Option (Nat × Nat)) :=
  q.dropWhile (fun x => x.1 && (hdrOf x.2.1).colBase ≠ 0)

/-- The expert's EXPERT_IN tiles that still wait whole at its port are taken back: every row is recalled. DEDUCED (log entry
40): a row block of which a column tile has gone out has been handed. -/
def recallTiles (e : Nat) (s : State) : State :=
  let q := (tportAt s (e % 16)).queue
  let whole := unhanded q
  let mine := fun (x : Bool × Bytes × Option (Nat × Nat)) => x.1 && (hdrOf x.2.1).expert = e
  let gone := whole.filter mine
  let kept := q.take (q.length - whole.length) ++ whole.filter (fun x => !mine x)
  let s1 := modTPort (e % 16) (fun p => { p with queue := kept }) s
  gone.foldl (fun s x =>
    let s2 := releaseOpt x.2.2 s
    if (hdrOf x.2.1).colBase = 0 then (tileTags x.2.1).foldl (fun s t => recallRow e t.toNat s) s2 else s2) s1

/-- What the quarantining chip recalls at once (R240): rows that FEED holds, members in RECV, and tiles not yet handed. -/
def recallHeld (e : Nat) (s0 : State) : State :=
  let s := recallTiles e (cancelRequests (fun k => k.head? = some 0xB && k.getD 4 0 = e) s0)
  let rows := (s.feeds.filter (fun f => f.expert = e)).flatMap (·.rows)
  let s1 := rows.foldl (fun s r => release r.pool r.ptr (recallRow e r.tag.toNat s))
    { s with feeds := s.feeds.map (fun f => if f.expert = e then { f with rows := [] } else f) }
  let d := dModel s
  let held := s1.recv.flatMap (fun g => ((imageMembers d g.image).filter (fun m => rwExpert m.2 = e)).map (fun m => (g, m)))
  let s2 := held.foldl (fun s x => release x.1.pool x.1.ptr (recallRow e x.2.1 s)) s1
  let cut := fun (g : RxGroup) =>
    let ms := imageMembers d g.image
    { g with image := (ms.filter (fun m => rwExpert m.2 ≠ e)).flatMap (fun m => leBytes 8 m.1 ++ leBytes 8 m.2) ++
                        g.image.drop (16 * ms.length) }
  { s2 with recv := (s2.recv.map cut).filter (fun g => 33 * (d / 32) < g.image.length) }

/-- A quarantine takes effect (R238): the slot becomes QUARANTINED and the runtime is told. -/
def applyQuarantine (q : Quarantine) (s : State) : State :=
  notice 0x09 0 0x060 (q.expert + q.chip * 2 ^ 20) (quarantineSlot q.expert q.chip s)

/-- A quarantine is kept for the datum it names (R238). One that names the datum in progress, whose action 1 has been taken, takes
effect at once: the quarantining chip has not contributed, so no chip has the agreement's result yet. -/
def keepQuarantine (q : Quarantine) (s : State) : State :=
  if s.dat.began && q.step ≤ nextStep s then applyQuarantine q s else { s with quarPending := s.quarPending ++ [q] }

/-- The step of the datum that a quarantine written now acts at (R238). DEDUCED (log entry 45): one written after this chip has
contributed to a datum's agreement names the datum after it. -/
def quarantineStep (s : State) : Nat := nextStep s + b2n (!(s.dat.phase == .idle))

/-- CAD_QUARANTINE (R238 to R240). -/
def cadQuarantine (value : Word32) (s : State) : State :=
  let e := value.toNat
  if 2 ^ 20 ≤ e then record uCad 0x1F s
  else if !ownLive s e || s.quarPending.any (fun q => q.expert = e && q.chip = chipId s) then s
  else
    let me := chipId s
    let next := quarantineStep s
    let dsts := ((List.range (chipCount s)).filter (fun c => c ≠ me && !(stepFences s).contains c))
    let s1 := keepQuarantine ⟨e, me, next⟩ { s with quarUndelivered := s.quarUndelivered + dsts.length }
    let s2 := sendAll dsts 0xA 0x06 (quarantinePayload me e next) .quarantine s1
    if !stepLive s2 then s2
    else if strictLive s2 then raiseAborts uCad 0x2C s2
    else runFeed (recallHeld e (modRun (fun r => { r with degraded := true }) { s2 with quarActing := s2.quarActing ++ [e] }))

/-- CAD_QUARANTINE. -/
def execCadQuarantine (value : Word32) (s : State) : Host.Outcome State Fault Refusal := .next (cadQuarantine value s)

/-- QUARANTINE_NOTICE (R238, R430): kept for the next datum, and left out of this step's re-admissions (R241). -/
def quarantineNotice (src : Nat) (m : Bytes) (s : State) : State :=
  if m.length ≠ 32 || leAt m 0 1 ≠ 1 then s
  else
    let q : Quarantine := ⟨bits (leAt m 4 4) 19 0, src, bits (leAt m 8 8) 55 0⟩
    if s.quarPending.contains q then s
    else keepQuarantine q { s with quarSeen := if stepLive s then s.quarSeen ++ [q] else s.quarSeen }

/-- QUARANTINE_NOTICE. -/
def execQuarantineNotice (src : Nat) (msg : Bytes) (s : State) : Host.Outcome State Fault Refusal :=
  .next (quarantineNotice src msg s)

end Sys2Proof.Machine
end

