-- ==== Sys2Proof/Machine/Combine.lean ====
section
/-! DEFINITION. The way home (R250 to R260, R210, R211): COLLECT_TILE, OUTPUT, RECALL, REFUSE, COMBINE_ROW and
EMIT_TILE. -/
namespace Sys2Proof.Machine
open Sys2Proof

/-! ### The registrar (R210, R254 to R256) -/

/-- OFMT of R252 for an FMT, and back. -/
def ofmtOf (fmt : Nat) : Nat := if fmt = 3 then 0 else if fmt = 5 then 1 else 2
def fmtOfO (o : Nat) : Nat := if o = 0 then 3 else if o = 1 then 5 else 6

/-- The payload bytes of an output record. -/
def recordPayload (d fmt : Nat) : Nat := d * fmtSize fmt + (if fmtMx fmt then d / 32 else 0)

/-- The fields of a return word (R252). -/
def retKind (w : Nat) : Nat := bits w 63 60
def retExpert (w : Nat) : Nat := bits w 59 40
def retSender (w : Nat) : Nat := bits w 39 26
def retOfmt (w : Nat) : Nat := bits w 22 21
def retPoison (w : Nat) : Bool := bit w 20
def retHop (w : Nat) : Bool := bit w 19

/-- The serial distance d of R210. -/
def tagAge (s : State) (tag : Nat) : Nat := serialSub 10 s.gen (tagGen tag)

/-- The checks of R210's first row and of R254 on every record. -/
def recordValid (s : State) (b : Bytes) : Bool :=
  let w := leAt b 8 8
  let d := dModel s
  tagClear (leAt b 0 8) && tagAge s (leAt b 0 8) < 512 && bits w 18 10 = 0 && 1 ≤ retKind w && retKind w ≤ 3 &&
    (retKind w ≠ 1 || (retOfmt w ≠ 3 && bits w 9 0 = d / 32 && b.length = 16 + recordPayload d (fmtOfO (retOfmt w))))

/-- The SELECTION entry that a tag names. -/
def tagEntry (s : State) (tag : Nat) : Option SelEntry :=
  (halfAt s (tagLayer tag) (tagHalf tag)).bind (fun x => (selRow x (tagSlot tag))[tagKrank tag]?)

/-- An orphan table that holds an OUT entry for a tag of its generation. -/
def orphanOf (s : State) (tag : Nat) : Option (LoanTable × Loan) :=
  (s.orphans.filter (fun t => t.gen = tagGen tag && t.layer = tagLayer tag && t.half = tagHalf tag)).findSome? (fun t =>
    (t.entries.find? (fun e => e.1 = loanKey t.k (tagSlot tag) (tagKrank tag) && tagKrank tag < t.k && e.2.state == .out)).map (fun e => (t, e.2)))

/-- A stale record (R255): its buffer is freed and it is counted; an orphan that it answers is freed, and its table with its
last OUT entry (R267). -/
def staleRecord (tag : Nat) (buf : Nat × Nat) (s : State) : State :=
  let s1 := traceEvent 5 0x02 tag ((release buf.1 buf.2 s).bump 0x8002C 1)
  match orphanOf s1 tag with
  | none => s1
  | some (t, v) =>
    let t1 := { t with entries := t.entries.filter (fun e => e.1 ≠ loanKey t.k (tagSlot tag) (tagKrank tag)) }
    let s2 := release v.pool v.ptr s1
    if t1.hasOut then { s2 with orphans := s2.orphans.map (fun x => if x = t then t1 else x) }
    else freeAll t.bufs { s2 with orphans := s2.orphans.erase t }

/-- The replica a recalled or refused selection goes to next (R241, R256). -/
def nextReplica (s : State) (e sender : Nat) (refused : List Nat) : Option (Nat × Word32) :=
  (((spillOrder s e (chipId s)).dropWhile (fun x => slotChip x.2 ≠ sender)).drop 1).find? (fun x =>
    !refused.contains (slotChip x.2) && !s.quarSeen.any (fun q => q.expert = e && q.chip = slotChip x.2))

/-- A matched RECALL or REFUSE (R256): the token is re-sent in a new single-member group, whose REPLICA stays that of the
selection (R241); with the spill order exhausted the loan becomes LOST. -/
def readmit (tag sender : Nat) (v : Loan) (en : SelEntry) (s : State) : State :=
  let l := tagLayer tag
  let h := tagHalf tag
  let slot := tagSlot tag
  let refused := v.refused ++ [sender]
  match nextReplica s v.expert sender refused, halfAt s l h with
  | some x, some hf =>
    match blockOfSlot hf slot with
    | none => s
    | some b =>
      match b.input s with
      | none => s
      | some ts =>
        if !sendRoom s then s
        else match alloc (groupBytes 1 (dModel s)) (stationOwner s 9) [8, l, h, 256, slot, x.1, tagKrank tag] s with
          | (none, s1) => s1
          | (some buf, s1) =>
            let img := groupImage s1 l h b.gen slot en.trip [(tagKrank tag, en)] (·.replica) (slotChip x.2)
              (payloadOf ts (slot - b.base)) (poisoned ts)
            pushGroup l h ⟨some buf, img, slotChip x.2, en.trip, false, true⟩
              (putLoan l h slot (tagKrank tag) { v with refused := refused } s1)
  | _, _ => (loseLoan l h slot (tagKrank tag) v s).bump 0x60094 1

/-- Whether a re-sending is still waiting for a buffer or a place in SEND's queue. -/
def readmitted (tag : Nat) (v : Loan) (s : State) : Bool :=
  match loanAt s (tagLayer tag) (tagHalf tag) (tagSlot tag) (tagKrank tag) with
  | some w => decide (w ≠ v)
  | none => true

/-- A matched OUTPUT (R246, R254): the loan becomes BACK and a group reference is released; a poisoned one aborts the
step (R428). -/
def takeOutput (tag : Nat) (v : Loan) (b : Bytes) (buf : Nat × Nat) (s : State) : State :=
  let w := leAt b 8 8
  let d := dModel s
  let fmt := fmtOfO (retOfmt w)
  let sz := fmtSize fmt
  if retPoison w then raiseAborts uSde 0x25 (release buf.1 buf.2 s)
  else
    let rec_ : OutRec := ⟨tagSlot tag, tagKrank tag, buf.1, buf.2, retOfmt w,
      (List.range d).map (fun c => leAt b (16 + c * sz) sz),
      if fmtMx fmt then (List.range (d / 32)).map (fun j => leAt b (16 + d * sz + j) 1) else []⟩
    let s1 := putLoan (tagLayer tag) (tagHalf tag) (tagSlot tag) (tagKrank tag) { v with state := .back, pool := buf.1, ptr := buf.2 } s
    let s2 := modHalf (tagLayer tag) (tagHalf tag) (fun x => { x with outputs := x.outputs ++ [rec_] }) s1
    (release v.pool v.ptr s2).bump 0x80028 1

/-- The live loan that a tag of the current generation matches (R210). -/
def matchOf (s : State) (tag : Nat) : Option Loan :=
  if tagAge s tag = 0 then
    match loanAt s (tagLayer tag) (tagHalf tag) (tagSlot tag) (tagKrank tag) with
    | some v => if v.state == .out then some v else none
    | none => none
  else none

/-- An invalid record (R210). -/
def invalidRecord (buf : Nat × Nat) (s : State) : State := raiseAborts uReg 0x26 ((release buf.1 buf.2 s).bump16 0x80030 1)

/-- A notice is counted and traced as it arrives. -/
def noteNotice (b : Bytes) (s : State) : State :=
  let k := retKind (leAt b 8 8)
  let t := traceEvent 5 0x03 (leAt b 0 8 + k * 2 ^ 64)
  if k = 2 then t (s.bump 0x8003C 1) else if k = 3 then t (s.bump 0x80040 1) else s

/-- A record or notice for this chip's own token, in its landing buffer (R210, R254). -/
def classify (b : Bytes) (buf : Nat × Nat) (s0 : State) (s : State) : State :=
  let tag := leAt b 0 8
  let w := leAt b 8 8
  if !recordValid s b then invalidRecord buf s
  else match matchOf s tag with
    | some v =>
      match tagEntry s tag with
      | none => invalidRecord buf s
      | some en =>
        if en.expert ≠ retExpert w then invalidRecord buf s
        else if retKind w = 1 then takeOutput tag v b buf s
        else
          let s1 := readmit tag (retSender w) v en (noteNotice b (release buf.1 buf.2 s))
          if readmitted tag v s1 then s1 else { s0 with pools := { s0.pools with waiters := s1.pools.waiters } }
    | none =>
      if 0 < tagAge s tag || (orphanOf s tag).isSome then staleRecord tag buf (noteNotice b s)
      else raiseAborts uReg 0x27 (((noteNotice b (release buf.1 buf.2 s))).bump16 0x80034 1)

/-- A record addressed to another chip (R223, R224): forwarded with HOP set and kept until delivered; discarded for a
fenced chip (R263) or where it may not be forwarded. -/
def relayReturn (src : Nat) (b : Bytes) (buf : Nat × Nat) (s : State) : State :=
  let dst := tagOrigin (leAt b 0 8)
  if !mayForward s src dst (retHop (leAt b 8 8)) then raiseAborts uFep 0x42 (release buf.1 buf.2 s)
  else if fenced s dst then (release buf.1 buf.2 s).bump 0x80038 1
  else send ⟨dst, 7, 0x02, s.stepNum, setReturnHop b, .buffer buf.1 buf.2, 0, none⟩ (s.bump 0xC003C 1)

/-- A notice whose answer needs a cadastre entry that is being fetched again waits for it (R220). -/
def returnAwaits (s : State) (b : Bytes) : Bool :=
  tagOrigin (leAt b 0 8) = chipId s && (match matchOf s (leAt b 0 8) with
    | some v => retKind (leAt b 8 8) ≠ 1 && awaiting s v.expert
    | none => false)

/-- A VC3 record of a length `n` at its arrival lands in a buffer charged to COMBINE (R254), and waits in its landing while
none is granted. -/
def landReturn (src n : Nat) (b : Bytes) (s : State) : State :=
  if returnAwaits s b then s
  else match alloc b.length (stationOwner s 0xE) [0xE, 256, src, leAt b 0 8, retKind (leAt b 8 8)] s with
    | (none, s1) => s1
    | (some buf, s1) =>
      let s2 := passLanded src n s1
      if tagOrigin (leAt b 0 8) ≠ chipId s then relayReturn src b buf s2 else classify b buf s s2

/-- A VC3 record arrives (R254). A word of it that reads uncorrectable on its way into the buffer poisons it. -/
def returnArrive (src : Nat) (m : Bytes) (errs : Errs) (s0 : State) : State :=
  landReturn src m.length (if arrivedBad errs then poisonRecord m else m) (takeErrors (otherErrors errs) s0)

/-- OUTPUT. -/
def execOutput (src : Nat) (msg : Bytes) (s : State) (errs : Errs := []) : Host.Outcome State Fault Refusal :=
  .next (returnArrive src msg errs s)

/-- RECALL. -/
def execRecall (src : Nat) (msg : Bytes) (s : State) (errs : Errs := []) : Host.Outcome State Fault Refusal :=
  .next (returnArrive src msg errs s)

/-- REFUSE. -/
def execRefuse (src : Nat) (msg : Bytes) (s : State) (errs : Errs := []) : Host.Outcome State Fault Refusal :=
  .next (returnArrive src msg errs s)

/-! ### COLLECT (R250, R251) -/

/-- Rows handed for a (layer, half, expert) and not yet returned. -/
def rowsDue (s : State) (l h e : Nat) : Nat :=
  match s.handed.find? (fun x => x.layer = l && x.half = h && x.expert = e) with
  | some x => x.handed - x.returned
  | none => 0

/-- A tag that COLLECT can route (R251). -/
def tagRoutes (s : State) (t : Word64) : Bool := tagClear t.toNat && tagOrigin t.toNat < chipCount s

/-- A tile follows the delivery rules of R250 on its port. -/
def collectOk (s : State) (port : Nat) (h : TileHdr) : Bool :=
  (match s.collects.find? (fun c => c.port = port) with
    | some c => c.layer = h.layer && c.half = h.half && c.expert = h.expert && c.fmt = h.fmt && c.rows = h.rows && c.nextCol = h.colBase
    | none => h.colBase = 0) &&
  0 < h.cols && h.colBase + h.cols ≤ dModel s && h.lastCol = decide (h.colBase + h.cols = dModel s)

/-- Rows returned are counted with the first column tile of their block. -/
def countReturned (h : TileHdr) (tags : List Word64) (s : State) : State :=
  { s with handed := s.handed.map (fun x => if x.layer = h.layer && x.half = h.half && x.expert = h.expert then
    { x with returned := x.returned + h.rows, tags := tags.foldl (fun ts t => ts.erase t) x.tags } else x) }

/-- A finished row leaves COLLECT: a stopped expert's output is recalled (R240), a fenced origin's is discarded (R263), that
of a token of this chip passes to the registrar directly, and every other becomes a record on its way to its origin. -/
def leaveCollect (c : Collect) (i : Nat) (s : State) : State :=
  let tag := (c.tags.getD i 0).toNat
  let buf := c.bufs.getD i (0, 0)
  if fenced s (tagOrigin tag) then (release buf.1 buf.2 s).bump 0x80038 1
  else if acting s c.expert then recallRow c.expert tag (release buf.1 buf.2 s)
  else
    let w := returnWord 1 c.expert (chipId s) (ownIndex s c.expert) (ofmtOf c.fmt) c.poison (dModel s / 32)
    let b := leBytes 8 tag ++ leBytes 8 w ++ (c.codes.getD i []).flatMap (leBytes (fmtSize c.fmt)) ++ (c.scales.getD i []).flatMap (leBytes 1)
    let s1 := s.bump 0x8004C 1
    if tagOrigin tag = chipId s then classify b buf s1 s1 else sendReturn (tagOrigin tag) b (.buffer buf.1 buf.2) s1

/-- Column tiles added to a row block in COLLECT. -/
def growCollect (c : Collect) (t : HeldTile) : Collect :=
  let h := hdrOf t.image
  { c with nextCol := h.colBase + h.cols, poison := c.poison || h.poison || t.poison
           codes := (c.codes.zip (elemsOf h true t.image)).map (fun x => x.1 ++ x.2)
           scales := (c.scales.zip (scalesOf h true t.image)).map (fun x => x.1 ++ x.2) }

/-- A legal column tile takes its place and its buffer is released; with LAST_COL the rows leave, those of this chip's own
tokens first (R210). After an abort nothing leaves any more (R271). -/
def takeCollect (c : Collect) (t : HeldTile) (s0 : State) : State :=
  let h := hdrOf t.image
  let d := growCollect c t
  let s := release t.buf.1 t.buf.2 s0
  let others := s.collects.filter (fun x => x.port ≠ c.port)
  let s1 := traceTile 1 0xC 6 h.layer h.half 0 h.colBase h.rows s
  if h.lastCol then
    let mine := fun i => decide (tagOrigin (d.tags.getD i 0).toNat = chipId s)
    let own := (List.range d.rows).filter mine
    let rest := (List.range d.rows).filter (fun i => !mine i)
    (own ++ rest).foldl (fun s i => if stepLive s then leaveCollect d i s else s) { s1 with collects := others }
  else { s1 with collects := others ++ [d] }

/-- COLLECT takes a tile (R251): delivery rules, excess and tags are checked in this order; the records of a row block are
allocated with its first column tile. False while no buffer is granted for them. -/
def collectNow (t : HeldTile) (s : State) : Bool × State :=
  let h := hdrOf t.image
  let gone := release t.buf.1 t.buf.2
  if !collectOk s t.port h then (true, raiseAborts uSde 0x20 (gone s))
  else match s.collects.find? (fun c => c.port = t.port) with
    | some c => (true, takeCollect c t s)
    | none =>
      let tags := tileTags t.image
      if rowsDue s h.layer h.half h.expert < h.rows then (true, raiseAborts uReg 0x29 (gone s))
      else if !tags.all (tagRoutes s) then (true, raiseAborts uReg 0x26 (gone s))
      else match allocMany (List.replicate h.rows (16 + recordPayload (dModel s) h.fmt)) (stationOwner s 0xD)
          [0xD, t.port, h.layer, h.half, h.expert, (tags.headD 0).toNat] s with
        | (none, s1) => (false, s1)
        | (some bs, s1) =>
          (true, takeCollect ⟨t.port, h.layer, h.half, h.expert, h.fmt, h.rows, 0, tags, false, List.replicate h.rows [],
            List.replicate h.rows [], bs⟩ t (countReturned h tags s1))

/-- COLLECT has every row of the halves before one back that FEED has handed in them (R30). -/
def collectReached (s : State) (l h : Nat) : Bool :=
  s.handed.all (fun x => decide (2 * l + h ≤ 2 * x.layer + x.half) || decide (x.handed ≤ x.returned)) &&
    s.collects.all (fun c => decide (2 * l + h ≤ 2 * c.layer + c.half))

/-- The tiles of COLLECT's queue that are the oldest of their port. -/
def portHeads : List Nat → List HeldTile → List HeldTile
  | _, [] => []
  | seen, t :: ts => if seen.contains t.port then portHeads seen ts else t :: portHeads (t.port :: seen) ts

/-- COLLECT goes on as far as it can: of the tiles in its queue it takes those whose half it has reached, each port's in
order (R30). -/
def collectOn : Nat → State → State
  | 0, s => s
  | n + 1, s =>
    if !stepLive s then s
    else match (portHeads [] s.collectHeld).find? (fun t => collectReached s (hdrOf t.image).layer (hdrOf t.image).half) with
      | none => s
      | some t =>
        match collectNow t { s with collectHeld := s.collectHeld.erase t } with
        | (true, s1) => collectOn n s1
        | (false, s1) => { s1 with collectHeld := s.collectHeld }

/-- A tile written into COLLECT's queue (R35, R36, R271): the header and the step are checked first. -/
def landCollect (t : HeldTile) (s : State) : State :=
  let h := hdrOf t.image
  let gone := release t.buf.1 t.buf.2 s
  if !headerLegal s 6 t.image || h.step ≠ s.stepNum then raiseAborts uSde 0x20 gone
  else if !stepLive s then gone.bump 0x80050 1
  else collectOn (s.collectHeld.length + 1) { s with collectHeld := s.collectHeld ++ [t] }

/-- COLLECT_TILE (R251, R29, R84, R101): the tile is written into COLLECT's queue, in a buffer charged to COLLECT; it waits
at its port while the queue is full or no buffer is granted. -/
def collectTile (port : Nat) (b : Bytes) (errs : Errs) (s0 : State) : State :=
  let s := takeErrors (otherErrors errs) s0
  let h := hdrOf b
  if 0 < depthOf s 0xC && depthOf s 0xC ≤ s.collectHeld.length then s
  else match alloc (hdrImage h true) (stationOwner s 0xC) [0xC, port, h.layer, h.half, h.expert, h.colBase] s with
    | (none, s1) => s1
    | (some buf, s1) => landCollect ⟨port, b, buf, arrivedBad errs⟩ s1

/-- COLLECT_TILE. -/
def execCollectTile (port : Nat) (tile : Bytes) (s : State) (errs : Errs := []) : Host.Outcome State Fault Refusal :=
  .next (collectTile port tile errs s)

/-- ALLOC_GRANT (R83, R85): the granted buffer is taken up by its engine: FEED and COLLECT, whose work no command of their own
brings about again, go on at once. -/
def execAllocGrant (pool : Nat) (s : State) (errs : Errs := []) : Host.Outcome State Fault Refusal :=
  let s1 := runFeed (allocGrant pool (takeErrors errs s))
  .next (collectOn s1.collectHeld.length s1)

/-! ### COMBINE (R257 to R259) -/

/-- Rows of a half that have been combined. -/
def combinedRows (x : Half) : Nat := sumNat (x.blocks.map (fun b => b.combined.length))

/-- COMBINE has finished a half. -/
def combineDone (s : State) (x : Half) : Bool := fatesStand s x && combinedRows x = x.rows

/-- An entry has settled (R257). -/
def entrySettled (s : State) (l h slot : Nat) (k : Nat) (e : SelEntry) : Bool :=
  e.fate = 3 || (match loanAt s l h slot k with
    | some v => v.state == .back || v.state == .lost
    | none => false)

/-- The k-ranks of a row with their entries. -/
def ranked (row : List SelEntry) : List (Nat × SelEntry) := (List.range row.length).zip row

/-- M of R258 with the output records. -/
def combineSet (s : State) (x : Half) (slot : Nat) (row : List SelEntry) : List (Word32 × OutRec) :=
  (ranked row).filterMap (fun p =>
    match loanAt s x.layer x.half slot p.1 with
    | some v => if v.state == .back && (Val.fin false 0 0).lt (f32Val p.2.gate) then
        (x.outputs.find? (fun o => o.slot = slot && o.krank = p.1)).map (fun o => (p.2.gate, o)) else none
    | none => none)

/-- The values of an output record. -/
def OutRec.vals (o : OutRec) : List Val :=
  (List.range o.codes.length).map (fun c => elemVal (fmtOfO o.ofmt) (o.codes.getD c 0) (o.scales.getD (c / 32) 0x7F))

/-- The weights of R258. -/
def combineWeights (ver : Nat) (gs : List Word32) : List Word32 :=
  let t := exa96Sum (gs.map f32Val)
  let sum := BitVec.ofNat 32 (Exa96.round true t.1 t.2).1
  let r := sfu ver .reciprocal sum
  gs.map (fun g => f32Mul g r)

/-- One column of a combined row (R258). -/
def combineCol (wide : Bool) (x : Val) (ws : List Word32) (ys : List Val) : Nat × ScoreClass :=
  let t := exa96Sum (x :: (ws.zip ys).map (fun p => (f32Val p.1).mul p.2))
  Exa96.round wide t.1 t.2

/-- A combined row: codes and classes. -/
def combineVals (wide : Bool) (ver : Nat) (xs : List Val) (m : List (Word32 × OutRec)) : List (Nat × ScoreClass) :=
  let ws := combineWeights ver (m.map (·.1))
  let ys := m.map (fun p => p.2.vals)
  (List.range xs.length).map (fun c => combineCol wide (xs.getD c .nan) ws (ys.map (fun y => y.getD c .nan)))

/-- RESULT format of the step (R273). -/
def combWide (s : State) : Bool := s.step_ 0x81000 0 0 = 1

/-- Elements of a class. -/
def classCountOf (vs : List (Nat × ScoreClass)) (k : ScoreClass) : Nat := (vs.filter (fun v => v.2 == k)).length

/-- A settled row is combined, counted, and its records released (R258, R259). -/
def combineSettled (x : Half) (b : Block) (slot : Nat) (row : List SelEntry) (s : State) : State :=
  let m := combineSet s x slot row
  let vs := combineVals (combWide s) s.sfuVersion (rowVals b.token (slot - b.base)) m
  let s1 := modBlock ⟨x.layer, x.half, b.base⟩ (fun b => { b with combined := b.combined ++ [(slot, vs.map (·.1))] }) s
  let s2 := modHalf x.layer x.half (fun y => { y with outputs := y.outputs.filter (fun o => o.slot ≠ slot) }) s1
  let s3 := (x.outputs.filter (fun o => o.slot = slot)).foldl (fun s o => release o.pool o.ptr s) s2
  let s4 := ((s3.bump 0x81010 1).bump 0x81014 (b2n (decide (0 < m.length ∧ m.length < row.length)))).bump 0x81018 (b2n m.isEmpty)
  ((s4.bump 0x8101C (classCountOf vs .nan)).bump 0x81020 (classCountOf vs .inf)).bump 0x81024 (classCountOf vs .sat)

/-- COMBINE_ROW (R257, R428). -/
def combineRow (l h slot : Nat) (errs : Errs) (s0 : State) : State :=
  let s := makeLoans l h (takeErrors errs s0)
  match halfAt s l h with
  | none => s
  | some x =>
    if !stepLive s || !fatesStand s x || combinedRows x ≠ slot || !earlier s l h (combineDone s) then s
    else match blockOfSlot x slot with
      | none => s
      | some b =>
        match b.sel with
        | none => s
        | some t =>
          if t.poison || poisoned b.token then raiseAborts uSde 0x25 s
          else
            let row := t.rows.getD (slot - b.base) []
            if (ranked row).all (fun p => entrySettled s l h slot p.1 p.2) then combineSettled x b slot row s else s

/-- COMBINE_ROW. -/
def execCombineRow (layer half slot : Nat) (s : State) (errs : Errs := []) : Host.Outcome State Fault Refusal :=
  .next (combineRow layer half slot errs s)

/-! ### EMIT (R260) -/

/-- The column tiles of a block's results; the zero-row half's single tile (R41). -/
def resultCols (s : State) (b : Block) : List (Nat × Nat) := if b.empty then [(0, 0)] else columns (dModel s)

/-- The block of a half that EMIT is handing: the lowest SLOT_BASE not yet handed whole. -/
def emitBlock (x : Half) : Option Block := (sortBy (·.base) x.blocks).find? (fun b => !b.released)

/-- EMIT has handed every tile of a half. -/
def emitDone (x : Half) : Bool := x.emitted

/-- The RESULT tile of one column of a block. -/
def resultTile (s : State) (x : Half) (b : Block) (c : Nat × Nat) (lastCol : Bool) : Bytes :=
  let top := decide (b.base = maxNat (x.blocks.map (·.base)))
  tileImage (outHeader s 8 (if combWide s then 6 else 5) x.layer x.half b.rows c.2 b.base 0 c.1 0xE top lastCol) []
    (b.combined.map (fun r => (r.2.drop c.1).take c.2)) []

/-- After a block's last tile COMBINE releases its reference of the residual tiles and the SELECTION tile, and after the
half's last the loan table. -/
def endBlock (x : Half) (b : Block) (s : State) : State :=
  let k : BlockId := ⟨x.layer, x.half, b.base⟩
  let r := dropTiles b.token s
  let s1 := modBlock k (fun y => { y with released := true, token := r.1 }) (releaseOpt (b.sel.bind (·.buf)) r.2)
  let s2 := modBlock k (fun y => { y with sel := y.sel.map (fun t => { t with buf := none }) }) s1
  if b.base = maxNat (x.blocks.map (·.base)) then
    modHalf x.layer x.half (fun y => { y with loans := none, loansFreed := true, emitted := true })
      (freeAll ((x.loans.map (·.bufs)).getD []) (cancelRequests (fun k => k.take 3 = [0xE, x.layer, x.half]) s2))
  else s2

/-- EMIT_TILE (R260): the next RESULT tile of a half, once its row block is combined and its port has a credit. -/
def emitTile (l h : Nat) (errs : Errs) (s0 : State) : State :=
  let s := takeErrors errs s0
  match halfAt s l h with
  | none => s
  | some x =>
    match emitBlock x with
    | none => s
    | some b =>
      if !stepLive s || !fatesStand s x || b.combined.length ≠ b.rows || !earlier s l h emitDone ||
          !(tportAt s b.port).queue.isEmpty || !portFree s b.port then s
      else
        let cols := resultCols s b
        let lastCol := decide (b.results + 1 = cols.length)
        let img := resultTile s x b (cols.getD b.results (0, 0)) lastCol
        match alloc img.length (stationOwner s 0xF) [0xF, l, h, b.base, b.results] s with
        | (none, s1) => s1
        | (some buf, s1) =>
          let s2 := traceTile 1 0xF 8 l h b.base (cols.getD b.results (0, 0)).1 b.rows s1
          let s3 := handTile b.port false img (some buf) (modBlock ⟨l, h, b.base⟩ (fun y => { y with results := y.results + 1 }) s2)
          if lastCol then endBlock x b s3 else s3

/-- EMIT_TILE. -/
def execEmitTile (layer half : Nat) (s : State) (errs : Errs := []) : Host.Outcome State Fault Refusal :=
  .next (emitTile layer half errs s)

end Sys2Proof.Machine
end

