-- ==== Sys2Proof/Machine/Rma.lean ====
section
/-! DEFINITION. Remote loads, stores, atomics and bulk copies (R342 to R364): the command queues, the requester, the target
with its windows and dedup table, and the remote read cache. -/
namespace Sys2Proof.Machine
open Sys2Proof

/-! ### Queues (R342 to R347) -/

/-- Change a queue. -/
def modQueue (q : Nat) (f : RmaQueue → RmaQueue) (s : State) : State := { s with rma := modifyAt f q s.rma }

/-- A queue. -/
def queueAt (s : State) (q : Nat) : RmaQueue := s.rma.getD q RmaQueue.reset

/-- The registers of a queue: CTRL's address, Q, n and ENABLE. -/
def qCtrl (q : Nat) : Nat := 0xC1108 + 0x20 * (q % 16)
def qBase (s : State) (q : Nat) : Nat := s.addr64 (0xC1100 + 0x20 * (q % 16)) (0xC1104 + 0x20 * (q % 16))
def qLog2 (s : State) (q : Nat) : Nat := s.field (qCtrl q) 11 8
def qEnabled (s : State) (q : Nat) : Bool := s.field (qCtrl q) 0 0 = 1

/-- The address of the entry of an index (R343). -/
def entryAddr (s : State) (q ix : Nat) : Nat := qBase s q + 64 + 64 * (ix % 2 ^ qLog2 s q)

/-- A command entry by field (R344). -/
def cmdOf (b : Bytes) : RmaCmd :=
  { op := leAt b 0 1, flags := leAt b 1 1, target := leAt b 2 2, addr := leAt b 8 8, opnd := leAt b 0x18 8, cmp := leAt b 0x20 8
    laddr := leAt b 0x10 8, len := leAt b 4 4, ctr := leAt b 0x28 8 }

/-- The command of an entry. -/
def cmdAt (s : State) (q ix : Nat) : RmaCmd := cmdOf (memBytes s.mem (entryAddr s q ix) 64)

/-- The operations of R345, and those of them that are atomics. -/
def isAtomic (op : Nat) : Bool := 0x10 ≤ op && op ≤ 0x19
def legalOp (op : Nat) : Bool := isAtomic op || [0x01, 0x02, 0x20, 0x21, 0x30, 0x31, 0x32].contains op
def isCopy (op : Nat) : Bool := op = 0x20 || op = 0x21

/-- CACHE and NOTIFY of FLAGS. -/
def RmaCmd.cache (c : RmaCmd) : Bool := bit c.flags 0
def RmaCmd.notify (c : RmaCmd) : Bool := bit c.flags 1

/-- Whether a command names a target (R345, R352): all but WAIT and FENCE. -/
def RmaCmd.hasTarget (c : RmaCmd) : Bool := c.op ≠ 0x30 && c.op ≠ 0x32

/-- E_RMA_CMD's checks of R346: reserved bits, alignment, fields that the operation does not use, and LEN. -/
def cmdOk (c : RmaCmd) : Bool :=
  legalOp c.op && bits c.flags 7 2 = 0 && bits c.target 15 14 = 0 && c.addr % 8 = 0 && c.laddr % 8 = 0 && c.ctr % 8 = 0 &&
    (c.op = 0x01 || !c.cache) && (c.hasTarget || (c.target = 0 && c.addr = 0)) &&
    (isCopy c.op || (c.ctr = 0 && (c.op = 0x31 || c.len = 0) && (c.op = 0x30 || c.laddr = 0))) &&
    (c.op = 0x02 || isAtomic c.op || isCopy c.op || c.op = 0x30 || c.opnd = 0) && (c.op = 0x11 || c.cmp = 0) &&
    (!isCopy c.op || (c.len % 8 = 0 && 8 ≤ c.len && c.len ≤ 2 ^ 30)) && (c.op ≠ 0x31 || (c.len % 8 = 0 && c.len ≤ 2 ^ 30))

/-- R346: zero when a command passes, otherwise its code. -/
def cmdCode (s : State) (c : RmaCmd) : Nat :=
  if !cmdOk c then 0x57
  else if c.hasTarget && (chipCount s ≤ c.target || fenced s c.target) then 0x59
  else 0

/-- STATUS of R362. -/
def rmaStatus (done err unknown again : Bool) (code : Nat) : Nat :=
  b2n done * 2 ^ 31 + b2n err * 2 ^ 30 + b2n unknown * 2 ^ 29 + b2n again * 2 ^ 28 + code * 2 ^ 16

/-- Write RESULT and then STATUS of an entry, with the notice and the trace event that go with it (R362, R468). -/
def writeStatus (q ix : Nat) (c : RmaCmd) (status result : Nat) (s : State) : State :=
  let a := entryAddr s q ix
  let s1 := memWrite (a + 0x38) (leBytes 4 status) (memWrite (a + 0x30) (leBytes 8 result) s)
  let s2 := traceEvent 6 0x02 (q + ix * 2 ^ 16 + c.op * 2 ^ 32 + c.target % 2 ^ 14 * 2 ^ 40 + status * 2 ^ 64) s1
  if c.notify then notice 0x06 (bits status 23 16) 0x0C1 (q * 2 ^ 16 + ix + status * 2 ^ 32) s2 else s2

/-- Read the control line (R343): a TAIL too far ahead disables the queue. -/
def readControl (q : Nat) (s : State) : State :=
  let tail := leNat (memBytes s.mem (qBase s q) 2)
  let x := queueAt s q
  let s1 := modQueue q (fun x => { x with polled := s.tb }) s
  if 2 ^ qLog2 s q < serialSub 16 tail x.head then countFault uFep 0x58 (s1.setField (qCtrl q) 0 0 0)
  else modQueue q (fun x => { x with tail := tail }) s1

/-- HEAD moved over the entries that have finished, in ring order. -/
def movedHead : Nat → RmaQueue → RmaQueue
  | 0, x => x
  | n + 1, x =>
    if x.finished.contains x.head then
      movedHead n { x with head := (x.head + 1) % 65536, finished := x.finished.erase x.head }
    else x

/-- Advance HEAD (R347): it is written to the control line, which is then read again (R343). -/
def advanceHead (q : Nat) (s : State) : State :=
  let x := queueAt s q
  let y := movedHead x.finished.length x
  if y.head = x.head then s
  else
    let s1 := memWrite (qBase s q + 8) (leBytes 2 y.head) (modQueue q (fun _ => y) s)
    if qEnabled s1 q then readControl q s1 else s1

/-- An entry ends with DONE set: STATUS is written, it is no longer outstanding, and HEAD follows. -/
def finishEntry (q ix : Nat) (c : RmaCmd) (status result : Nat) (s : State) : State :=
  let s1 := (writeStatus q ix c status result s).bump16 0xC1424 (b2n (bit status 29))
  advanceHead q (modQueue q (fun x => { x with outs := x.outs.filter (fun o => o.index ≠ ix), finished := x.finished ++ [ix] }) s1)

/-- The next entry has been read and not started; a halted engine starts none (R409). -/
def hasNext (s : State) (q : Nat) : Bool := qEnabled s q && !s.tap.halted && (queueAt s q).read ≠ (queueAt s q).tail

/-- A FENCE holds later commands back (R345). -/
def fenceHolds (s : State) (q : Nat) : Bool := (queueAt s q).outs.any (fun o => o.cmd.op = 0x32)

/-- Step past the next entry. -/
def stepRead (q : Nat) (s : State) : State := modQueue q (fun x => { x with read := (x.read + 1) % 65536 }) s

/-- Entries whose OP is illegal are completed with E_RMA_CMD as they become next (R346). -/
def skipIllegal : Nat → Nat → State → State
  | 0, _, s => s
  | n + 1, q, s =>
    let ix := (queueAt s q).read
    if hasNext s q && !fenceHolds s q && !legalOp (cmdAt s q ix).op then
      skipIllegal n q (finishEntry q ix (cmdAt s q ix) (rmaStatus true true false false 0x57) 0 (stepRead q s))
    else s

/-- What follows a change of a queue: a FENCE with nothing before it completes, and illegal entries are passed. -/
def settleQueue (q : Nat) (s : State) : State :=
  let s1 := match (queueAt s q).outs with
    | [o] => if o.cmd.op = 0x32 then finishEntry q o.index o.cmd (rmaStatus true false false false 0) 0 s else s
    | _ => s
  skipIllegal 65536 q s1

/-- RMA_DOORBELL (R343, R364). -/
def rmaDoorbell (q : Nat) (value : Word32) (env : MemEnv) (s : State) : State :=
  if 2 ≤ value.toNat then record uFep 0x1F s
  else if q < 16 && value.toNat.testBit 0 && qEnabled s q then settleQueue q (readControl q (withEnv env s)) else s

/-- RMA_DOORBELL. -/
def execRmaDoorbell (priv : Bool) (q : Nat) (value : Word32) (env : MemEnv) (s : State) : Host.Outcome State Fault Refusal :=
  .next (privGate uFep priv (rmaDoorbell q value env) s)

/-- RMA_POLL (R343): every FEP_RMA_POLL ticks while the queue holds no unread command. -/
def rmaPoll (q : Nat) (env : MemEnv) (s : State) : State :=
  let x := queueAt s q
  if q < 16 && qEnabled s q && x.read = x.tail && x.polled + s.field 0xC100C 15 0 ≤ s.tb then
    settleQueue q (readControl q (withEnv env s))
  else s

/-- RMA_POLL. -/
def execRmaPoll (q : Nat) (env : MemEnv) (s : State) : Host.Outcome State Fault Refusal := .next (rmaPoll q env s)

/-! ### Requests (R355, R358) -/

/-- The requester identifier of R342. -/
def requesterOf (chip q : Nat) : Nat := chip * 16 + q

/-- A queue's floor (R358): its oldest unreleased sequence number, or the next one. -/
def floorOf (x : RmaQueue) : Nat := ((x.outs.find? (fun o => isAtomic o.cmd.op)).map (·.seq)).getD x.seq

/-- A request of R355. -/
def requestBytes (rtype attempt : Nat) (last : Bool) (q seq addr opnd cmp floor len ctr : Nat) (data : Bytes) : Bytes :=
  leBytes 1 rtype ++ leBytes 1 (attempt + 4 * b2n last) ++ leBytes 1 q ++ leBytes 1 0 ++ leBytes 4 seq ++ leBytes 8 addr ++
    leBytes 8 opnd ++ leBytes 8 cmp ++ leBytes 4 floor ++ leBytes 4 len ++ leBytes 8 ctr ++ data

/-- Remember the floor and the tick of the latest sending to a target (R358). -/
def noteSent (q target : Nat) (s : State) : State :=
  modQueue q (fun x => { x with
    floorSent := x.floorSent.filter (fun e => e.1 ≠ target) ++ [(target, floorOf x)]
    lastSent := x.lastSent.filter (fun e => e.1 ≠ target) ++ [(target, s.tb)] }) s

/-- Send a request on VC0. -/
def sendRequest (q target : Nat) (b : Bytes) (s : State) : State :=
  noteSent q target (post ⟨target, 0, 0x08, s.stepNum, b, .none, 0, none⟩ s)

/-- The length of a piece of a copy (R353). -/
def pieceLen (c : RmaCmd) (off : Nat) : Nat := min 3968 (c.len - off)

/-- The length of the reply to a command or to one of its pieces (R355). -/
def replyLen (c : RmaCmd) (off : Nat) : Nat :=
  if c.op = 0x21 then 16 + pieceLen c off else if c.op = 0x01 && c.cache then 80 else 16

/-- Replies are reserved for requests that leave the chip (R330). -/
def roomFor (s : State) (c : RmaCmd) (off : Nat) : Bool := c.target = chipId s || replyRoom s (replyLen c off)
def reserveFor (c : RmaCmd) (off : Nat) (s : State) : State := if c.target = chipId s then s else reserveReply (replyLen c off) s
def releaseFor (c : RmaCmd) (off : Nat) (s : State) : State := if c.target = chipId s then s else releaseReply (replyLen c off) s

/-- RTYPE of a command. -/
def rtypeOf (c : RmaCmd) (cached : Bool) : Nat :=
  if c.op = 0x01 && c.cache && cached then 2 else if c.op = 0x02 then 3 else c.op

/-! ### The remote read cache (R351, R352) -/

/-- The lines of the cache region: zero granules hold none. -/
def cacheLines (s : State) : Nat := ((partitionLive s).getD 2 0) * 65536

/-- Sets of 16 ways; the set of a line is DESIGN CHOICE (log entry 24). -/
def cacheSet (s : State) (line : Nat) : Nat := line % (cacheLines s / 16)

/-- Remove the lines of a target that overlap a range; a fetch in flight for one of them no longer fills the cache. -/
def dropLines (target addr len : Nat) (s : State) : State :=
  let hits := fun (l : Nat) => decide (l * 64 < addr + len ∧ addr < (l + 1) * 64)
  { s with
    cache := s.cache.filter (fun c => !(c.chip = target && hits c.line))
    rma := s.rma.map (fun x => { x with outs := x.outs.map (fun o =>
      if o.cmd.op = 0x01 && o.cmd.target = target && hits (o.cmd.addr / 64) then { o with noFill := true } else o) }) }

/-- Empty the cache. -/
def dropAll (s : State) : State :=
  { s with cache := [], rma := s.rma.map (fun x => { x with outs := x.outs.map (fun o => { o with noFill := true }) }) }

/-- A line held, and its use as the most recent one. -/
def cacheHit (s : State) (target addr : Nat) : Option CacheLine :=
  if cacheLines s = 0 then none else s.cache.find? (fun c => c.chip = target && c.line = addr / 64)
def touchLine (c : CacheLine) (s : State) : State := { s with cache := s.cache.erase c ++ [c] }

/-- Fill a line, the least recently used of its set giving way. -/
def fillLine (c : CacheLine) (s : State) : State :=
  if cacheLines s = 0 then s
  else
    let old := s.cache.filter (fun x => !(x.chip = c.chip && x.line = c.line))
    let set := old.filter (fun x => cacheSet s x.line = cacheSet s c.line)
    let kept := if set.length < 16 then old else (match set.head? with | some x => old.erase x | none => old)
    { s with cache := kept ++ [c] }

/-! ### Starting commands (R345 to R347, R353) -/

/-- An outstanding command as it starts. -/
def RmaOut.start (ix : Nat) (c : RmaCmd) (seq tick : Nat) : RmaOut := ⟨ix, c, seq, tick, 1, [], [], false, false, 0⟩

/-- Add an outstanding command. -/
def addOut (q : Nat) (o : RmaOut) (s : State) : State := modQueue q (fun x => { x with outs := x.outs ++ [o] }) s

/-- Change an outstanding command. -/
def modOut (q ix : Nat) (f : RmaOut → RmaOut) (s : State) : State :=
  modQueue q (fun x => { x with outs := x.outs.map (fun o => if o.index = ix then f o else o) }) s

/-- An outstanding command. -/
def outAt (s : State) (q ix : Nat) : Option RmaOut := (queueAt s q).outs.find? (fun o => o.index = ix)

/-- A command counts as started (R364, R468). -/
def noteStart (q ix : Nat) (c : RmaCmd) (s : State) : State :=
  stepRead q (traceEvent 6 0x01 (q + ix * 2 ^ 16 + c.op * 2 ^ 32 + c.target % 2 ^ 14 * 2 ^ 40) (s.bump 0xC1400 1))

/-- Start a LOAD (R351). -/
def startLoad (q ix : Nat) (c : RmaCmd) (s : State) : State :=
  let done := rmaStatus true false false false 0
  match (if c.cache then cacheHit s c.target c.addr else none) with
  | some l =>
    finishEntry q ix c done (leAt l.data (c.addr % 64) 8) (touchLine l ((noteStart q ix c s).bump 0xC1408 1))
  | none =>
    if !roomFor s c 0 then s
    else
      let cached := c.cache && 0 < cacheLines s
      let s1 := (noteStart q ix c s).bump 0xC140C (b2n cached)
      let s2 := reserveFor c 0 (addOut q (RmaOut.start ix c 0 s.tb) s1)
      let addr := if cached then c.addr / 64 * 64 else c.addr
      sendRequest q c.target (requestBytes (rtypeOf c cached) 0 false q 0 addr 0 0 (floorOf (queueAt s2 q)) 0 0 []) s2

/-- Start a STORE or an atomic (R357, R358): an atomic takes the next sequence number and waits while it would lie 65,536
ahead of the floor. -/
def startWord (q ix : Nat) (c : RmaCmd) (s : State) : State :=
  let x := queueAt s q
  let atom := isAtomic c.op
  if !roomFor s c 0 || (atom && 65536 ≤ serialSub 32 x.seq (floorOf x)) then s
  else
    let seq := if atom then x.seq else 0
    let s1 := dropLines c.target c.addr 8 (noteStart q ix c s)
    let s2 := if atom then memWrite (entryAddr s q ix + 0x3C) (leBytes 4 seq)
        (modQueue q (fun x => { x with seq := (x.seq + 1) % 2 ^ 32 }) s1) else s1
    let s3 := reserveFor c 0 (addOut q (RmaOut.start ix c seq s.tb) s2)
    sendRequest q c.target (requestBytes (rtypeOf c false) 0 false q seq c.addr c.opnd c.cmp (floorOf (queueAt s3 q)) 0 0 []) s3

/-- The pieces of a copy: their offsets. -/
def piecesOf (c : RmaCmd) : List Nat := (List.range (ceilDiv c.len 3968)).map (3968 * ·)

/-- The next piece of a copy may be sent: fewer than 32 are in flight, its reply can be reserved, and the final WRITE of a
PUT with a counter waits until every other piece has been answered (R362: no addition after a failed piece). -/
def pieceReady (s : State) (o : RmaOut) (off : Nat) : Bool :=
  o.waiting.length < 32 && roomFor s o.cmd off &&
    !(o.cmd.op = 0x20 && o.cmd.ctr ≠ 0 && off + 3968 ≥ o.cmd.len && !o.waiting.isEmpty)

/-- A piece takes its place among those in flight. -/
def pieceOut (q ix off : Nat) (buf : Option (Nat × Nat)) (s : State) : State :=
  modOut q ix (fun o => { o with tick := s.tb, toSend := o.toSend.drop 1, waiting := o.waiting ++ [(off, buf)] }) s

/-- Send the next piece of a copy (R353). A PUT piece that reads uncorrectable fails with E_RMA_UNCORR and is not sent. -/
def sendPiece (q : Nat) (o : RmaOut) (off : Nat) (env : MemEnv) (s : State) : State :=
  let c := o.cmd
  let n := pieceLen c off
  let last := decide (c.len ≤ off + 3968)
  if c.op = 0x21 then
    let s1 := reserveFor c off (pieceOut q o.index off none s)
    sendRequest q c.target (requestBytes 0x21 0 false q 0 (c.addr + off) 0 0 (floorOf (queueAt s1 q)) n 0 []) s1
  else if badLine env (c.laddr + off) n then
    modOut q o.index (fun o => { o with toSend := o.toSend.drop 1, code := if o.code = 0 then 0x2E else o.code }) s
  else match alloc n unreserved [0x11, q, o.index, off] s with
    | (none, s1) => s1
    | (some buf, s1) =>
      let ctr := if last && o.code = 0 then c.ctr else 0
      let s2 := reserveFor c off (pieceOut q o.index off (some buf) s1)
      sendRequest q c.target (requestBytes 0x20 0 last q 0 (c.addr + off) (if last then c.opnd else 0) 0
        (floorOf (queueAt s2 q)) n ctr (memBytes s2.mem (c.laddr + off) n)) s2

/-- A copy with nothing left to send and nothing in flight completes (R353, R350): a GET's counter is added to only when
every piece has landed. -/
def endCopy (q : Nat) (o : RmaOut) (env : MemEnv) (s : State) : State :=
  if !o.toSend.isEmpty || !o.waiting.isEmpty then s
  else
    let c := o.cmd
    let add := c.op = 0x21 && c.ctr ≠ 0 && o.code = 0
    let code := if add && badLine env c.ctr 8 then 0x2E else o.code
    let s1 := if add && code = 0 then memWrite c.ctr (leBytes 8 (leNat (memBytes s.mem c.ctr 8) + c.opnd)) s else s
    finishEntry q o.index c (rmaStatus true (code ≠ 0) false false code) 0 s1

/-- Send the pieces of a copy that can be sent. -/
def pumpCopy : Nat → Nat → Nat → MemEnv → State → State
  | 0, _, _, _, s => s
  | n + 1, q, ix, env, s =>
    match outAt s q ix with
    | none => s
    | some o =>
      match o.toSend with
      | [] => endCopy q o env s
      | off :: _ =>
        if !pieceReady s o off then s
        else
          let s1 := sendPiece q o off env s
          if (outAt s1 q ix) = some o then s1 else pumpCopy n q ix env s1

/-- The copies of a queue go on (R353). -/
def pumpCopies (q op : Nat) (env : MemEnv) (s : State) : State :=
  ((queueAt s q).outs.filter (fun o => o.cmd.op = op)).foldl (fun s o => pumpCopy 300000 q o.index env s) s

/-- Start a PUT or GET (R353); a PUT removes the lines it touches from the cache, its counter's among them (R351). -/
def startCopy (q ix : Nat) (c : RmaCmd) (env : MemEnv) (s : State) : State :=
  let s1 := noteStart q ix c s
  let s2 := if c.op = 0x20 then dropLines c.target c.addr c.len (if c.ctr = 0 then s1 else dropLines c.target c.ctr 8 s1) else s1
  pumpCopy 300000 q ix env (addOut q { RmaOut.start ix c 0 s.tb with toSend := piecesOf c } s2)

/-- Read a WAIT's word (R354): it completes once the word is at least OPND. -/
def tryWait (q : Nat) (o : RmaOut) (env : MemEnv) (s : State) : State :=
  let w := leNat (memBytes s.mem o.cmd.laddr 8)
  if !badLine env o.cmd.laddr 8 && o.cmd.opnd ≤ w then finishEntry q o.index o.cmd (rmaStatus true false false false 0) w s else s

/-- Start a WAIT, an INVALIDATE or a FENCE. -/
def startLocal (q ix : Nat) (c : RmaCmd) (env : MemEnv) (s : State) : State :=
  let s1 := noteStart q ix c s
  if c.op = 0x31 then
    finishEntry q ix c (rmaStatus true false false false 0) 0 (if c.len = 0 then dropAll s1 else dropLines c.target c.addr c.len s1)
  else
    let o := RmaOut.start ix c 0 s.tb
    let s2 := addOut q o s1
    if c.op = 0x30 then tryWait q o env s2 else s2

/-- What the next command of a queue needs is at hand: a reply's reservation (R330), and of an atomic a sequence number in
R358's window. -/
def hasNeeds (s : State) (q : Nat) (c : RmaCmd) : Bool :=
  if c.op = 0x01 then (c.cache && (cacheHit s c.target c.addr).isSome) || roomFor s c 0
  else if isAtomic c.op then
    roomFor s c 0 && decide (serialSub 32 (queueAt s q).seq (floorOf (queueAt s q)) < 65536)
  else if c.op = 0x02 then roomFor s c 0
  else true

/-- The next command of a queue could start (R345 to R347): it has been read, no FENCE holds it back, fewer than 64 are
outstanding, and it is refused or has what it needs. -/
def canStart (s : State) (q : Nat) : Bool :=
  let c := cmdAt s q (queueAt s q).read
  hasNext s q && !fenceHolds s q && decide ((queueAt s q).outs.length < 64) && legalOp c.op &&
    (decide (cmdCode s c ≠ 0) || hasNeeds s q c)

/-- The queue whose turn it is (R347): the first in round-robin order that could start a command. -/
def turnOf (s : State) : Option Nat :=
  ((List.range 16).map (fun i => (s.rmaTurn + i) % 16)).find? (fun q => canStart s q)

/-- A line of the read cache that reads uncorrectable as the next LOAD of a queue is served from it is dropped, and the LOAD
fetches it again (R351). -/
def dropBadLine (q : Nat) (errs : Errs) (s : State) : State :=
  let c := cmdAt s q (queueAt s q).read
  if lostIn 2 errs && c.op = 0x01 && c.cache then
    { s with cache := s.cache.filter (fun l => !(l.chip = c.target && l.line = c.addr / 64)) }
  else s

/-- Start a command by its operation. -/
def startCommand (q ix : Nat) (c : RmaCmd) (env : MemEnv) (s : State) : State :=
  if c.op = 0x01 then startLoad q ix c s
  else if isCopy c.op then startCopy q ix c env s
  else if c.op = 0x02 || isAtomic c.op then startWord q ix c s
  else startLocal q ix c env s

/-- Start the next command of a queue when its OP is the row's and it is the queue's turn (R345 to R347). A refused command
is completed at once; a command waits while 64 are outstanding, a FENCE holds it back, or what it needs cannot be reserved.
The copies of the queue go on first (R353). -/
def rmaStart (op q : Nat) (env : MemEnv) (s0 : State) : State :=
  let e := withEnv env s0
  let s := if isCopy op then pumpCopies q op env e else e
  let ix := (queueAt s q).read
  let c := cmdAt s q ix
  if c.op ≠ op || turnOf s ≠ some q then settleQueue q s
  else
    let code := cmdCode s c
    let s1 := { s with rmaTurn := (q + 1) % 16 }
    settleQueue q (
      if code ≠ 0 then finishEntry q ix c (rmaStatus true true false false code) 0 (stepRead q s1) else startCommand q ix c env s1)

/-- RMA_LOAD with the words found in error in the read cache (R351). -/
def rmaLoad (q : Nat) (env : MemEnv) (errs : Errs) (s0 : State) : State :=
  let s := withEnv env (takeErrors errs s0)
  rmaStart 0x01 q ⟨[], env.bad⟩ (dropBadLine q errs s)

/-- RMA_LOAD. -/
def execRmaLoad (q : Nat) (env : MemEnv) (s : State) (errs : Errs := []) : Host.Outcome State Fault Refusal := .next (rmaLoad q env errs s)
/-- RMA_STORE. -/
def execRmaStore (q : Nat) (env : MemEnv) (s : State) : Host.Outcome State Fault Refusal := .next (rmaStart 0x02 q env s)
/-- RMA_SWAP. -/
def execRmaSwap (q : Nat) (env : MemEnv) (s : State) : Host.Outcome State Fault Refusal := .next (rmaStart 0x10 q env s)
/-- RMA_CAS. -/
def execRmaCas (q : Nat) (env : MemEnv) (s : State) : Host.Outcome State Fault Refusal := .next (rmaStart 0x11 q env s)
/-- RMA_ADD. -/
def execRmaAdd (q : Nat) (env : MemEnv) (s : State) : Host.Outcome State Fault Refusal := .next (rmaStart 0x12 q env s)
/-- RMA_AND. -/
def execRmaAnd (q : Nat) (env : MemEnv) (s : State) : Host.Outcome State Fault Refusal := .next (rmaStart 0x13 q env s)
/-- RMA_OR. -/
def execRmaOr (q : Nat) (env : MemEnv) (s : State) : Host.Outcome State Fault Refusal := .next (rmaStart 0x14 q env s)
/-- RMA_XOR. -/
def execRmaXor (q : Nat) (env : MemEnv) (s : State) : Host.Outcome State Fault Refusal := .next (rmaStart 0x15 q env s)
/-- RMA_UMAX. -/
def execRmaUmax (q : Nat) (env : MemEnv) (s : State) : Host.Outcome State Fault Refusal := .next (rmaStart 0x16 q env s)
/-- RMA_UMIN. -/
def execRmaUmin (q : Nat) (env : MemEnv) (s : State) : Host.Outcome State Fault Refusal := .next (rmaStart 0x17 q env s)
/-- RMA_SMAX. -/
def execRmaSmax (q : Nat) (env : MemEnv) (s : State) : Host.Outcome State Fault Refusal := .next (rmaStart 0x18 q env s)
/-- RMA_SMIN. -/
def execRmaSmin (q : Nat) (env : MemEnv) (s : State) : Host.Outcome State Fault Refusal := .next (rmaStart 0x19 q env s)
/-- RMA_PUT. -/
def execRmaPut (q : Nat) (env : MemEnv) (s : State) : Host.Outcome State Fault Refusal := .next (rmaStart 0x20 q env s)
/-- RMA_GET. -/
def execRmaGet (q : Nat) (env : MemEnv) (s : State) : Host.Outcome State Fault Refusal := .next (rmaStart 0x21 q env s)
/-- RMA_WAIT. -/
def execRmaWait (q : Nat) (env : MemEnv) (s : State) : Host.Outcome State Fault Refusal := .next (rmaStart 0x30 q env s)
/-- RMA_INVALIDATE. -/
def execRmaInvalidate (q : Nat) (env : MemEnv) (s : State) : Host.Outcome State Fault Refusal := .next (rmaStart 0x31 q env s)
/-- RMA_FENCE. -/
def execRmaFence (q : Nat) (env : MemEnv) (s : State) : Host.Outcome State Fault Refusal := .next (rmaStart 0x32 q env s)

/-! ### Replies and timers (R359, R362, R354, R358) -/

/-- Drop what a copy still holds: buffers, reply reservations and requests for buffers. -/
def dropPieces (q : Nat) (o : RmaOut) (s : State) : State :=
  o.waiting.foldl (fun s p => releaseFor o.cmd p.1 (releaseOpt p.2 s)) (cancelRequests (fun k => k.take 3 = [0x11, q, o.index]) s)

/-- Drop what any outstanding command still holds. -/
def dropHeld (q : Nat) (o : RmaOut) (s : State) : State :=
  if isCopy o.cmd.op then dropPieces q o s
  else if o.cmd.op = 0x30 || o.cmd.op = 0x32 then s
  else releaseFor o.cmd 0 s

/-- Fields of a reply (R355). -/
def repOutcome (b : Bytes) : Nat := leAt b 1 1
def repCode (b : Bytes) : Nat := leAt b 2 1
def repValue (b : Bytes) : Nat := leAt b 8 8

/-- The code with which a reply ends a command or piece: zero for DONE and for DUPLICATE of DONE. -/
def replyCode (b : Bytes) : Nat := if repOutcome b = 0 then 0 else repCode b

/-- A reply to a piece of a copy (R353): a GET's data is written to LADDR. -/
def copyReply (q : Nat) (o : RmaOut) (off : Nat) (b : Bytes) (env : MemEnv) (s : State) : State :=
  let p := (o.waiting.find? (fun p => p.1 = off)).bind (·.2)
  let code := replyCode b
  let s1 := releaseFor o.cmd off (releaseOpt p s)
  let s2 := if o.cmd.op = 0x21 && code = 0 then memWrite (o.cmd.laddr + off) (bytesAt b 16 (pieceLen o.cmd off)) s1 else s1
  pumpCopy 300000 q o.index env (modOut q o.index (fun o =>
    { o with waiting := o.waiting.filter (fun p => p.1 ≠ off), code := if o.code = 0 then code else o.code }) s2)

/-- A reply to a LOAD, STORE or atomic (R362, R351). -/
def wordReply (q : Nat) (o : RmaOut) (b : Bytes) (s : State) : State :=
  let c := o.cmd
  let code := replyCode b
  let line := leAt b 0 1 = 2
  let fill := line && code = 0 && !o.noFill
  let s1 := releaseFor c 0 s
  let s2 := if fill then fillLine ⟨c.target, c.addr / 64, bytesAt b 16 64⟩ s1 else s1
  let value := if line then leAt b (16 + c.addr % 64) 8 else if c.op = 0x02 then 0 else repValue b
  finishEntry q o.index c (rmaStatus true (code ≠ 0) false (1 < o.sends) code) (if code = 0 then value else 0) s2

/-- A reply answers an outstanding command: its target, RTYPE and, of an atomic, its sequence number; a STALE reply answers
none (R359). -/
def answers (src piece : Nat) (b : Bytes) (o : RmaOut) : Bool :=
  o.cmd.op < 0x30 && o.cmd.target = src && repOutcome b ≠ 3 &&
    (leAt b 0 1 = rtypeOf o.cmd false || (leAt b 0 1 = 2 && o.cmd.op = 0x01 && o.cmd.cache)) &&
    (!isAtomic o.cmd.op || leAt b 4 4 = o.seq) && (!isCopy o.cmd.op || o.waiting.any (fun p => p.1 = piece))

/-- REMOTE_REPLY (R359, R362): a reply that answers no outstanding command is discarded and counted; a BUSY one leaves the
atomic outstanding. -/
def remoteReply (src q ix piece : Nat) (b : Bytes) (env : MemEnv) (s0 : State) : State :=
  let s := withEnv env s0
  match outAt s q ix with
  | none => s.bump 0xC1414 1
  | some o =>
    if !answers src piece b o then s.bump 0xC1414 1
    else if repOutcome b = 5 then s
    else settleQueue q (if isCopy o.cmd.op then copyReply q o piece b env s else wordReply q o b s)

/-- REMOTE_REPLY. -/
def execRemoteReply (src q index piece : Nat) (msg : Bytes) (env : MemEnv) (s : State) : Host.Outcome State Fault Refusal :=
  .next (remoteReply src q index piece msg env s)

/-- FEP_RMA_TIMEOUT. -/
def rmaTimeout (s : State) : Nat := s.field 0xC1004 23 0

/-- ATOMIC_TIMEOUT (R359, R362): the atomic is sent again; at the fourth timeout it becomes provisionally UNKNOWN. -/
def atomicTimeout (q ix : Nat) (s : State) : State :=
  match outAt s q ix with
  | none => s
  | some o =>
    if !isAtomic o.cmd.op || s.tb < o.tick + rmaTimeout s then s
    else
      let c := o.cmd
      let s1 := if o.sends = 4 then modOut q ix (fun o => { o with unknown := true })
          (writeStatus q ix c (rmaStatus false false true false 0x5C) 0 s) else s
      let s2 := (modOut q ix (fun o => { o with sends := o.sends + 1, tick := s.tb }) s1).bump 0xC1410 1
      sendRequest q c.target (requestBytes (rtypeOf c false) (min 3 o.sends) false q o.seq c.addr c.opnd c.cmp
        (floorOf (queueAt s2 q)) 0 0 []) s2

/-- ATOMIC_TIMEOUT. -/
def execAtomicTimeout (q index : Nat) (s : State) : Host.Outcome State Fault Refusal := .next (atomicTimeout q index s)

/-- COMMAND_TIMEOUT (R362): every other command that waits for an answer, and WAIT. -/
def commandTimeout (q ix : Nat) (s : State) : State :=
  match outAt s q ix with
  | none => s
  | some o =>
    if isAtomic o.cmd.op || o.cmd.op = 0x32 || s.tb < o.tick + rmaTimeout s then s
    else settleQueue q (finishEntry q ix o.cmd
      (rmaStatus true true (o.cmd.op = 0x02 || isCopy o.cmd.op) false 0x5B) 0 (dropHeld q o s))

/-- COMMAND_TIMEOUT. -/
def execCommandTimeout (q index : Nat) (s : State) : Host.Outcome State Fault Refusal := .next (commandTimeout q index s)

/-- WAIT_POLL (R354): the word is read again every FEP_RMA_POLL ticks. -/
def waitPoll (q ix : Nat) (env : MemEnv) (s0 : State) : State :=
  let s := withEnv env s0
  match outAt s q ix with
  | none => s
  | some o =>
    if o.cmd.op ≠ 0x30 || s.tb < o.tick + o.sends * s.field 0xC100C 15 0 then s
    else settleQueue q (tryWait q o env (modOut q ix (fun o => { o with sends := o.sends + 1 }) s))

/-- WAIT_POLL. -/
def execWaitPoll (q index : Nat) (env : MemEnv) (s : State) : Host.Outcome State Fault Refusal := .next (waitPoll q index env s)

/-- RELEASE_TIMER (R358). -/
def releaseTimer (q target : Nat) (s : State) : State :=
  let x := queueAt s q
  match x.lastSent.find? (fun e => e.1 = target), x.floorSent.find? (fun e => e.1 = target) with
  | some l, some f =>
    if s.tb < l.2 + 2000 || f.2 = floorOf x || fenced s target then s
    else sendRequest q target (requestBytes 0x22 0 false q 0 0 0 0 (floorOf x) 0 0 []) s
  | _, _ => s

/-- RELEASE_TIMER. -/
def execReleaseTimer (q target : Nat) (s : State) : Host.Outcome State Fault Refusal := .next (releaseTimer q target s)

/-- The commands outstanding to a fenced chip end (R361, R362). -/
def endCommandsTo (f : Nat) (s : State) : State :=
  (List.range 16).foldl (fun s q =>
    settleQueue q (((queueAt s q).outs.filter (fun o => o.cmd.hasTarget && o.cmd.target = f)).foldl (fun s o =>
      finishEntry q o.index o.cmd (rmaStatus true true (o.cmd.op ≠ 0x01) false 0x59) 0 (dropHeld q o s)) s)) s

/-- A fence at the target (R361): the chip's entries are freed and its requesters' floors reset. -/
def forgetRequesters (f : Nat) (s : State) : State :=
  { s with dedup := { s.dedup with entries := s.dedup.entries.filter (fun e => e.requester / 16 ≠ f)
                                   floors := s.dedup.floors.filter (fun x => x.1 / 16 ≠ f) } }

/-! ### The target (R348, R349, R353, R356 to R360) -/

/-- A window permits an access of n bytes: attribute bit 1 READ, 2 WRITE, 3 ATOMIC (R348). -/
def permitted (s : State) (addr n attr : Nat) : Bool :=
  (List.range 4).any (fun w =>
    let b := 0xC1300 + 0x20 * w
    s.field (b + 0x10) 0 0 = 1 && s.field (b + 0x10) attr attr = 1 && s.addr64 b (b + 4) ≤ addr && addr + n ≤ s.addr64 (b + 8) (b + 0xC))

/-- Fields of a request (R355). -/
def reqAttempt (m : Bytes) : Nat := bits (leAt m 1 1) 1 0
def reqLast (m : Bytes) : Bool := bit (leAt m 1 1) 2
def reqQueue (m : Bytes) : Nat := bits (leAt m 2 1) 3 0
def reqSeq (m : Bytes) : Nat := leAt m 4 4
def reqAddr (m : Bytes) : Nat := leAt m 8 8
def reqOpnd (m : Bytes) : Nat := leAt m 0x10 8
def reqCmp (m : Bytes) : Nat := leAt m 0x18 8
def reqFloor (m : Bytes) : Nat := leAt m 0x20 4
def reqLen (m : Bytes) : Nat := leAt m 0x24 4
def reqCtr (m : Bytes) : Nat := leAt m 0x28 8

/-- Answer a request (R355), with the counters of R364. -/
def answer (src : Nat) (m : Bytes) (outcome code value : Nat) (data : Bytes) (s : State) : State :=
  let s1 := ((s.bump 0xC1404 (b2n (outcome = 0))).bump 0xC1418 (b2n (outcome = 6))).bump 0xC141C (b2n (outcome = 1))
  let s2 := s1.bump 0xC1420 (b2n (outcome = 2 || outcome = 5))
  post ⟨src, 2, 0x09, s2.stepNum, leBytes 1 (leAt m 0 1) ++ leBytes 1 outcome ++ leBytes 1 code ++ leBytes 1 0 ++
    leBytes 4 (reqSeq m) ++ leBytes 8 value ++ data, .none, 0, none⟩ s2

/-- Answer DENIED and FAILED. -/
def denied (src : Nat) (m : Bytes) (s : State) : State := answer src m 6 0x5A 0 [] s
def failed (src : Nat) (m : Bytes) (s : State) : State := answer src m 4 0x2E 0 [] s

/-- The floor of a requester. -/
def floorAt (s : State) (r : Nat) : Nat := storeGet 0 r s.dedup.floors

/-- Step 1 of R357: a floor ahead of the stored one is taken, and the entries behind it are freed. -/
def takeFloor (r floor : Nat) (s : State) : State :=
  let d := serialSub 32 floor (floorAt s r)
  if d = 0 || 2 ^ 31 ≤ d then s
  else { s with dedup := { s.dedup with
    floors := storeSet 0 r floor s.dedup.floors
    entries := s.dedup.entries.filter (fun e => !(e.requester = r && 2 ^ 31 ≤ serialSub 32 e.seq floor)) } }

/-- Every request carries the floor, which every target takes first (R358). -/
def withFloor (src : Nat) (m : Bytes) (s : State) : State := takeFloor (requesterOf src (reqQueue m)) (reqFloor m) s

/-- REQ_LOAD (R348, R349). -/
def reqLoad (src : Nat) (m : Bytes) (env : MemEnv) (s0 : State) : State :=
  let s := withFloor src m (withEnv env s0)
  if !permitted s (reqAddr m) 8 1 then denied src m s
  else if badLine env (reqAddr m) 8 then failed src m s
  else answer src m 0 0 (leNat (memBytes s.mem (reqAddr m) 8)) [] s

/-- REQ_LOAD. -/
def execReqLoad (src : Nat) (msg : Bytes) (env : MemEnv) (s : State) : Host.Outcome State Fault Refusal := .next (reqLoad src msg env s)

/-- REQ_LOAD_LINE (R351). -/
def reqLoadLine (src : Nat) (m : Bytes) (env : MemEnv) (s0 : State) : State :=
  let s := withFloor src m (withEnv env s0)
  if !permitted s (reqAddr m) 64 1 then denied src m s
  else if badLine env (reqAddr m) 64 then failed src m s
  else answer src m 0 0 0 (memBytes s.mem (reqAddr m) 64) s

/-- REQ_LOAD_LINE. -/
def execReqLoadLine (src : Nat) (msg : Bytes) (env : MemEnv) (s : State) : Host.Outcome State Fault Refusal :=
  .next (reqLoadLine src msg env s)

/-- REQ_STORE (R349). -/
def reqStore (src : Nat) (m : Bytes) (env : MemEnv) (s0 : State) : State :=
  let s := withFloor src m (withEnv env s0)
  if !permitted s (reqAddr m) 8 2 then denied src m s
  else answer src m 0 0 0 [] (memWrite (reqAddr m) (leBytes 8 (reqOpnd m)) s)

/-- REQ_STORE. -/
def execReqStore (src : Nat) (msg : Bytes) (env : MemEnv) (s : State) : Host.Outcome State Fault Refusal := .next (reqStore src msg env s)

/-- A word read as a two's complement number, shifted to keep its order among unsigned numbers. -/
def signedKey (w : Nat) : Nat := (w + 2 ^ 63) % 2 ^ 64

/-- The word an atomic leaves (R345). -/
def atomicWord (op w opnd cmp : Nat) : Nat :=
  match op with
  | 0x10 => opnd
  | 0x11 => if w = cmp then opnd else w
  | 0x12 => (w + opnd) % 2 ^ 64
  | 0x13 => w &&& opnd
  | 0x14 => w ||| opnd
  | 0x15 => w ^^^ opnd
  | 0x16 => max w opnd
  | 0x17 => min w opnd
  | 0x18 => if signedKey w < signedKey opnd then opnd else w
  | _ => if signedKey opnd < signedKey w then opnd else w

/-- Dedup entries a table holds at most (R356). -/
def dedupSize : Nat := 65536

/-- Step 4 of R357: the outcome, code and value, and the state with the word written. -/
def performAtomic (m : Bytes) (env : MemEnv) (s : State) : (Nat × Nat × Nat) × State :=
  let a := reqAddr m
  if !permitted s a 8 3 then ((6, 0x5A, 0), s)
  else if badLine env a 8 then ((4, 0x2E, 0), s)
  else
    let w := leNat (memBytes s.mem a 8)
    ((0, 0, w), memWrite a (leBytes 8 (atomicWord (leAt m 0 1) w (reqOpnd m) (reqCmp m))) s)

/-- Record an entry, and FEP_DEDUP_PEAK. -/
def addEntry (e : DedupEntry) (s : State) : State :=
  let es := s.dedup.entries ++ [e]
  let s1 := { s with dedup := { s.dedup with entries := es } }
  s1.setField 0xC1014 16 0 (max es.length (s.field 0xC1014 16 0))

/-- REQ_ATOMIC (R357, R360): the steps in order. An entry or a floor of which one copy reads uncorrectable is read from the other
copy, and the failed copy is written again with it (R356): nothing but the count of the error remains. `lost` tells that
both copies of one read uncorrectable. -/
def reqAtomic (src : Nat) (m : Bytes) (env : MemEnv) (lost : Bool) (errs : Errs) (s0 : State) : State :=
  let e := withEnv env (takeErrors errs s0)
  let t := if lost && !e.dedup.lost then countFault uFep 0x2F { e with dedup := { e.dedup with lost := true } } else e
  if t.dedup.lost then answer src m 4 0x2F 0 [] t
  else
    let r := requesterOf src (reqQueue m)
    let s := withFloor src m t
    if 65536 ≤ serialSub 32 (reqSeq m) (floorAt s r) then answer src m 3 0 0 [] s
    else match s.dedup.entries.find? (fun e => e.requester = r && e.seq = reqSeq m) with
      | some e => answer src m 1 e.code e.value [] s
      | none =>
        if s.dedup.entries.length < dedupSize then
          let p := performAtomic m env s
          answer src m p.1.1 p.1.2.1 p.1.2.2 [] (addEntry ⟨r, reqSeq m, p.1.1, p.1.2.1, p.1.2.2⟩ p.2)
        else if reqAttempt m = 0 then answer src m 2 0x5D 0 [] s
        else answer src m 5 0 0 [] s

/-- REQ_ATOMIC. -/
def execReqAtomic (src : Nat) (msg : Bytes) (env : MemEnv) (lost : Bool) (s : State) (errs : Errs := []) :
    Host.Outcome State Fault Refusal :=
  .next (reqAtomic src msg env lost errs s)

/-- REQ_WRITE (R353, R350): the piece is written, and with LAST the counter is added to. -/
def reqWrite (src : Nat) (m : Bytes) (env : MemEnv) (s0 : State) : State :=
  let s := withFloor src m (withEnv env s0)
  let n := reqLen m
  let add := reqLast m && reqCtr m ≠ 0
  if !permitted s (reqAddr m) n 2 || (add && !permitted s (reqCtr m) 8 3) then denied src m s
  else
    let s1 := memWrite (reqAddr m) (bytesAt m 0x30 n) s
    if !add then answer src m 0 0 0 [] s1
    else if badLine env (reqCtr m) 8 then failed src m s1
    else answer src m 0 0 0 [] (memWrite (reqCtr m) (leBytes 8 (leNat (memBytes s1.mem (reqCtr m) 8) + reqOpnd m)) s1)

/-- REQ_WRITE. -/
def execReqWrite (src : Nat) (msg : Bytes) (env : MemEnv) (s : State) : Host.Outcome State Fault Refusal := .next (reqWrite src msg env s)

/-- REQ_READ (R353). -/
def reqRead (src : Nat) (m : Bytes) (env : MemEnv) (s0 : State) : State :=
  let s := withFloor src m (withEnv env s0)
  if !permitted s (reqAddr m) (reqLen m) 1 then denied src m s
  else if badLine env (reqAddr m) (reqLen m) then failed src m s
  else answer src m 0 0 0 (memBytes s.mem (reqAddr m) (reqLen m)) s

/-- REQ_READ. -/
def execReqRead (src : Nat) (msg : Bytes) (env : MemEnv) (s : State) : Host.Outcome State Fault Refusal := .next (reqRead src msg env s)

/-- REQ_RELEASE (R358): it acts only through step 1 of R357. -/
def execReqRelease (src : Nat) (msg : Bytes) (s : State) : Host.Outcome State Fault Refusal := .next (withFloor src msg s)

end Sys2Proof.Machine
end

