-- ==== Sys2Proof/Machine/Fence.lean ====
section
/-! DEFINITION. What a fence does on a chip (R4, R263, R267, R305, R361, R420, R423, R424). -/
namespace Sys2Proof.Machine
open Sys2Proof

/-! ### Notices -/

/-- The payload of a FENCE notice (R430). -/
def fencePayload (s : State) (chip cause : Nat) : Bytes := mgmtHeader 0x03 0 (chipId s) 0 (chip + cause * 2 ^ 16) 0

/-- The FENCE notice of R433, with the trace event. -/
def noteFence (chip cause : Nat) (s : State) : State :=
  notice 0x08 0 0 (chip + cause * 2 ^ 16) (traceEvent 5 0x05 (chip + cause * 2 ^ 16) s)

/-! ### Traffic (R4, R263) -/

/-- Messages on forwarded groups' and VC3's channels: a record that is freed counts in REG_FENCED; an own group is counted by
its loans. -/
def countedLc (lc : Nat) : Bool := 5 ≤ lc && lc ≤ 7

/-- What a message that will never be delivered leaves behind: its buffer is released and a quarantine notice is no longer
waited for (R238), but a report counts as delivered only when it was (R174). -/
def endTie (t : Tie) (s : State) : State :=
  match t with
  | .report .. => s
  | t => settle t s

/-- Take messages out of the endpoint's queue, with what their senders hold for them. -/
def dropWaiting (p : Message → Bool) (s : State) : State :=
  let gone := s.fep.waiting.filter p
  let s1 := { s with fep := { s.fep with waiting := s.fep.waiting.filter (fun m => !p m) } }
  gone.foldl (fun s (m : Message) => endTie m.tie s) (s1.bump 0x80038 (gone.filter (fun (m : Message) => countedLc m.lc)).length)

/-- The flows to and from a fenced chip end: nothing more is delivered to it but the notice of its fence (R4, R424). The units it held by grant meet the requests that wait (R329). -/
def dropFlows (f : Nat) (s : State) : State :=
  let mine := s.fep.tx.filter (fun x => x.dst = f && x.lc ≠ 0xC)
  let given := sumNat ((s.fep.given.filter (fun g => g.1.1 = f)).map (·.2))
  let tx := s.fep.tx.filter (fun (x : TxFlow) => !(x.dst = f && x.lc ≠ 0xC))
  let rx := s.fep.rx.filter (fun (x : RxFlow) => x.src ≠ f)
  let givens := s.fep.given.filter (fun g => g.1.1 ≠ f)
  let wanted := s.fep.wanted.filter (fun g => g.1.1 ≠ f)
  let ports := s.ports.map (fun (q : Port) => { q with packets := q.packets.filter (fun x => !(pktDst x.2 = f && x.1 ≠ 0xC)) })
  let landed := s.fep.landed.filter (fun (x : Landed) => x.src ≠ f)
  let fep := { s.fep with tx := tx, rx := rx, landed := landed, given := givens, wanted := wanted, dynFree := s.fep.dynFree + given }
  let s1 := { s with fep := fep, ports := ports }
  (mine.flatMap (fun (x : TxFlow) => x.ties)).foldl (fun s t => endTie t.2.2 s)
    ((reserveGrants s1).bump 0x80038 (sumNat ((mine.filter (fun (x : TxFlow) => countedLc x.lc)).map (fun (x : TxFlow) => x.ties.length))))

/-- The notice of a fence (R430). -/
def fenceMessage (m : Message) : Bool := m.lc = 0xC && leAt m.payload 0 1 = 3

/-- A message's route ends at a fenced chip or passes it (R263), unless it takes the notice of its fence there: its next hop, the DEST of a group, or the ORIGIN of an output or
notice. DEDUCED (log entry 43): a record of which packets have been cut keeps their PSNs, and the relay that receives it
discards it. -/
def throughChip (f : Nat) (m : Message) : Bool :=
  (m.dst = f && !fenceMessage m) || (m.off = 0 && ((m.kind = 1 && rwDest (leAt m.payload 8 8) = f) || (m.kind = 2 && tagOrigin (leAt m.payload 0 8) = f)))

/-- Rows that FEED holds for a fenced origin are discarded (R263). -/
def dropRows (f : Nat) (s : State) : State :=
  let gone := (s.feeds.flatMap (·.rows)).filter (fun r => tagOrigin r.tag.toNat = f)
  let feeds := s.feeds.map (fun (x : Feed) => { x with rows := x.rows.filter (fun r => tagOrigin r.tag.toNat ≠ f) })
  gone.foldl (fun s r => release r.pool r.ptr s) (({ s with feeds := feeds }).bump 0x80038 gone.length)

/-! ### Loans and orphans (R263, R267) -/

/-- Every OUT entry whose route the fenced chip breaks becomes LOST. -/
def loseLoans (f : Nat) (s : State) : State :=
  (s.halves.filterMap (·.loans)).foldl (fun s t =>
    (t.entries.filter (fun e => e.2.state == .out && (routeChips s e.2.dest).contains f)).foldl (fun s e =>
      (loseLoan t.layer t.half (e.1 / t.k) (e.1 % t.k) e.2 s).bump 0x80038 1) s) s

/-- Orphans whose route the fenced chip breaks are freed; a table without an OUT entry is released. -/
def loseOrphans (f : Nat) (s : State) : State :=
  s.orphans.foldl (fun s t =>
    let gone := t.entries.filter (fun e => e.2.state == .out && (routeChips s e.2.dest).contains f)
    if gone.isEmpty then s
    else
      let t1 := { t with entries := t.entries.filter (fun e => !gone.contains e) }
      let s1 := (gone.foldl (fun s e => release e.2.pool e.2.ptr s) s).bump 0x80038 gone.length
      if t1.hasOut then { s1 with orphans := s1.orphans.map (fun x => if x == t then t1 else x) }
      else freeAll t.bufs { s1 with orphans := s1.orphans.erase t }) s

/-! ### Rounds and broadcasts -/

/-- The fenced chip is a member of an open tally close or trip agreement (R184, R423). A close that opens later finds its member
fenced when this chip comes to contribute to it. -/
def inOpenTally (f : Nat) (s : State) : Bool :=
  s.rounds.any (fun r => r.key.group = 0xFFFF && (r.key.tag % 16 = kTallyClose || r.key.tag % 16 = kTrip) &&
    r.key.step = s.stepNum % 2 ^ 48 && !r.taken && (r.members.contains f || (r.own.isNone && (stepMembers s).contains f)))

/-- A fenced collector's broadcasts are sent again (R420): those this chip originated to its rack's new collector, those it
has passed on to every member of the fenced collector's rack. -/
def sendBroadcastsAgain (f : Nat) (s : State) : State :=
  let me := chipId s
  let mine := collectorOf s (unfenced s) (rackOf me) = some me
  if rackOf f = rackOf me then
    match collectorOf s (unfenced s) (rackOf me) with
    | some c => (s.broadcasts.filter (·.origin)).foldl (fun s b =>
        if c = me then bcastFan b.kind b.payload me s else post ⟨c, bcastLc b.kind, b.kind, s.stepNum, b.payload, .none, 0, none⟩ s) s
    | none => s
  else if mine then
    s.broadcasts.foldl (fun s b => postAll ((unfenced s).filter (fun c => rackOf c = rackOf f)) (bcastLc b.kind) b.kind b.payload s) s
  else s

/-- A cadastre fetch that waits for the fenced chip goes to the next peer (R220). -/
def refetchElsewhere (f : Nat) (s : State) : State :=
  (s.cadRefetch.filter (fun r => r.peer = f)).foldl (fun s r =>
    askEntry r.entry (r.left.filter (fun c => !fenced s c)) r.tick (endRequest f r.id s))
    { s with cadRefetch := s.cadRefetch.filter (fun r => r.peer ≠ f) }

/-- The probes of a peer end, and the replies reserved for them are released (R330). -/
def endProbes (f : Nat) (s : State) : State :=
  (s.probes.filter (fun p => p.peer = f)).foldl (fun s p => endRequest f p.id s)
    { s with probes := s.probes.filter (fun p => p.peer ≠ f) }

/-! ### Applying a fence -/

/-- What a fence does to the running step (R184, R263, R264, R300, R423): loans become LOST, then the codes in ascending
order. -/
def fenceStep (f : Nat) (open_ : Bool) (s : State) : State :=
  if !stepLive s then s
  else
    let s1 := loseMember (dropRows f (loseLoans f s))
    let s2 := if open_ then raiseAborts uTally 0x45 s1 else s1
    runFeed (collsFence f s2)

/-- A chip applies a fence of another chip (R423). -/
def applyFence (f cause : Nat) (s : State) : State :=
  if fenced s f then s
  else
    let wasCollector := collectorOf s (unfenced s) (rackOf f) = some f
    let open_ := inOpenTally f s
    let s1 := refetchElsewhere f (endProbes f { s with fences := insertSorted f s.fences })
    let s2 := dropFlows f (dropWaiting (throughChip f) s1)
    let s3 := noteFence f cause (forgetRequesters f (endCommandsTo f s2))
    let s4 := roundsFence f (fenceStep f open_ (loseOrphans f s3))
    if wasCollector then sendBroadcastsAgain f s4 else s4

/-- The chip itself becomes fenced (R424): SELF is set, nothing more is sent on VC0 to VC5, the running step aborts with a
code, and the chip takes part in no datum. -/
def selfFence (cause unit code : Nat) (s : State) : State :=
  if s.fenceSelf then s
  else
    let me := chipId s
    let s1 := noteFence me cause { s with
      fenceSelf := true, fences := insertSorted me s.fences, dat := { Dat.idle with refusal := s.dat.refusal } }
    let s2 := dropWaiting (fun m => m.lc ≤ 0xA) s1
    if stepLive s2 then raiseAborts unit code s2 else s2

end Sys2Proof.Machine
end

