-- ==== Sys2Proof/Machine/Datum.lean ====
section
/-! DEFINITION. The datum (R65, R226 to R228, R369 to R373), the start of a step (R372, R381, R467), the verdict (R269), the
step record (R376) and the replay log (R384 to R388). -/
namespace Sys2Proof.Machine
open Sys2Proof

/-! ### Fingerprints -/

/-- The first 64 bits of a digest as a number (R474). -/
def digest64 (d : Bytes) : Nat := leNat (d.take 8)

/-- SDE_SIG0 to SDE_SIG2 (R378). -/
def sig0 (s : State) : Nat := Config.stepping * 2 ^ 24 + s.fuses.grade.toNat * 2 ^ 16 + s.sfuVersion
def sig1 (s : State) : Nat := (s.ldr.active.map (·.compiler)).getD 0
def sig2 (s : State) : Nat := (s.ldr.active.map (·.contract)).getD 0

/-- The three signature words and 4 zero bytes (R384, R387). -/
def sigBytes (s : State) : Bytes := leBytes 4 (sig0 s) ++ leBytes 4 (sig1 s) ++ leBytes 4 (sig2 s) ++ leBytes 4 0

/-- The 2,048-byte fence bitmap: bit c for chip c (R370). -/
def bitmapBytes (fs : List Nat) : Bytes :=
  (List.range 2048).map (fun i => BitVec.ofNat 8 (sumNat ((List.range 8).map (fun b => b2n (fs.contains (8 * i + b)) * 2 ^ b))))

/-- The plat that is armed, and the plat the chip would run (R64). -/
def armedPlat (s : State) : Option Plat := if s.ldr.stage == .armed then s.ldr.staged else none
def platToRun (s : State) : Option Plat := (armedPlat s).orElse (fun _ => s.ldr.active)

/-- PLAT_FP, LIST_FP and STATE_FP (R370). -/
def platFp (s : State) : Nat := ((platToRun s).map (fun p => digest64 p.hash)).getD 0
def listFp (s : State) : Nat := if s.lst.stage == .armed then digest64 s.lst.digest else 0
def stateFp (s : State) : Nat :=
  digest64 (sha384 (leBytes 8 (nextStep s) ++ leBytes 4 (sig0 s - s.fuses.grade.toNat * 2 ^ 16) ++
    leBytes 4 (s.word 0x8010).toNat ++ leBytes 4 (s.step_ 0x41000 0 0) ++ leBytes 4 (s.step_ 0x81000 0 0) ++
    leBytes 4 (s.step_ 0x250 1 0) ++ bitmapBytes s.fences))

/-- A fingerprint and its complement. -/
def fpLanes (x : Nat) : Bytes := leBytes 8 x ++ leBytes 8 (2 ^ 64 - 1 - x)

/-- The agreement contribution (R370). -/
def agreementBytes (s : State) : Bytes :=
  fpLanes (platFp s) ++ fpLanes (listFp s) ++ fpLanes (stateFp s) ++ leBytes 8 s.dat.refuse ++ leBytes 8 0

/-! ### GO and action 1 -/

/-- Change the datum. -/
def modDat (f : Dat → Dat) (s : State) : State := { s with dat := f s.dat }

/-- GO (R369, R453). -/
def doGo (s : State) : State :=
  if s.boot.stage == .ready || s.boot.stage == .running then modDat (fun d => { d with go := true }) s else record uSde 0x03 s

/-- GO. -/
def execGo (priv : Bool) (s : State) : Host.Outcome State Fault Refusal := .next (privGate uSde priv doGo s)

/-- The RW fields whose effect is at the next step are latched, the next-step RO fields of TALLY are brought up to date, and
SCORE_ANCHOR is reset (R18, R65, R127, R189). -/
def latchFields (s : State) : State :=
  let s1 := ((s.setWord 0x41020 (storeGet 0 0x41020 s.latched)).setWord 0x41024 (storeGet 0 0x41024 s.latched)).setWord 0x30034 0
  { s1 with latched := latchedRegs.foldl (fun l a => storeSet (resetWord a) a (s1.word a) l) s1.latched }

/-- The quarantine notices that wait for this datum, or for one before it, take effect (R238): the slots become QUARANTINED and
the runtime is told. -/
def applyQuarantines (s : State) : State :=
  (s.quarPending.filter (fun q => q.step ≤ nextStep s)).foldl (fun s q => applyQuarantine q s)
    { s with quarPending := s.quarPending.filter (fun q => nextStep s < q.step) }

/-- Pending unfences clear their bits (R425); the flows to and from a chip that returns start again at PSN 0 (R322), and a
fallback sender that has its own relay again releases its grant (R328). -/
def applyUnfences (s : State) : State :=
  let back := s.unfences
  let tx := s.fep.tx.filter (fun (x : TxFlow) => !back.contains x.dst)
  let rx := s.fep.rx.filter (fun (x : RxFlow) => !back.contains x.src)
  let s1 := { s with fences := s.fences.filter (fun c => !back.contains c), unfences := [], fep := { s.fep with tx := tx, rx := rx } }
  tx.foldl (fun s f => releaseFallback f.dst f.lc s) s1

/-- Action 1 of R65. -/
def actionOne (s : State) : State := applyUnfences (applyQuarantines (latchFields (applyPending s)))

/-! ### Action 2 and the agreement contribution -/

/-- The INIT values of a plat, for the sets it names (R57). -/
def initValues (p : Plat) : List (Nat × Word32) :=
  match p.init with
  | none => []
  | some i => i.values.filter (fun v => bit i.mask (setOf v.1))

/-- The codes of the checks of an armed plat in action 2 that need no read (R65). -/
def platCodes (s : State) (p : Plat) : List Nat :=
  let v := fun a => (((initValues p).find? (fun x => x.1 = a)).map (·.2)).getD (liveWord s a)
  let mask := (p.init.map (·.mask)).getD 0
  let za3 := decide (p.format = 2)
  let setsOk := (List.range 5).all (fun n => n = 0 || !bit mask n || setRule n (fun a => (v a).toNat) (traceLen p.partition) za3)
  (if p.requireStrict && !strictLive s then [0x0E] else []) ++
    (if !setsOk || (za3 && s.live 0x6000C 31 31 = 1) then [0x01] else [])

/-- The refusal codes of the chip itself (R42, R66, R266, R388). -/
def chipCodes (s : State) : List Nat :=
  (if s.raiseDue then [0x17] else []) ++ (if 2 ^ 56 ≤ nextStep s || s.tbExhausted then [0x16] else []) ++
    (if (platToRun s).isNone then [0x0C] else []) ++ (if s.rlog.fault && s.step_ 0x250 1 0 ≠ 0 then [0x69] else [])

/-- A failed check of the armed plat is raised in PLAT_ERR_STATUS and noticed; the numerically highest is kept (R64, R370). -/
def refuseWith (codes : List Nat) (s : State) : State :=
  codes.foldl (fun s c => modDat (fun d => { d with refuse := max d.refuse c }) (platEvent c (record uPlat c s))) s

/-- The checks of action 2 begin for an armed plat that has not been checked. -/
def beginCheck (s : State) : State :=
  match armedPlat s with
  | none => modDat (fun d => { d with checking := none, checked := none, refuse := 0 }) s
  | some p =>
    if s.dat.checking = some p.hash || s.dat.checked = some p.hash then s
    else refuseWith (platCodes s p) (modDat (fun d => { d with checking := some p.hash, checked := none, refuse := 0 }) s)

/-- The key of a datum's rounds (R303): those of the step that the datum would start. -/
def datumKey (s : State) (kind : Nat) : RoundKey := { internalKey s kind 0 0 with step := nextStep s % 2 ^ 48 }

/-- Forget the rounds of the datum. -/
def dropDatumRounds (s : State) : State :=
  { s with rounds := s.rounds.filter (fun r => !(r.key == datumKey s kAgreement || r.key == datumKey s kStart)) }

/-- The chip contributes to the agreement round when every condition of R369 holds. -/
def tryAgreement (s : State) : State :=
  let ready := match armedPlat s with
    | some p => s.dat.checked = some p.hash
    | none => true
  if s.quarUndelivered ≠ 0 || !ready then s
  else
    let s1 := modDat (fun d => { d with phase := .agreement, contribTick := s.tb, refuse := maxNat (d.refuse :: chipCodes s)
                                        repartition := match armedPlat s with
                                          | some p => p.partition != partitionLive s
                                          | none => false }) s
    contribute (datumKey s1 kAgreement) (opMax 8) (unfenced s1) (agreementBytes s1) s1

/-- DATUM_BEGIN (R65, R369): with GO pending, the step before ended and no SFU table copy in progress (R137), actions 1 and 2 are taken and the chip contributes. -/
def datumBegin (env : MemEnv) (s0 : State) : State :=
  let s := withEnv env s0
  if !s.dat.go || !(s.dat.phase == .idle) || s.run.isSome || s.fenceSelf || s.sfuCopying then s
  else
    let s1 := if s.dat.began then s else modDat (fun d => { d with began := true, checking := none, checked := none, refuse := 0 }) (actionOne s)
    tryAgreement (beginCheck s1)

/-- DATUM_BEGIN. -/
def execDatumBegin (env : MemEnv) (s : State) : Host.Outcome State Fault Refusal := .next (datumBegin env s)

/-- CADASTRE_CHECK_DONE (R62): the section has been read again before the agreement, without storing it. -/
def cadastreCheckDone (env : MemEnv) (s0 : State) : State :=
  let s := withEnv env s0
  match armedPlat s with
  | none => s
  | some p =>
    if s.dat.checking ≠ some p.hash then s
    else
      let code := if badLine env p.cadAddr p.cadLen then [0x21]
        else if sha384 (memBytes s.mem p.cadAddr p.cadLen) ≠ p.cadDigest then [0x0A] else []
      tryAgreement (refuseWith code (modDat (fun d => { d with checking := none, checked := some p.hash }) s))

/-- CADASTRE_CHECK_DONE. -/
def execCadastreCheckDone (env : MemEnv) (s : State) : Host.Outcome State Fault Refusal := .next (cadastreCheckDone env s)

/-! ### The end of a datum that starts no step -/

/-- The datum ends without a step: GO is cleared and the code is shown (R369, R371, R389). -/
def endDatum (code : Nat) (s : State) : State :=
  modDat (fun _ => { Dat.idle with refusal := code }) (dropDatumRounds s)

/-- A refused datum (R371): its code is raised in SDE_ERR_STATUS, GO is cleared and a DATUM notice sent. -/
def refuseDatum (code : Nat) (s : State) : State :=
  let s1 := notice 0x02 code 0 0 (record uSde code (endDatum code s))
  if code = 0x69 then notice 0x0B code 0 0 s1 else s1

/-- DATUM_TIMEOUT (R373): the round contributed to has had no result for SDE_STEP_TIMEOUT ticks. -/
def datumTimeout (s : State) : State :=
  if (s.dat.phase == .agreement || s.dat.phase == .startRound) && s.dat.contribTick + s.live 0x14 31 0 ≤ s.tb then
    notice 0x0C 0x4A 0 0 (notice 0x02 0x4A 0 0 (record uSde 0x4A (endDatum 0x4A s)))
  else s

/-- DATUM_TIMEOUT. -/
def execDatumTimeout (s : State) : Host.Outcome State Fault Refusal := .next (datumTimeout s)

/-! ### Resurvey boundaries (R226 to R228) -/

/-- The period of CAD_RESURVEY, and whether the source is the time epoch. -/
def resurveyPeriod (s : State) : Nat := s.live 0x6000C 23 0
def resurveyEpoch (s : State) : Bool := s.live 0x6000C 31 31 = 1

/-- WANT of R228. -/
def wantOf (peak cap : Nat) : Nat :=
  if cap = 0 then (if 0 < peak then 8 else 1) else min 8 (max 1 (ceilDiv peak cap))

/-- A proposal record (R228). -/
def proposalRecord (s : State) (e : Nat) : Bytes :=
  let slots := (slotsFor s e).filter (fun w => slotState w ≠ 0)
  let d := s.demand.find? (fun d => d.expert = e)
  let peak := (d.map (·.peak)).getD 0
  leBytes 16 (e * 2 ^ 108 + slots.length * 2 ^ 104 + wantOf peak (maxNat (slots.map slotCap)) * 2 ^ 100 + peak * 2 ^ 64 +
    (d.map (·.demand)).getD 0)

/-- The proposal of R227: written when CAD_PROP_LO.ENABLE is 1; the demand counters are cleared in either case. -/
def writeProposal (s : State) : State :=
  let es := homedExperts s
  let s1 := if s.field 0x60020 0 0 = 1 then
      let a := s.addr64 0x60020 0x60024 / 64 * 64
      let w := (memWrite a ((sortBy id es).flatMap (proposalRecord s)) s).setField 0x60028 31 16 (s.field 0x60028 31 16 + 1)
      cadNotice 0 2 (modDat (fun d => { d with proposalWritten := true }) (w.setField 0x60028 8 0 es.length))
    else s
  { s1 with demand := [] }

/-- The datum is a boundary by step count (R226). -/
def stepBoundary (s : State) : Bool := !resurveyEpoch s && nextStep s % max 1 (resurveyPeriod s) = 0

/-- A start tick makes the datum a boundary by the time epoch (R226). -/
def epochBoundary (t : Nat) (s : State) : Bool :=
  let q := max 1 (resurveyPeriod s) * 2 ^ 20
  resurveyEpoch s && decide (s.prevT / q < t / q)

/-- An armed list is read again where the datum may switch to it (R233). DESIGN CHOICE (log entry 44): the reading comes before the
start round, so that a failure can refuse the datum on every chip; under the time epoch it comes before it is known whether
the datum is a boundary. -/
def maySwitch (s : State) : Bool := s.lst.stage == .armed && (stepBoundary s || resurveyEpoch s)

/-! ### The start round -/

/-- The chip contributes its TB to the start round (R372), with the code of a list that it could not read again beside it
(DESIGN CHOICE, log entry 44). -/
def startContribute (s : State) : State :=
  let s1 := modDat (fun d => { d with phase := .startRound, contribTick := s.tb }) s
  contribute (datumKey s1 kStart) (opMax 8) (unfenced s1) (leBytes 8 s.tb ++ leBytes 8 s.dat.listCode) s1

/-- What follows action 4: the proposal of R227 where a boundary falls by step count, the reading of an armed list, and the
start round. -/
def afterActions (s : State) : State :=
  if s.dat.needPools || s.dat.needReload || s.dat.needList || !(s.dat.phase == .actions) then s
  else
    let s1 := if stepBoundary s then writeProposal s else s
    if maySwitch s1 then modDat (fun d => { d with needList := true }) s1 else startContribute s1

/-! ### Activation (R65, R90, R328, R363, R470) -/

/-- The sets named in INIT become live and are copied into their shadows (R65). -/
def initLive (p : Plat) (s : State) : State :=
  let s1 := (initValues p).foldl (fun s v =>
    (s.setWord v.1 ((s.word v.1 &&& ~~~(BitVec.ofNat 32 (shMask v.1))) ||| v.2)).setWord (v.1 + 0x8000) v.2) s
  if bit ((p.init.map (·.mask)).getD 0) 4 then traceRestart s1 else s1

/-- An activation whose PARTITION differs stops the trace unless INIT names set 4, and empties the read cache (R363, R470). -/
def repartition (p : Plat) (s : State) : State :=
  let s1 := dropAll s
  if bit ((p.init.map (·.mask)).getD 0) 4 then s1
  else
    let s2 := (s1.setField 0x300000 0 0 0).setField 0x308000 0 0 0
    { s2 with trace := { s2.trace with lanes := List.replicate 8 [], marker := none } }

/-- Action 4 of R65: the armed plat replaces every plat-derived state; pools and cadastre follow by their own rows. -/
def activatePlat (p : Plat) (s : State) : State :=
  let differs := p.partition != partitionLive s
  let pools := match s.ldr.active with
    | some a => p.partition != a.partition || p.poolBytes != a.poolBytes
    | none => true
  let s1 := { s with ldr := { s.ldr with stage := .empty, staged := none, active := some p }, quarPending := [] }
  let s2 := if differs then repartition p s1 else s1
  let s3 := divideLanding (initLive p s2)
  let s4 := modDat (fun d => { d with needPools := pools, needReload := true, platActivated := true
                                      listDiscarded := s.lst.stage == .armed }) s3
  platEvent 0 (discardList s4)

/-- Lanes of the agreement's result. -/
def lane (b : Bytes) (i : Nat) : Nat := leAt b (8 * i) 8

/-- Whether a fingerprint's lanes agree (R370). -/
def agreed (b : Bytes) (i : Nat) : Bool := lane b (2 * i + 1) = 2 ^ 64 - 1 - lane b (2 * i)

/-- The refusal of R371, zero when the round agreed. -/
def agreementCode (b : Bytes) : Nat :=
  if lane b 6 ≠ 0 then bits (lane b 6) 7 0
  else if !agreed b 0 then 0x0D
  else if !agreed b 1 then 0x14
  else if !agreed b 2 then 0x1C
  else 0

/-- AGREEMENT_RESULT (R371): the datum is refused, or agreed; then the armed plat is activated and R227 follows. -/
def agreementResult (lanes : Bytes) (s : State) : State :=
  if !(s.dat.phase == .agreement) then s
  else
    let code := agreementCode lanes
    if code ≠ 0 then refuseDatum code s
    else
      let s1 := modDat (fun d => { d with phase := .actions })
        { s with boot := { s.boot with stage := .running, firstDatumDone := true } }
      match armedPlat s1 with
      | some p => afterActions (activatePlat p s1)
      | none => afterActions s1

/-- AGREEMENT_RESULT. -/
def execAgreementResult (lanes : Bytes) (s : State) : Host.Outcome State Fault Refusal := .next (agreementResult lanes s)

/-- POOLS_BUILD (R90): action 4 builds the pools once every pool buffer is free. -/
def poolsBuild (s : State) : State :=
  match s.ldr.active with
  | none => s
  | some p =>
    if !(s.dat.phase == .actions) || !s.dat.needPools || !allFree s then s
    else afterActions (modDat (fun d => { d with needPools := false }) (buildPools p.counts p.owners s))

/-- POOLS_BUILD. -/
def execPoolsBuild (s : State) : Host.Outcome State Fault Refusal := .next (poolsBuild s)

/-- The live cadastre that a CADASTRE section gives (R214). -/
def cadOf (za3 : Bool) (b : Bytes) : Store (List Word32) :=
  let es := entriesOf za3 b
  ((List.range es.length).zip es).filter (fun x => x.2 ≠ zeroEntry)

/-- CADASTRE_RELOAD_DONE (R62, R65): the section becomes the live cadastre; a mismatch or a lost line fences the chip. -/
def cadastreReloadDone (env : MemEnv) (s0 : State) : State :=
  let s := withEnv env s0
  match s.ldr.active with
  | none => s
  | some p =>
    if !(s.dat.phase == .actions) || !s.dat.needReload then s
    else
      let b := memBytes s.mem p.cadAddr p.cadLen
      let code := if badLine env p.cadAddr p.cadLen then 0x21 else if sha384 b ≠ p.cadDigest then 0x0A else 0
      if code = 0 then
        afterActions (modDat (fun d => { d with needReload := false }) { s with cad := cadOf (decide (p.format = 2)) b })
      else
        let me := chipId s
        let s1 := bcastSend 0x0A s.stepNum me (fencePayload s me 4) s
        endDatum code (selfFence 4 uPlat code (countFault uPlat code s1))

/-- CADASTRE_RELOAD_DONE. -/
def execCadastreReloadDone (env : MemEnv) (s : State) : Host.Outcome State Fault Refusal := .next (cadastreReloadDone env s)

/-! ### The start of a step -/

/-- CLASS_LIVE (R381): 1 native, 2 ZA-3 compatible, 0 none. -/
def classLive (s : State) : Nat :=
  let c := s.step_ 0x250 1 0
  if c = 1 && strictLive s && (s.ldr.active.map (·.format)).getD 0 = 3 then 1
  else if (c = 1 || c = 2) && strictLive s then 2
  else 0

/-- The chain starts with the first datum: from a loaded value, or from H_0 (R385). -/
def startChain (s : State) : State :=
  if s.rlog.chain.isSome then s
  else
    let h := if s.rlog.startSet then s.rlog.start else sha384 (leBytes 8 (chipId s) ++ leBytes 8 s.stepNum)
    { s with rlog := { s.rlog with chain := some h, start := h, loaded := s.rlog.startSet, first := s.stepNum } }

/-- The account of the step that starts. -/
def newRun (s : State) : Run :=
  let d := s.dat
  let c := s.clk
  { start := d.start, late := d.late, strict := strictLive s, continue_ := continueLive s
    byArrival := s.step_ 0x41000 0 0 = 1 && !strictLive s, classLive := classLive s, platActivated := d.platActivated
    listSwitched := d.listSwitched, listDiscarded := d.listDiscarded, proposalWritten := d.proposalWritten, listFp := d.listFp
    fences := s.fences, aclkAt := c.aclkStep, sclkAt := c.sclkStep, aclkLow := c.aclkStep, sclkLow := c.sclkStep
    changes := 0, throttled := 0, retry := 0, replays := 0, skipped := 0, spilled := 0, readmitted := 0, clamps := 0
    abortCode := 0, localCode := 0, degraded := false, contributed := false }

/-- Action 5 of R65: the step starts. Tiles held for it are taken, experts no longer homed lose their counters (R225), and
the marker stands ahead of every event of the step (R467). -/
def startStep (s : State) : State :=
  let n := nextStep s
  let s1 := startChain { s with stepNum := n, boot := { s.boot with stepStarted := true }, run := some (newRun s), prevT := s.dat.start
                                broadcasts := [], quarActing := [], quarSeen := [], bucketMaps := []
                                rounds := s.rounds.filter (fun r => r.key.step = n % 2 ^ 48)
                                latched := storeErase 0x41020 s.latched }
  let mark := if traceOn s1 then some (s.dat.start, n + classLive s * 2 ^ 56) else s1.trace.marker
  let s2 := { s1 with demand := s1.demand.filter (fun d => (homedExperts s1).contains d.expert)
                      dat := { Dat.idle with refusal := s.dat.refusal }, trace := { s1.trace with marker := mark } }
  let s3 := if s.dat.late then raiseAborts uSde 0x49 s2 else s2
  ingestOn s3

/-- A step that may start does so at once when the result was late (R372). -/
def startLate (s : State) : State :=
  if s.dat.phase == .awaitT && s.dat.late then startStep s else s

/-- The switch of R233 to the list that has been read again. -/
def switchNow (s : State) : State :=
  match s.dat.listImage with
  | none => s
  | some b => switchList b (modDat (fun d => { d with listSwitched := true, listFp := digest64 s.lst.digest, listImage := none }) s)

/-- START_ROUND_RESULT (R372): T is the maximum plus the lead. At a boundary the chip switches to its armed list, or, where a chip
could not read the list again, every chip refuses the datum (R227, R233). A result held only at or after T is late. -/
def startRoundResult (latest refused : Nat) (s : State) : State :=
  if !(s.dat.phase == .startRound) then s
  else
    let t := latest + s.step_ 0x208 15 0
    if (stepBoundary s || epochBoundary t s) && refused ≠ 0 then refuseDatum (refused % 256) s
    else
      let s1 := modDat (fun d => { d with phase := .awaitT, start := t, late := decide (t ≤ s.tb) }) s
      let s2 := if epochBoundary t s then writeProposal s1 else s1
      startLate (if stepBoundary s || epochBoundary t s then switchNow s2 else s2)

/-- START_ROUND_RESULT. -/
def execStartRoundResult (latest : Nat) (s : State) (refused : Nat := 0) : Host.Outcome State Fault Refusal :=
  .next (startRoundResult latest refused s)

/-- STEP_START (R372): the first edge at which TB has reached T. -/
def stepStart (s : State) : State :=
  if s.dat.phase == .awaitT && s.dat.start ≤ s.tb then startStep s else s

/-- STEP_START. -/
def execStepStart (s : State) : Host.Outcome State Fault Refusal := .next (stepStart s)

/-- LIST_SWITCH_READ_DONE (R233): the armed list has been read again; its records, or the code that refuses the datum, are kept for
the start round's result. -/
def listSwitchReadDone (env : MemEnv) (s0 : State) : State :=
  let s := withEnv env s0
  if !s.dat.needList then s
  else
    let n := 8 * s.lst.count
    let b := memBytes s.mem s.lst.src n
    let s1 := modDat (fun d => { d with needList := false }) s
    startContribute (
      if badLine env s.lst.src n then modDat (fun d => { d with listCode := 0x2B }) (record uCad 0x2B s1)
      else if sha384 b ≠ s.lst.digest then modDat (fun d => { d with listCode := 0x15 }) s1
      else modDat (fun d => { d with listImage := some b }) s1)

/-- LIST_SWITCH_READ_DONE. -/
def execListSwitchReadDone (env : MemEnv) (s : State) : Host.Outcome State Fault Refusal := .next (listSwitchReadDone env s)

/-! ### The verdict -/

/-- EMIT has handed the last RESULT tile of the last layer's half 1. -/
def lastEmitted (s : State) : Bool :=
  match (platLayers s).length with
  | 0 => false
  | n + 1 => halfMeets s (·.emitted) (n, 1)

/-- The value contributed to the verdict (R269, R419). -/
def verdictValue (r : Run) : Nat :=
  if r.abortCode ≠ 0 then 0x200 + (0xFF - r.abortCode) else if r.degraded then 0x1FF else 0x0FF

/-- VERDICT_CONTRIBUTE (R269, R302, R419). -/
def verdictContribute (s : State) : State :=
  match s.run with
  | none => s
  | some r =>
    if r.contributed || s.fenceSelf || s.cce.active.any (fun c => c.step = s.stepNum) || (r.abortCode = 0 && !lastEmitted s) then s
    else contribute (internalKey s kVerdict 0 0) (opMax 2) (unfenced s) (leBytes 2 (verdictValue r))
      (modRun (fun r => { r with contributed := true }) s)

/-- VERDICT_CONTRIBUTE. -/
def execVerdictContribute (s : State) : Host.Outcome State Fault Refusal := .next (verdictContribute s)

/-- STEP_TIMEOUT (R269): no verdict within SDE_STEP_TIMEOUT ticks of the datum. -/
def stepTimeout (s : State) : State :=
  match s.run with
  | none => s
  | some r => if stepLive s && r.start + s.live 0x14 31 0 ≤ s.tb then raiseAborts uReg 0x48 s else s

/-- STEP_TIMEOUT. -/
def execStepTimeout (s : State) : Host.Outcome State Fault Refusal := .next (stepTimeout s)

/-- REG_VERDICT of a result (R273). -/
def VerdictRec.word (v : VerdictRec) : Nat := v.cls * 2 ^ 30 + v.localCode * 2 ^ 16 + v.code

/-! ### The replay log -/

/-- A selection entry as the 128-bit word of R162. -/
def SelEntry.word (e : SelEntry) : Nat :=
  e.gate.toNat * 2 ^ 96 + e.expert * 2 ^ 76 + e.band * 2 ^ 74 + e.fate * 2 ^ 72 + e.replica * 2 ^ 69 + e.trip * 2 ^ 61 + e.dest * 2 ^ 47

/-- The selection entries of this chip in ascending layer, half, slot and k-rank (R384). -/
def stepEntries (s : State) : List SelEntry :=
  (sortBy (fun h => h.layer * 2 + h.half) s.halves).flatMap (fun h =>
    (sortBy (·.base) h.blocks).flatMap (fun b => ((b.sel.map selEntries).getD []).map (fun x => x.2.2)))

/-- TALLY_DIGEST (R384). -/
def tallyDigest (s : State) : Bytes := sha384 ((stepEntries s).flatMap (fun e => leBytes 7 (bits e.word 95 47)))

/-- The live cadastre as bytes: 262,144 entries of 32 bytes (R213). -/
def cadBytes (s : State) : Bytes := (List.range 262144).flatMap (fun x => (cadEntry s x).flatMap (fun w => leBytes 4 w.toNat))

/-- The 192-byte entry of R384. -/
def logEntry (r : Run) (cls : Nat) (s : State) : Bytes :=
  let hash := (s.ldr.active.map (·.hash)).getD (List.replicate 48 0)
  let seed := (s.ldr.active.map (·.seed)).getD 0
  let mode := b2n r.strict + b2n (!r.continue_) * 2 + b2n r.byArrival * 4 + s.step_ 0x81000 0 0 * 8 + r.classLive * 16
  leBytes 8 s.stepNum ++ hash ++ sigBytes s ++ leBytes 8 r.listFp ++ leBytes 8 seed ++
    leBytes 8 (s.step_ 0x234 31 0 * 2 ^ 32 + s.step_ 0x230 31 0) ++ (sha384 (bitmapBytes r.fences)).take 16 ++
    (sha384 (cadBytes s)).take 16 ++ leBytes 4 mode ++ leBytes 4 (cls * 2 ^ 30) ++
    (if cls = 2 then List.replicate 48 0 else tallyDigest s) ++ leBytes 8 0

/-- The entry is folded into the chain (R385), unless the log has failed (R388). -/
def foldEntry (r : Run) (cls : Nat) (s : State) : State :=
  match s.rlog.chain with
  | none => s
  | some h =>
    if s.rlog.fault then s
    else { s with rlog := { s.rlog with chain := some (sha384 (h ++ logEntry r cls s)), lastFolded := s.stepNum } }

/-- A checkpoint falls due (R386, R388, R408): it is signed, waits, or is skipped and counted. -/
def checkpointDue (s : State) : State :=
  match s.rlog.chain with
  | none => s
  | some h =>
    if s.rlog.fault then s
    else
      let cp : Checkpoint := ⟨s.rlog.lastFolded, s.rlog.first, h, s.rlog.start, 0⟩
      if debugOpen s || s.rlog.waiting.isSome then s.bumpField 0x274 31 16 1
      else if s.rlog.signing.isSome then { s with rlog := { s.rlog with waiting := some cp } }
      else { s with rlog := { s.rlog with signing := some cp } }

/-- CHECKPOINT (R386): at once between steps, otherwise after the running step's verdict. -/
def askCheckpoint (s : State) : State :=
  if s.run.isSome then { s with rlog := { s.rlog with requested := true } } else checkpointDue s

/-- CHECKPOINT. -/
def execCheckpoint (priv : Bool) (s : State) : Host.Outcome State Fault Refusal := .next (privGate uSde priv askCheckpoint s)

/-- The checkpoints that fall due after a step (R386). -/
def checkpointsAfter (s : State) : State :=
  let period := s.step_ 0x264 23 0
  let s1 := if period ≠ 0 && (s.stepNum + 1) % period = 0 then checkpointDue s else s
  if s1.rlog.requested then checkpointDue { s1 with rlog := { s1.rlog with requested := false } } else s1

/-- The first 0xA0 bytes of a checkpoint record (R387). -/
def checkpointBody (cp : Checkpoint) (seq : Nat) (s : State) : Bytes :=
  leBytes 4 0x50434C52 ++ leBytes 2 1 ++ leBytes 2 (chipId s) ++ leBytes 8 cp.step ++ leBytes 8 cp.first ++ cp.chain ++ cp.start ++
    sigBytes s ++ leBytes 8 s.fuses.device.toNat ++ leBytes 4 seq ++ List.replicate 12 0

/-- CHECKPOINT_SIGNED (R386, R387): the record is written into its ring and noticed; one that waits follows. -/
def checkpointSigned (errs : Errs) (s0 : State) : State :=
  let s := takeErrors errs s0
  match s.rlog.signing, s.devKey with
  | some cp, some k =>
    if s.rlog.fault then { s with rlog := { s.rlog with signing := none, waiting := none } } else
    let seq := s.rlog.seq + 1
    let body := checkpointBody cp seq s
    let base := (s.step_ 0x26C 31 0) * 2 ^ 32 + s.step_ 0x268 31 8 * 256
    let a := base + 256 * (s.rlog.seq % 2 ^ s.step_ 0x270 3 0)
    let s1 := memWrite a (body ++ ecdsaSign k.d (sha384 body)) (s.bump 0x200070 1)
    notice 0x0A 0 0 seq { s1 with rlog := { s1.rlog with signing := s.rlog.waiting, waiting := none, seq := seq, written := seq % 256 } }
  | _, _ => s

/-- CHECKPOINT_SIGNED. -/
def execCheckpointSigned (s : State) (errs : Errs := []) : Host.Outcome State Fault Refusal := .next (checkpointSigned errs s)

/-- SDE_RLOG_START (R385): bytes 4n to 4n + 3 of the start value, before the first datum only. -/
def rlogStart (n : Nat) (value : Word32) (s : State) : State :=
  if s.boot.firstDatumDone then securityCode uSde 0x6A s
  else if 12 ≤ n then s
  else { s with rlog := { s.rlog with startSet := true
                                      start := s.rlog.start.take (4 * n) ++ leBytes 4 value.toNat ++ s.rlog.start.drop (4 * n + 4) } }

/-- SDE_RLOG_START. -/
def execRlogStart (priv : Bool) (n : Nat) (value : Word32) (s : State) : Host.Outcome State Fault Refusal :=
  .next (privGate uSde priv (rlogStart n value) s)

/-- SDE_STEP_LO (R43, R389): the step number formed with SDE_STEP_HI is checked and applied. -/
def stepLo (value : Word32) (s : State) : State :=
  let n := s.field 0x214 23 0 * 2 ^ 32 + value.toNat
  if s.boot.firstDatumDone then record uSde 0x1B s
  else if 2 ^ 56 - 2 ^ 48 < n then record uSde 0x16 s
  else { s with stepNum := n }

/-- SDE_STEP_LO. -/
def execStepLo (value : Word32) (s : State) : Host.Outcome State Fault Refusal := .next (stepLo value s)

/-! ### The step record and the verdict's writing -/

/-- A count in 32 bits, saturating. -/
def sat32 (n : Nat) : Nat := min (2 ^ 32 - 1) n

/-- The 128-byte step record (R376). -/
def stepRecord (r : Run) (v : VerdictRec) (refresh : Nat) (s : State) : Bytes :=
  let flags := b2n r.strict + b2n r.platActivated * 2 + b2n r.listSwitched * 4 + b2n r.listDiscarded * 8 +
    b2n r.proposalWritten * 16 + b2n (decide (r.changes ≠ 0) || r.late) * 32 + b2n r.late * 64 + r.classLive * 256
  let clock := r.aclkAt * 2 ^ 28 + r.sclkAt * 2 ^ 24 + r.aclkLow * 2 ^ 20 + r.sclkLow * 2 ^ 16 + min 65535 r.changes
  leBytes 8 s.stepNum ++ leBytes 8 r.start ++ leBytes 8 s.tb ++ leBytes 4 v.word ++ leBytes 4 flags ++ leBytes 4 clock ++
    leBytes 4 (sat32 r.throttled) ++ leBytes 4 refresh ++ leBytes 4 (sat32 r.retry) ++ leBytes 4 (sat32 r.replays) ++
    leBytes 4 (sat32 r.skipped) ++ leBytes 4 (sat32 r.spilled) ++ leBytes 4 (sat32 r.readmitted) ++ leBytes 1 (min 255 r.clamps) ++
    leBytes 7 0 ++ s.rlog.chain.getD (List.replicate 48 0) ++ leBytes 8 0

/-- The record goes to entry NEXT mod 2^n of the ring, and NEXT rises (R376, R389). -/
def writeRecord (r : Run) (v : VerdictRec) (s0 : State) : State :=
  let f := s0.fresh
  let s := f.2
  let base := s.step_ 0x244 31 0 * 2 ^ 32 + s.step_ 0x240 31 7 * 128
  let next := s.field 0x24C 31 0
  (memWrite (base + 128 * (next % 2 ^ s.step_ 0x248 4 0)) (stepRecord r v (Config.refreshTicks f.1).toNat s) s).setField 0x24C 31 0 (next + 1)

/-- The step's stations are cleared: whatever the halves still hold is freed, and requests for buffers of the step end. -/
def clearStep (s : State) : State :=
  let bufs := s.halves.flatMap Half.bufs ++ (s.halves.filterMap (·.loans)).flatMap (·.bufs) ++ s.collects.flatMap (·.bufs) ++
    s.collectHeld.map (·.buf)
  { cancelRequests (fun k => !keptRequest s k) (freeAll bufs s) with
    halves := [], homes := [], feeds := [], handed := [], collects := [], collectHeld := [], run := none }

/-- VERDICT (R269, R376, R385): on an abort that this chip learns from the round its own stations stop (R271); the entry is
folded, the record and REG_VERDICT are written, and the notice is sent. -/
def verdict (code : Nat) (errs : Errs) (s0 : State) : State :=
  let s := takeErrors errs s0
  match s.run with
  | none => s
  | some r0 =>
    if !r0.contributed then s
    else
      let cls := min 2 (code / 256)
      let ac := if cls = 2 then 0xFF - code % 256 else 0
      let s1 := if cls = 2 then endColls ac (abortStep ac false s) else s
      let r := (s1.run).getD r0
      let v : VerdictRec := ⟨cls, r.localCode, ac, s1.stepNum⟩
      let s2 := checkpointsAfter (foldEntry r cls s1)
      let s3 := { writeRecord r v s2 with verdict := v }
      let s4 := traceEvent 5 0x01 v.word (notice 0x01 0 0x080 v.word s3)
      clearStep s4

/-- VERDICT. -/
def execVerdict (code : Nat) (s : State) (errs : Errs := []) : Host.Outcome State Fault Refusal := .next (verdict code errs s)

end Sys2Proof.Machine
end

