-- ==== Sys2Proof/Machine/Manage.lean ====
section
/-! DEFINITION. Fences, probes, management messages, ABORT and the notice ring's registers (R220, R418, R420 to R435, R476):
FENCE, UNFENCE, FENCE_NOTICE, ISOLATION, PEER_WAIT_TIMEOUT, PROBE, PROBE_ANSWER, PROBE_TIMEOUT, MGMT_READ, MGMT_READ_ANSWER,
CAD_REFETCH_TIMEOUT, ABORT, SDE_NOTE_RD and SDE_NOTE_SIZE. -/
namespace Sys2Proof.Machine
open Sys2Proof

/-! ### SDE_FENCE (R422, R425, R426, R476) -/

/-- Decide a fence: the notice goes out by tree broadcast, then the chip applies it (R422, R423). -/
def decideFence (chip cause : Nat) (s : State) : State :=
  applyFence chip cause (bcastSend 0x0A s.stepNum chip (fencePayload s chip cause) s)

/-- FENCE (R422, R426): refused when CHIP lies beyond the installation or SELF is set; before CALIBRATE is written only the
bit is set (R476). -/
def fenceWrite (chip : Nat) (s : State) : State :=
  if chipCount s ≤ chip || s.fenceSelf then record uSde 0x1E s
  else if fenced s chip then s
  else if !s.boot.calibrateWritten then { s with fences := insertSorted chip s.fences }
  else if chip = chipId s then selfFence 1 uReg 0x43 (bcastSend 0x0A s.stepNum chip (fencePayload s chip 1) s)
  else decideFence chip 1 s

/-- FENCE. -/
def execFence (priv : Bool) (chip : Nat) (s : State) : Host.Outcome State Fault Refusal :=
  .next (privGate uSde priv (fenceWrite chip) s)

/-- UNFENCE (R425, R426): pending until action 1 of the next datum. -/
def unfenceWrite (chip : Nat) (s : State) : State :=
  if chipCount s ≤ chip || !fenced s chip || chip = chipId s || s.fenceSelf then record uSde 0x1E s
  else { s with unfences := insertSorted chip s.unfences }

/-- UNFENCE. -/
def execUnfence (priv : Bool) (chip : Nat) (s : State) : Host.Outcome State Fault Refusal :=
  .next (privGate uSde priv (unfenceWrite chip) s)

/-! ### Fence notices and isolation -/

/-- A FENCE notice arrives (R420, R423, R424): passed on once, then applied; a notice for a chip already fenced has no
further effect. -/
def fenceNotice (src : Nat) (m : Bytes) (s : State) : State :=
  let chip := bits (leAt m 8 4) 13 0
  let cause := bits (leAt m 8 4) 23 16
  if bcastSeen s 0x0A s.stepNum chip then s
  else
    let s1 := bcastPass 0x0A s.stepNum chip src m s
    if chip = chipId s then selfFence cause uReg 0x43 s1 else applyFence chip cause s1

/-- FENCE_NOTICE. -/
def execFenceNotice (src : Nat) (msg : Bytes) (s : State) : Host.Outcome State Fault Refusal := .next (fenceNotice src msg s)

/-- ISOLATION (R422): no port UP for FEP_RTO ticks; the chip fences itself and raises E_ISOLATED. -/
def isolation (s : State) : State :=
  match s.fep.noPortSince with
  | none => s
  | some t =>
    if s.fenceSelf || s.tb < t + rto s then s
    else if stepLive s then selfFence 3 uSde 0x5E s
    else selfFence 3 uSde 0x5E (record uSde 0x5E s)

/-- ISOLATION. -/
def execIsolation (s : State) : Host.Outcome State Fault Refusal := .next (isolation s)

/-! ### Probes (R422) -/

/-- The chip waits on a peer: for an acknowledgement or a management answer that has been due for FEP_RTO ticks, or for a
contribution to an express round that it collects. -/
def waitsOn (s : State) (c : Nat) : Bool :=
  s.fep.tx.any (fun f => f.dst = c && f.packets.any (expired s)) ||
  s.cadRefetch.any (fun r => r.peer = c && r.tick + rto s ≤ s.tb) ||
  s.rounds.any (fun r => !r.taken && r.members.contains c && rackOf c = rackOf (chipId s) &&
    collectorOf s r.members (rackOf c) = some (chipId s) && !r.contribs.any (fun x => x.1 = c))

/-- The answers of a number of requests can be reserved (R330). -/
def answersRoom (s : State) (n : Nat) : Bool := s.fep.replyUsed + n * messageUnits answerLen ≤ eighthUnits s

/-- Send one PROBE on one port, outside R325. -/
def probeOn (peer n : Nat) (s : State) : State :=
  let id := s.mgmtNext
  let m : Message := ⟨peer, 0xC, 0x0A, s.stepNum, mgmtHeader 0x02 0 (chipId s) id 0 0, .none, 0, none⟩
  let s1 := { s with mgmtNext := (id + 1) % 2 ^ 32, probes := s.probes ++ [⟨peer, s.tb, id, false⟩] }
  match cutMessage 1 m (openFlow peer 0xC s1) with
  | (some rest, s2) => { s2 with fep := { s2.fep with waiting := s2.fep.waiting ++ [rest] } }
  | (none, s2) =>
    match (txFlow s2 peer 0xC).bind (fun f => (f.packets.getLast?).map (fun p => (f, p))) with
    | some (f, p) => placeOn n f p s2
    | none => s2

/-- PEER_WAIT_TIMEOUT (R422): PROBE on each of up to four ports that are UP, lowest numbers first; the probes wait while their
answers cannot be reserved (R330). -/
def peerWaitTimeout (peer : Nat) (s : State) : State :=
  if peer = chipId s || fenced s peer || s.probes.any (fun p => p.peer = peer) || !waitsOn s peer ||
    !answersRoom s ((linksUp s).take 4).length then s
  else ((linksUp s).take 4).foldl (fun s n => probeOn peer n s) s

/-- PEER_WAIT_TIMEOUT. -/
def execPeerWaitTimeout (peer : Nat) (s : State) : Host.Outcome State Fault Refusal := .next (peerWaitTimeout peer s)

/-- PROBE (R430): answered on VC1 with the identifier echoed. -/
def probe (src : Nat) (m : Bytes) (s : State) : State :=
  post ⟨src, 0x2, 0x0B, s.stepNum, mgmtHeader 0x82 0 (chipId s) (leAt m 4 4) 0 0, .none, 0, none⟩ s

/-- PROBE. -/
def execProbe (src : Nat) (msg : Bytes) (s : State) : Host.Outcome State Fault Refusal := .next (probe src msg s)

/-- PROBE_ANSWER (R422): the peer answers, and is not fenced. -/
def probeAnswer (src : Nat) (m : Bytes) (s : State) : State :=
  let id := leAt m 4 4
  if s.probes.any (fun p => p.peer = src && p.id = id) then
    releaseReply answerLen { s with probes := (s.probes.filter (fun p => !(p.peer = src && p.id = id))).map (fun p =>
      if p.peer = src then { p with answered := true } else p) }
  else s

/-- PROBE_ANSWER. -/
def execProbeAnswer (src : Nat) (msg : Bytes) (s : State) : Host.Outcome State Fault Refusal := .next (probeAnswer src msg s)

/-- PROBE_TIMEOUT (R422): no port has given an answer within 5,000 ticks; the peer is fenced with CAUSE 0x2. -/
def probeTimeout (peer : Nat) (s : State) : State :=
  let mine := s.probes.filter (fun p => p.peer = peer)
  if mine.isEmpty || !mine.all (fun p => p.tick + 5000 ≤ s.tb) then s
  else if mine.any (·.answered) || fenced s peer || s.fenceSelf then endProbes peer s
  else decideFence peer 2 ((endProbes peer s).bump16 0x310 1)

/-- PROBE_TIMEOUT. -/
def execProbeTimeout (peer : Nat) (s : State) : Host.Outcome State Fault Refusal := .next (probeTimeout peer s)

/-! ### Management reads (R220, R430) -/

/-- A READ lies wholly within the cadastre table window: a 4-byte aligned offset and 1 to 16 words. -/
def readAllowed (off n : Nat) : Bool :=
  off % 4 = 0 && 1 ≤ n && n ≤ 16 && 0x400000 ≤ off && off + 4 * n ≤ 0xC00000

/-- A word of the cadastre table window. -/
def windowWord (s : State) (off : Nat) : Word32 := (cadEntry s ((off - 0x400000) / 32)).getD ((off - 0x400000) % 32 / 4) 0

/-- The datum in progress may still change the live cadastre: it has begun, and a plat is armed, its section still to be reloaded,
or an armed list may be switched to (R65, R233). -/
def switchOpen (s : State) : Bool :=
  s.dat.began && !(s.dat.phase == .awaitT) && (maySwitch s || (armedPlat s).isSome || s.dat.needReload)

/-- The entries that a read of the cadastre table window touches. -/
def readEntries (off n : Nat) : List Nat :=
  (List.range ((off % 32 + 4 * n + 31) / 32)).map (fun i => (off - 0x400000) / 32 + i)

/-- MGMT_READ (R220, R430): answered with the words or DENIED, once any switch of the chip's own has completed and no word of
it is being fetched again itself. -/
def mgmtRead (src : Nat) (m : Bytes) (errs : Errs) (s0 : State) : State :=
  let s := takeErrors errs s0
  let off := leAt m 8 4
  let n := leAt m 12 4
  let ok := readAllowed off n
  if switchOpen s || (ok && (readEntries off n).any (fun x => s.cadRefetch.any (fun r => r.entry = x))) then s
  else
    let body := if ok then (List.range n).flatMap (fun i => leBytes 4 (windowWord s (off + 4 * i)).toNat) else []
    post ⟨src, 0x2, 0x0B, s.stepNum, mgmtHeader 0x81 (b2n !ok) (chipId s) (leAt m 4 4) off n ++ body, .none, 0, none⟩ s

/-- MGMT_READ. -/
def execMgmtRead (src : Nat) (msg : Bytes) (s : State) (errs : Errs := []) : Host.Outcome State Fault Refusal :=
  .next (mgmtRead src msg errs s)

/-- MGMT_READ_ANSWER (R220): the words are written back and counted in CAD_SRAM_REFETCH; after a denial the next peer is
asked. -/
def mgmtReadAnswer (src : Nat) (m : Bytes) (s : State) : State :=
  match s.cadRefetch.find? (fun r => r.peer = src && r.id = leAt m 4 4) with
  | none => s
  | some r =>
    let s1 := releaseReply answerLen { s with cadRefetch := s.cadRefetch.filter (fun x => x != r) }
    if leAt m 1 1 = 0 && m.length = 48 then
      ({ s1 with cad := storeSet zeroEntry r.entry ((List.range 8).map (fun i => BitVec.ofNat 32 (leAt m (16 + 4 * i) 4))) s1.cad }).bump16 0x60088 1
    else askEntry r.entry r.left r.tick s1

/-- MGMT_READ_ANSWER. -/
def execMgmtReadAnswer (src : Nat) (msg : Bytes) (s : State) : Host.Outcome State Fault Refusal :=
  .next (mgmtReadAnswer src msg s)

/-- CAD_REFETCH_TIMEOUT (R220): no peer has answered within TALLY_TIMEOUT ticks. -/
def cadRefetchTimeout (s : State) : State :=
  let due := fun (r : CadRefetch) => decide (r.tick + s.live 0x41030 31 0 ≤ s.tb)
  let gone := s.cadRefetch.filter due
  if gone.isEmpty then s
  else raiseAborts uCad 0x2A (gone.foldl (fun s r => if r.id = 2 ^ 32 then s else endRequest r.peer r.id s)
    { s with cadRefetch := s.cadRefetch.filter (fun r => !due r) })

/-- CAD_REFETCH_TIMEOUT. -/
def execCadRefetchTimeout (s : State) : Host.Outcome State Fault Refusal := .next (cadRefetchTimeout s)

/-! ### ABORT (R417, R418, R420) -/

/-- An ABORT payload of R430 in its legal form. -/
def abortOk (m : Bytes) : Bool :=
  m.length = 32 && leAt m 0 1 = 2 && bits (leAt m 2 2) 15 14 = 0 && leAt m 4 4 = 0 && leAt m 15 1 = 0 && leAt m 16 16 = 0

/-- ABORT (R418, R420): passed on once; the running step aborts with the code that the message carries. -/
def abortMsg (src : Nat) (m : Bytes) (s : State) : State :=
  if !abortOk m || leAt m 8 7 ≠ s.stepNum || s.run.isNone || bcastSeen s 0x06 s.stepNum 2 then s
  else abortStep (leAt m 1 1) false (bcastPass 0x06 s.stepNum 2 src m s)

/-- ABORT. -/
def execAbort (src : Nat) (msg : Bytes) (s : State) : Host.Outcome State Fault Refusal := .next (abortMsg src msg s)

/-! ### The notice ring's registers (R431, R435) -/

/-- SDE_NOTE_RD: moves forward only, never past WR; it may free room for a pending CAIRN. -/
def noteRdWrite (value : Word32) (s : State) : State :=
  let v := value.toNat
  if 2 ^ 16 ≤ v || serialSub 16 (noteWr s) (noteRdIx s) < serialSub 16 v (noteRdIx s) then record uSde 0x1F s
  else noteCairn (s.setField 0x330 15 0 v)

/-- SDE_NOTE_RD. -/
def execNoteRd (value : Word32) (s : State) : Host.Outcome State Fault Refusal := .next (noteRdWrite value s)

/-- SDE_NOTE_SIZE: 0, or n from 6 to 15; set from zero it sets WR and RD to zero. -/
def noteSizeWrite (value : Word32) (s : State) : State :=
  let v := value.toNat
  if v ≠ 0 && (v < 6 || 15 < v) then record uSde 0x1F s
  else
    let s1 := if noteLog2 s = 0 && v ≠ 0 then (s.setField 0x32C 15 0 0).setField 0x330 15 0 0 else s
    noteCairn (s1.setField 0x328 3 0 v)

/-- SDE_NOTE_SIZE. -/
def execNoteSize (value : Word32) (s : State) : Host.Outcome State Fault Refusal := .next (noteSizeWrite value s)

end Sys2Proof.Machine
end

