-- ==== Sys2Proof/Machine/Flags.lean ====
section
/-! DEFINITION. What the registers show that no register stores: the status words, counts, fingerprints and identities that
the manual's read-only fields give (R74, R102, R127, R156, R189, R212, R243, R273, R306, R389, R414, R435, R445, R472). -/
namespace Sys2Proof.Machine
open Sys2Proof

/-! ### The global unit -/

/-- STAGE of SDE_BOOT (R448). -/
def Stage.code : Stage → Nat
  | .reset => 0
  | .fuse => 1
  | .selftest => 2
  | .timebase => 3
  | .identify => 4
  | .links => 5
  | .calibrate => 6
  | .ready => 7
  | .running => 8
  | .held => 0xE

/-- PHASE of SDE_DATUM_STATUS (R389). -/
def DatPhase.code : DatPhase → Nat
  | .idle => 0
  | .agreement => 1
  | .actions => 2
  | .startRound => 3
  | .awaitT => 4

/-- SDE_DATUM_STATUS (R389). -/
def datumStatus (s : State) : Nat :=
  s.dat.refusal % 256 * 2 ^ 24 + b2n s.dat.go * 2 ^ 8 + b2n s.run.isSome * 2 ^ 4 + s.dat.phase.code

/-- SDE_COMMIT_STATUS (R74). -/
def commitStatus (s : State) : Nat := s.commits.failedSet * 2 ^ 16 + b2n s.commits.lastOk * 2 ^ 8 + s.commits.mask

/-- The fields of SDE_RLOG_STATUS beside SKIPPED (R389). -/
def rlogStatus (s : State) : Nat :=
  s.field 0x274 31 16 * 2 ^ 16 + s.rlog.written % 256 * 2 ^ 8 + b2n s.rlog.fault * 2 ^ 2 + b2n s.rlog.signing.isSome * 2 +
    b2n s.rlog.loaded

/-- SDE_FENCE_STATUS (R435). -/
def fenceStatus (s : State) : Nat :=
  b2n s.fenceSelf * 2 ^ 31 + b2n (!s.unfences.isEmpty) * 2 ^ 30 + s.fences.length % 2 ^ 15

/-- SDE_FENCE_MAP: the bitmap word that SDE_FENCE_SEL names (R435). -/
def fenceMap (s : State) : Nat :=
  let w := s.field 0x308 8 0
  sumNat ((s.fences.filter (fun c => c / 32 = w)).map (fun c => 2 ^ (c % 32)))

/-- SDE_BOOT (R448, R449). -/
def bootWord (s : State) : Nat :=
  s.boot.bank * 2 ^ 16 + b2n s.boot.rclkFail * 2 ^ 11 + b2n s.boot.calFail * 2 ^ 10 + b2n s.boot.bistFail * 2 ^ 9 +
    b2n s.boot.fuseFail * 2 ^ 8 + s.boot.stage.code

/-- SDE_IDENT (R450). -/
def identWord (s : State) : Nat := chipId s * 2 ^ 16 + s.field 0x408 15 8 * 2 ^ 8 + s.boot.slot

/-- SDE_CLK_STATUS (R438, R440). -/
def clkStatus (s : State) : Nat :=
  s.clk.aclkStep % 16 * 2 ^ 28 + s.clk.sclkStep % 16 * 2 ^ 24 + b2n s.clk.holdover * 2 ^ 9 + b2n s.clk.rclkLock * 2 ^ 8

/-- Word `n` of a byte string (R11). -/
def wordOf (bs : Bytes) (n : Nat) : Nat := leAt bs (4 * n) 4

/-! ### Power domains (R445) -/

/-- LINKS has been reached. -/
def linksReached (s : State) : Bool :=
  match s.boot.stage with
  | .links => true
  | .calibrate => true
  | .ready => true
  | .running => true
  | _ => false

/-- An SRAM bank is on: a line of it lies outside the buffer pool, or below the end of the last pool. -/
def bankOn (s : State) (b : Nat) : Bool :=
  match s.ldr.active with
  | none => !(s.boot.stage == .reset)
  | some p => (p.partition.getD 0 0) < 2 * b + 2 ||
      b < ceilDiv (sumNat ((List.range 6).map (fun i => (poolAt s i).count * Config.poolSizes.getD i 0))) 128

/-- A port is on. -/
def portOn (s : State) (n : Nat) : Bool :=
  match (portAt s n).state with
  | .loopback => true
  | .failed => false
  | .down => linksReached s && !portDisabled s n
  | _ => linksReached s

/-- A power domain is on (R445); in HELD only domains 104 to 111 are (R448). -/
def domainOn (s : State) (d : Nat) : Bool :=
  let act := s.ldr.active.isSome
  if s.boot.stage == .held then 104 ≤ d && d < 112
  else if d < 48 then bankOn s d
  else if d < 72 then portOn s (d - 48)
  else if d = 73 then act && normPresent s
  else if d < 84 then act
  else if d < 92 then act && bit (bindOf s 3) ((d - 84) / 4)
  else if d = 92 then act
  else if d = 93 then act && ((normPresent s && bit (bindOf s 2) 1) || bit (bindOf s 4) 1)
  else if d < 98 then s.boot.stage == .ready || s.boot.stage == .running
  else if d < 102 then (List.range 6).any (fun i => portOn s (6 * (d - 98) + i))
  else if d < 104 then act
  else if d = 104 then !(s.boot.stage == .reset || s.boot.stage == .fuse)
  else d < 112

/-- SDE_PWR0 to SDE_PWR3. -/
def pwrWord (s : State) (i : Nat) : Nat := sumNat ((List.range 32).map (fun j => b2n (domainOn s (32 * i + j)) * 2 ^ j))

/-- The read-only words of the global unit. -/
def globalView (s : State) (a : Nat) : Option Nat :=
  match a with
  | 0x0 => some (Config.stepping * 2 ^ 24 + Config.part)
  | 0x4 => some (Config.contractHigh * 2 ^ 16 + Config.contractLow)
  | 0x104 => some (commitStatus s)
  | 0x204 => some (datumStatus s)
  | 0x210 => some (s.stepNum % 2 ^ 32)
  | 0x214 => some (s.stepNum / 2 ^ 32)
  | 0x220 => some (sig0 s)
  | 0x224 => some (sig1 s)
  | 0x228 => some (sig2 s)
  | 0x274 => some (rlogStatus s)
  | 0x304 => some (fenceStatus s)
  | 0x30C => some (fenceMap s)
  | 0x400 => some (bootWord s)
  | 0x408 => some (identWord s)
  | 0x410 => some (s.tb % 2 ^ 32)
  | 0x420 => some (clkStatus s)
  | _ =>
    if 0x280 ≤ a && a < 0x2B0 then some (wordOf (s.rlog.chain.getD []) ((a - 0x280) / 4))
    else if 0x430 ≤ a && a < 0x440 then some (pwrWord s ((a - 0x430) / 4))
    else none

/-! ### The plat loader and the pool -/

/-- The read-only words of the plat loader (R74). DESIGN CHOICE (log entry 49): while a load is in progress the staged hash
reads zero, an earlier staged plat that is still held included. -/
def platView (s : State) (a : Nat) : Option Nat :=
  if a = 0x10004 then some (platStatus s)
  else if 0x10040 ≤ a && a < 0x10070 then
    some (if s.ldr.stage == .staged || s.ldr.stage == .armed then wordOf ((s.ldr.staged.map (·.hash)).getD []) ((a - 0x10040) / 4) else 0)
  else if 0x10080 ≤ a && a < 0x100B0 then some (wordOf ((s.ldr.active.map (·.hash)).getD []) ((a - 0x10080) / 4))
  else none

/-- POOL_QSTATc (R102); the register of an absent NORM reads zero. -/
def qstat (s : State) (c : Nat) : Nat :=
  if c = 2 && !normPresent s then 0
  else
    let w := (s.word (0x20100 + 4 * c)).toNat
    bits w 31 31 * 2 ^ 31 + b2n (0 < depthOf s c && depthOf s c ≤ queueLen s c) * 2 ^ 30 + bits w 29 29 * 2 ^ 29 +
      bits w 23 16 * 2 ^ 16 + queueLen s c % 128

/-- The read-only words of the pool unit (R102). -/
def poolView (s : State) (a : Nat) : Option Nat :=
  let p := s.field 0x20070 10 8
  let o := if s.field 0x20070 6 6 = 1 then unreserved else s.field 0x20070 5 0
  if 0x20010 ≤ a && a < 0x20028 then some (freeCount s ((a - 0x20010) / 4))
  else if 0x20030 ≤ a && a < 0x20048 then some (poolAt s ((a - 0x20030) / 4)).low
  else if 0x20050 ≤ a && a < 0x20068 then some (poolAt s ((a - 0x20050) / 4)).count
  else if a = 0x20074 then some (heldBy s p o)
  else if a = 0x20078 then some (minOf s p o)
  else if a = 0x2008C then some (sumNat (s.pools.pools.map (·.withdrawn)))
  else if 0x20104 ≤ a && a < 0x20140 then some (qstat s ((a - 0x20100) / 4))
  else none

/-! ### The stations -/

/-- The pair that an array holds, in its pre-pass, accumulation or drain (R127); a poisoned row block and an empty half pass
without the array (R111, R126). -/
def arrayPair (s : State) (n : Nat) : Option (BlockId × Nat) :=
  (pairNow s n).filter (fun x => (blockAt s x.1).any (fun b => b.rows ≠ 0 && !(b.input s).any poisoned))

/-- SCORE_STATUS (R127). -/
def scoreStatus (s : State) : Nat :=
  (match arrayPair s 0 with
    | some (k, _) => k.layer * 2 ^ 16 + k.half * 2 ^ 8
    | none => s.field 0x30000 23 16 * 2 ^ 16 + s.field 0x30000 8 8 * 2 ^ 8) +
    b2n (arrayPair s 1).isSome * 2 + b2n (arrayPair s 0).isSome

/-- SFU u serves GATE (R155, R156): GATE's row block is ready, and NORM's does not go first. -/
def sfuGates (s : State) (u : Nat) : Bool := bit (bindOf s 4) u && gateReady s && !normFirst s

/-- SFU u serves NORM. -/
def sfuNorms (s : State) (u : Nat) : Bool := bit (bindOf s 2) u && (normNext s).isSome && !sfuGates s u

/-- SFU_STATUS (R156). -/
def sfuStatus (s : State) : Nat :=
  sumNat ((List.range 2).map (fun u => b2n (sfuGates s u) * 2 ^ (4 + u) + b2n (sfuGates s u || sfuNorms s u) * 2 ^ u))

/-- SEL_STATUS (R189): LAYER and HALF of the row block in the selector, or of the last one. -/
def selStatus (s : State) : Nat :=
  if selReady s then
    match ((stepBlocks s).find? (fun x => x.2.sel.isNone)).map (·.1) with
    | some k => k.layer * 2 ^ 16 + k.half * 2 ^ 8 + 1
    | none => 0
  else s.field 0x40000 23 16 * 2 ^ 16 + s.field 0x40000 8 8 * 2 ^ 8

/-- TALLY_STATUS (R189). -/
def tallyStatus (s : State) : Nat :=
  match tallyAt s with
  | some (l, h, t) => t % 256 * 2 ^ 24 + l % 256 * 2 ^ 16 + h % 2 * 2 ^ 8 + b2n (arrivalOrder s l) * 2 ^ 4 +
      ((halfAt s l h).map (·.tally.phase.code)).getD 0
  | none => b2n ((s.run.map (·.byArrival)).getD false) * 2 ^ 4

/-- Report entries that the landing holds, over the halves not yet decided (R184, R189). -/
def landingNow (s : State) : Nat :=
  sumNat ((s.homes.filter (fun m => !m.decided)).map (fun m => sumNat (m.reports.map (·.entries.length))))

/-- PHASE of SORT_STATUS (R212). -/
def SortPhase.code : SortPhase → Nat
  | .idle => 0
  | .passOne => 2
  | .prefix_ => 3
  | .passTwo => 4

/-- SORT_STATUS (R212): TRIP, LAYER and HALF are kept; PHASE names the half in work, or the map that is due. -/
def sortStatus (s : State) : Nat :=
  let w := (s.word 0x50000).toNat
  let busy := s.halves.any (fun h => h.segments.any (fun g => !g.words.isEmpty))
  let at_ := match s.halves.find? (fun h => !(h.sort == .idle)), mapBuilding s with
    | some h, _ => bits w 23 16 * 2 ^ 16 + h.sort.code
    | none, some l => l * 2 ^ 16 + 1
    | none, none => bits w 23 16 * 2 ^ 16
  bits w 31 24 * 2 ^ 24 + bits w 8 8 * 2 ^ 8 + b2n busy * 2 ^ 4 + at_

/-- The read-only words of the scoring, SFU, selection, tally and sort units. -/
def stationView (s : State) (a : Nat) : Option Nat :=
  match a with
  | 0x30000 => some (scoreStatus s)
  | 0x31000 => some (b2n s.sfuCopying * 2 ^ 16 + s.sfuVersion)
  | 0x31010 => some (sfuStatus s)
  | 0x40000 => some (selStatus s)
  | 0x41004 => some (tallyStatus s)
  | 0x41020 => some (s.field 0x41020 31 16 * 2 ^ 16 + min 65535 (landingNow s / 16))
  | 0x50000 => some (sortStatus s)
  | 0x50004 => some (((s.bucketMaps.getLast?).map (fun m => m.2.length)).getD 0)
  | _ => none

/-! ### The cadastre, the registrar and the collective engine -/

/-- Non-EMPTY slots naming this chip (R243). -/
def resident (s : State) : Nat :=
  sumNat (s.cad.map (fun x => (x.2.filter (fun w => slotState w ≠ 0 && slotChip w = chipId s)).length))

/-- The homed expert that CAD_DEMAND_SEL names, with its counters (R225, R243). -/
def demandSel (s : State) : Option Demand :=
  ((homedExperts s)[s.field 0x60060 7 0]?).map (fun e => (s.demand.find? (fun d => d.expert = e)).getD ⟨e, 0, 0, 0, 0⟩)

/-- REG_STATUS (R273): OLDEST is the oldest generation with orphans, by serial distance (R42). -/
def regStatus (s : State) : Nat :=
  let held := s.orphans.filter (·.hasOut)
  let back := maxNat (held.map (fun t => serialSub 10 s.gen t.gen))
  s.gen * 2 ^ 22 + (s.gen + 1024 - back) % 1024 * 2 ^ 12 + b2n (!held.isEmpty) * 2 ^ 8 + b2n s.raiseDue * 2 ^ 4

/-- The read-only words of the cadastre, registrar and collective engine units. -/
def engineView (s : State) (a : Nat) : Option Nat :=
  match a with
  | 0x60004 => some (resident s % 2 ^ 16 * 2 ^ 16 + s.step_ 0x60040 0 0 * 2 ^ 8 + b2n (!s.quarPending.isEmpty) * 2 ^ 4 + s.lst.stage.code)
  | 0x60064 => some (((demandSel s).map (·.demand)).getD 0 % 2 ^ 32)
  | 0x60068 => some (((demandSel s).map (·.demand)).getD 0 / 2 ^ 32)
  | 0x6006C => some (((demandSel s).map (·.peak)).getD 0)
  | 0x60070 => some (((demandSel s).map (·.expert)).getD 0)
  | 0x80004 => some (regStatus s)
  | 0x80010 => some s.verdict.word
  | 0x80014 => some (s.verdict.step % 2 ^ 32)
  | 0x80018 => some (s.verdict.step / 2 ^ 32)
  | 0x80020 => some (liveLoans s)
  | 0x80024 => some (orphanCount s)
  | 0xA0000 => some (b2n s.cce.ringWait * 2 ^ 8 + s.cce.active.length)
  | 0xA0024 => some (s.cce.tail * 2 ^ 16 + s.cce.head)
  | 0xA0028 => some s.cce.groups.length
  | 0xA002C => some (s.cce.slots * 2 ^ 16 + s.cce.slots / 64)
  | 0xA0030 => some (s.cce.lastCode * 2 ^ 24 + s.cce.lastGroup)
  | 0xA0034 => some s.cce.lastTag
  | _ => none

/-! ### The fabric endpoint and the ports -/

/-- FEP_STATUS (R341). -/
def fepStatus (s : State) : Nat := (portsUp s).length * 2 ^ 24 + s.fep.throttle * 2 ^ 16 + contexts s

/-- FEP_RMA_STATUS (R364). -/
def rmaStatusWord (s : State) : Nat :=
  maxNat (s.rma.map (fun q => q.outs.length)) * 2 ^ 16 + sumNat ((List.range 16).map (fun q => b2n (qEnabled s q) * 2 ^ q))

/-- The read-only words of the fabric endpoint. -/
def fepView (s : State) (a : Nat) : Option Nat :=
  match a with
  | 0xC0000 => some (fepStatus s)
  | 0xC0014 => some (standingUnits s * 2 ^ 16 + s.fep.dynFree)
  | 0xC1000 => some (rmaStatusWord s)
  | 0xC1010 => some s.dedup.entries.length
  | 0xC1014 => some (max s.dedup.entries.length (s.field 0xC1014 16 0))
  | _ =>
    if 0xC1100 ≤ a && a < 0xC1300 then
      let x := queueAt s ((a - 0xC1100) / 0x20)
      match (a - 0xC1100) % 0x20 with
      | 0x0C => some (x.tail * 2 ^ 16 + x.head)
      | 0x10 => some x.seq
      | 0x14 => some (floorOf x)
      | _ => none
    else none

/-- PORTn_STATUS (R312): a bonded link shows the key phase and the stage of its lowest port. -/
def portStatus (s : State) (n : Nat) : Nat :=
  let q := portAt s n
  let m := portAt s (leadOf s n)
  q.state.code * 2 ^ 28 + q.lanes * 2 ^ 16 + b2n m.kph * 2 ^ 12 + q.bonded * 2 ^ 8 + m.stage

/-- The read-only words of a port. -/
def portView (s : State) (a : Nat) : Option Nat :=
  let n := (a - 0x100000) / 0x8000
  match (a - 0x100000) % 0x8000 with
  | 0x4 => if n < 24 then some (portStatus s n) else none
  | 0x24 => if n < 24 then some (txCounter (portAt s (leadOf s n))) else none
  | _ => none

/-! ### The security unit and the trace -/

/-- SEC_STATUS (R414). -/
def secStatus (s : State) : Nat :=
  (if debugOpen s then debugScope s else 0) * 2 ^ 13 + b2n (debugOpen s) * 2 ^ 12 + b2n s.sec.drbgOn * 2 ^ 8 +
    b2n s.sec.cert.isSome * 2 ^ 6 + b2n s.sec.keyList.isSome * 2 ^ 5 +
    b2n (s.sec.certLoad.isSome || s.sec.klLoad.isSome || s.sec.tokenLoad.isSome) * 2 ^ 4 + lifecycle s

/-- SEC_KL_INDEX: the indices present in the list in force and not revoked (R414). -/
def klIndex (s : State) : Nat :=
  let es := (s.sec.keyList.map (·.entries)).getD []
  sumNat (((List.range 16).filter (fun i => i ≠ 0 && es.any (fun e => e.index = i) && !s.fuses.revoke.getLsbD i)).map (2 ^ ·))

/-- The read-only words of the security unit (R414). -/
def secView (s : State) (a : Nat) : Option Nat :=
  match a with
  | 0x200004 => some (secStatus s)
  | 0x20001C => some ((s.sec.keyList.map (·.serial)).getD 0)
  | 0x200020 => some (klIndex s)
  | 0x200060 => some (s.fuses.revoke.toNat * 2 ^ 16 + s.fuses.grade.toNat * 2 ^ 8 + b2n s.fuses.kill)
  | 0x200064 => some (s.fuses.device.toNat % 2 ^ 32)
  | 0x200068 => some (s.fuses.device.toNat / 2 ^ 32)
  | 0x200078 => some s.sec.fails
  | 0x20007C => some (s.sec.lastObject * 2 ^ 8 + s.sec.lastReason)
  | _ =>
    let i := a % 0x40 / 4
    if 0x200050 ≤ a && a < 0x200060 then some (wordOf (s.sec.challenge.getD []) ((a - 0x200050) / 4))
    else if 0x200100 ≤ a && a < 0x200130 then some (wordOf ((devPublic s).drop 1) i)
    else if 0x200140 ≤ a && a < 0x200170 then some (wordOf ((devPublic s).drop 49) i)
    else if 0x200180 ≤ a && a < 0x2001B0 then some (wordOf s.fuses.ownerRoot i)
    else if 0x2001C0 ≤ a && a < 0x2001F0 then some (wordOf s.fuses.mfgRoot i)
    else none

/-- The read-only words of the trace unit (R472). -/
def traceView (s : State) (a : Nat) : Option Nat :=
  match a with
  | 0x300020 => some (s.trace.wr % 2 ^ 26)
  | 0x300024 => some (b2n s.trace.wrapped * 2 ^ 31 + b2n s.trace.full * 2 ^ 30 + b2n (traceOn s) * 2 ^ 29 + s.field 0x300024 0 0)
  | 0x300028 => some s.trace.seq
  | _ => none

/-- What a register shows that is not stored in it. -/
def viewOf (s : State) (a : Nat) : Option Nat :=
  if a < 0x10000 then globalView s a
  else if a < 0x20000 then platView s a
  else if a < 0x30000 then poolView s a
  else if a < 0x60000 then stationView s a
  else if a < 0xC0000 then engineView s a
  else if a < 0x100000 then fepView s a
  else if a < 0x200000 then portView s a
  else if a < 0x300000 then secView s a
  else traceView s a

end Sys2Proof.Machine
end

