-- ==== Sys2Proof/Machine/Operands.lean ====
section
/-! DEFINITION. The operands of a register access: the unit of an address (R457), the privileged registers (R68), the values
a register permits (R8, R70) and the writes refused in the present state. -/
namespace Sys2Proof.Machine
open Sys2Proof

/-- The base of the unit that holds an offset (R457). -/
def unitOf (a : Nat) : Nat :=
  if a < 0x10000 then uSde
  else if a < 0x20000 then uPlat
  else if a < 0x30000 then uPool
  else if a < 0x31000 then uScore
  else if a < 0x40000 then uSfu
  else if a < 0x41000 then uSel
  else if a < 0x50000 then uTally
  else if a < 0x60000 then uSort
  else if a < 0x80000 then uCad
  else if a < 0x81000 then uReg
  else if a < 0xA0000 then uComb
  else if a < 0xC0000 then uCce
  else if a < 0x100000 then uFep
  else if a < 0x200000 then uPort ((a - 0x100000) / 0x8000)
  else if a < 0x300000 then uSec
  else uTrace

/-- An offset of a remote access queue's register `o` (R364). -/
def isQueueReg (a o : Nat) : Bool := 0xC1100 ≤ a && a < 0xC1300 && (a - 0xC1100) % 0x20 = o

/-- The queue of an offset. -/
def queueIx (a : Nat) : Nat := (a - 0xC1100) / 0x20

/-- An offset among the registers of the remote access windows. -/
def isWindowReg (a : Nat) : Bool := 0xC1300 ≤ a && a < 0xC1380

/-- The base offset of a window's registers. -/
def windowBase (a : Nat) : Nat := a - (a - 0xC1300) % 0x20

/-- An offset of the security unit. -/
def isSecReg (a : Nat) : Bool := 0x200000 ≤ a && a < 0x300000

/-- The privileged registers (R68). -/
def privileged (a : Nat) : Bool :=
  [0x10000, 0x60000, 0x100, 0x200, 0x300, 0x404, 0x260, 0xA0020].contains a || (0x2C0 ≤ a && a < 0x2F0) ||
    isQueueReg a 0x18 || isQueueReg a 0x08 || isWindowReg a || isSecReg a

/-- The bits that the fields of a register cover. -/
def fieldMask (a : Nat) : Nat := (fieldsAt a).foldl (fun m f => m ||| ((2 ^ (f.hi + 1 - f.lo) - 1) * 2 ^ f.lo)) 0

/-- A register has a field that a write can change or act through (R16). -/
def writable (a : Nat) : Bool :=
  (fieldsAt a).any (fun f => match f.acc with
    | .ro => false
    | .rc => false
    | _ => true)

/-- A value in a range. -/
def within (v lo hi : Nat) : Bool := lo ≤ v && v ≤ hi

/-- FEP_BOND names no reserved mode (R341). -/
def bondOk (v : Nat) : Bool := (List.range 6).all (fun j => bits v (2 * j + 1) (2 * j) ≠ 3)

/-- A window that is enabled has its base below its limit (R364), whichever of its registers is written. -/
def windowOk (s : State) (a v : Nat) : Bool :=
  let w := windowBase a
  let r := fun (o : Nat) => if a = w + o then v else (s.word (w + o)).toNat
  !bit (r 0x10) 0 || r 0x4 * 2 ^ 32 + r 0x0 < r 0xC * 2 ^ 32 + r 0x8

/-- The values that a register's own map permits, the reserved bits apart (R70). -/
def valueOk (s : State) (a v : Nat) : Bool :=
  match a with
  | 0x14 => v ≠ 0
  | 0x41030 => v ≠ 0
  | 0xA0080 => v ≠ 0
  | 0xC0060 => within v 1 4096
  | 0xC0064 => within v 1 4096
  | 0xC0068 => within v 1 4096
  | 0xC006C => within v 1 4096
  | 0x6000C => bits v 23 0 ≠ 0
  | 0x208 => within v 1024 65535
  | 0x248 => within v 4 16
  | 0x250 => v ≠ 3
  | 0x270 => within v 4 12
  | 0x40C => v ≤ 256
  | 0x404 => v ≠ 3
  | 0x20070 => bits v 10 8 ≤ 5
  | 0x60018 => within v 1 16384
  | 0xA0018 => within v 4 12
  | 0xC000C => within v 1000 1000000
  | 0xC0010 => bondOk v
  | 0xC1004 => within v 10000 16000000
  | 0xC100C => within v 100 65535
  | _ =>
    if isQueueReg a 0x08 then within (bits v 11 8) 4 12
    else if isWindowReg a then windowOk s a v
    else true

/-- SDE_TB_SET_HI is writable like SDE_TB_SET_LO (R439). -/
def tbSetRefusal (s : State) : Option Nat :=
  match s.boot.stage with
  | .identify => none
  | .links => none
  | .calibrate => some 0x1B
  | .ready => some 0x1B
  | .running => some 0x1B
  | _ => some 0x03

/-- The code with which a write is refused in the present state (R279, R364, R389, R435, R439, R450). -/
def writeRefusal (s : State) (a v : Nat) : Option Nat :=
  if (a = 0x320 || a = 0x324) && noteLog2 s ≠ 0 then some 0x03
  else if (a = 0xA0010 || a = 0xA0014 || a = 0xA0018) && s.cce.head ≠ s.cce.tail then some 0x03
  else if (isQueueReg a 0x00 || isQueueReg a 0x04) && qEnabled s (queueIx a) then some 0x03
  else if isQueueReg a 0x08 && qEnabled s (queueIx a) && bits v 11 8 ≠ s.field a 11 8 then some 0x03
  else if a = 0x41C then tbSetRefusal s
  else if (a = 0x408 || a = 0x40C) && !(s.boot.stage == .identify) then some 0x1B
  else if a = 0x214 && s.boot.firstDatumDone then some 0x1B
  else none

/-- The word that a write leaves in a register (R16): RW and SH fields take the value, W1C fields clear. -/
def writtenWord (s : State) (a v : Nat) : Word32 :=
  (fieldsAt a).foldl (fun w f => match f.acc with
    | .rw => putBits w f.hi f.lo (bits v f.hi f.lo)
    | .sh => putBits w f.hi f.lo (bits v f.hi f.lo)
    | .w1c => w &&& ~~~(BitVec.ofNat 32 (bits v f.hi f.lo * 2 ^ f.lo))
    | _ => w) (s.word a)

end Sys2Proof.Machine
end

