-- ==== Sys2Proof/Machine/Registers.lean ====
section
/-! DEFINITION. Register accesses and the trace (R15 to R18, R68, R409, R457, R458, R463 to R472): READ_CLEAR,
REGISTER_WRITE, DBG_REG, DBG_SRAM, TRACE_WRITE and TRACE_WINDOW_READ. -/
namespace Sys2Proof.Machine
open Sys2Proof

/-! ### Reads -/

/-- The trace region's bytes (R51). -/
def traceBytes (s : State) : Nat := traceLen (partitionLive s)

/-- A word of the trace page window (R471). -/
def traceWord (s : State) (a : Nat) : Word32 :=
  let off := 524288 * s.field 0x300040 5 0 + (a - 0x380000)
  if off + 4 ≤ traceBytes s then BitVec.ofNat 32 (leNat (memBytes s.trace.ring off 4)) else 0

/-- The word that a read returns (R15 to R18, R243, R471): WO fields read zero. -/
def readWord (s : State) (a : Nat) : Word32 :=
  if 0x380000 ≤ a && a < 0x400000 then traceWord s a
  else if 0x400000 ≤ a && a < 0xC00000 then windowWord s a
  else if (fieldsAt a).isEmpty then 0
  else match viewOf s a with
    | some v => BitVec.ofNat 32 v
    | none => s.word a

/-- RC fields clear in the access that reads them (R16). -/
def clearRead (a : Nat) (s : State) : State :=
  (fieldsAt a).foldl (fun s f => match f.acc with
    | .rc => s.setField a f.hi f.lo 0
    | _ => s) s

/-- A read of the control bus (R16, R68, R439, R458): a misaligned one returns zero, and so does an unprivileged one of
the security unit; neither clears a field (DESIGN CHOICE, log entry 51). -/
def busReadAt (priv : Bool) (a : Nat) (s : State) : Word32 × State :=
  if a % 4 ≠ 0 || (isSecReg a && !priv) then (0, s)
  else if a = 0x410 then tbLoRead s
  else (readWord s a, clearRead a s)

/-- An offset of the trace page window (R471). -/
def inTraceWindow (a : Nat) : Bool := 0x380000 ≤ a && a < 0x400000

/-- The read needs a cadastre entry that is being fetched from a peer (R220). -/
def readWaits (s : State) (a : Nat) : Bool :=
  0x400000 ≤ a && a < 0xC00000 && s.cadRefetch.any (fun r => r.entry = (a - 0x400000) / 32)

/-- READ_CLEAR (R16): a read of the control bus. One of a cadastre entry that reads uncorrectable waits for it (R220), one
of a trace word returns the bits as read and sets TRACE_STATUS.UNCORR (R471). -/
def readClear (priv : Bool) (a : Nat) (errs : Errs) (s0 : State) : State :=
  let s := takeErrors errs s0
  if readWaits s a then s
  else
    let s1 := if inTraceWindow a && lostIn 5 errs then s.setField 0x300024 0 0 1 else s
    emitOut (.busRead (busReadAt priv a s1).1) (busReadAt priv a s1).2

/-- READ_CLEAR. -/
def execReadClear (priv : Bool) (addr : Nat) (s : State) (errs : Errs := []) : Host.Outcome State Fault Refusal :=
  .next (readClear priv addr errs s)

/-- TRACE_WINDOW_READ (R471): a word that reads uncorrectable is returned as read, counted with its bank, and sets
TRACE_STATUS.UNCORR. -/
def traceWindowRead (a : Nat) (uncorr : Bool) (s : State) : State :=
  if inTraceWindow a && a % 4 = 0 then
    let off := 524288 * s.field 0x300040 5 0 + (a - 0x380000)
    let s1 := if uncorr then (countSram true (bankAt s 5 off) s).setField 0x300024 0 0 1 else s
    emitOut (.busRead (traceWord s a)) s1
  else s

/-- TRACE_WINDOW_READ. -/
def execTraceWindowRead (addr : Nat) (uncorr : Bool) (s : State) : Host.Outcome State Fault Refusal :=
  .next (traceWindowRead addr uncorr s)

/-! ### Writes -/

/-- PORTn_CTRL (R312, R341): a change of DISABLE, then of LOOPBACK, then RETRAIN. -/
def portCtrl (n v : Nat) (s : State) : State :=
  let s1 := if bit v 0 = portDisabled s n then s else disable n (bit v 0) s
  let s2 := if bit v 2 = (s1.field (uPort n) 2 2 = 1) then s1 else loopback n (bit v 2) s1
  if bit v 1 then retrain n s2 else s2

/-- One action of a register that names several: the code of R8, R63 or R231 when more than one is set. -/
def oneAction (unit code v : Nat) (acts : List (State → State)) (s : State) : State :=
  match (List.range acts.length).filter (bit v) with
  | [] => s
  | [i] => (acts.getD i id) s
  | _ => record unit code s

/-- The effect of a write to a register whose write is a command of its own (R16). -/
def actionWrite (a : Nat) (w : Word32) : Option (State → State) :=
  let v := w.toNat
  match a with
  | 0x100 => some (doCommit w)
  | 0x200 => some (fun s => if bit v 0 then doGo s else s)
  | 0x210 => some (stepLo w)
  | 0x260 => some (fun s => if bit v 0 then askCheckpoint s else s)
  | 0x300 => some (if bit v 31 then unfenceWrite (bits v 13 0) else fenceWrite (bits v 13 0))
  | 0x328 => some (noteSizeWrite w)
  | 0x330 => some (noteRdWrite w)
  | 0x404 => some (oneAction uSde 0x1F v [bootLinks, bootCalibrate])
  | 0x418 => some (tbSetLo w)
  | 0x10000 => some (oneAction uPlat 0x08 v [ldrLoad, ldrActivate, ldrDisarm, ldrAbandon])
  | 0x20000 => some (fun s => if bit v 0 then lowRearm s else s)
  | 0x31004 => some (sfuTableSel w)
  | 0x60000 => some (oneAction uCad 0x11 v [listStage, listArm, listDisarm])
  | 0x60030 => some (cadQuarantine w)
  | 0x80000 => some (fun s => if bit v 0 then freeOrphans s else s)
  | 0x8000C => some (fun s => if bit v 0 then cancel s else s)
  | 0xA0020 => some (cceDoorbell w ⟨[], []⟩)
  | 0x200000 => some (oneAction uSec 0x1F v [fun s => deliver (.memory (s.addr64 0x200040 0x200044)) s, klLoad, certLoad, drawChallenge])
  | _ =>
    if 0x2C0 ≤ a && a < 0x2F0 then some (rlogStart ((a - 0x2C0) / 4) w)
    else if isQueueReg a 0x18 then some (rmaDoorbell (queueIx a) w ⟨[], []⟩)
    else if 0x100000 ≤ a && a < 0x1C0000 && a % 0x8000 = 0 then some (portCtrl ((a - 0x100000) / 0x8000) v)
    else none

/-- A write that has passed R8, R15 and R68. -/
def legalWrite (a : Nat) (w : Word32) (s : State) : State :=
  match writeRefusal s a w.toNat with
  | some c => record (unitOf a) c s
  | none =>
    match actionWrite a w with
    | some f => f s
    | none => s.setWord a (writtenWord s a w.toNat)

/-- A write of the control bus (R8, R15, R16, R68, R70, R458). DESIGN CHOICE (log entry 50): a reserved bit written as 1 is
illegal by R8 in a register that has a field a write can change; a register without one, all its bits RO or RC, ignores the
write without an error (R16), its reserved bits included. -/
def busWrite (priv : Bool) (a width : Nat) (w : Word32) (s : State) : State :=
  if width ≠ 32 || a % 4 ≠ 0 || (fieldsAt a).isEmpty then s
  else if privileged a && !priv then record (unitOf a) 0x02 s
  else if !writable a then s
  else if w.toNat &&& fieldMask a ≠ w.toNat || !valueOk s a w.toNat then record (unitOf a) 0x1F s
  else legalWrite a w s

/-- REGISTER_WRITE (R16). -/
def execRegisterWrite (priv : Bool) (addr width : Nat) (value : Word32) (s : State) : Host.Outcome State Fault Refusal :=
  .next (busWrite priv addr width value s)

/-! ### Debug reads (R409, R455) -/

/-- DBG_REG: a register read while debug is open with that scope; otherwise as BYPASS. -/
def execDbgReg (addr : Nat) (s : State) : Host.Outcome State Fault Refusal :=
  .next (if bit (debugScope s) 0 then
      let r := busReadAt true addr s
      emitOut (.tap 32 r.1.toNat) { r.2 with tap := { r.2.tap with ir := 0x22, extest := false } }
    else tapBypass 0x22 s)

/-- The region of R51 that a byte of the SRAM belongs to, and its offset there (R76). -/
def sramOff (s : State) (a : Nat) : Nat × Nat :=
  let r := ((List.range 8).find? (fun r => a / granule < regionStart s r + regionGranules s r)).getD 7
  let begins := regionStart s r * granule
  let head := regionHead s r * granule
  let first := (regionStart s r + regionHead s r) / 2
  let w := regionBanks s r
  if a < begins + head then (r, a - begins)
  else if a / (2 * granule) < first + w then
    (r, head + (a % (2 * granule) / 128 * w + (a / (2 * granule) - first)) * 128 + a % 128)
  else (r, head + w * (2 * granule) + (a - (first + w) * (2 * granule)))

/-- The image of a SELECTION tile (R161). -/
def SelTile.image (t : SelTile) : Bytes := t.hdr.bytes ++ padTo 64 (t.rows.flatten.flatMap (fun e => leBytes 16 e.word))

/-- The tiles of a row block that stand in buffers. -/
def Block.held (b : Block) : List (Option (Nat × Nat) × Bytes) :=
  (b.token ++ b.norm.getD [] ++ b.score ++ b.gate.getD []).map (fun t => (t.buf, tileImage t.hdr [] t.elems t.scales)) ++
    (match b.sel with
      | some t => [(t.buf, t.image)]
      | none => [])

/-- The buffers of the pool with what the block has written there (R29, R31, R195, R197). -/
def buffersHeld (s : State) : List (Option (Nat × Nat) × Bytes) :=
  s.halves.flatMap (fun h => h.blocks.flatMap Block.held ++
      h.segments.map (fun g => (g.buf, g.words.flatMap (fun w => leBytes 8 w.toNat))) ++
      h.sendQ.map (fun g => (g.buf, g.image))) ++
    (s.ingestHeld ++ s.collectHeld).map (fun t => (some t.buf, t.image)) ++
    s.recv.map (fun g => (some (g.pool, g.ptr), g.image)) ++
    (s.fep.waiting.filter (fun m => m.off = 0)).map (fun m => (m.tie.buf, m.payload))

/-- The 8 bytes at an offset of the buffer pool, where they belong to a buffer whose contents the state holds. -/
def poolWordAt (s : State) (off : Nat) : Option Nat :=
  match (List.range 6).find? (fun p => poolBase s p ≤ off && off < poolBase s p + (poolAt s p).count * Config.poolSizes.getD p 0) with
  | none => none
  | some p =>
    let size := Config.poolSizes.getD p 1
    let o := off - poolBase s p
    match (buffersHeld s).find? (fun x => x.1 = some (p, o / size)) with
    | some x => if o % size + 8 ≤ x.2.length then some (leAt x.2 (o % size) 8) else none
    | none => none

/-- A 64-bit word of the SRAM, where the state holds it: tiles, groups, records and list segments in the buffer pool, the
cadastre (R215), and the trace ring (R463). -/
def sramHeld (s : State) (a : Nat) : Option Word64 :=
  let x := sramOff s (a / 8 * 8)
  match x.1 with
  | 0 => (poolWordAt s x.2).map (BitVec.ofNat 64)
  | 3 =>
    let e := cadEntry s (x.2 / 32)
    let i := x.2 % 32 / 4
    some (BitVec.ofNat 64 ((e.getD i 0).toNat + (e.getD (i + 1) 0).toNat * 2 ^ 32))
  | 5 => some (BitVec.ofNat 64 (leNat (memBytes s.trace.ring x.2 8)))
  | _ => none

/-- DBG_SRAM: an SRAM word while debug is open with that scope; otherwise as BYPASS. A word that the block has written and
the state holds is returned; any other is a free value, since the manual lays out no more of the SRAM (log entry 52). An
address beyond the SRAM of R75 faults. -/
def execDbgSram (addr : Nat) (s : State) : Host.Outcome State Fault Refusal :=
  if bit (debugScope s) 1 then
    if Config.sramBytes ≤ addr then .fault .sramAbsent
    else
      let f := s.fresh
      let w := (sramHeld s addr).getD (Config.sramWord addr f.1)
      .next (emitOut (.tap 64 w.toNat) { f.2 with tap := { f.2.tap with ir := 0x23, extest := false } })
  else .next (tapBypass 0x23 s)

/-! ### The trace writer (R463 to R467) -/

/-- One 32-byte trace record (R465). -/
def traceRecord (type lane event seq tb arg : Nat) : Bytes :=
  leBytes 1 type ++ leBytes 1 lane ++ leBytes 2 event ++ leBytes 4 seq ++ leBytes 8 tb ++ leBytes 16 arg

/-- Write a record at WR; the record that ends at LIMIT is followed by BASE, or stops the writer (R463). -/
def putRecord (bs : Bytes) (s : State) : State :=
  let t := s.trace
  let ring := memPut t.ring t.wr bs
  let seq := (t.seq + 1) % 2 ^ 32
  if t.wr + 32 < s.live 0x300014 25 6 * 64 then { s with trace := { t with ring := ring, seq := seq, wr := t.wr + 32 } }
  else if s.field 0x300000 8 8 = 1 then { s with trace := { t with ring := ring, seq := seq, wr := t.wr + 32, full := true } }
  else { s with trace := { t with ring := ring, seq := seq, wr := s.live 0x300010 24 6 * 64, wrapped := true } }

/-- The lane that is served next (R464). -/
def nextLane (t : Trace) : Option Nat :=
  ((List.range 8).map (fun i => (t.last + 1 + i) % 8)).find? (fun n => !(t.lanes.getD n []).isEmpty)

/-- The record of a lane's item (R465, R466); a CAIRN is counted in TRACE_CAIRNS and TRACE_LOST. -/
def writeItem (n : Nat) (i : LaneItem) (s : State) : State :=
  match i with
  | .event code tick arg => putRecord (traceRecord 1 n code s.trace.seq tick arg) s
  | .cairn count corrupt first =>
    ((putRecord (traceRecord 2 n 0 s.trace.seq s.tb (count + b2n corrupt * 2 ^ 16 + first % 2 ^ 32 * 2 ^ 32)) s).bump 0x30002C 1).bump
      0x300030 count

/-- The word at the head of a lane reads uncorrectable (R94). -/
def laneLost (n : Nat) (es : Errs) : Bool :=
  es.any (fun e => match e.place with
    | .lane m => e.fatal && m = n
    | _ => false)

/-- The item that a lane delivers (R94): a word that reads uncorrectable is a cairn with COUNT 1 and CORRUPT, whose TB_FIRST
the manual does not give (a free value). -/
def delivered (n : Nat) (i : LaneItem) (errs : Errs) (s : State) : LaneItem × State :=
  if laneLost n errs then
    let f := s.fresh
    (.cairn 1 true (Config.corruptTick f.1).toNat, f.2)
  else (i, s)

/-- TRACE_WRITE (R464, R467): one record, a marker ahead of every lane; nothing once the writer has stopped. -/
def traceWrite (errs : Errs) (s0 : State) : State :=
  let s := takeErrors errs s0
  if s.trace.full || !traceOn s then s
  else match s.trace.marker with
    | some (tick, arg) =>
      putRecord (traceRecord 3 0xF 0 s.trace.seq tick arg) { s with trace := { s.trace with marker := none } }
    | none =>
      match nextLane s.trace with
      | none => s
      | some n =>
        match s.trace.lanes.getD n [] with
        | [] => s
        | i :: rest =>
          let d := delivered n i errs s
          writeItem n d.1 { d.2 with trace := { d.2.trace with last := n, lanes := modifyAt (fun _ => rest) n d.2.trace.lanes } }

/-- TRACE_WRITE. -/
def execTraceWrite (s : State) (errs : Errs := []) : Host.Outcome State Fault Refusal := .next (traceWrite errs s)

end Sys2Proof.Machine
end

