-- ==== Sys2Proof/Machine/Dispatch.lean ====
section
/-! DEFINITION. The dispatch: one arm for each command, a direct call of its meaning. -/
namespace Sys2Proof.Machine
open Sys2Proof

def exec (i : Instr) (s : State) : Host.Outcome State Fault Refusal :=
  match i with
  | .load priv => Sys2Proof.Machine.execLoad priv s
  | .abandon priv => Sys2Proof.Machine.execAbandon priv s
  | .activate priv => Sys2Proof.Machine.execActivate priv s
  | .disarm priv => Sys2Proof.Machine.execDisarm priv s
  | .platLoadDone env => Sys2Proof.Machine.execPlatLoadDone env s
  | .commit priv value => Sys2Proof.Machine.execCommit priv value s
  | .sfuTableSel value => Sys2Proof.Machine.execSfuTableSel value s
  | .sfuTableCopyDone => Sys2Proof.Machine.execSfuTableCopyDone s
  | .stage priv => Sys2Proof.Machine.execStage priv s
  | .listCheckDone env => Sys2Proof.Machine.execListCheckDone env s
  | .arm priv => Sys2Proof.Machine.execArm priv s
  | .listDisarm priv => Sys2Proof.Machine.execListDisarm priv s
  | .cadQuarantine value => Sys2Proof.Machine.execCadQuarantine value s
  | .lowRearm => Sys2Proof.Machine.execLowRearm s
  | .freeOrphans => Sys2Proof.Machine.execFreeOrphans s
  | .cancel => Sys2Proof.Machine.execCancel s
  | .cceDoorbell priv value env => Sys2Proof.Machine.execCceDoorbell priv value s env
  | .rmaDoorbell priv q value env => Sys2Proof.Machine.execRmaDoorbell priv q value env s
  | .retrain port => Sys2Proof.Machine.execRetrain port s
  | .loopback port on => Sys2Proof.Machine.execLoopback port on s
  | .disable port on => Sys2Proof.Machine.execDisable port on s
  | .go priv => Sys2Proof.Machine.execGo priv s
  | .checkpoint priv => Sys2Proof.Machine.execCheckpoint priv s
  | .rlogStart priv n value => Sys2Proof.Machine.execRlogStart priv n value s
  | .fence priv chip => Sys2Proof.Machine.execFence priv chip s
  | .unfence priv chip => Sys2Proof.Machine.execUnfence priv chip s
  | .links priv => Sys2Proof.Machine.execLinks priv s
  | .calibrate priv => Sys2Proof.Machine.execCalibrate priv s
  | .tbSetLo value => Sys2Proof.Machine.execTbSetLo value s
  | .stepLo value => Sys2Proof.Machine.execStepLo value s
  | .chalNew priv => Sys2Proof.Machine.execChalNew priv s
  | .certLoad priv => Sys2Proof.Machine.execCertLoad priv s
  | .certCheckDone env => Sys2Proof.Machine.execCertCheckDone env s
  | .klLoad priv => Sys2Proof.Machine.execKlLoad priv s
  | .keylistCheckDone env => Sys2Proof.Machine.execKeylistCheckDone env s
  | .tokenLoad priv => Sys2Proof.Machine.execTokenLoad priv s
  | .tokenCheckDone env => Sys2Proof.Machine.execTokenCheckDone env s
  | .noteRd value => Sys2Proof.Machine.execNoteRd value s
  | .noteSize value => Sys2Proof.Machine.execNoteSize value s
  | .readClear priv addr errs => Sys2Proof.Machine.execReadClear priv addr s errs
  | .tbLoRead => Sys2Proof.Machine.execTbLoRead s
  | .registerWrite priv addr width value => Sys2Proof.Machine.execRegisterWrite priv addr width value s
  | .extest cells => Sys2Proof.Machine.execExtest cells s
  | .idcode => Sys2Proof.Machine.execIdcode s
  | .samplePreload cells => Sys2Proof.Machine.execSamplePreload cells s
  | .bypass opcode => Sys2Proof.Machine.execBypass opcode s
  | .dbgChal => Sys2Proof.Machine.execDbgChal s
  | .dbgUnlock token => Sys2Proof.Machine.execDbgUnlock token s
  | .dbgReg addr => Sys2Proof.Machine.execDbgReg addr s
  | .dbgSram addr => Sys2Proof.Machine.execDbgSram addr s
  | .dbgHalt => Sys2Proof.Machine.execDbgHalt s
  | .tapReset => Sys2Proof.Machine.execTapReset s
  | .chipReset => Sys2Proof.Machine.execChipReset s
  | .powerOnReset => Sys2Proof.Machine.execPowerOnReset s
  | .resetRelease slot => Sys2Proof.Machine.execResetRelease slot s
  | .fuseReadDone image => Sys2Proof.Machine.execFuseReadDone image s
  | .selftestDone fails romOk => Sys2Proof.Machine.execSelftestDone fails romOk s
  | .rclkLock => Sys2Proof.Machine.execRclkLock s
  | .timebaseTimeout => Sys2Proof.Machine.execTimebaseTimeout s
  | .calibrationDone result => Sys2Proof.Machine.execCalibrationDone result s
  | .holdover => Sys2Proof.Machine.execHoldover s
  | .throttleRequest sclk step => Sys2Proof.Machine.execThrottleRequest sclk step s
  | .emergencyThrottle sclk => Sys2Proof.Machine.execEmergencyThrottle sclk s
  | .tbExhausted => Sys2Proof.Machine.execTbExhausted s
  | .drbgReseed => Sys2Proof.Machine.execDrbgReseed s
  | .entropyFail => Sys2Proof.Machine.execEntropyFail s
  | .datumBegin env => Sys2Proof.Machine.execDatumBegin env s
  | .cadastreCheckDone env => Sys2Proof.Machine.execCadastreCheckDone env s
  | .agreementResult lanes => Sys2Proof.Machine.execAgreementResult lanes s
  | .poolsBuild => Sys2Proof.Machine.execPoolsBuild s
  | .cadastreReloadDone env => Sys2Proof.Machine.execCadastreReloadDone env s
  | .listSwitchReadDone env => Sys2Proof.Machine.execListSwitchReadDone env s
  | .startRoundResult latest refused => Sys2Proof.Machine.execStartRoundResult latest s refused
  | .stepStart => Sys2Proof.Machine.execStepStart s
  | .datumTimeout => Sys2Proof.Machine.execDatumTimeout s
  | .genRaiseDue => Sys2Proof.Machine.execGenRaiseDue s
  | .bucketMapBuild layer errs => Sys2Proof.Machine.execBucketMapBuild layer errs s
  | .tokenTileArrive port tile errs => Sys2Proof.Machine.execTokenTileArrive port tile s errs
  | .normTile blk env errs => Sys2Proof.Machine.execNormTile blk s env errs
  | .anchorPrepassDone blk array col env errs => Sys2Proof.Machine.execAnchorPrepassDone blk array col env s errs
  | .scorePairDone blk array col env errs => Sys2Proof.Machine.execScorePairDone blk array col env s errs
  | .tierLineUncorr addr env => Sys2Proof.Machine.execTierLineUncorr addr env s
  | .gateRowBlock blk errs => Sys2Proof.Machine.execGateRowBlock blk s errs
  | .selectRowBlock blk errs => Sys2Proof.Machine.execSelectRowBlock blk s errs
  | .tallyCount blk errs => Sys2Proof.Machine.execTallyCount blk s errs
  | .tallyScanEnd layer half errs => Sys2Proof.Machine.execTallyScanEnd layer half s errs
  | .tallyCloseContribute layer half errs => Sys2Proof.Machine.execTallyCloseContribute layer half s errs
  | .tallyReport src msg errs => Sys2Proof.Machine.execTallyReport src msg s errs
  | .tallyClose layer half errs => Sys2Proof.Machine.execTallyClose layer half s errs
  | .tallyGrant src msg errs => Sys2Proof.Machine.execTallyGrant src msg s errs
  | .tripAgreement layer half value => Sys2Proof.Machine.execTripAgreement layer half value s
  | .tallyTimeout => Sys2Proof.Machine.execTallyTimeout s
  | .replicaNotice src msg errs => Sys2Proof.Machine.execReplicaNotice src msg s errs
  | .sortStart layer half errs => Sys2Proof.Machine.execSortStart layer half s errs
  | .sortPhaseEnd layer half errs => Sys2Proof.Machine.execSortPhaseEnd layer half s errs
  | .groupWrite layer half errs => Sys2Proof.Machine.execGroupWrite layer half s errs
  | .sendGroup layer half errs => Sys2Proof.Machine.execSendGroup layer half s errs
  | .groupReceive src port step msg errs => Sys2Proof.Machine.execGroupReceive src port step msg s errs
  | .feedWaitTimeout port errs => Sys2Proof.Machine.execFeedWaitTimeout port s errs
  | .collectTile port tile errs => Sys2Proof.Machine.execCollectTile port tile s errs
  | .output src msg errs => Sys2Proof.Machine.execOutput src msg s errs
  | .recall src msg errs => Sys2Proof.Machine.execRecall src msg s errs
  | .refuse src msg errs => Sys2Proof.Machine.execRefuse src msg s errs
  | .combineRow layer half slot errs => Sys2Proof.Machine.execCombineRow layer half slot s errs
  | .emitTile layer half errs => Sys2Proof.Machine.execEmitTile layer half s errs
  | .verdictContribute => Sys2Proof.Machine.execVerdictContribute s
  | .verdict code errs => Sys2Proof.Machine.execVerdict code s errs
  | .checkpointSigned errs => Sys2Proof.Machine.execCheckpointSigned s errs
  | .stepTimeout => Sys2Proof.Machine.execStepTimeout s
  | .abort src msg => Sys2Proof.Machine.execAbort src msg s
  | .quarantineNotice src msg => Sys2Proof.Machine.execQuarantineNotice src msg s
  | .fenceNotice src msg => Sys2Proof.Machine.execFenceNotice src msg s
  | .isolation => Sys2Proof.Machine.execIsolation s
  | .peerWaitTimeout peer => Sys2Proof.Machine.execPeerWaitTimeout peer s
  | .probe src msg => Sys2Proof.Machine.execProbe src msg s
  | .probeAnswer src msg => Sys2Proof.Machine.execProbeAnswer src msg s
  | .probeTimeout peer => Sys2Proof.Machine.execProbeTimeout peer s
  | .mgmtRead src msg errs => Sys2Proof.Machine.execMgmtRead src msg s errs
  | .mgmtReadAnswer src msg => Sys2Proof.Machine.execMgmtReadAnswer src msg s
  | .cadRefetchTimeout => Sys2Proof.Machine.execCadRefetchTimeout s
  | .time src msg => Sys2Proof.Machine.execTime src msg s
  | .timeAnswer src msg => Sys2Proof.Machine.execTimeAnswer src msg s
  | .allocGrant pool errs => Sys2Proof.Machine.execAllocGrant pool s errs
  | .frameSend port => Sys2Proof.Machine.execFrameSend port s
  | .frameReceive port frame corrected => Sys2Proof.Machine.execFrameReceive port frame s corrected
  | .replayTimeout port => Sys2Proof.Machine.execReplayTimeout port s
  | .packetReceive port packet => Sys2Proof.Machine.execPacketReceive port packet s
  | .ack src entry => Sys2Proof.Machine.execAck src entry s
  | .ackTimer peer lc => Sys2Proof.Machine.execAckTimer peer lc s
  | .retransmitTimeout peer lc psn => Sys2Proof.Machine.execRetransmitTimeout peer lc psn s
  | .grantReq src entry => Sys2Proof.Machine.execGrantReq src entry s
  | .grant src entry => Sys2Proof.Machine.execGrant src entry s
  | .grantIdleTimeout peer lc => Sys2Proof.Machine.execGrantIdleTimeout peer lc s
  | .pinnedFlowMove peer lc => Sys2Proof.Machine.execPinnedFlowMove peer lc s
  | .throttleStepFall => Sys2Proof.Machine.execThrottleStepFall s
  | .lossOfSignal port => Sys2Proof.Machine.execLossOfSignal port s
  | .signalPresent port => Sys2Proof.Machine.execSignalPresent port s
  | .lanesTrained port lanes delay => Sys2Proof.Machine.execLanesTrained port lanes delay s
  | .keyingEnter port => Sys2Proof.Machine.execKeyingEnter port s
  | .trainTimeout port => Sys2Proof.Machine.execTrainTimeout port s
  | .keyingTimeout port => Sys2Proof.Machine.execKeyingTimeout port s
  | .hello port msg => Sys2Proof.Machine.execHello port msg s
  | .finish port msg advert => Sys2Proof.Machine.execFinish port msg advert s
  | .rekeyStart port => Sys2Proof.Machine.execRekeyStart port s
  | .rekeyIdleOnly port => Sys2Proof.Machine.execRekeyIdleOnly port s
  | .rekeyTimeout port => Sys2Proof.Machine.execRekeyTimeout port s
  | .allReduce env => Sys2Proof.Machine.execAllReduce env s
  | .reduceScatter env => Sys2Proof.Machine.execReduceScatter env s
  | .allGather env => Sys2Proof.Machine.execAllGather env s
  | .broadcast env => Sys2Proof.Machine.execBroadcast env s
  | .allToAll env => Sys2Proof.Machine.execAllToAll env s
  | .allToAllV env => Sys2Proof.Machine.execAllToAllV env s
  | .barrier env => Sys2Proof.Machine.execBarrier env s
  | .registerGroup env => Sys2Proof.Machine.execRegisterGroup env s
  | .unregisterGroup env => Sys2Proof.Machine.execUnregisterGroup env s
  | .contrib src msg => Sys2Proof.Machine.execContrib src msg s
  | .partialMsg src msg => Sys2Proof.Machine.execPartialMsg src msg s
  | .partialAck src msg => Sys2Proof.Machine.execPartialAck src msg s
  | .result src msg => Sys2Proof.Machine.execResult src msg s
  | .partialCopyRequest src msg => Sys2Proof.Machine.execPartialCopyRequest src msg s
  | .collAbort src msg => Sys2Proof.Machine.execCollAbort src msg s
  | .credit src msg => Sys2Proof.Machine.execCredit src msg s
  | .nack src msg => Sys2Proof.Machine.execNack src msg s
  | .counts src msg => Sys2Proof.Machine.execCounts src msg s
  | .slot src msg => Sys2Proof.Machine.execSlot src msg s
  | .chainReceive src msg errs => Sys2Proof.Machine.execChainReceive src msg s errs
  | .collTile port tile errs => Sys2Proof.Machine.execCollTile port tile s errs
  | .completionRound coll code => Sys2Proof.Machine.execCompletionRound coll code s
  | .collTimeout coll => Sys2Proof.Machine.execCollTimeout coll s
  | .rmaPoll q env => Sys2Proof.Machine.execRmaPoll q env s
  | .rmaLoad q env errs => Sys2Proof.Machine.execRmaLoad q env s errs
  | .rmaStore q env => Sys2Proof.Machine.execRmaStore q env s
  | .rmaSwap q env => Sys2Proof.Machine.execRmaSwap q env s
  | .rmaCas q env => Sys2Proof.Machine.execRmaCas q env s
  | .rmaAdd q env => Sys2Proof.Machine.execRmaAdd q env s
  | .rmaAnd q env => Sys2Proof.Machine.execRmaAnd q env s
  | .rmaOr q env => Sys2Proof.Machine.execRmaOr q env s
  | .rmaXor q env => Sys2Proof.Machine.execRmaXor q env s
  | .rmaUmax q env => Sys2Proof.Machine.execRmaUmax q env s
  | .rmaUmin q env => Sys2Proof.Machine.execRmaUmin q env s
  | .rmaSmax q env => Sys2Proof.Machine.execRmaSmax q env s
  | .rmaSmin q env => Sys2Proof.Machine.execRmaSmin q env s
  | .rmaPut q env => Sys2Proof.Machine.execRmaPut q env s
  | .rmaGet q env => Sys2Proof.Machine.execRmaGet q env s
  | .rmaWait q env => Sys2Proof.Machine.execRmaWait q env s
  | .rmaInvalidate q env => Sys2Proof.Machine.execRmaInvalidate q env s
  | .rmaFence q env => Sys2Proof.Machine.execRmaFence q env s
  | .reqLoad src msg env => Sys2Proof.Machine.execReqLoad src msg env s
  | .reqLoadLine src msg env => Sys2Proof.Machine.execReqLoadLine src msg env s
  | .reqStore src msg env => Sys2Proof.Machine.execReqStore src msg env s
  | .reqAtomic src msg env lost errs => Sys2Proof.Machine.execReqAtomic src msg env lost s errs
  | .reqWrite src msg env => Sys2Proof.Machine.execReqWrite src msg env s
  | .reqRead src msg env => Sys2Proof.Machine.execReqRead src msg env s
  | .reqRelease src msg => Sys2Proof.Machine.execReqRelease src msg s
  | .remoteReply src q index piece msg env => Sys2Proof.Machine.execRemoteReply src q index piece msg env s
  | .atomicTimeout q index => Sys2Proof.Machine.execAtomicTimeout q index s
  | .commandTimeout q index => Sys2Proof.Machine.execCommandTimeout q index s
  | .waitPoll q index env => Sys2Proof.Machine.execWaitPoll q index env s
  | .releaseTimer q target => Sys2Proof.Machine.execReleaseTimer q target s
  | .traceWrite errs => Sys2Proof.Machine.execTraceWrite s errs
  | .tokenStreamPortCredit port errs => Sys2Proof.Machine.execTokenStreamPortCredit port s errs
  | .linkSignatureDone port => Sys2Proof.Machine.execLinkSignatureDone port s
  | .traceWindowRead addr uncorr => Sys2Proof.Machine.execTraceWindowRead addr uncorr s

end Sys2Proof.Machine
end

