-- ==== Sys2Proof/Safety.lean ====
section
/-! DEFINITION. The terms of the claims: what it means that a command completes, what a command leaves alone, and the
invariant that every step keeps. -/
namespace Sys2Proof.Machine
open Sys2Proof

/-- A command runs to a next state of which `P` holds. -/
def Completes (i : Instr) (s : State) (P : State → Prop) : Prop := ∃ t, exec i s = .next t ∧ P t

/-- Every byte of memory reads as before. -/
def MemSame (s t : State) : Prop := ∀ a, memByte t.mem a = memByte s.mem a

/-- Every byte of memory outside `n` bytes at `b` reads as before. -/
def MemSameBut (b n : Nat) (s t : State) : Prop := ∀ a, a < b ∨ b + n ≤ a → memByte t.mem a = memByte s.mem a

/-- The address of the `k`-th notice entry to be written next (R431). -/
def noteSlot (s : State) (k : Nat) : Nat := s.addr64 0x320 0x324 + 32 * ((noteWr s + k) % 2 ^ 16 % 2 ^ noteLog2 s)

/-- An address lies in one of the next `n` notice entries. -/
def inNotes (s : State) (n a : Nat) : Prop := ∃ k, k < n ∧ noteSlot s k ≤ a ∧ a < noteSlot s k + 32

/-- Every byte of memory outside the next `n` notice entries reads as before. -/
def MemSameButNotes (n : Nat) (s t : State) : Prop := ∀ a, ¬ inNotes s n a → memByte t.mem a = memByte s.mem a

/-- An address lies in the notice ring, as its registers place it (R431). -/
def inRing (s : State) (a : Nat) : Prop :=
  s.addr64 0x320 0x324 ≤ a ∧ a < s.addr64 0x320 0x324 + 32 * 2 ^ noteLog2 s

/-- Every byte of memory outside the notice ring and outside a set of addresses reads as before. -/
def MemSameOff (p : Nat → Prop) (s t : State) : Prop := ∀ a, ¬ inRing s a → ¬ p a → memByte t.mem a = memByte s.mem a

/-- The HEAD word of a command queue's control line, and RESULT, STATUS and SEQ of its entries (R343, R344). -/
def queueWords (s : State) (q a : Nat) : Prop :=
  (qBase s q + 8 ≤ a ∧ a < qBase s q + 10) ∨ ∃ ix, entryAddr s q ix + 0x30 ≤ a ∧ a < entryAddr s q ix + 0x40

/-- What a GET writes: its destination and its counter (R353, R350). -/
def getWords (c : RmaCmd) (a : Nat) : Prop :=
  c.op = 0x21 ∧ (c.laddr ≤ a ∧ a < c.laddr + c.len ∨ c.ctr ≤ a ∧ a < c.ctr + 8)

/-- What remote access writes as a requester: the queues' words, and what the outstanding GETs write. -/
def rmaWords (s : State) (a : Nat) : Prop :=
  ∃ q, q < 16 ∧ (queueWords s q a ∨ ∃ o ∈ (queueAt s q).outs, getWords o.cmd a)

/-- What the collective engine writes: STATUS of the ring's descriptors (R280), and of the active collectives the count
tables (R292) and the vectors from DST on. -/
def cceWords (s : State) (a : Nat) : Prop :=
  (∃ ix, descAddr s ix + 0x38 ≤ a ∧ a < descAddr s ix + 0x3C) ∨
  ∃ c ∈ s.cce.active, c.desc.dst ≤ a ∨ (c.desc.cnt ≤ a ∧ a < c.desc.cnt + 8 * max c.p (c.rank + 1))

/-- Where a proposal for `n` experts stands (R227, R228). -/
def proposalWords (s : State) (n a : Nat) : Prop :=
  s.addr64 0x60020 0x60024 / 64 * 64 ≤ a ∧ a < s.addr64 0x60020 0x60024 / 64 * 64 + 16 * n

/-- The step record's entry: entry NEXT modulo 2^n of its ring (R376). -/
def recordWords (s : State) (a : Nat) : Prop :=
  let b := s.step_ 0x244 31 0 * 2 ^ 32 + s.step_ 0x240 31 7 * 128 + 128 * (s.field 0x24C 31 0 % 2 ^ s.step_ 0x248 4 0)
  b ≤ a ∧ a < b + 128

/-- The next checkpoint record's entry (R386). -/
def checkpointWords (s : State) (a : Nat) : Prop :=
  let b := s.step_ 0x26C 31 0 * 2 ^ 32 + s.step_ 0x268 31 8 * 256 + 256 * (s.rlog.seq % 2 ^ s.step_ 0x270 3 0)
  b ≤ a ∧ a < b + 256

/-- The parts of the state, one for each field but the register store, which is spoken of word by word. Of memory there are
two: `mem` is all of it, and `beyond` is every byte outside the notice ring. -/
inductive Part where
  | pending | out | mem | beyond | freshCount | boot | fuses | devKey | clk | tb | tbRun | tbExhausted | tap | ldr
  | commits | latched | sec | dat | run | stepNum | prevT | verdict | rlog | fences | fenceSelf | unfences
  | probes | broadcasts | mgmtNext | note | trace | sfuVersion | sfuCopying | sfuLocked | cad | lst | demand
  | quarPending | quarUndelivered | quarActing | quarSeen | cadRefetch | pools | tports | halves
  | ingestHeld | homes | bucketMaps | recv | feeds | handed | collects | gen | raiseDue | orphans | rounds
  | cce | rma | dedup | cache | fep | ports
  | tokenLast | chipHist | sortCounters | collectHeld | rmaTurn
  deriving DecidableEq, Repr

/-- A part of the state is the same in two states. -/
def Part.same (p : Part) (s t : State) : Prop :=
  match p with
  | .pending => t.pending = s.pending
  | .out => t.out = s.out
  | .mem => t.mem = s.mem
  | .beyond => ∀ a, ¬ inRing s a → memByte t.mem a = memByte s.mem a
  | .freshCount => t.freshCount = s.freshCount
  | .boot => t.boot = s.boot
  | .fuses => t.fuses = s.fuses
  | .devKey => t.devKey = s.devKey
  | .clk => t.clk = s.clk
  | .tb => t.tb = s.tb
  | .tbRun => t.tbRun = s.tbRun
  | .tbExhausted => t.tbExhausted = s.tbExhausted
  | .tap => t.tap = s.tap
  | .ldr => t.ldr = s.ldr
  | .commits => t.commits = s.commits
  | .latched => t.latched = s.latched
  | .sec => t.sec = s.sec
  | .dat => t.dat = s.dat
  | .run => t.run = s.run
  | .stepNum => t.stepNum = s.stepNum
  | .prevT => t.prevT = s.prevT
  | .verdict => t.verdict = s.verdict
  | .rlog => t.rlog = s.rlog
  | .fences => t.fences = s.fences
  | .fenceSelf => t.fenceSelf = s.fenceSelf
  | .unfences => t.unfences = s.unfences
  | .probes => t.probes = s.probes
  | .broadcasts => t.broadcasts = s.broadcasts
  | .mgmtNext => t.mgmtNext = s.mgmtNext
  | .note => t.note = s.note
  | .trace => t.trace = s.trace
  | .sfuVersion => t.sfuVersion = s.sfuVersion
  | .sfuCopying => t.sfuCopying = s.sfuCopying
  | .sfuLocked => t.sfuLocked = s.sfuLocked
  | .cad => t.cad = s.cad
  | .lst => t.lst = s.lst
  | .demand => t.demand = s.demand
  | .quarPending => t.quarPending = s.quarPending
  | .quarUndelivered => t.quarUndelivered = s.quarUndelivered
  | .quarActing => t.quarActing = s.quarActing
  | .quarSeen => t.quarSeen = s.quarSeen
  | .cadRefetch => t.cadRefetch = s.cadRefetch
  | .pools => t.pools = s.pools
  | .tports => t.tports = s.tports
  | .halves => t.halves = s.halves
  | .ingestHeld => t.ingestHeld = s.ingestHeld
  | .homes => t.homes = s.homes
  | .bucketMaps => t.bucketMaps = s.bucketMaps
  | .recv => t.recv = s.recv
  | .feeds => t.feeds = s.feeds
  | .handed => t.handed = s.handed
  | .collects => t.collects = s.collects
  | .gen => t.gen = s.gen
  | .raiseDue => t.raiseDue = s.raiseDue
  | .orphans => t.orphans = s.orphans
  | .rounds => t.rounds = s.rounds
  | .cce => t.cce = s.cce
  | .rma => t.rma = s.rma
  | .dedup => t.dedup = s.dedup
  | .cache => t.cache = s.cache
  | .fep => t.fep = s.fep
  | .ports => t.ports = s.ports
  | .tokenLast => t.tokenLast = s.tokenLast
  | .chipHist => t.chipHist = s.chipHist
  | .sortCounters => t.sortCounters = s.sortCounters
  | .collectHeld => t.collectHeld = s.collectHeld
  | .rmaTurn => t.rmaTurn = s.rmaTurn

/-- Every part outside a list is unchanged. -/
def OnlyParts (ps : List Part) (s t : State) : Prop := ∀ p, p ∉ ps → p.same s t

/-- A set of registers, by address: one register, the first registers of the ports' blocks (R457, R340), the control registers
of the command queues (R364), the status registers of the stations' queues (R102), or every register. -/
inductive Area where
  | reg (a : Nat)
  | port
  | queue
  | station
  | all
  deriving DecidableEq, Repr

/-- A register lies in an area. -/
def Area.has (x : Area) (a : Nat) : Prop :=
  match x with
  | .reg b => a = b
  | .port => ∃ n k, n < 24 ∧ k < 0x40 ∧ a = uPort n + k
  | .queue => ∃ q, q < 16 ∧ a = qCtrl q
  | .station => ∃ c, c < 16 ∧ a = 0x20100 + 4 * c
  | .all => True

/-- Every register outside a list of areas reads its stored word as before. -/
def RegsSameBut (as : List Area) (s t : State) : Prop := ∀ a, (∀ x ∈ as, ¬ x.has a) → t.word a = s.word a

/-- No register that places the notice ring (SDE_NOTE_BASE_LO, SDE_NOTE_BASE_HI, SDE_NOTE_SIZE) lies in some areas. -/
def ringFixed (as : List Area) : Bool :=
  as.all fun x =>
    match x with
    | .reg a => a ≠ 0x320 && a ≠ 0x324 && a ≠ 0x328
    | .port => true
    | .queue => true
    | .station => true
    | .all => false

/-- The registers that a notice writes: SDE_NOTE_WR, SDE_NOTE_LOST and SDE_IRQ_STATUS (R431, R434). -/
def noteAreas : List Area := [.reg 0x32C, .reg 0x334, .reg 0x338]

/-- The parts that handing a message to the fabric may change (R170, R320): the endpoint's queue, or for the chip itself the
delivery, and what the message's tie releases. -/
def sendParts : List Part := [.out, .quarUndelivered, .pools, .halves, .fep]

/-- The parts that a step abort may change (R271, R417, R418). -/
def abortParts : List Part :=
  [.out, .run, .broadcasts, .trace, .pools, .tports, .tokenLast, .halves, .ingestHeld, .homes, .bucketMaps,
    .chipHist, .sortCounters, .recv, .feeds, .handed, .collects, .collectHeld, .gen, .raiseDue, .orphans, .rounds, .cce, .fep]

/-- The registers that a step abort may change: REG's error status (E_GEN_WINDOW, R42) and REG_LATE (R271). -/
def abortAreas : List Area := [.reg 0x80008, .reg 0x80050]

/-- The frame of a command: only some parts change, and only the registers of some areas. -/
structure Frame (ps : List Part) (as : List Area) (s t : State) : Prop where
  parts : OnlyParts ps s t
  regs : RegsSameBut as s t

/-- What recording a code leaves in a unit's error status (R69): COUNT up by one, saturating at 255; FIRST the code where
COUNT was zero; LAST the code. -/
def Recorded (unit code : Nat) (s t : State) : Prop :=
  t.field (unit + 8) 23 16 = min 255 (s.field (unit + 8) 23 16 + 1) ∧
  t.field (unit + 8) 15 8 = (if s.field (unit + 8) 23 16 = 0 then code else s.field (unit + 8) 15 8) ∧
  t.field (unit + 8) 7 0 = code

/-- The step has aborted on this chip with a code (R417): the stations stand empty (R271), and the generation has been raised,
or its raise is due (R42, R266). -/
def Aborted (code : Nat) (s t : State) : Prop :=
  (∃ q, t.run = some q ∧ q.abortCode = code) ∧ t.halves = [] ∧ t.homes = [] ∧ t.recv = [] ∧ t.feeds = [] ∧
  t.handed = [] ∧ t.collects = [] ∧ t.bucketMaps = [] ∧
  ((t.gen = (s.gen + 1) % 1024 ∧ t.raiseDue = false) ∨ (t.gen = s.gen ∧ t.raiseDue = true))

/-- The step has aborted with a code that this chip has raised: the code is recorded in its unit, and an ABORT message has been
originated (R415, R418); REG may have recorded E_GEN_WINDOW after it (R42). -/
def AbortedHere (unit code : Nat) (s t : State) : Prop :=
  Aborted code s t ∧ (unit ≠ uReg → Recorded unit code s t) ∧
  ∃ b ∈ t.broadcasts, b.kind = 0x06 ∧ b.origin = true ∧ b.payload = abortPayload code (chipId s) s.stepNum

/-- The command is refused: its code is recorded in its unit, and nothing else changes (R69). -/
def Refused (unit code : Nat) (s t : State) : Prop := Recorded unit code s t ∧ Frame [] [.reg (unit + 8)] s t

/-- An allocation of a size for an owner, asked for by a new request, is granted at once (R83, R85): the owner may be granted
a buffer, and no request that waits at the pool may. -/
def MayAlloc (s : State) (size o : Nat) (key : List Nat) : Prop :=
  (∀ g ∈ s.pools.granted, g.pool ≠ poolFor size ∨ g.owner ≠ o ∨ g.key ≠ key) ∧
  (∀ w ∈ s.pools.waiters, w.pool = poolFor size → w.key ≠ key ∧ grantable s (poolFor size) w.owner = false) ∧
  grantable s (poolFor size) o = true

/-- The buffer that the next allocation of a size takes (R81, R82). -/
def bufFor (s : State) (size : Nat) : Nat × Nat := (poolFor size, nextPtr (poolAt s (poolFor size)))

/-- FEED stands at a layer, half and trip with no group held, and has nothing to write there: every expert that it serves is
closed, or still waits for its notice or for rows, with fewer than 256 rows held (R248, R249). -/
def FeedStill (s : State) (p : Nat × Nat × Nat) : Prop :=
  feedPos s = some p ∧ s.recv = [] ∧ ∀ e ∈ fedExperts s p.1, ∀ f, feedAt s p.1 p.2.1 p.2.2 e = some f →
    f.closed = true ∨ (f.notice ≠ some f.received ∧ f.rows.length < 256)

/-- The state that a retraining leads a link to: RETRAIN, or FAILED with the third within 10^9 ticks (R312). -/
def retrainState (s : State) (n : Nat) : PortState :=
  if ((portAt s (leadOf s n)).retrains.filter (fun k => s.tb < k + 10 ^ 9)).length < 2 then .retrain else .failed

/-- Every port of a link is in a state and holds no link keys (R312, R406). -/
def LinkIs (n : Nat) (st : PortState) (s t : State) : Prop :=
  ∀ p ∈ linkOf s n, (portAt t p).state = st ∧ (portAt t p).tx = none ∧ (portAt t p).rx = none ∧ (portAt t p).keying = none

/-- The ports outside a link are as they were. -/
def OtherPortsKept (n : Nat) (s t : State) : Prop := ∀ p, p ∉ linkOf s n → portAt t p = portAt s p

/-- `n` bytes of memory at an address hold a value. -/
def WordIs (n a v : Nat) (s : State) : Prop := memBytes s.mem a n = leBytes n v

/-- A message is handed to the fabric, and nothing else is: for the chip itself it is delivered at once; a fenced chip's own
message on VC0 to VC5 is lost (R424), and one to a fenced chip on any other channel than VC6's (R4). -/
def Sent (m : Message) (s t : State) : Prop :=
  if m.dst = chipId s then t.out = s.out ++ [Out.delivered m.dst 24 m.kind m.step m.payload] ∧ t.fep.waiting = s.fep.waiting
  else if (s.fenceSelf = true ∧ m.lc ≤ 0xA) ∨ (fenced s m.dst = true ∧ m.lc ≠ 0xC) then t.out = s.out ∧ t.fep.waiting = s.fep.waiting
  else t.out = s.out ∧ t.fep.waiting = s.fep.waiting ++ [m]

/-- An express message of the collective engine (R296) from this chip for a collective. -/
def xpOf (s : State) (c : Coll) (dst type : Nat) (payload : Bytes) : Message :=
  ⟨dst, 0xA, 0x05, s.stepNum, expressBytes type 0 c.desc.group c.desc.tag (chipId s) 0 (c.step % 2 ^ 48) payload, .none, 0, none⟩

/-- The descriptor ring holds at most its 2^n descriptors beyond the next one (R279). -/
def RingFits (s : State) : Prop :=
  s.cce.next < 65536 ∧ s.cce.tail < 65536 ∧ serialSub 16 s.cce.tail s.cce.next ≤ 2 ^ ringLog2 s

/-- OP of a descriptor is legal (R280). -/
def opLegal (op : Nat) : Prop := (1 ≤ op ∧ op ≤ 7) ∨ op = 0x10 ∨ op = 0x11

/-- The commands that start a collective, each with the OP of its descriptor (R274). -/
def collectiveStarts (env : MemEnv) : List (Nat × Instr) :=
  [(1, .allReduce env), (2, .reduceScatter env), (3, .allGather env), (4, .broadcast env), (5, .allToAll env),
    (6, .allToAllV env), (7, .barrier env)]

/-- The commands that start an entry of a command queue, each with its OP (R345). -/
def remoteStarts (q : Nat) (env : MemEnv) (errs : Errs) : List (Nat × Instr) :=
  [(0x01, .rmaLoad q env errs), (0x02, .rmaStore q env), (0x10, .rmaSwap q env), (0x11, .rmaCas q env), (0x12, .rmaAdd q env),
    (0x13, .rmaAnd q env), (0x14, .rmaOr q env), (0x15, .rmaXor q env), (0x16, .rmaUmax q env), (0x17, .rmaUmin q env),
    (0x18, .rmaSmax q env), (0x19, .rmaSmin q env), (0x20, .rmaPut q env), (0x21, .rmaGet q env), (0x30, .rmaWait q env),
    (0x31, .rmaInvalidate q env), (0x32, .rmaFence q env)]

/-- The state in which the next entry of a queue is looked at: memory as the other agents have left it, and the copies of the
same kind sent on (R353). -/
def beforeStart (op q : Nat) (env : MemEnv) (s : State) : State :=
  if isCopy op then pumpCopies q op env (withEnv env s) else withEnv env s

/-- No byte of a queue's entry lies in the notice ring. -/
def EntryClear (s : State) (q ix : Nat) : Prop := ∀ k, k < 64 → ¬ inRing s (entryAddr s q ix + k)

/-- An entry of a command queue has ended (R362): STATUS and RESULT stand in it, and it is no longer outstanding. -/
def Ended (q ix status result : Nat) (s u : State) : Prop :=
  WordIs 4 (entryAddr s q ix + 0x38) status u ∧ WordIs 8 (entryAddr s q ix + 0x30) result u ∧
  ∀ o ∈ (queueAt u q).outs, o.index ≠ ix

/-- One enabled window holds every byte of an access and grants it: attribute bit 1 READ, 2 WRITE, 3 ATOMIC (R348, R364). -/
def InWindow (s : State) (addr n attr : Nat) : Prop :=
  ∃ w, w < 4 ∧ s.field (0xC1310 + 0x20 * w) 0 0 = 1 ∧ s.field (0xC1310 + 0x20 * w) attr attr = 1 ∧
    s.addr64 (0xC1300 + 0x20 * w) (0xC1304 + 0x20 * w) ≤ addr ∧
    addr + n ≤ s.addr64 (0xC1308 + 0x20 * w) (0xC130C + 0x20 * w)

/-- The reply to a remote request (R355). -/
def replyOf (s : State) (src : Nat) (m : Bytes) (outcome code value : Nat) (data : Bytes) : Message :=
  ⟨src, 2, 0x09, s.stepNum, leBytes 1 (leAt m 0 1) ++ leBytes 1 outcome ++ leBytes 1 code ++ leBytes 1 0 ++
    leBytes 4 (leAt m 4 4) ++ leBytes 8 value ++ data, .none, 0, none⟩

/-- A remote request (R355) on VC0. -/
def requestOf (s : State) (dst : Nat) (b : Bytes) : Message := ⟨dst, 0, 0x08, s.stepNum, b, .none, 0, none⟩

/-- Buffers in use, each named once (R87). -/
def BufsLive (s : State) (bs : List (Nat × Nat)) : Prop := bs.Nodup ∧ ∀ b ∈ bs, refsOf s b.1 b.2 ≠ 0

/-- The buffers of some tiles, and those of the tiles of a half that PACK takes its payloads from (R139, R205). -/
def tileBufs (ts : List Tile) : List (Nat × Nat) := ts.filterMap (·.buf)
def tokenBufs (x : Half) : List (Nat × Nat) := x.blocks.flatMap (fun b => tileBufs (b.norm.getD b.token))

/-- The tiles that PACK takes the payloads of a half from are in use (R205). -/
def TokensLive (s : State) (x : Half) : Prop := BufsLive s (tokenBufs x)

/-- One row block is the only one of the step that a station has still to take, so that none waits behind it (R30). -/
def OnlyBlock (s : State) (k : BlockId) (done : Block → Bool) : Prop :=
  ((stepBlocks s).filter (fun x => !done x.2)).map (·.1) = [k]

/-- A station has written its output, from which `u` results: it enters the next station's queue, and INGEST goes on as far as it
can; where it does not fit, the station stalls and nothing has changed (R30, R36, R95, R96). -/
def HandedOn (c : Nat) (s u t : State) : Prop := t = intoQueue c s (ingestOn u)

/-- The arrays of the machine have the lengths that the manual gives them: 24 ports (R312), 16 token stream ports (R248),
16 command queues (R342), 6 pools (R80) and 8 trace lanes (R464). -/
def Shape (s : State) : Prop :=
  s.ports.length = 24 ∧ s.tports.length = 16 ∧ s.rma.length = 16 ∧ s.pools.pools.length = 6 ∧ s.trace.lanes.length = 8

/-- The invariant: memory, the trace region and the register store keep their canonical form, so that equal contents are
equal data, and the arrays keep their lengths. -/
structure Inv (s : State) : Prop where
  regs : storeWf resetWord s.regs = true
  mem : Memory.wf s.mem = true
  ring : Memory.wf s.trace.ring = true
  shape : Shape s

end Sys2Proof.Machine
end

