-- ==== Sys2Proof/Certificates/Slice0/Obligations.lean ====
section
/-! DEFINITION. The statements for the provers, one `Obligations.<Name>` each. -/
open Sys2Proof Sys2Proof.Machine

/-- O1. With command c at the front of the queue, the step is exec of c on the state whose queue is the rest; exec of a
command itself never changes the queue is stated by QueueKept. -/
def Obligations.StepRunsFront : Prop :=
  ∀ (c : Instr) (cs : List Instr) (s : State),
    step { s with pending := c :: cs } = exec c { s with pending := cs }

/-- O2. The model's choice (log entry 3): on an empty queue a step is one tick: TB rises by one while it runs below its
last value (R439, R42), a running step counts the tick as throttled when a clock runs below its step at the datum
and as a retry tick when a port or packet is being retried (R376), and nothing else changes. -/
def Obligations.IdleStepTicks : Prop :=
  ∀ s : State, s.pending = [] →
    ∃ t, step s = .next t ∧
      t.tb = (if s.tbRun = true ∧ s.tb < 2 ^ 64 - 1 then s.tb + 1 else s.tb) ∧
      (s.tbRun = true → s.tb < 2 ^ 64 - 1 → ∀ r, s.run = some r →
        t.run = some { r with throttled := r.throttled + b2n (r.slow s.clk), retry := r.retry + b2n (retrying s) }) ∧
      Frame [.tb, .run] [] s t ∧ MemSame s t

/-- O3. Whatever command runs, and in whatever state, the queue of waiting commands is as it was before. -/
def Obligations.QueueKept : Prop :=
  ∀ (c : Instr) (s t : State), exec c s = .next t → t.pending = s.pending

/-- O4. Every command completes in every state, except DBG_SRAM: with the SRAM scope of debug open (R409, R412) and an
address beyond the 384 MiB of R75 it faults, and otherwise it completes. -/
def Obligations.OnlySramReadStops : Prop :=
  (∀ (c : Instr) (s : State), (∀ a, c ≠ .dbgSram a) → ∃ t, exec c s = .next t) ∧
  (∀ (a : Nat) (s : State), bit (debugScope s) 1 = true → 384 * 2 ^ 20 ≤ a → exec (.dbgSram a) s = .fault .sramAbsent) ∧
  (∀ (a : Nat) (s : State), bit (debugScope s) 1 = false ∨ a < 384 * 2 ^ 20 → ∃ t, exec (.dbgSram a) s = .next t)

/-- O5. At reset memory, the trace region and the register store are in canonical form, and the arrays have their
lengths: 24 ports, 16 token stream ports, 16 command queues, 6 pools and 8 trace lanes. -/
def Obligations.InvReset : Prop :=
  Inv State.reset

/-- O6. From every state in which memory, the trace region and the register store are in canonical form and the arrays
have their lengths, every step, whatever command waits or none, leads to such a state. -/
def Obligations.InvStep : Prop :=
  ∀ s t : State, Inv s → step s = .next t → Inv t

/-- O7. The state right after reset: bring-up at stage RESET (R447, R448); TB stopped (R439), no plat staged or active,
no step, an empty fence bitmap (R447), IDCODE selected in the test access port (R447), every port DOWN (R312) with
its counters at zero, empty FIFOs, rings, rounds and loan tables, no certificate and no key list, and memory and
outputs empty. The fields that no rule gives a reset value are the model's choice (log entries 4, 5, 10 and 11). -/
def Obligations.ResetState : Prop :=
  State.reset.boot.stage = .reset ∧ State.reset.tbRun = false ∧ State.reset.tb = 0 ∧
  State.reset.ldr.stage = .empty ∧ State.reset.ldr.staged = none ∧ State.reset.ldr.active = none ∧
  State.reset.run = none ∧ State.reset.fences = [] ∧ State.reset.fenceSelf = false ∧ State.reset.tap.ir = 0x01 ∧
  (∀ p ∈ State.reset.ports, p.state = .down ∧ p.tx = none ∧ p.rx = none ∧ p.packets = [] ∧ p.kept = []) ∧
  State.reset.pending = [] ∧ State.reset.out = [] ∧ State.reset.mem = [] ∧ State.reset.halves = [] ∧
  State.reset.rounds = [] ∧ State.reset.orphans = [] ∧ State.reset.sec.cert = none ∧ State.reset.sec.keyList = none ∧
  (∀ q ∈ State.reset.rma, q.head = 0 ∧ q.tail = 0 ∧ q.outs = []) ∧ (∀ a, State.reset.word a = resetWord a)

/-- O8. Both resets have the same effect: every register takes its reset value, the fence bitmap is cleared, bring-up
starts at stage RESET, and every part of the block takes its value after reset. Memory, the outputs made, the
waiting commands and the port's shift registers lie outside the reset (log entries 4 and 5); debug closes (R412). -/
def Obligations.ChipReset : Prop :=
  ∀ s : State, ∀ i ∈ [Instr.chipReset, .powerOnReset],
    Completes i s (fun t => (∀ a, t.word a = resetWord a) ∧ t.fences = [] ∧ t.boot = Boot.reset ∧
      t.tap = { s.tap with halted := false } ∧ t.pending = s.pending ∧ t.out = s.out ∧ MemSame s t ∧
      OnlyParts [.tap, .pending, .out, .mem, .beyond, .freshCount] State.reset t)

/-- O9. A command that writes a privileged register without the privilege bit is ignored: E_PRIV (0x02) is recorded in
its unit, and nothing else changes. -/
def Obligations.UnprivilegedWrites : Prop :=
  ∀ s t : State,
    ((exec (.load false) s = .next t ∨ exec (.abandon false) s = .next t ∨ exec (.activate false) s = .next t ∨
      exec (.disarm false) s = .next t) →
        Recorded uPlat 0x02 s t ∧ Frame [] [.reg (uPlat + 8)] s t) ∧
    ((exec (.stage false) s = .next t ∨ exec (.arm false) s = .next t ∨ exec (.listDisarm false) s = .next t) →
        Recorded uCad 0x02 s t ∧ Frame [] [.reg (uCad + 8)] s t) ∧
    ((∃ v n chip, exec (.commit false v) s = .next t ∨ exec (.go false) s = .next t ∨
      exec (.checkpoint false) s = .next t ∨ exec (.rlogStart false n v) s = .next t ∨
      exec (.fence false chip) s = .next t ∨ exec (.unfence false chip) s = .next t ∨
      exec (.links false) s = .next t ∨ exec (.calibrate false) s = .next t) →
        Recorded uSde 0x02 s t ∧ Frame [] [.reg (uSde + 8)] s t) ∧
    ((∃ v env, exec (.cceDoorbell false v env) s = .next t) → Recorded uCce 0x02 s t ∧ Frame [] [.reg (uCce + 8)] s t) ∧
    ((∃ q v env, exec (.rmaDoorbell false q v env) s = .next t) →
        Recorded uFep 0x02 s t ∧ Frame [] [.reg (uFep + 8)] s t) ∧
    ((exec (.chalNew false) s = .next t ∨ exec (.certLoad false) s = .next t ∨ exec (.klLoad false) s = .next t ∨
      exec (.tokenLoad false) s = .next t) →
        Recorded uSec 0x02 s t ∧ Frame [] [.reg (uSec + 8)] s t)

/-- O10. The table of R63, for a privileged write of one action with debug closed and the self-test entered: the loader
state that follows, or the code E_BUSY, E_PLAT_ARMED or E_PLAT_NONE recorded in PLAT with everything else unchanged.
A write of PLAT_CTRL with more than one action bit is rejected with E_PLAT_VALUE. -/
def Obligations.LoaderControl : Prop :=
  ∀ s : State,
    (debugOpen s = false → s.boot.stage ≠ .reset → s.boot.stage ≠ .fuse →
      (s.ldr.stage = .empty ∨ s.ldr.stage = .staged →
        Completes (.load true) s (fun t => t.ldr = { s.ldr with stage := .loading, before := s.ldr.stage, progress := 0
                                                                src := s.addr64 0x10010 0x10014
                                                                len := (s.word 0x10018).toNat } ∧
          Frame [.ldr] [] s t)) ∧
      (s.ldr.stage = .loading → Completes (.load true) s (fun t => Recorded uPlat 0x03 s t ∧ Frame [] [.reg (uPlat + 8)] s t)) ∧
      (s.ldr.stage = .armed → Completes (.load true) s (fun t => Recorded uPlat 0x0B s t ∧ Frame [] [.reg (uPlat + 8)] s t))) ∧
    (s.ldr.stage = .loading → Completes (.abandon true) s (fun t =>
      t.ldr = { s.ldr with stage := s.ldr.before, progress := 0 } ∧ Frame [.ldr] [] s t)) ∧
    (s.ldr.stage ≠ .loading → Completes (.abandon true) s (fun t => Recorded uPlat 0x0C s t ∧ Frame [] [.reg (uPlat + 8)] s t)) ∧
    (s.ldr.stage = .staged → Completes (.activate true) s (fun t =>
      t.ldr = { s.ldr with stage := .armed } ∧ Frame [.ldr] [] s t)) ∧
    (s.ldr.stage = .armed → Completes (.activate true) s (fun t => Recorded uPlat 0x0B s t ∧ Frame [] [.reg (uPlat + 8)] s t)) ∧
    (s.ldr.stage = .empty ∨ s.ldr.stage = .loading → Completes (.activate true) s (fun t =>
      Recorded uPlat 0x0C s t ∧ Frame [] [.reg (uPlat + 8)] s t)) ∧
    (s.ldr.stage = .armed → Completes (.disarm true) s (fun t =>
      t.ldr = { s.ldr with stage := .staged } ∧ Frame [.ldr] [] s t)) ∧
    (s.ldr.stage ≠ .armed → Completes (.disarm true) s (fun t => Recorded uPlat 0x0C s t ∧ Frame [] [.reg (uPlat + 8)] s t)) ∧
    (∀ w : Word32, w.toNat < 16 → 2 ≤ ((List.range 4).filter (bit w.toNat)).length →
      Completes (.registerWrite true 0x10000 32 w) s (fun t => Recorded uPlat 0x08 s t ∧ Frame [] [.reg (uPlat + 8)] s t))

/-- O11. R448 stage by stage: RESET_RELEASE reads the slot and enters FUSE; a fuse array that passes R392 enters
SELFTEST with the fuse shadow, the device key (R395) and the DRBG seeded, or E_SEC_ENTROPY when it cannot be (R394);
a passing self-test builds the pools; the SFU table copy enters TIMEBASE; RCLK_LOCK starts TB at 0 and enters
IDENTIFY; LINKS enters LINKS and moves each port whose DISABLE is clear to TRAIN; CALIBRATE enters CALIBRATE once a
port is UP; each of the 257 answers of R375 is counted; and CALIBRATION_DONE within the bounds of R375 enters READY. -/
def Obligations.BringUpAdvances : Prop :=
  ∀ s : State,
    (∀ slot, s.boot.stage = .reset → Completes (.resetRelease slot) s (fun t =>
      t.boot = { s.boot with stage := .fuse, slot := slot % 64 })) ∧
    (∀ i, s.boot.stage = .fuse → fusesOk i = true → Completes (.fuseReadDone i) s (fun t =>
      t.boot = { s.boot with stage := .selftest } ∧ t.fuses = fusesOf i ∧ t.devKey = some (deriveDevKey i.seed.bytes) ∧
      (i.entropyOk = true → t.sec = { s.sec with drbgOn := true, drbgRequests := 0 }) ∧
      (i.entropyOk = false → t.sec = s.sec ∧ Recorded uSec 0x65 s t))) ∧
    (s.boot.stage = .selftest → s.boot.tested = false → Completes (.selftestDone [] true) s (fun t =>
      t.boot = { s.boot with tested := true } ∧
      (∀ p, p < 6 → usedCount t p = 0 ∧ freeCount t p = Config.resetCounts.getD p 0 ∧
        (poolAt t p).low = Config.resetCounts.getD p 0))) ∧
    (s.boot.stage = .selftest → s.boot.tested = true → s.sfuCopying = true → Completes .sfuTableCopyDone s (fun t =>
      t.boot = { s.boot with stage := .timebase } ∧ t.sfuCopying = false)) ∧
    (s.boot.stage ≠ .selftest → s.sfuCopying = true → Completes .sfuTableCopyDone s (fun t =>
      t.boot = s.boot ∧ t.sfuCopying = false)) ∧
    (s.boot.stage = .timebase → Completes .rclkLock s (fun t =>
      t.boot = { s.boot with stage := .identify } ∧ t.tb = 0 ∧ t.tbRun = true ∧ t.clk = { s.clk with rclkLock := true })) ∧
    (s.boot.stage = .identify → (racks s = 0 ∨ s.field 0x408 15 8 < racks s ∧ s.sec.cert.isSome = true) →
      s.ports.length = 24 →
      Completes (.links true) s (fun t => t.boot = { s.boot with stage := .links } ∧
        ∀ n, n < 24 → (portAt t n).state =
          if (portAt s n).state = .down ∧ portDisabled s n = false ∧ debugOpen s = false ∧ authState s = true ∧
              racks s ≠ 0 ∧ s.clk.holdover = false then .train else (portAt s n).state)) ∧
    (s.boot.stage = .links → portsUp s ≠ [] → Completes (.calibrate true) s (fun t =>
      t.boot = { s.boot with stage := .calibrate, calibrateWritten := true, exchanges := 0 })) ∧
    (∀ src msg, s.boot.stage = .calibrate → src = timeMaster s → s.boot.exchanges < 257 →
      Completes (.timeAnswer src msg) s (fun t => t.boot = { s.boot with exchanges := s.boot.exchanges + 1 })) ∧
    (∀ c : Calibration, s.boot.stage = .calibrate → timeMaster s ≠ chipId s → s.boot.exchanges = 257 →
      c.residual.natAbs ≤ 16 → c.drift.natAbs ≤ 1 → Completes (.calibrationDone c) s (fun t =>
        t.boot = { s.boot with stage := .ready } ∧ t.tb = ((s.tb : Int) + c.offset).toNat % 2 ^ 64 ∧
        t.field 0x424 31 16 = timeMaster s % 2 ^ 16)) ∧
    (∀ c : Calibration, s.boot.stage = .calibrate → timeMaster s = chipId s →
      c.residual.natAbs ≤ 16 → c.drift.natAbs ≤ 1 → Completes (.calibrationDone c) s (fun t =>
        t.boot = { s.boot with stage := .ready } ∧ t.tb = s.tb))

/-- O12. A fuse array that fails R392 raises E_FUSE and the chip moves to HELD; so do a failing self-test, with the
lowest failing bank in SDE_FAIL (R449), a missing reference clock at stage TIMEBASE, and a calibration whose
residual or drift lies beyond R375. In HELD every port is DOWN (R448), from states in which each port was DOWN or on
its way. -/
def Obligations.BringUpHolds : Prop :=
  ∀ s : State,
    (∀ i, s.boot.stage = .fuse → fusesOk i = false → Completes (.fuseReadDone i) s (fun t =>
      t.boot = { s.boot with stage := .held, fuseFail := true } ∧ t.fuses = fusesOf i ∧ Recorded uSec 0x66 s t)) ∧
    (∀ fails romOk, s.boot.stage = .selftest → s.boot.tested = false → (fails ≠ [] ∨ romOk = false) →
      Completes (.selftestDone fails romOk) s (fun t =>
        t.boot = { s.boot with stage := .held, bistFail := true, bank := (fails.min?).getD 0x3F })) ∧
    (s.boot.stage = .timebase → Completes .timebaseTimeout s (fun t =>
      t.boot = { s.boot with stage := .held, rclkFail := true })) ∧
    (∀ c : Calibration, s.boot.stage = .calibrate → (timeMaster s = chipId s ∨ s.boot.exchanges = 257) →
      (16 < c.residual.natAbs ∨ 1 < c.drift.natAbs) → Completes (.calibrationDone c) s (fun t =>
        t.boot = { s.boot with stage := .held, calFail := true })) ∧
    (∀ i t, exec i s = .next t → s.boot.stage ≠ .held → t.boot.stage = .held → s.ports.length = 24 →
      (∀ n, n < 24 → (portAt s n).bonded = 0) → ∀ n, n < 24 → (portAt t n).state = .down)

/-- O13. SDE_TB_SET_LO sets TB from its two halves in IDENTIFY and LINKS, up to 2^64 − 1 − 2^62, above which
E_ID_EXHAUSTED is recorded; after CALIBRATE it is refused with E_STARTED (R439, R43). SDE_TB_LO_READ returns
TB[31:0] and latches TB[63:32]. At all ones TB stops with E_ID_EXHAUSTED once (R42). SFU_TABLE_SEL starts the copy
of a version the chip holds while no plat is loaded (R137). A THROTTLE_REQUEST more than 10,000 ticks after the
latest change, and an emergency throttle at any time, change the step, are counted in SDE_THROTTLE_COUNT and
acknowledged (R441). HOLDOVER moves the PLLs to LREF (R438), and a TIME request of an unfenced chip is answered on
VC1 (R375). -/
def Obligations.TimeBaseAndClocks : Prop :=
  ∀ s : State,
    (∀ v : Word32, (s.boot.stage = .identify ∨ s.boot.stage = .links) →
      let x := (s.word 0x41C).toNat * 2 ^ 32 + v.toNat
      (x ≤ 2 ^ 64 - 1 - 2 ^ 62 → Completes (.tbSetLo v) s (fun t => t.tb = x ∧ Frame [.tb] [] s t)) ∧
      (2 ^ 64 - 1 - 2 ^ 62 < x → Completes (.tbSetLo v) s (fun t => Recorded uSde 0x16 s t ∧ t.tb = s.tb))) ∧
    (∀ v : Word32, (s.boot.stage = .calibrate ∨ s.boot.stage = .ready ∨ s.boot.stage = .running) →
      Completes (.tbSetLo v) s (fun t => Recorded uSde 0x1B s t ∧ t.tb = s.tb)) ∧
    Completes .tbLoRead s (fun t => t.out = s.out ++ [Out.busRead (BitVec.ofNat 32 s.tb)] ∧
      t.word 0x414 = BitVec.ofNat 32 (s.tb / 2 ^ 32) ∧ t.tb = s.tb) ∧
    (s.tb = 2 ^ 64 - 1 → s.tbExhausted = false → Completes .tbExhausted s (fun t =>
      t.tbRun = false ∧ t.tbExhausted = true ∧ Recorded uSde 0x16 s t)) ∧
    (∀ v : Word32, v.toNat < 65536 → s.ldr.stage = .empty → s.ldr.active = none → s.sfuLocked = false →
      s.sfuCopying = false → Config.sfuVersions.contains v.toNat = true →
      Completes (.sfuTableSel v) s (fun t => t.sfuVersion = v.toNat ∧ t.sfuCopying = true ∧
        Frame [.sfuVersion, .sfuCopying] [] s t)) ∧
    (∀ step, step ≤ 4 → (∀ k, s.clk.lastSclk = some k → k + 10000 ≤ s.tb) →
      Completes (.throttleRequest true step) s (fun t =>
        t.clk = { s.clk with sclkStep := step, lastSclk := some s.tb } ∧ t.out = s.out ++ [Out.throttleAck true step] ∧
        t.field 0x428 31 0 = satAdd 32 (s.field 0x428 31 0) 1)) ∧
    (∀ step, step ≤ 4 → (∀ k, s.clk.lastAclk = some k → k + 10000 ≤ s.tb) →
      Completes (.throttleRequest false step) s (fun t =>
        t.clk = { s.clk with aclkStep := step, lastAclk := some s.tb } ∧ t.out = s.out ++ [Out.throttleAck false step] ∧
        t.field 0x428 31 0 = satAdd 32 (s.field 0x428 31 0) 1)) ∧
    (Completes (.emergencyThrottle true) s (fun t => t.clk = { s.clk with sclkStep := 4, lastSclk := some s.tb } ∧
      t.out = s.out ++ [Out.throttleAck true 4])) ∧
    (Completes (.emergencyThrottle false) s (fun t => t.clk = { s.clk with aclkStep := 4, lastAclk := some s.tb } ∧
      t.out = s.out ++ [Out.throttleAck false 4])) ∧
    (s.clk.rclkLock = true → Completes .holdover s (fun t => t.clk = { s.clk with holdover := true, rclkLock := false } ∧
      (s.ports.length = 24 → (∀ n, n < 24 → (portAt s n).bonded = 0) → ∀ n, n < 24 →
        (portAt t n).state ≠ .up ∧ (portAt t n).state ≠ .retrain))) ∧
    (∀ src msg, src ≠ chipId s → fenced s src = false → s.fenceSelf = false → Completes (.time src msg) s (fun t => ∃ m : Message,
      t.fep.waiting = s.fep.waiting ++ [m] ∧ m.dst = src ∧ m.lc = 0x2 ∧ m.kind = 0x0B))

/-- O14. EXTEST drives the boundary cells, IDCODE shifts out the 32-bit identifier of R455, SAMPLE/PRELOAD loads the
cells, and BYPASS and every opcode not listed select the one-bit register. DBG_CHAL draws a challenge while the DRBG
runs, DBG_UNLOCK delivers the 1,024 bits as a token unless one is being verified, DBG_REG and DBG_SRAM read while
debug is open with their scope and act as BYPASS otherwise (a word of the SRAM that the block has written and the
state holds is returned as it stands), and DBG_HALT halts the engines with its scope and acts as BYPASS otherwise
(R409, R411). TAP_RESET selects IDCODE and nothing else (R447). -/
def Obligations.TestAccessPort : Prop :=
  ∀ s : State,
    (∀ cells, Completes (.extest cells) s (fun t =>
      t.tap = { s.tap with ir := 0x00, cells := cells, extest := true } ∧ Frame [.tap] [] s t)) ∧
    Completes .idcode s (fun t => t.tap = { s.tap with ir := 0x01, extest := false } ∧
      t.out = s.out ++ [Out.tap 32 idcodeValue] ∧ idcodeValue % 2 = 1 ∧ idcodeValue < 2 ^ 32) ∧
    (∀ cells, Completes (.samplePreload cells) s (fun t =>
      t.tap = { s.tap with ir := 0x02, cells := cells, extest := false })) ∧
    (∀ opcode : Byte, opcode.toNat ∉ tapOpcodes → Completes (.bypass opcode) s (fun t =>
      t.tap = { s.tap with ir := opcode, extest := false } ∧ t.out = s.out ++ [Out.tap 1 0] ∧ Frame [.tap, .out] [] s t)) ∧
    (s.sec.drbgOn = true → Completes .dbgChal s (fun t => t.tap = { s.tap with ir := 0x20, extest := false } ∧
      ∃ c, c.length = 16 ∧ t.sec.challenge = some c)) ∧
    (∀ token, s.sec.tokenLoad = none → Completes (.dbgUnlock token) s (fun t =>
      t.sec = { s.sec with tokenLoad := some (.tap token), tokenChallenge := s.sec.challenge, challenge := none } ∧
      t.tap = { s.tap with ir := 0x21, extest := false })) ∧
    (∀ a, bit (debugScope s) 0 = true → Completes (.dbgReg a) s (fun t => t.tap = { s.tap with ir := 0x22, extest := false } ∧
      t.out = s.out ++ [Out.tap 32 (busReadAt true a s).1.toNat])) ∧
    (∀ a, bit (debugScope s) 0 = false → Completes (.dbgReg a) s (fun t =>
      t.tap = { s.tap with ir := 0x22, extest := false } ∧ t.out = s.out ++ [Out.tap 1 0])) ∧
    (∀ a, bit (debugScope s) 1 = false → Completes (.dbgSram a) s (fun t =>
      t.tap = { s.tap with ir := 0x23, extest := false } ∧ t.out = s.out ++ [Out.tap 1 0])) ∧
    (∀ a, bit (debugScope s) 1 = true → a < 384 * 2 ^ 20 → Completes (.dbgSram a) s (fun t =>
      t.tap = { s.tap with ir := 0x23, extest := false } ∧ ∃ v, v < 2 ^ 64 ∧ t.out = s.out ++ [Out.tap 64 v] ∧ ∀ w, sramHeld s a = some w → v = w.toNat)) ∧
    (bit (debugScope s) 2 = true → Completes .dbgHalt s (fun t =>
      t.tap = { s.tap with ir := 0x24, extest := false, halted := true } ∧ Frame [.tap] [] s t)) ∧
    (bit (debugScope s) 2 = false → Completes .dbgHalt s (fun t =>
      t.tap = { s.tap with ir := 0x24, extest := false } ∧ t.out = s.out ++ [Out.tap 1 0])) ∧
    Completes .tapReset s (fun t => t.tap = { s.tap with ir := 0x01, extest := false } ∧ Frame [.tap] [] s t)

/-- O15. The image that LOAD named, read from memory as the agents have left it, passes every check of R60 and becomes
the staged plat (R61), and the SFU table is locked (R137); or the first check that fails gives the code that PLAT
records, the loader returns to its earlier state and the staged plat stays. A failed signature check is also counted
and shown in SEC_VERIFY_LAST (R397, R400). -/
def Obligations.PlatVerification : Prop :=
  ∀ (s : State) (env : MemEnv), s.ldr.stage = .loading →
    let m := withEnv env s
    let img := memBytes m.mem s.ldr.src s.ldr.len
    let ok1 := check1 s.ldr.len (memBytes m.mem s.ldr.src 16) = true
    let ok2 := badLine env s.ldr.src s.ldr.len = false
    let rejected := fun (code : Nat) (t : State) => t.ldr.stage = s.ldr.before ∧ t.ldr.staged = s.ldr.staged ∧
      t.ldr.active = s.ldr.active ∧ t.sfuLocked = s.sfuLocked ∧ Recorded uPlat code s t
    (ok1 → ok2 → check3Reason m img = 0 → laterChecks m img = 0 → Completes (.platLoadDone env) s (fun t =>
      t.ldr = { s.ldr with stage := .staged, staged := some (parsePlat s.ldr.src img), progress := s.ldr.len / 1024 } ∧
      t.sfuLocked = true)) ∧
    (¬ ok1 → Completes (.platLoadDone env) s (rejected 0x04)) ∧
    (ok1 → ¬ ok2 → Completes (.platLoadDone env) s (rejected 0x21)) ∧
    (ok1 → ok2 → check3Reason m img ≠ 0 → Completes (.platLoadDone env) s (fun t => rejected 0x60 t ∧
      t.sec = { s.sec with lastObject := 1, lastReason := check3Reason m img } ∧
      t.field 0x200074 31 0 = satAdd 32 (s.field 0x200074 31 0) 1)) ∧
    (ok1 → ok2 → check3Reason m img = 0 → laterChecks m img ≠ 0 →
      Completes (.platLoadDone env) s (rejected (laterChecks m img)))

/-- O16. A privileged COMMIT that names sets whose rules all hold makes the shadow values of sets 1 and 4 live at once,
and those of sets 0, 2 and 3 pending for the next datum; nothing of a set not named moves, and every shadow keeps
its value. Set 4 starts the trace again at TRACE_BASE (R469), and the throttle step rises at once where its live
thresholds ask for it (R333). A set whose rule fails refuses the whole write with E_COMMIT_RULE and the set shown; a
write of zero does nothing; a set beyond 4 is E_REG_VALUE, and set 4 during a repartition is E_BUSY (R470). -/
def Obligations.CommitSets : Prop :=
  ∀ (s : State) (v : Word32),
    (v.toNat = 0 → Completes (.commit true v) s (fun t => t = s)) ∧
    (32 ≤ v.toNat → Completes (.commit true v) s (fun t => Recorded uSde 0x1F s t ∧ Frame [] [.reg (uSde + 8)] s t)) ∧
    (0 < v.toNat → v.toNat < 32 → bit v.toNat 4 = true → repartitioning s = true → Completes (.commit true v) s (fun t =>
      Recorded uSde 0x03 s t ∧ t.commits = { s.commits with lastOk := false } ∧ Frame [.commits] [.reg (uSde + 8)] s t)) ∧
    (∀ n, 0 < v.toNat → v.toNat < 32 → (bit v.toNat 4 = false ∨ repartitioning s = false) → failingSet s v.toNat = some n →
      Completes (.commit true v) s (fun t => Recorded uSde 0x01 s t ∧
        t.commits = { s.commits with failedSet := n, lastOk := false } ∧ Frame [.commits] [.reg (uSde + 8)] s t)) ∧
    (0 < v.toNat → v.toNat < 32 → (bit v.toNat 4 = false ∨ repartitioning s = false) → failingSet s v.toNat = none →
      Completes (.commit true v) s (fun t => t.commits.lastOk = true ∧
        t.commits.mask = s.commits.mask ||| (v.toNat &&& 0xD) ∧
        (∀ n ∈ [1, 4], bit v.toNat n = true → ∀ a ∈ setRegs n, liveWord t a = shadowWord s a) ∧
        (∀ n ∈ [0, 2, 3], bit v.toNat n = true → ∀ a ∈ setRegs n,
          nextWord t a = shadowWord s a ∧ liveWord t a = liveWord s a) ∧
        (∀ n, n < 5 → bit v.toNat n = false → ∀ a ∈ setRegs n,
          liveWord t a = liveWord s a ∧ nextWord t a = nextWord s a) ∧
        (∀ n, n < 5 → ∀ a ∈ setRegs n, t.word a = s.word a) ∧
        (bit v.toNat 4 = true → t.trace.wr = t.live 0x300010 24 6 * 64 ∧ t.trace.seq = 0 ∧ t.trace.wrapped = false ∧
          t.trace.full = false) ∧
        Frame [.commits, .trace, .fep] (([1, 4].flatMap setRegs).map (fun a => .reg (a + 0x8000))) s t))

/-- O17. CERT_LOAD is refused with E_BUSY while a port keys or retrains and otherwise fixes the address; an accepted
certificate is kept (R403), and one that fails leaves the certificate in force and raises E_SEC_CERT with its reason
(R397). KL_LOAD and the key list check go likewise, with E_KEYLIST (R399). A delivered token uses up the challenge;
a token that meets R411 opens debug with its SCOPE beside what is open, and one that does not raises E_DEBUG_TOKEN
and SEC_DBG_FAIL rises to at most 8. -/
def Obligations.SecurityLoads : Prop :=
  ∀ (s : State) (env : MemEnv),
    ((∀ p ∈ s.ports, p.state ≠ .keying ∧ p.state ≠ .retrain) → Completes (.certLoad true) s (fun t =>
      t.sec = { s.sec with certLoad := some (s.addr64 0x200030 0x200034) } ∧ Frame [.sec] [] s t)) ∧
    ((∃ p ∈ s.ports, p.state = .keying ∨ p.state = .retrain) → Completes (.certLoad true) s (fun t =>
      Recorded uSec 0x03 s t ∧ Frame [] [.reg (uSec + 8)] s t)) ∧
    (∀ a, s.sec.certLoad = some a →
      let c := memBytes (withEnv env s).mem a 320
      let r := if badLine env a 320 then 1 else certReason s c
      (r = 0 → Completes (.certCheckDone env) s (fun t => t.sec = { s.sec with certLoad := none, cert := some c })) ∧
      (r ≠ 0 → Completes (.certCheckDone env) s (fun t => Recorded uSec 0x64 s t ∧
        t.sec = { s.sec with certLoad := none, lastObject := 3, lastReason := r }))) ∧
    (s.sec.klLoad = none → s.sec.certLoad = none → Completes (.klLoad true) s (fun t =>
      t.sec = { s.sec with klLoad := some (s.addr64 0x200010 0x200014, s.field 0x200018 10 0) } ∧ Frame [.sec] [] s t)) ∧
    (s.sec.klLoad ≠ none → Completes (.klLoad true) s (fun t => Recorded uSec 0x03 s t ∧ Frame [] [.reg (uSec + 8)] s t)) ∧
    (∀ a n, s.sec.klLoad = some (a, n) →
      let b := memBytes (withEnv env s).mem a n
      let r := if badLine env a n then 1 else klReason s b
      (r = 0 → Completes (.keylistCheckDone env) s (fun t =>
        t.sec = { s.sec with klLoad := none, keyList := some ⟨leAt b 8 4, klEntries b⟩ })) ∧
      (r ≠ 0 → Completes (.keylistCheckDone env) s (fun t => Recorded uSec 0x61 s t ∧
        t.sec = { s.sec with klLoad := none, lastObject := 2, lastReason := r }))) ∧
    (s.sec.tokenLoad = none → Completes (.tokenLoad true) s (fun t =>
      t.sec = { s.sec with tokenLoad := some (.memory (s.addr64 0x200040 0x200044)), tokenChallenge := s.sec.challenge,
                           challenge := none } ∧ Frame [.sec] [] s t)) ∧
    (s.sec.tokenLoad ≠ none → Completes (.tokenLoad true) s (fun t =>
      Recorded uSec 0x03 s t ∧ Frame [] [.reg (uSec + 8)] s t)) ∧
    (∀ a, s.sec.tokenLoad = some (.memory a) →
      let b := memBytes (withEnv env s).mem a 128
      let r := if badLine env a 128 then 1 else tokenReason s b
      (tokenAllowed s = true → r = 0 → Completes (.tokenCheckDone env) s (fun t =>
        t.sec = { s.sec with tokenLoad := none, tokenChallenge := none
                             scope := some (s.sec.scope.getD 0 ||| leAt b 7 1) })) ∧
      ((tokenAllowed s = false ∨ r ≠ 0) → Completes (.tokenCheckDone env) s (fun t => Recorded uSec 0x67 s t ∧
        t.sec.fails = min 8 (s.sec.fails + 1) ∧ t.sec.scope = s.sec.scope ∧ t.sec.tokenLoad = none))) ∧
    (∀ b, s.sec.tokenLoad = some (.tap b) → tokenAllowed s = true → tokenReason s b = 0 →
      Completes (.tokenCheckDone env) s (fun t =>
        t.sec = { s.sec with tokenLoad := none, tokenChallenge := none
                             scope := some (s.sec.scope.getD 0 ||| leAt b 7 1) }))

/-- O18. DRBG_RESEED after 2^20 requests starts the count again; CHAL_NEW draws 16 bytes while the DRBG runs.
ENTROPY_FAIL stops the DRBG and raises E_SEC_ENTROPY with a SECURITY notice (R394): with the ring enabled, two
entries free and no run of lost notices, the 32 bytes of R432 stand at the entry of WR, WR and SEQ rise by one, bit
11 of SDE_IRQ_STATUS is set and every other byte of memory is unchanged; with fewer than two entries free nothing is
written and SDE_NOTE_LOST rises (R431, R434). -/
def Obligations.RandomnessAndNotices : Prop :=
  ∀ s : State,
    (s.sec.drbgOn = true → 2 ^ 20 ≤ s.sec.drbgRequests → Completes .drbgReseed s (fun t =>
      t.sec = { s.sec with drbgRequests := 0 } ∧ Frame [.sec] [] s t)) ∧
    (s.sec.drbgOn = true → Completes (.chalNew true) s (fun t => (∃ c, c.length = 16 ∧ t.sec.challenge = some c) ∧
      t.sec.drbgRequests = s.sec.drbgRequests + 1)) ∧
    (s.sec.drbgOn = true → Completes .entropyFail s (fun t => t.sec = { s.sec with drbgOn := false } ∧
      Recorded uSec 0x65 s t ∧ t.field 0x338 11 11 = 1 ∧
      (noteLog2 s ≠ 0 → 2 ≤ noteFree s → s.note.pending = 0 →
        memBytes t.mem (noteSlot s 0) 32 = noticeBytes 0x0B 0x65 0x200 s.note.seq s.stepNum s.tb 0 ∧
        noteWr t = (noteWr s + 1) % 2 ^ 16 ∧ t.note.seq = (s.note.seq + 1) % 2 ^ 32 ∧
        MemSameBut (noteSlot s 0) 32 s t) ∧
      ((noteLog2 s = 0 ∨ noteFree s < 2) → MemSame s t ∧ noteWr t = noteWr s ∧
        t.field 0x334 15 0 = satAdd 16 (s.field 0x334 15 0) 1 ∧ t.note.pending = s.note.pending + 1)))

/-- O19. A write of another width than 32 bits, a misaligned one, one to an address that no register occupies (R15) and
one to a register with no writable field (R16) change nothing. Without the privilege bit a privileged register is
not written and E_PRIV is recorded in its unit (R68). A value with a reserved bit set, or that the register's map
does not permit, is E_REG_VALUE in its unit (R70); a write refused in the present state records its code. A legal
write of a register that names no action stores the value in the fields that a write sets, and changes nothing else.
Treating a set reserved bit as an illegal value is a reading (see the assumption log). -/
def Obligations.RegisterWrites : Prop :=
  ∀ (s : State) (priv : Bool) (a width : Nat) (w : Word32),
    let refused := fun (c : Nat) (t : State) => Recorded (unitOf a) c s t ∧ Frame [] [.reg (unitOf a + 8)] s t
    let exists_ := width = 32 ∧ a % 4 = 0 ∧ fieldsAt a ≠ []
    let allowed := privileged a = false ∨ priv = true
    let legal := w.toNat &&& fieldMask a = w.toNat ∧ valueOk s a w.toNat = true
    (¬ exists_ → Completes (.registerWrite priv a width w) s (fun t => t = s)) ∧
    (exists_ → ¬ allowed → Completes (.registerWrite priv a width w) s (refused 0x02)) ∧
    (exists_ → allowed → writable a = false → Completes (.registerWrite priv a width w) s (fun t => t = s)) ∧
    (exists_ → allowed → writable a = true → ¬ legal → Completes (.registerWrite priv a width w) s (refused 0x1F)) ∧
    (∀ c, exists_ → allowed → writable a = true → legal → writeRefusal s a w.toNat = some c → c < 256 →
      Completes (.registerWrite priv a width w) s (refused c)) ∧
    (exists_ → allowed → writable a = true → legal → writeRefusal s a w.toNat = none → actionWrite a w = none →
      Completes (.registerWrite priv a width w) s (fun t => t.word a = writtenWord s a w.toNat ∧ Frame [] [.reg a] s t))

/-- O20. In the word that a legal write leaves in a register, every RW field and every SH field (the shadow) holds the
bits written, every W1C field has the bits written as 1 cleared and keeps the others, and every RO, RC and WO field
is as it was (R16). -/
def Obligations.WrittenFields : Prop :=
  ∀ (s : State) (a v : Nat), ∀ f ∈ fieldsAt a,
    let w := (writtenWord s a v).toNat
    let old := s.field a f.hi f.lo
    match f.acc with
    | .rw => bits w f.hi f.lo = bits v f.hi f.lo
    | .sh => bits w f.hi f.lo = bits v f.hi f.lo
    | .w1c => bits w f.hi f.lo = old - (old &&& bits v f.hi f.lo)
    | .ro => bits w f.hi f.lo = old
    | .rc => bits w f.hi f.lo = old
    | .wo => bits w f.hi f.lo = old

/-- O21. A read returns the register's word and clears each of its RC fields in the same access (R16); where no register
stands, windows apart, it returns zero (R15). A read of SDE_TB_LO latches TB[63:32] (R439). A misaligned read, and
an unprivileged one of the security unit (R68), return zero and clear nothing (the misaligned one by the model's
choice, log entry 51). A read of a cadastre entry that is being fetched again waits, and a command that waits leaves
the state as it was (R220). A read of the trace window that comes back uncorrectable is counted and shown (R471);
the trace writer writes one record of 32 bytes at WR, and WR, or WRAPPED or the stop of R463, follow. -/
def Obligations.RegisterReads : Prop :=
  ∀ (s : State) (priv : Bool) (a : Nat),
    (readWaits s a = true → Completes (.readClear priv a []) s (fun t => t = s)) ∧
    (readWaits s a = false → (a % 4 ≠ 0 ∨ isSecReg a = true ∧ priv = false) → Completes (.readClear priv a []) s (fun t =>
      t.out = s.out ++ [Out.busRead 0] ∧ Frame [.out] [] s t)) ∧
    (readWaits s a = false → a % 4 = 0 → (isSecReg a = false ∨ priv = true) → a ≠ 0x410 →
      Completes (.readClear priv a []) s (fun t =>
      t.out = s.out ++ [Out.busRead (readWord s a)] ∧ Frame [.out] [.reg a] s t ∧
      (∀ f ∈ fieldsAt a, f.acc = .rc → t.field a f.hi f.lo = 0) ∧
      ((∀ f ∈ fieldsAt a, f.acc ≠ .rc) → t.word a = s.word a))) ∧
    Completes (.readClear priv 0x410 []) s (fun t => t.out = s.out ++ [Out.busRead (BitVec.ofNat 32 s.tb)] ∧
      t.word 0x414 = BitVec.ofNat 32 (s.tb / 2 ^ 32) ∧ Frame [.out] [.reg 0x414] s t) ∧
    (fieldsAt a = [] → (a < 0x380000 ∨ 0xC00000 ≤ a) → readWord s a = 0) ∧
    (0x380000 ≤ a → a < 0x400000 → a % 4 = 0 → ∀ uncorr, Completes (.traceWindowRead a uncorr) s (fun t =>
      t.out = s.out ++ [Out.busRead (traceWord s a)] ∧
      (uncorr = true → t.field 0x300024 0 0 = 1 ∧ t.field 0x20084 15 0 = satAdd 16 (s.field 0x20084 15 0) 1) ∧
      (uncorr = false → Frame [.out] [] s t))) ∧
    (s.trace.full = false → traceOn s = true → ∀ tick arg, s.trace.marker = some (tick, arg) →
      Completes (.traceWrite []) s (fun t => t.trace.marker = none ∧ t.trace.seq = (s.trace.seq + 1) % 2 ^ 32 ∧
        t.trace.lanes = s.trace.lanes ∧
        memBytes t.trace.ring s.trace.wr 32 = traceRecord 3 0xF 0 s.trace.seq tick arg ∧
        (s.trace.wr + 32 < s.live 0x300014 25 6 * 64 → t.trace.wr = s.trace.wr + 32) ∧
        (s.live 0x300014 25 6 * 64 ≤ s.trace.wr + 32 → s.field 0x300000 8 8 = 1 → t.trace.full = true) ∧
        (s.live 0x300014 25 6 * 64 ≤ s.trace.wr + 32 → s.field 0x300000 8 8 ≠ 1 →
          t.trace.wr = s.live 0x300010 24 6 * 64 ∧ t.trace.wrapped = true))) ∧
    (s.trace.full = false → traceOn s = true → s.trace.marker = none → ∀ n code tick arg rest, nextLane s.trace = some n →
      s.trace.lanes.getD n [] = .event code tick arg :: rest → Completes (.traceWrite []) s (fun t =>
        t.trace.last = n ∧ t.trace.lanes.getD n [] = rest ∧
        memBytes t.trace.ring s.trace.wr 32 = traceRecord 1 n code s.trace.seq tick arg))

/-- O22. For every register whose write is a command with a row of its own, the write and the row have the same outcome
in every state: SDE_COMMIT, SDE_DATUM_CTRL, SDE_STEP_LO, SDE_RLOG_CTRL, SDE_RLOG_START, SDE_FENCE, SDE_NOTE_SIZE,
SDE_NOTE_RD, SDE_BOOT_CTRL, SDE_TB_SET_LO, PLAT_CTRL, POOL_CTRL, SFU_TABLE_SEL, CAD_CTRL, CAD_QUARANTINE, REG_CTRL,
REG_CANCEL, CCE_DOORBELL and SEC_CTRL. -/
def Obligations.WritesAreTheirCommands : Prop :=
  ∀ (s : State) (priv : Bool) (w : Word32),
    exec (.registerWrite priv 0x100 32 w) s = exec (.commit priv w) s ∧
    exec (.registerWrite priv 0x200 32 1) s = exec (.go priv) s ∧
    exec (.registerWrite priv 0x210 32 w) s = exec (.stepLo w) s ∧
    exec (.registerWrite priv 0x260 32 1) s = exec (.checkpoint priv) s ∧
    (∀ n, n < 12 → exec (.registerWrite priv (0x2C0 + 4 * n) 32 w) s = exec (.rlogStart priv n w) s) ∧
    (∀ c, c < 2 ^ 14 → exec (.registerWrite priv 0x300 32 (BitVec.ofNat 32 c)) s = exec (.fence priv c) s ∧
      exec (.registerWrite priv 0x300 32 (BitVec.ofNat 32 (2 ^ 31 + c))) s = exec (.unfence priv c) s) ∧
    exec (.registerWrite priv 0x328 32 w) s = exec (.noteSize w) s ∧
    exec (.registerWrite priv 0x330 32 w) s = exec (.noteRd w) s ∧
    exec (.registerWrite priv 0x404 32 1) s = exec (.links priv) s ∧
    exec (.registerWrite priv 0x404 32 2) s = exec (.calibrate priv) s ∧
    exec (.registerWrite priv 0x418 32 w) s = exec (.tbSetLo w) s ∧
    exec (.registerWrite priv 0x10000 32 1) s = exec (.load priv) s ∧
    exec (.registerWrite priv 0x10000 32 2) s = exec (.activate priv) s ∧
    exec (.registerWrite priv 0x10000 32 4) s = exec (.disarm priv) s ∧
    exec (.registerWrite priv 0x10000 32 8) s = exec (.abandon priv) s ∧
    exec (.registerWrite priv 0x20000 32 1) s = exec .lowRearm s ∧
    exec (.registerWrite priv 0x31004 32 w) s = exec (.sfuTableSel w) s ∧
    exec (.registerWrite priv 0x60000 32 1) s = exec (.stage priv) s ∧
    exec (.registerWrite priv 0x60000 32 2) s = exec (.arm priv) s ∧
    exec (.registerWrite priv 0x60000 32 4) s = exec (.listDisarm priv) s ∧
    exec (.registerWrite priv 0x60030 32 w) s = exec (.cadQuarantine w) s ∧
    exec (.registerWrite priv 0x80000 32 1) s = exec .freeOrphans s ∧
    exec (.registerWrite priv 0x8000C 32 1) s = exec .cancel s ∧
    exec (.registerWrite priv 0xA0020 32 w) s = exec (.cceDoorbell priv w ⟨[], []⟩) s ∧
    exec (.registerWrite priv 0x200000 32 1) s = exec (.tokenLoad priv) s ∧
    exec (.registerWrite priv 0x200000 32 2) s = exec (.klLoad priv) s ∧
    exec (.registerWrite priv 0x200000 32 4) s = exec (.certLoad priv) s ∧
    exec (.registerWrite priv 0x200000 32 8) s = exec (.chalNew priv) s

/-- O23. The table of R231 for privileged writes: STAGE starts the check of the list that CAD_LIST names, and is refused
while one is being checked (E_BUSY) or armed (E_LIST_ARMED); ARM arms a staged list and DISARM returns an armed one
to STAGED, with E_LIST_ARMED or E_LIST_NONE otherwise. The check (R230) stages the list with its digest, or rejects
it with the code of the first failing check and leaves list and live cadastre as they were; a list whose lines stay
uncorrectable is rejected with 0x2B. -/
def Obligations.ChangeListStaging : Prop :=
  ∀ s : State,
    (s.lst.stage = .empty ∨ s.lst.stage = .staged → Completes (.stage true) s (fun t =>
      t.lst = { s.lst with stage := .checking, before := s.lst.stage, newSince := [], newSrc := s.addr64 0x60010 0x60014
                           newCount := s.field 0x60018 14 0 } ∧ Frame [.lst] [] s t)) ∧
    (s.lst.stage = .checking → Completes (.stage true) s (Refused uCad 0x03 s)) ∧
    (s.lst.stage = .armed → Completes (.stage true) s (Refused uCad 0x12 s)) ∧
    (s.lst.stage = .staged → Completes (.arm true) s (fun t =>
      t.lst = { s.lst with stage := .armed } ∧ Frame [.lst] [] s t)) ∧
    (s.lst.stage = .armed → Completes (.arm true) s (Refused uCad 0x12 s)) ∧
    (s.lst.stage = .empty ∨ s.lst.stage = .checking → Completes (.arm true) s (Refused uCad 0x13 s)) ∧
    (s.lst.stage = .armed → Completes (.listDisarm true) s (fun t =>
      t.lst = { s.lst with stage := .staged } ∧ Frame [.lst] [] s t)) ∧
    (s.lst.stage ≠ .armed → Completes (.listDisarm true) s (Refused uCad 0x13 s)) ∧
    (∀ env : MemEnv, s.lst.stage = .checking →
      let m := withEnv env s
      let n := 8 * s.lst.newCount
      let b := memBytes m.mem s.lst.newSrc n
      let lost := badLine env s.lst.newSrc n = true
      let rejected := fun (c : Nat) (t : State) => t.lst = { s.lst with stage := s.lst.before, newSince := [] } ∧
        t.cad = s.cad ∧ Recorded uCad c s t
      (¬ lost → listCode m b = 0 → Completes (.listCheckDone env) s (fun t =>
        t.lst = { s.lst with stage := .staged, src := s.lst.newSrc, count := s.lst.newCount, digest := sha384 b
                             since := s.lst.newSince, newSince := [] } ∧ t.cad = s.cad)) ∧
      (¬ lost → listCode m b ≠ 0 → Completes (.listCheckDone env) s (rejected (listCode m b))) ∧
      (lost → Completes (.listCheckDone env) s (rejected 0x2B)))

/-- O24. A write of CAD_QUARANTINE that names an expert whose LIVE slot this chip holds names the next datum, or the one
after it once this chip has contributed to a datum's agreement (log entry 45), sends a notice on VC5 to every other
chip that is not fenced, and counts those not yet delivered (R238). It is kept for the datum it names; one that
names the datum in progress, whose action 1 has been taken, makes the slot QUARANTINED at once. While a step runs,
STRICT aborts it with 0x2C and otherwise the replica stops at once (R239, R240). A notice received is kept, or acts,
in the same way, once; malformed ones are ignored (the model's reading). -/
def Obligations.QuarantineOrders : Prop :=
  ∀ (s : State) (v : Word32), v.toNat < 2 ^ 20 → ownLive s v.toNat = true →
    (∀ q ∈ s.quarPending, ¬ (q.expert = v.toNat ∧ q.chip = chipId s)) →
    let e := v.toNat
    let step := nextStep s + (if s.dat.phase = .idle then 0 else 1)
    let atOnce := s.dat.began = true ∧ s.dat.phase = .idle
    let queued := fun (t : State) =>
      (¬ atOnce → t.quarPending = s.quarPending ++ [⟨e, chipId s, step⟩]) ∧ (atOnce → t.quarPending = s.quarPending)
    let dsts := (List.range (chipCount s)).filter (fun c => c ≠ chipId s && !(stepFences s).contains c && !fenced s c)
    (stepLive s = false → s.fenceSelf = false → Completes (.cadQuarantine v) s (fun t => queued t ∧
      t.quarUndelivered = s.quarUndelivered + dsts.length ∧
      t.fep.waiting = s.fep.waiting ++ dsts.map (fun c =>
        ⟨c, 0xA, 0x06, s.stepNum, quarantinePayload (chipId s) e step, .quarantine, 0, none⟩) ∧
      (¬ atOnce → Frame [.quarPending, .quarUndelivered, .fep] [] s t) ∧
      (atOnce → t.cad = (quarantineSlot e (chipId s) s).cad ∧ t.lst.since = s.lst.since ++ [(e, chipId s)]))) ∧
    (stepLive s = true → strictLive s = true → Completes (.cadQuarantine v) s (fun t => queued t ∧ AbortedHere uCad 0x2C s t)) ∧
    (stepLive s = true → strictLive s = false → Completes (.cadQuarantine v) s (fun t => queued t ∧
      t.quarActing = s.quarActing ++ [e])) ∧
    (∀ src (m : Bytes), m.length = 32 → leAt m 0 1 = 1 →
      let q : Quarantine := ⟨bits (leAt m 4 4) 19 0, src, bits (leAt m 8 8) 55 0⟩
      let now := s.dat.began = true ∧ q.step ≤ nextStep s
      let seen := if stepLive s then s.quarSeen ++ [q] else s.quarSeen
      (q ∉ s.quarPending → ¬ now → Completes (.quarantineNotice src m) s (fun t => t.quarPending = s.quarPending ++ [q] ∧
        t.quarSeen = seen ∧ Frame [.quarPending, .quarSeen] [] s t)) ∧
      (q ∉ s.quarPending → now → Completes (.quarantineNotice src m) s (fun t => t.quarPending = s.quarPending ∧
        t.quarSeen = seen ∧ t.cad = (quarantineSlot q.expert src s).cad)) ∧
      (q ∈ s.quarPending → Completes (.quarantineNotice src m) s (fun t => t = s)))

/-- O25. LOW_REARM sets every POOL_LOWn to its pool's current free count (R102). ALLOC_GRANT serves the waiting request
of a pool that R85 grants and that comes first in the order of R83; the buffer it takes is the top of the pool's
stack (R82), with a reference count of 1, charged to the request's owner (R84, R87), and is kept for the request;
while a step runs, FEED and COLLECT then go on. A command that meets words in error first counts them and marks what
they stood in, and then does its work: words of SRAM regions and buffers are counted with their bank (R78), words of
a station's queue in its register (R91, R100), accumulator words in SCORE_ACC_ERR (R125), table words in
SFU_TABLE_REFRESH (R138); an uncorrectable word of a buffer poisons what stands in it (R78), one of a cadastre entry
starts its fetch from a peer (R220), a stack entry that reads uncorrectable is withdrawn with E_POOL_STACK (R89),
and a word of the log that both copies lose raises E_RLOG_FAULT (R388). The word's place in its bank is a reading
(log entry 31). -/
def Obligations.BufferPoolCommands : Prop :=
  ∀ s : State, s.pools.pools.length = 6 →
    Completes .lowRearm s (fun t => (∀ p, p < 6 → (poolAt t p).low = freeCount s p ∧ freeCount t p = freeCount s p) ∧
      Frame [.pools] [] s t) ∧
    (∀ p w, p < 6 → nextWaiter s p = some w → Completes (.allocGrant p []) s (fun t => ∃ u : State,
      w ∈ s.pools.waiters ∧ w.pool = p ∧ grantable s p w.owner = true ∧
      (∀ x ∈ s.pools.waiters, x.pool = p → grantable s p x.owner = true →
        let cur := if (poolAt s p).lastOwner = unreserved then 99 else (poolAt s p).lastOwner
        serveKey cur w.owner ≤ serveKey cur x.owner) ∧
      u.pools.waiters = s.pools.waiters.erase w ∧
      u.pools.granted = s.pools.granted ++ [⟨p, nextPtr (poolAt s p), w.owner, w.key⟩] ∧
      u.pools.bufs = ⟨p, nextPtr (poolAt s p), w.owner, 1⟩ :: s.pools.bufs ∧ (poolAt u p).lastOwner = w.owner ∧
      Frame [.pools, .trace] [] s u ∧ t = collectOn (runFeed u).collectHeld.length (runFeed u) ∧
      (stepLive s = false → t = u))) ∧
    (∀ p, nextWaiter s p = none → stepLive s = false → Completes (.allocGrant p []) s (fun t => t = s)) ∧
    (∀ es : Errs, let u := takeErrors es s
      (∀ k, exec (.gateRowBlock k es) s = exec (.gateRowBlock k []) u ∧
        exec (.selectRowBlock k es) s = exec (.selectRowBlock k []) u ∧
        exec (.tallyCount k es) s = exec (.tallyCount k []) u) ∧
      (∀ l h, exec (.tallyScanEnd l h es) s = exec (.tallyScanEnd l h []) u ∧
        exec (.tallyCloseContribute l h es) s = exec (.tallyCloseContribute l h []) u ∧
        exec (.tallyClose l h es) s = exec (.tallyClose l h []) u ∧
        exec (.sortStart l h es) s = exec (.sortStart l h []) u ∧
        exec (.sortPhaseEnd l h es) s = exec (.sortPhaseEnd l h []) u ∧
        exec (.groupWrite l h es) s = exec (.groupWrite l h []) u ∧
        exec (.sendGroup l h es) s = exec (.sendGroup l h []) u ∧
        exec (.emitTile l h es) s = exec (.emitTile l h []) u ∧
        ∀ slot, exec (.combineRow l h slot es) s = exec (.combineRow l h slot []) u) ∧
      (∀ src m, exec (.tallyReport src m es) s = exec (.tallyReport src m []) u ∧
        exec (.tallyGrant src m es) s = exec (.tallyGrant src m []) u ∧
        exec (.replicaNotice src m es) s = exec (.replicaNotice src m []) u ∧
        exec (.mgmtRead src m es) s = exec (.mgmtRead src m []) u) ∧
      (∀ n, exec (.bucketMapBuild n es) s = exec (.bucketMapBuild n []) u ∧
        exec (.feedWaitTimeout n es) s = exec (.feedWaitTimeout n []) u ∧
        exec (.allocGrant n es) s = exec (.allocGrant n []) u ∧
        exec (.tokenStreamPortCredit n es) s = exec (.tokenStreamPortCredit n []) u ∧
        exec (.verdict n es) s = exec (.verdict n []) u) ∧
      exec (.checkpointSigned es) s = exec (.checkpointSigned []) u ∧
      (∀ src port step m, exec (.groupReceive src port step m es) s =
        exec (.groupReceive src port step (if arrivedBad es then poisonGroup m else m) []) (takeErrors (otherErrors es) s)) ∧
      (∀ src (m : Bytes), 16 ≤ m.length →
        let r := if arrivedBad es then poisonRecord m else m
        let w := takeErrors (otherErrors es) s
        exec (.output src m es) s = exec (.output src r []) w ∧ exec (.recall src m es) s = exec (.recall src r []) w ∧
        exec (.refuse src m es) s = exec (.refuse src r []) w)) ∧
    (∀ r off,
      let b := bankAt s r off % 64
      (let t := takeErrors [⟨.region r off, false⟩] s;
        t.field 0x20080 31 0 = satAdd 32 (s.field 0x20080 31 0) 1 ∧ t.field 0x20088 5 0 = b ∧
          Frame [] [.reg 0x20080, .reg 0x20088] s t) ∧
      (let t := takeErrors [⟨.region r off, true⟩] s;
        t.field 0x20084 15 0 = satAdd 16 (s.field 0x20084 15 0) 1 ∧ t.field 0x20088 21 16 = b ∧
          (r ≠ 3 → Frame [] [.reg 0x20084, .reg 0x20088] s t) ∧ (r = 3 → ∃ c ∈ t.cadRefetch, c.entry = off / 32))) ∧
    (∀ p ptr off, pastPoison s (p, ptr) = false → (∀ c ∈ s.cce.active, (p, ptr) ∉ c.bufs) →
      let t := takeErrors [⟨.buffer p ptr off, true⟩] s
      t.field 0x20084 15 0 = satAdd 16 (s.field 0x20084 15 0) 1 ∧ t.halves = s.halves.map (markHalf (p, ptr)) ∧
        t.ingestHeld = s.ingestHeld.map (markHeld (p, ptr)) ∧ t.collectHeld = s.collectHeld.map (markHeld (p, ptr)) ∧
        t.recv = s.recv.map (markRx (p, ptr)) ∧ t.run = s.run) ∧
    (∀ c p ptr, 1 ≤ c → c ≤ 15 →
      (let t := takeErrors [⟨.queue c p ptr, false⟩] s;
        t.field (0x20100 + 4 * c) 23 16 = satAdd 8 (s.field (0x20100 + 4 * c) 23 16) 1 ∧
          Frame [] [.reg (0x20100 + 4 * c)] s t) ∧
      (pastPoison s (p, ptr) = false → (∀ x ∈ s.cce.active, (p, ptr) ∉ x.bufs) →
        let t := takeErrors [⟨.queue c p ptr, true⟩] s
        t.field (0x20100 + 4 * c) 29 29 = 1 ∧ t.halves = s.halves.map (markHalf (p, ptr)))) ∧
    (∀ row, (takeErrors [⟨.accumulator row, false⟩] s).field 0x30030 15 0 = satAdd 16 (s.field 0x30030 15 0) 1 ∧
      (takeErrors [⟨.accumulator row, true⟩] s).field 0x30030 31 16 = satAdd 16 (s.field 0x30030 31 16) 1) ∧
    (∀ off, (takeErrors [⟨.table off, true⟩] s).field 0x31038 15 0 = satAdd 16 (s.field 0x31038 15 0) 1) ∧
    (∀ p off, p < 6 → freeCount s p ≠ 0 → let t := takeErrors [⟨.stack p off, true⟩] s
      (poolAt t p).withdrawn = (poolAt s p).withdrawn + 1 ∧ freeCount t p = freeCount s p - 1 ∧ Recorded uPool 0x23 s t) ∧
    (s.rlog.fault = false → let t := takeErrors [⟨.log, true⟩] s
      t.rlog = { s.rlog with fault := true } ∧ Recorded uSde 0x69 s t)

/-- O26. SDE_NOTE_RD moves forward and never past WR; another value is E_REG_VALUE (R435). SDE_NOTE_SIZE takes 0 or 6 to
15, and set from zero it sets WR and RD to zero. When a run of lost notices is pending and the write leaves two
entries free, a CAIRN with the count is written at WR (R431). -/
def Obligations.NoticeRingRegisters : Prop :=
  ∀ (s : State) (v : Word32),
    (v.toNat < 2 ^ 16 → serialSub 16 v.toNat (noteRdIx s) ≤ serialSub 16 (noteWr s) (noteRdIx s) →
      Completes (.noteRd v) s (fun t => noteRdIx t = v.toNat ∧
        (s.note.pending = 0 → Frame [] [.reg 0x330] s t) ∧
        (s.note.pending ≠ 0 → noteLog2 s ≠ 0 → 2 + serialSub 16 (noteWr s) v.toNat ≤ 2 ^ noteLog2 s →
          memBytes t.mem (noteSlot s 0) 32 = noticeBytes 0x0D 0 0 s.note.seq s.stepNum s.tb s.note.pending ∧
          t.note.pending = 0 ∧ t.note.seq = (s.note.seq + 1) % 2 ^ 32 ∧ noteWr t = (noteWr s + 1) % 2 ^ 16 ∧
          t.field 0x338 13 13 = 1 ∧ MemSameBut (noteSlot s 0) 32 s t))) ∧
    ((2 ^ 16 ≤ v.toNat ∨ serialSub 16 (noteWr s) (noteRdIx s) < serialSub 16 v.toNat (noteRdIx s)) →
      Completes (.noteRd v) s (Refused uSde 0x1F s)) ∧
    (v.toNat = 0 ∨ (6 ≤ v.toNat ∧ v.toNat ≤ 15) → Completes (.noteSize v) s (fun t => noteLog2 t = v.toNat ∧
      (s.note.pending = 0 → Frame [] [.reg 0x328, .reg 0x32C, .reg 0x330] s t ∧
        (noteLog2 s = 0 → v.toNat ≠ 0 → noteWr t = 0 ∧ noteRdIx t = 0) ∧
        (noteLog2 s ≠ 0 ∨ v.toNat = 0 → noteWr t = noteWr s ∧ noteRdIx t = noteRdIx s)))) ∧
    (v.toNat ≠ 0 ∧ (v.toNat < 6 ∨ 15 < v.toNat) → Completes (.noteSize v) s (Refused uSde 0x1F s))

/-- O27. A PROBE is answered on VC1 with its identifier. A chip that waits on a peer sends PROBE on up to four of its
links, once the answers can be reserved (R330); an answer ends that probe; when none has been answered within 5,000
ticks the peer is fenced, the fence counted, and the probes end; when one has, only the probes end (R422). A READ
within the cadastre window is answered with its words, another with DENIED (R430), unless the datum in progress may
still change them or an entry of them is being fetched again (R220). An answer writes the entry's words back and is
counted; after a denial the next peer is asked; and when no peer has answered within TALLY_TIMEOUT ticks the step
aborts with 0x2A (R220). -/
def Obligations.ManagementMessages : Prop :=
  ∀ s : State,
    (∀ src (m : Bytes), src ≠ chipId s → fenced s src = false → s.fenceSelf = false → Completes (.probe src m) s (fun t =>
      t.fep.waiting = s.fep.waiting ++ [⟨src, 0x2, 0x0B, s.stepNum, mgmtHeader 0x82 0 (chipId s) (leAt m 4 4) 0 0, .none, 0, none⟩] ∧
      Frame [.fep] [] s t)) ∧
    (∀ peer, peer ≠ chipId s → fenced s peer = false → (∀ p ∈ s.probes, p.peer ≠ peer) → waitsOn s peer = true →
      answersRoom s (min 4 (linksUp s).length) = true →
      Completes (.peerWaitTimeout peer) s (fun t => ∃ new, t.probes = s.probes ++ new ∧ new.length = min 4 (linksUp s).length ∧
        ∀ p ∈ new, p.peer = peer ∧ p.tick = s.tb ∧ p.answered = false)) ∧
    (∀ src (m : Bytes), (∃ p ∈ s.probes, p.peer = src ∧ p.id = leAt m 4 4) → Completes (.probeAnswer src m) s (fun t =>
      t.probes = (s.probes.filter (fun p => !(p.peer = src && p.id = leAt m 4 4))).map (fun p =>
        if p.peer = src then { p with answered := true } else p) ∧ Frame [.probes, .fep] [] s t)) ∧
    (∀ peer, (∃ p ∈ s.probes, p.peer = peer) → (∀ p ∈ s.probes, p.peer = peer → p.tick + 5000 ≤ s.tb) →
      ((∀ p ∈ s.probes, p.peer = peer → p.answered = false) → fenced s peer = false → s.fenceSelf = false →
        Completes (.probeTimeout peer) s (fun t => t.probes = s.probes.filter (fun p => p.peer ≠ peer) ∧
          t.fences = insertSorted peer s.fences ∧ t.field 0x310 15 0 = satAdd 16 (s.field 0x310 15 0) 1)) ∧
      ((∃ p ∈ s.probes, p.peer = peer ∧ p.answered = true) → Completes (.probeTimeout peer) s (fun t =>
        t.probes = s.probes.filter (fun p => p.peer ≠ peer) ∧ Frame [.probes, .fep] [] s t))) ∧
    (∀ src (m : Bytes), src ≠ chipId s → fenced s src = false → s.fenceSelf = false → switchOpen s = false →
      let off := leAt m 8 4
      let n := leAt m 12 4
      let answer := fun (status : Nat) (body : Bytes) (t : State) =>
        t.fep.waiting = s.fep.waiting ++ [⟨src, 0x2, 0x0B, s.stepNum,
          mgmtHeader 0x81 status (chipId s) (leAt m 4 4) off n ++ body, .none, 0, none⟩] ∧ Frame [.fep] [] s t
      (readAllowed off n = true → (∀ x ∈ readEntries off n, ∀ r ∈ s.cadRefetch, r.entry ≠ x) → Completes (.mgmtRead src m []) s
        (answer 0 ((List.range n).flatMap (fun i => leBytes 4 (windowWord s (off + 4 * i)).toNat)))) ∧
      (readAllowed off n = false → Completes (.mgmtRead src m []) s (answer 1 []))) ∧
    (∀ src (m : Bytes) r, s.cadRefetch.find? (fun r => r.peer = src && r.id = leAt m 4 4) = some r →
      (leAt m 1 1 = 0 → m.length = 48 → Completes (.mgmtReadAnswer src m) s (fun t =>
        cadEntry t r.entry = (List.range 8).map (fun i => BitVec.ofNat 32 (leAt m (16 + 4 * i) 4)) ∧
        (∀ x, x ≠ r.entry → cadEntry t x = cadEntry s x) ∧ t.cadRefetch = s.cadRefetch.filter (fun x => x != r) ∧
        t.field 0x60088 15 0 = satAdd 16 (s.field 0x60088 15 0) 1)) ∧
      (∀ p rest, leAt m 1 1 ≠ 0 → r.left = p :: rest → Completes (.mgmtReadAnswer src m) s (fun t => t.cad = s.cad ∧
        t.cadRefetch = s.cadRefetch.filter (fun x => x != r) ++ [⟨r.entry, p, rest, s.mgmtNext, r.tick⟩]))) ∧
    ((∃ r ∈ s.cadRefetch, r.tick + s.live 0x41030 31 0 ≤ s.tb) → stepLive s = true → Completes .cadRefetchTimeout s (fun t =>
      AbortedHere uCad 0x2A s t ∧ t.cadRefetch = s.cadRefetch.filter (fun r => !decide (r.tick + s.live 0x41030 31 0 ≤ s.tb))))

/-- O28. SDE_FENCE with CHIP beyond the installation, or on a fenced chip, is E_FENCE_CHIP; before CALIBRATE is written
it sets the bit and nothing else (R476); after it the chip is in the bitmap, or this chip's own SELF is set and a
running step aborts with 0x43 (R422, R424). UNFENCE of a fenced chip waits for the datum (R425). A FENCE notice not
yet seen has the same effect as a decision, and one already seen none (R420, R423). A chip with no port UP for
FEP_RTO ticks fences itself with E_ISOLATED (R422). The code of the abort is stated for a chip with no record in its
send queue; a record whose buffer is free already would abort the step with E_POOL_REF (R88) as it is dropped. -/
def Obligations.Fencing : Prop :=
  ∀ s : State,
    let ended := fun (unit code : Nat) (t : State) => stepLive s = true →
      stepLive t = false ∧ ((∀ m ∈ s.fep.waiting, m.tie.buf = none) → AbortedHere unit code s t)
    (∀ c, chipCount s ≤ c ∨ s.fenceSelf = true → Completes (.fence true c) s (Refused uSde 0x1E s)) ∧
    (∀ c, c < chipCount s → s.fenceSelf = false → fenced s c = false →
      (s.boot.calibrateWritten = false → Completes (.fence true c) s (fun t =>
        t.fences = insertSorted c s.fences ∧ Frame [.fences] [] s t)) ∧
      (s.boot.calibrateWritten = true → c ≠ chipId s → Completes (.fence true c) s (fun t =>
        t.fences = insertSorted c s.fences ∧ t.fenceSelf = false ∧ (∀ p ∈ t.probes, p.peer ≠ c))) ∧
      (s.boot.calibrateWritten = true → c = chipId s → Completes (.fence true c) s (fun t =>
        t.fences = insertSorted c s.fences ∧ t.fenceSelf = true ∧ t.dat = { Dat.idle with refusal := s.dat.refusal } ∧
        ended uReg 0x43 t))) ∧
    (∀ c, c < chipCount s → s.fenceSelf = false → fenced s c = true → Completes (.fence true c) s (fun t => t = s)) ∧
    (∀ c, c < chipCount s → fenced s c = true → c ≠ chipId s → s.fenceSelf = false → Completes (.unfence true c) s (fun t =>
      t.unfences = insertSorted c s.unfences ∧ Frame [.unfences] [] s t)) ∧
    (∀ c, (chipCount s ≤ c ∨ fenced s c = false ∨ c = chipId s ∨ s.fenceSelf = true) →
      Completes (.unfence true c) s (Refused uSde 0x1E s)) ∧
    (∀ src (m : Bytes),
      let c := bits (leAt m 8 4) 13 0
      (bcastSeen s 0x0A s.stepNum c = true → Completes (.fenceNotice src m) s (fun t => t = s)) ∧
      (bcastSeen s 0x0A s.stepNum c = false → c ≠ chipId s → fenced s c = false → Completes (.fenceNotice src m) s (fun t =>
        t.fences = insertSorted c s.fences ∧ t.fenceSelf = s.fenceSelf ∧ bcastSeen t 0x0A s.stepNum c = true)) ∧
      (bcastSeen s 0x0A s.stepNum c = false → c = chipId s → s.fenceSelf = false → Completes (.fenceNotice src m) s (fun t =>
        t.fences = insertSorted c s.fences ∧ t.fenceSelf = true ∧ ended uReg 0x43 t))) ∧
    (∀ k, s.fep.noPortSince = some k → s.fenceSelf = false → k + rto s ≤ s.tb → Completes .isolation s (fun t =>
      t.fenceSelf = true ∧ t.fences = insertSorted (chipId s) s.fences ∧ (stepLive s = false → Recorded uSde 0x5E s t) ∧
      ended uSde 0x5E t))

/-- O29. GO in READY or RUNNING asks for a datum, and is E_BUSY before (R369, R453). SDE_STEP_LO sets the step number
before the first datum, up to 2^56 − 2^48 (R43). DATUM_BEGIN takes action 1 of R65 once: pending commit sets become
live (R73), the next-step fields are latched (R18), quarantines act (R238) and unfences clear their bits (R425).
With no armed plat, or once the armed plat's CADASTRE has been read again and its digest holds (R62), the chip
contributes its fingerprints to the agreement round (R370). A digest that fails makes it refuse with 0x0A. -/
def Obligations.DatumBegins : Prop :=
  ∀ s : State,
    ((s.boot.stage = .ready ∨ s.boot.stage = .running) → Completes (.go true) s (fun t =>
      t.dat = { s.dat with go := true } ∧ Frame [.dat] [] s t)) ∧
    (s.boot.stage ≠ .ready → s.boot.stage ≠ .running → Completes (.go true) s (Refused uSde 0x03 s)) ∧
    (∀ v : Word32,
      let n := s.field 0x214 23 0 * 2 ^ 32 + v.toNat
      (s.boot.firstDatumDone = true → Completes (.stepLo v) s (Refused uSde 0x1B s)) ∧
      (s.boot.firstDatumDone = false → 2 ^ 56 - 2 ^ 48 < n → Completes (.stepLo v) s (Refused uSde 0x16 s)) ∧
      (s.boot.firstDatumDone = false → n ≤ 2 ^ 56 - 2 ^ 48 → Completes (.stepLo v) s (fun t =>
        t.stepNum = n ∧ Frame [.stepNum] [] s t))) ∧
    (∀ env : MemEnv,
      let contributed := fun (t : State) => t.dat.phase = .agreement ∧ t.dat.contribTick = s.tb ∧
        ∃ r ∈ t.rounds, r.key = datumKey t kAgreement ∧ r.own = some (agreementBytes t)
      (s.dat.go = true → s.dat.phase = .idle → s.run = none → s.fenceSelf = false → s.sfuCopying = false →
        s.quarUndelivered = 0 → armedPlat s = none → Completes (.datumBegin env) s (fun t => contributed t ∧
          (s.dat.began = false → (s.commits.values.map (·.1)).Nodup →
            (∀ v ∈ s.commits.values, ∃ n ∈ [0, 2, 3], v.1 ∈ setRegs n) →
            t.commits.values = [] ∧ t.commits.mask = 0 ∧
            (∀ n, n < 5 → ∀ a ∈ setRegs n, liveWord t a = nextWord s a) ∧
            (∀ a ∈ latchedRegs, storeGet (resetWord a) a t.latched = s.word a) ∧
            t.quarPending = s.quarPending.filter (fun q => nextStep s < q.step) ∧ t.unfences = [] ∧ t.fences = s.fences.filter (fun c => !s.unfences.contains c)))) ∧
      (∀ p, armedPlat s = some p → s.dat.checking = some p.hash →
        let b := memBytes (withEnv env s).mem p.cadAddr p.cadLen
        (badLine env p.cadAddr p.cadLen = false → sha384 b = p.cadDigest → s.sfuCopying = false → s.quarUndelivered = 0 →
          Completes (.cadastreCheckDone env) s (fun t => contributed t ∧ t.dat.checked = some p.hash)) ∧
        (badLine env p.cadAddr p.cadLen = false → sha384 b ≠ p.cadDigest → Completes (.cadastreCheckDone env) s (fun t =>
          t.dat.checked = some p.hash ∧ 0x0A ≤ t.dat.refuse ∧ Recorded uPlat 0x0A s t)) ∧
        (badLine env p.cadAddr p.cadLen = true → Completes (.cadastreCheckDone env) s (fun t =>
          t.dat.checked = some p.hash ∧ 0x21 ≤ t.dat.refuse ∧ Recorded uPlat 0x21 s t))))

/-- O30. A refused agreement ends the datum with the code in SDE and in SDE_DATUM_STATUS (R371). An agreed one is
followed by the start round when no plat is armed and no armed list may be switched to, and activates an armed plat,
whose pools are built once every buffer is free (R90) and whose CADASTRE becomes the live cadastre; a digest that
fails there fences the chip with CAUSE 0x4 (R62). A round without a result for SDE_STEP_TIMEOUT ticks ends the datum
with 0x4A (R373). -/
def Obligations.DatumAgrees : Prop :=
  ∀ s : State,
    let ended := fun (c : Nat) (t : State) => t.dat = { Dat.idle with refusal := c }
    let started := fun (t : State) => t.dat.phase = .startRound ∧ t.dat.contribTick = s.tb ∧
      ∃ r ∈ t.rounds, r.key = datumKey t kStart ∧ r.own = some (leBytes 8 s.tb ++ leBytes 8 s.dat.listCode)
    let noList := maySwitch s = false
    (∀ lanes, s.dat.phase = .agreement →
      (agreementCode lanes ≠ 0 → agreementCode lanes < 256 → Completes (.agreementResult lanes) s (fun t =>
        ended (agreementCode lanes) t ∧ Recorded uSde (agreementCode lanes) s t ∧ t.ldr = s.ldr)) ∧
      (agreementCode lanes = 0 → armedPlat s = none → s.dat.needPools = false → s.dat.needReload = false →
        s.dat.needList = false → noList → Completes (.agreementResult lanes) s (fun t => started t ∧
          t.boot = { s.boot with stage := .running, firstDatumDone := true } ∧ t.quarPending = s.quarPending)) ∧
      (∀ p, agreementCode lanes = 0 → armedPlat s = some p → Completes (.agreementResult lanes) s (fun t =>
        t.ldr = { s.ldr with stage := .empty, staged := none, active := some p } ∧ t.dat.phase = .actions ∧
        t.dat.needReload = true ∧ t.dat.platActivated = true ∧ t.boot.stage = .running ∧ t.quarPending = [] ∧
        t.lst.stage ≠ .armed))) ∧
    (∀ p, s.ldr.active = some p → s.dat.phase = .actions → s.dat.needPools = true → allFree s = true →
      Completes .poolsBuild s (fun t => t.dat.needPools = false ∧ t.pools.owners = p.owners ∧
        (∀ k, k < 6 → freeCount t k = p.counts.getD k 0 ∧ (poolAt t k).low = p.counts.getD k 0 ∧ usedCount t k = 0) ∧
        (s.dat.needReload = false → s.dat.needList = false → noList → started t))) ∧
    (∀ p (env : MemEnv), s.ldr.active = some p → s.dat.phase = .actions → s.dat.needReload = true →
      let b := memBytes (withEnv env s).mem p.cadAddr p.cadLen
      (badLine env p.cadAddr p.cadLen = false → sha384 b = p.cadDigest → Completes (.cadastreReloadDone env) s (fun t =>
        t.cad = cadOf (decide (p.format = 2)) b ∧ t.dat.needReload = false ∧
        (s.dat.needPools = false → s.dat.needList = false → noList → started t))) ∧
      (badLine env p.cadAddr p.cadLen = false → sha384 b ≠ p.cadDigest → s.fenceSelf = false → s.run = none →
        Completes (.cadastreReloadDone env) s (fun t => ended 0x0A t ∧ t.fenceSelf = true ∧
          t.fences = insertSorted (chipId s) s.fences ∧ t.cad = s.cad ∧ Recorded uPlat 0x0A s t)) ∧
      (badLine env p.cadAddr p.cadLen = true → s.fenceSelf = false → s.run = none →
        Completes (.cadastreReloadDone env) s (fun t => ended 0x21 t ∧ t.fenceSelf = true ∧ t.cad = s.cad ∧ Recorded uPlat 0x21 s t))) ∧
    ((s.dat.phase = .agreement ∨ s.dat.phase = .startRound) → s.dat.contribTick + s.live 0x14 31 0 ≤ s.tb →
      Completes .datumTimeout s (fun t => ended 0x4A t ∧ Recorded uSde 0x4A s t))

/-- O31. The start round's result plus SDE_DATUM_LEAD is T; the chip waits for it, or starts at once and aborts with
0x49 when T has passed (R372). A step starts at the first edge at which TB has reached T: its number, its account
and the state of the datum follow (R65 action 5, R376). An armed list that may be switched to is read again before
the start round, and the chip contributes the code of a reading that failed beside its TB (log entry 44); at a
boundary the result switches to the list, whose records take effect, and leaves the list unit EMPTY, or, where a
chip could not read its list again, refuses the datum on every chip with that code and leaves list and cadastre as
they were (R233). -/
def Obligations.StepStarts : Prop :=
  ∀ s : State,
    (∀ latest refused, s.dat.phase = .startRound →
      let T := latest + s.step_ 0x208 15 0
      let boundary := stepBoundary s = true ∨ epochBoundary T s = true
      (¬ boundary → s.tb < T → Completes (.startRoundResult latest refused) s (fun t =>
        t.dat = { s.dat with phase := .awaitT, start := T, late := false } ∧ Frame [.dat] [] s t)) ∧
      (¬ boundary → T ≤ s.tb → Completes (.startRoundResult latest refused) s (fun t =>
        t.stepNum = nextStep s ∧ (∃ r, t.run = some r ∧ r.abortCode = 0x49) ∧
        t.dat = { Dat.idle with refusal := s.dat.refusal } ∧ Recorded uSde 0x49 s t)) ∧
      (boundary → refused ≠ 0 → Completes (.startRoundResult latest refused) s (fun t =>
        t.dat = { Dat.idle with refusal := refused % 256 } ∧ t.lst = s.lst ∧ t.cad = s.cad ∧
        Recorded uSde (refused % 256) s t)) ∧
      (boundary → refused = 0 → s.tb < T → s.dat.listImage = none → Completes (.startRoundResult latest refused) s (fun t =>
        t.dat.phase = .awaitT ∧ t.dat.start = T ∧ t.lst = s.lst ∧ t.cad = s.cad)) ∧
      (∀ b, boundary → refused = 0 → s.tb < T → s.dat.listImage = some b →
        Completes (.startRoundResult latest refused) s (fun t => t.dat.phase = .awaitT ∧ t.dat.start = T ∧
          t.dat.listSwitched = true ∧ t.dat.listFp = digest64 s.lst.digest ∧ t.lst.stage = .empty ∧
          t.cad = ((listRecs b).foldl (fun s r => switchRec r s) s).cad))) ∧
    (s.dat.phase = .awaitT → s.dat.start ≤ s.tb → s.dat.late = false → s.ingestHeld = [] →
      Completes .stepStart s (fun t => t.stepNum = nextStep s ∧ t.run = some (newRun s) ∧ t.prevT = s.dat.start ∧
        t.boot = { s.boot with stepStarted := true } ∧ t.dat = { Dat.idle with refusal := s.dat.refusal } ∧
        t.broadcasts = [] ∧ t.quarActing = [] ∧ t.quarSeen = [] ∧ t.bucketMaps = [] ∧
        (s.rlog.chain = none → s.rlog.startSet = true → t.rlog.chain = some s.rlog.start ∧ t.rlog.loaded = true) ∧
        (s.rlog.chain = none → s.rlog.startSet = false →
          t.rlog.chain = some (sha384 (leBytes 8 (chipId s) ++ leBytes 8 (nextStep s)))) ∧
        (traceOn s = true → t.trace.marker = some (s.dat.start, nextStep s + classLive s * 2 ^ 56)))) ∧
    (s.dat.phase = .awaitT → s.tb < s.dat.start → Completes .stepStart s (fun t => t = s)) ∧
    (∀ env : MemEnv, s.dat.needList = true →
      let n := 8 * s.lst.count
      let b := memBytes (withEnv env s).mem s.lst.src n
      let contributed := fun (code : Nat) (t : State) => t.dat.phase = .startRound ∧ t.dat.needList = false ∧
        t.dat.contribTick = s.tb ∧ t.lst = s.lst ∧ t.cad = s.cad ∧ t.dat.listCode = code ∧
        ∃ r ∈ t.rounds, r.key = datumKey t kStart ∧ r.own = some (leBytes 8 s.tb ++ leBytes 8 code)
      (badLine env s.lst.src n = false → sha384 b = s.lst.digest → Completes (.listSwitchReadDone env) s (fun t =>
        contributed s.dat.listCode t ∧ t.dat.listImage = some b)) ∧
      (badLine env s.lst.src n = false → sha384 b ≠ s.lst.digest →
        Completes (.listSwitchReadDone env) s (contributed 0x15)) ∧
      (badLine env s.lst.src n = true →
        Completes (.listSwitchReadDone env) s (fun t => contributed 0x2B t ∧ Recorded uCad 0x2B s t)))

/-- O32. CANCEL in a step that has not aborted, a step without a verdict for SDE_STEP_TIMEOUT ticks, a tally that has
waited TALLY_TIMEOUT ticks and a legal ABORT message for the step each abort it: the code stands in the account, the
stations are empty, and the generation is raised, or its raise falls due (R265, R269, R271, R184, R418). A raise
that is due is made once the window allows it (R266). FREE_ORPHANS leaves no orphan table and frees its buffers
(R267), and changes nothing else where each group still has the references that its OUT entries hold (R88). -/
def Obligations.StepAborts : Prop :=
  ∀ s : State,
    (stepLive s = true → Completes .cancel s (AbortedHere uReg 0x1A s)) ∧
    (stepLive s = false → Completes .cancel s (fun t => t = s)) ∧
    (∀ r, s.run = some r → r.abortCode = 0 → r.start + s.live 0x14 31 0 ≤ s.tb →
      Completes .stepTimeout s (AbortedHere uReg 0x48 s)) ∧
    (stepLive s = true → (∃ h ∈ s.halves, tallyWaits h = true ∧ h.tally.scanTick + s.live 0x41030 31 0 ≤ s.tb) →
      Completes .tallyTimeout s (AbortedHere uTally 0x44 s)) ∧
    (∀ src (m : Bytes), abortOk m = true → leAt m 8 7 = s.stepNum → stepLive s = true → bcastSeen s 0x06 s.stepNum 2 = false →
      Completes (.abort src m) s (fun t => Aborted (leAt m 1 1) s t ∧ bcastSeen t 0x06 s.stepNum 2 = true)) ∧
    (∀ src (m : Bytes), abortOk m = true → leAt m 8 7 = s.stepNum → bcastSeen s 0x06 s.stepNum 2 = true →
      Completes (.abort src m) s (fun t => t = s)) ∧
    (s.raiseDue = true → genSpan s + 1 < 512 → Completes .genRaiseDue s (fun t => t.gen = (s.gen + 1) % 1024 ∧
      t.raiseDue = false ∧ Frame [.gen, .raiseDue] [] s t)) ∧
    (s.raiseDue = true → 512 ≤ genSpan s + 1 → Completes .genRaiseDue s (fun t => t = s)) ∧
    (let outs := s.orphans.flatMap (fun o => (o.entries.filter (fun e => e.2.state == .out)).map (fun e => (e.2.pool, e.2.ptr)));
      Completes .freeOrphans s (fun t => t.orphans = [] ∧ (∀ o ∈ s.orphans, ∀ b ∈ o.bufs, refsOf t b.1 b.2 = 0) ∧
        ((∀ b ∈ outs, outs.count b ≤ refsOf s b.1 b.2 ∧ ∀ o ∈ s.orphans, b ∉ o.bufs) → Frame [.orphans, .pools] [] s t)))

/-- O33. A chip contributes its class and code to the verdict once its last RESULT tile is out, or the step has aborted,
and no collective of the step is active (R269). The verdict ends the step: class and code stand in REG_VERDICT
(R273), the record of R376 stands in its ring and NEXT has risen, the entry of R384 has been folded into the chain
(R385), and the stations are empty. A checkpoint between steps is signed, waits, or is skipped and counted (R386,
R408); signed, its record stands in the ring (R387). The start value of the chain can be set before the first datum
only (R385). -/
def Obligations.VerdictAndLog : Prop :=
  ∀ s : State,
    (∀ r, s.run = some r → r.contributed = false → s.fenceSelf = false →
      s.cce.active.any (fun c => c.step = s.stepNum) = false → (r.abortCode ≠ 0 ∨ lastEmitted s = true) →
      Completes .verdictContribute s (fun t => t.run = some { r with contributed := true } ∧
        ∃ q ∈ t.rounds, q.key = internalKey s kVerdict 0 0 ∧ q.own = some (leBytes 2 (verdictValue r)))) ∧
    (∀ r code, s.run = some r → r.contributed = true → Completes (.verdict code []) s (fun t => t.run = none ∧
      t.verdict.cls = min 2 (code / 256) ∧ t.verdict.step = s.stepNum ∧
      t.verdict.code = (if 512 ≤ code then 0xFF - code % 256 else 0) ∧ t.halves = [] ∧ t.feeds = [] ∧ t.collects = [] ∧
      t.field 0x24C 31 0 = (s.field 0x24C 31 0 + 1) % 2 ^ 32 ∧
      (code < 512 → t.verdict.localCode = r.localCode ∧
        (∀ h, s.rlog.chain = some h → s.rlog.fault = false →
          t.rlog.chain = some (sha384 (h ++ logEntry r (code / 256) s)) ∧ t.rlog.lastFolded = s.stepNum) ∧
        (noteLog2 s = 0 → ∃ n, let b := stepRecord r t.verdict n t
          memBytes t.mem (s.step_ 0x244 31 0 * 2 ^ 32 + s.step_ 0x240 31 7 * 128 +
            128 * (s.field 0x24C 31 0 % 2 ^ s.step_ 0x248 4 0)) b.length = b)))) ∧
    (∀ h, s.rlog.chain = some h → s.rlog.fault = false → s.run = none →
      (debugOpen s = false → s.rlog.waiting = none → s.rlog.signing = none → Completes (.checkpoint true) s (fun t =>
        t.rlog = { s.rlog with signing := some ⟨s.rlog.lastFolded, s.rlog.first, h, s.rlog.start, 0⟩ } ∧ Frame [.rlog] [] s t)) ∧
      (debugOpen s = false → s.rlog.waiting = none → s.rlog.signing ≠ none → Completes (.checkpoint true) s (fun t =>
        t.rlog = { s.rlog with waiting := some ⟨s.rlog.lastFolded, s.rlog.first, h, s.rlog.start, 0⟩ } ∧ Frame [.rlog] [] s t)) ∧
      ((debugOpen s = true ∨ s.rlog.waiting ≠ none) → Completes (.checkpoint true) s (fun t =>
        t.field 0x274 31 16 = satAdd 16 (s.field 0x274 31 16) 1 ∧ Frame [] [.reg 0x274] s t))) ∧
    (s.run ≠ none → Completes (.checkpoint true) s (fun t => t.rlog = { s.rlog with requested := true } ∧ Frame [.rlog] [] s t)) ∧
    (∀ cp k, s.rlog.signing = some cp → s.devKey = some k → s.rlog.fault = false → Completes (.checkpointSigned []) s (fun t =>
      t.rlog = { s.rlog with signing := s.rlog.waiting, waiting := none, seq := s.rlog.seq + 1
                             written := (s.rlog.seq + 1) % 256 } ∧
      t.field 0x200070 31 0 = satAdd 32 (s.field 0x200070 31 0) 1 ∧
      (noteLog2 s = 0 →
        let body := checkpointBody cp (s.rlog.seq + 1) s
        let b := body ++ ecdsaSign k.d (sha384 body)
        memBytes t.mem (s.step_ 0x26C 31 0 * 2 ^ 32 + s.step_ 0x268 31 8 * 256 +
          256 * (s.rlog.seq % 2 ^ s.step_ 0x270 3 0)) b.length = b))) ∧
    (∀ cp k, s.rlog.signing = some cp → s.devKey = some k → s.rlog.fault = true → Completes (.checkpointSigned []) s (fun t =>
      t.rlog = { s.rlog with signing := none, waiting := none } ∧ Frame [.rlog] [] s t)) ∧
    (∀ n (v : Word32), n < 12 → s.boot.firstDatumDone = false → Completes (.rlogStart true n v) s (fun t =>
      t.rlog = { s.rlog with startSet := true
                             start := s.rlog.start.take (4 * n) ++ leBytes 4 v.toNat ++ s.rlog.start.drop (4 * n + 4) } ∧
      Frame [.rlog] [] s t)) ∧
    (∀ n (v : Word32), s.boot.firstDatumDone = true → Completes (.rlogStart true n v) s (fun t =>
      t.rlog = s.rlog ∧ Recorded uSde 0x6A s t))

/-- O34. The bucket map of a layer is its accepting replicas in the order of R192, with its counters at zero (R193);
while an entry of the layer reads uncorrectable it is fetched from a peer and the map waits (R220). The first column
tile of a half takes a buffer and opens its block, and closes the half when it is the last tile (R36, R37, R41);
with a word that read uncorrectable on its way in it carries POISON (R101). A tile of the following step is held; a
tile with an illegal header aborts the step with E_TILE_HEADER (R35). A tile for which INGEST's queue has no room,
or of the following step while the pools are to be built, stays at its port (R36, R90), and one of a step aborted on
the chip is counted late (R271). -/
def Obligations.TilesArrive : Prop :=
  ∀ s : State,
    (∀ l r, layerRec s l = some r → mapBuilding s = some l →
      (awaitingLayer s l = false → Completes (.bucketMapBuild l []) s (fun t =>
        t.bucketMaps = s.bucketMaps ++ [(l, bucketMap s r)] ∧ t.chipHist = histogram (bucketMap s r) ∧
        t.sortCounters = (bucketMap s r).map (fun _ => 0) ∧ Frame [.bucketMaps, .chipHist, .sortCounters] [] s t)) ∧
      (awaitingLayer s l = true → Completes (.bucketMapBuild l []) s (fun t => t = s)) ∧
      (∀ off, firstEntry s r ≤ off / 32 → off / 32 < firstEntry s r + r.experts →
        Completes (.bucketMapBuild l [⟨.region 3 off, true⟩]) s (fun t => t.bucketMaps = s.bucketMaps ∧
          ∃ c ∈ t.cadRefetch, c.entry = off / 32))) ∧
    (∀ port (b : Bytes) (errs : Errs), otherErrors errs = [] →
      let h := hdrOf b
      let n := hdrImage h false
      let buf := bufFor s n
      (stallsPort s h = true → Completes (.tokenTileArrive port b errs) s (fun t => t = s)) ∧
      (stallsPort s h = false → MayAlloc s n (stationOwner s 1) [1, port, h.step] →
        (headerLegal s 1 b = false → stepLive s = true → Completes (.tokenTileArrive port b errs) s (AbortedHere uSde 0x20 s)) ∧
        (headerLegal s 1 b = true → s.boot.stepStarted = true → h.step = s.stepNum → stepLive s = false →
          Completes (.tokenTileArrive port b errs) s (fun t => t.halves = s.halves ∧ t.ingestHeld = s.ingestHeld ∧
            t.field 0x80050 31 0 = satAdd 32 (s.field 0x80050 31 0) 1)) ∧
        (headerLegal s 1 b = true → s.boot.stepStarted = true → h.step = s.stepNum → stepLive s = true →
          deliveryOk s port h = true → ingestAt s = some (h.layer, h.half) → halfAt s h.layer h.half = none → h.colBase = 0 →
          s.ingestHeld = [] → (h.lastCol = true → h.lastBlock = true → h.base = 0) →
          (∀ x ∈ stepBlocks s, x.2.norm.isSome = true ∧ x.2.gate.isSome = true) →
          Completes (.tokenTileArrive port b errs) s (fun t => refsOf t buf.1 buf.2 = 2 ∧
            halfAt t h.layer h.half = some { Half.start h.layer h.half with
              blocks := [{ newBlock port h with token := [tileOf b buf (arrivedBad errs)], complete := h.lastCol }]
              closed := h.lastCol && h.lastBlock })) ∧
        (headerLegal s 1 b = true → h.step = nextStep s → deliveryOk s port h = true →
          (stepLive s = false ∨ h.step ≠ s.stepNum) → ¬ (s.boot.stepStarted = true ∧ h.step = s.stepNum) →
          (∀ x ∈ s.ingestHeld, (hdrOf x.image).step ≠ s.stepNum) → Completes (.tokenTileArrive port b errs) s (fun t =>
            t.ingestHeld = s.ingestHeld ++ [⟨port, b, buf, arrivedBad errs⟩] ∧ t.halves = s.halves))))

/-- O35. NORM writes the output tiles of a complete row block row by row (R139, R145), NaN throughout under POISON
(R147), and counts; a parameter block that fails R141 aborts the step with 0x1D, one that stays uncorrectable with
0x2B. The pre-pass fixes the anchor of each row and expert of a pair (R110), and the pair's SCORE tile holds the
score of each row and expert under those anchors (R111 to R117), NaN under POISON (R126); a row of which an
accumulator word read uncorrectable is NaN and the tile carries POISON (R125). A router line that stays
uncorrectable aborts the step with 0x2B. The next station takes the tiles up where its queue has room, as it has
where no other row block waits there (R30, R95). A line is read again from HBM, then from three peers, each counted
(R236). -/
def Obligations.NormAndScore : Prop :=
  ∀ s : State,
    (∀ k b r (env : MemEnv), blockAt s k = some b → layerRec s k.layer = some r → stepLive s = true → normPresent s = true →
      b.complete = true → b.norm = none → earlierBlocks s k (·.norm.isSome) = true → blocksBefore s k (·.norm.isSome) = true →
      let m := withEnv env s
      let fmt := if normBf16 r.normForm then 5 else b.fmt
      let rows := if poisoned b.token = true ∨ b.cols = 0 then [] else
        (List.range b.rows).map (fun i => normRow m r fmt (rowVals b.token i))
      let out := normTiles fmt (poisoned b.token) b.token (rows.map (fun x => (x.1.1, x.1.2.1)))
      let bad := badLine env (normAddr s r) (normBytes s r)
      (bad = true → Completes (.normTile k env []) s (AbortedHere uCad 0x2B s)) ∧
      (bad = false → normParamsOk m r = false → Completes (.normTile k env []) s (AbortedHere uSfu 0x1D s)) ∧
      (∀ bs, bad = false → normParamsOk m r = true →
        (allocMany (out.map Tile.bytes) (stationOwner s 3) (blockKey 3 k) m).1 = some bs → BufsLive s (tileBufs b.token) →
        Completes (.normTile k env []) s (fun t => ∃ u, HandedOn 3 m u t ∧
          (s.ingestHeld = [] → OnlyBlock s k (·.gate.isSome) → t = u) ∧
          blockAt u k = some { b with norm := some (withBufs out bs) } ∧
          u.field 0x3102C 31 0 = satAdd 32 (s.field 0x3102C 31 0) (rows.filter (fun x => x.2.2)).length ∧
          u.field 0x31030 31 0 = satAdd 32 (s.field 0x31030 31 0) (sumNat (rows.map (fun x => x.1.2.2))) ∧
          u.field 0x31034 31 0 = satAdd 32 (s.field 0x31034 31 0) (sumNat (rows.map (fun x => x.2.1)))))) ∧
    (∀ k b r ts array c (env : MemEnv), blockAt s k = some b → layerRec s k.layer = some r → b.input s = some ts →
      stepLive s = true →
      let m := withEnv env s
      let fmt := tilesFmt b.fmt ts
      let n := colExperts r b c
      let hdr := fun (poison : Bool) => scoreHdr k r b c ((ts.head?.map (·.hdr)).getD (hdrOf [])) poison
      let bad := badLine env (colBytes s r c).1 (colBytes s r c).2
      (poisoned ts = false → b.rows ≠ 0 → nextPair s array k c (fun b c => scored b c || anchored b c) = true →
        prepassesAhead s array ≤ 1 → needsPrepass r fmt = true →
        (prepassBad s r fmt c env = false → Completes (.anchorPrepassDone k array c env []) s (fun t =>
          blockAt t k = some { b with anchors := b.anchors ++ [(c, (List.range b.rows).flatMap (fun row =>
            (List.range n).map (fun i => anchorOf (operands m r ts row (256 * c + i)))))] })) ∧
        (prepassBad s r fmt c env = true → Completes (.anchorPrepassDone k array c env []) s (AbortedHere uCad 0x2B s))) ∧
      (poisoned ts = false → b.rows ≠ 0 → nextPair s array k c scored = true → (needsPrepass r fmt = true → anchored b c = true) →
        let rows := pairScores m r b ts c
        (bad = true → Completes (.scorePairDone k array c env []) s (AbortedHere uCad 0x2B s)) ∧
        (∀ buf (lost : List Nat),
          let errs : Errs := lost.map (fun i => ⟨.accumulator i, true⟩)
          let kept := (List.range rows.length).filter (fun i => !lost.contains i)
          let tile : Tile := ⟨hdr (lost.any (· < b.rows)), (List.range b.rows).map (fun i =>
            if lost.contains i then List.replicate n 0x7FC00000 else (rows.getD i []).map (fun x => x.1.toNat)),
            List.replicate b.rows [], none⟩
          bad = false → (alloc tile.bytes (stationOwner s 4) (blockKey 4 k ++ [c]) s).1 = some buf →
          Completes (.scorePairDone k array c env errs) s (fun t => ∃ u, HandedOn 4 (takeErrors errs m) u t ∧
            (s.ingestHeld = [] → OnlyBlock s k (·.gate.isSome) → t = u) ∧
            blockAt u k = some { b with score := putTile { tile with buf := some buf } b.score } ∧
            u.field (0x30010 + 4 * (array % 2)) 31 0 = satAdd 32 (s.field (0x30010 + 4 * (array % 2)) 31 0) 1 ∧
            u.field 0x30030 31 16 = satAdd 16 (s.field 0x30030 31 16) lost.length ∧
            u.field 0x30020 31 0 = satAdd 32 (s.field 0x30020 31 0) (countClass (kept.flatMap (fun i => rows.getD i [])) .nan)))) ∧
      (∀ buf, (poisoned ts = true ∨ b.rows = 0) → nextPair s array k c scored = true →
        let tile : Tile := ⟨hdr (poisoned ts), List.replicate b.rows (List.replicate n 0x7FC00000), List.replicate b.rows [], none⟩
        (alloc tile.bytes (stationOwner s 4) (blockKey 4 k ++ [c]) s).1 = some buf →
        Completes (.scorePairDone k array c env []) s (fun t => ∃ u, HandedOn 4 m u t ∧
          (s.ingestHeld = [] → OnlyBlock s k (·.gate.isSome) → t = u) ∧
          blockAt u k = some { b with score := putTile { tile with buf := some buf } b.score }))) ∧
    (∀ addr (env : MemEnv),
      let line := addr / 64
      let shown := fun (t : State) => t.word 0x6004C = BitVec.ofNat 32 (line * 64) ∧ t.word 0x60050 = BitVec.ofNat 32 (addr / 2 ^ 32)
      let peers := (refetchPeers s).any (fun x => peerClean env line x.1)
      (hbmClean env s line = true → Completes (.tierLineUncorr addr env) s (fun t => shown t ∧
        t.field 0x60080 31 0 = satAdd 32 (s.field 0x60080 31 0) 1)) ∧
      (hbmClean env s line = false → peers = true → Completes (.tierLineUncorr addr env) s (fun t => shown t ∧
        t.field 0x60084 31 0 = satAdd 32 (s.field 0x60084 31 0) 1)) ∧
      (hbmClean env s line = false → peers = false → stepLive s = true → routerLine s line = true →
        Completes (.tierLineUncorr addr env) s (fun t => shown t ∧ AbortedHere uCad 0x2B s t)))

/-- O36. GATE writes, for each row of a scored row block, the softmax of R149 or the sigmoid of R150 of its scores, NaN
throughout under POISON (R153), once NORM has no row block ready on an SFU that both share (R155). SELECT ranks each
row's experts by key, equal keys by the lower identifier, and writes the first K with their gate values and bands,
their fates pending (R157, R158, R162, R168), or K entries of zeros under POISON (R164). Either stalls, with nothing
changed, while the next station's queue has no room (R30, R95); where no other row block waits there it has. -/
def Obligations.GateAndSelect : Prop :=
  ∀ s : State,
    (∀ k b r bs, blockAt s k = some b → layerRec s k.layer = some r → stepLive s = true → b.gate = none →
      b.score.length = colBlocks r b → earlierBlocks s k (·.gate.isSome) = true → blocksBefore s k (·.gate.isSome) = true →
      normFirst s = false →
      let rows := (List.range b.rows).map (scoreRow b.score)
      let gates := rows.map (fun xs => if r.gateFn = 0 then softmaxRow s.sfuVersion xs else sigmoidRow s.sfuVersion xs)
      let out := b.score.map (fun t => { t with
        hdr := gateHdr t.hdr (poisoned b.score), buf := none
        elems := if poisoned b.score then t.elems.map (fun e => e.map (fun _ => 0x7FC00000))
          else gates.map (fun g => ((g.drop t.colBase).take t.cols).map (·.toNat)) })
      (allocMany (out.map Tile.bytes) (stationOwner s 5) (blockKey 5 k) s).1 = some bs → BufsLive s (tileBufs b.score) →
      Completes (.gateRowBlock k []) s (fun t => ∃ u, t = intoQueue 5 s u ∧ (OnlyBlock s k (·.sel.isSome) → t = u) ∧
        blockAt u k = some { b with gate := some (withBufs out bs), score := b.score.map (fun t => { t with buf := none }) } ∧
        (poisoned b.score = false →
          u.field 0x31020 31 0 = satAdd 32 (s.field 0x31020 31 0) (rows.flatten.filter f32IsNaN).length))) ∧
    (∀ k, normFirst s = true → Completes (.gateRowBlock k []) s (fun t => t = s)) ∧
    (∀ k b r gs buf, blockAt s k = some b → layerRec s k.layer = some r → b.gate = some gs → stepLive s = true → b.sel = none →
      earlierBlocks s k (·.sel.isSome) = true → blocksBefore s k (·.sel.isSome) = true →
      (alloc (tileBytes false b.rows r.k 16 false) (stationOwner s 6) (blockKey 6 k) s).1 = some buf → BufsLive s (tileBufs gs) →
      let ranks := (List.range b.rows).map (fun row => ranking (r.k + 1) (rankRow s k r row (scoreRow gs row)))
      let rows := if poisoned gs then List.replicate b.rows (List.replicate r.k SelEntry.zero)
        else ranks.map (fun xs => (xs.take r.k).map (selEntry r))
      Completes (.selectRowBlock k []) s (fun t => ∃ u, t = intoQueue 6 s u ∧ (OnlyBlock s k (·.counted) → t = u) ∧
        blockAt u k = some { b with
          sel := some ⟨selHdr k r b ((gs.head?.map (·.hdr)).getD (hdrOf [])) (poisoned gs), rows, some buf⟩
          gate := some (gs.map (fun t => { t with buf := none })) } ∧
        u.field 0x40010 31 0 = satAdd 32 (s.field 0x40010 31 0) (if poisoned gs then 0 else b.rows) ∧
        u.field 0x40018 31 0 = satAdd 32 (s.field 0x40018 31 0) (if poisoned gs then b.rows else 0) ∧
        (poisoned gs = false → u.field 0x40014 31 0 = satAdd 32 (s.field 0x40014 31 0) (ranks.filter (tied r.k)).length)))

/-- O37. Each tile's entries are counted by expert and class, and the scan begins with the half's last (R170). At the
scan's end every home gets its report (R171, R178) and the chip waits for the close, to which it contributes once
its reports are delivered (R174), unless a member has been fenced since the datum, which aborts the step with 0x45
(R184). At the close the home decides; a chip whose grants are not all in goes on waiting. A legal grant is kept, an
illegal one aborts with 0x47 (R173); with the last one, after the close, the fates of the trip are written and a
half that is not looped is finished (R179). The trip agreement's result is clamped to BOUND; above 1 the next trip
begins, otherwise the half is finished (R188). Where the tally's end releases PACK's references to the token tiles,
the buffers are taken to be in use (R88, R205). -/
def Obligations.TallyAtTheOrigin : Prop :=
  ∀ s : State,
    (∀ k h b r tl, halfAt s k.layer k.half = some h → blockAt s k = some b → layerRec s k.layer = some r → b.sel = some tl →
      stepLive s = true → b.counted = false → (h.tally.phase = .idle ∨ h.tally.phase = .counting) →
      earlier s k.layer k.half tallyDone = true →
      let keys := ((selEntries tl).filter (fun x => tallied h.tally.trip x.2.2)).map (fun x => (x.2.2.expert, classOf r x.2.1 x.2.2))
      Completes (.tallyCount k []) s (fun t => blockAt t k = some { b with counted := true } ∧
        ∃ y, halfAt t k.layer k.half = some y ∧ y.tally.counts = keys.foldl (fun m e => countOne e m) h.tally.counts ∧
          y.tally.phase = (if h.closed && h.blocks.all (fun x => x.counted || x.base = k.base) then .scanning else .counting))) ∧
    (∀ l h x, halfAt s l h = some x → stepLive s = true → awaitingLayer s l = false → x.tally.phase = .scanning →
      let cs := sortedCounts x.tally
      Completes (.tallyScanEnd l h []) s (fun t =>
        (∃ y, halfAt t l h = some y ∧ y.tally.phase = .awaitClose ∧ y.tally.scanTick = s.tb ∧ y.tally.contributed = false ∧
          y.tally.closed = false ∧ y.tally.grants = [] ∧
          y.tally.homes = sortBy id ((cs.filterMap (fun c => homeOf s c.1.1)).eraseDups)) ∧
        (s.fenceSelf = false → ∀ c ∈ cs, ∀ hm, homeOf s c.1.1 = some hm → hm ≠ chipId s → fenced s hm = false →
          ∃ m ∈ t.fep.waiting, m.dst = hm ∧ m.lc = 0xA ∧ m.tie = .report l h x.tally.trip))) ∧
    (∀ l h x, halfAt s l h = some x → stepLive s = true → (x.tally.phase = .awaitClose ∨ x.tally.phase = .awaitGrants) →
      x.tally.contributed = false →
      (memberFenced s = true → Completes (.tallyCloseContribute l h []) s (AbortedHere uTally 0x45 s)) ∧
      (memberFenced s = false → x.tally.undelivered = 0 → Completes (.tallyCloseContribute l h []) s (fun t =>
        (∃ y, halfAt t l h = some y ∧ y.tally = { x.tally with contributed := true }) ∧
        ∃ q ∈ t.rounds, q.key = closeKey s l h x.tally.trip ∧ q.own = some [0]))) ∧
    (∀ l h x, halfAt s l h = some x → stepLive s = true → x.tally.contributed = true → x.tally.closed = false →
      awaitingLayer s l = false → ((x.packTrip ≤ x.fated ∧ x.fated ≤ x.tally.trip) ∨ TokensLive s x) →
      Completes (.tallyClose l h []) s (fun t =>
        (homeAt t l h x.tally.trip).closed = true ∧ (homeAt t l h x.tally.trip).decided = true ∧
        (x.tally.phase = .awaitClose → x.fated ≤ x.tally.trip → grantsIn x.tally = false →
          ∃ y, halfAt t l h = some y ∧ y.tally.phase = .awaitGrants ∧ y.tally.closed = true))) ∧
    (∀ src (m : Bytes), awaitingLayer s (tpLayer m) = false →
      let shape := packetShape s 2 m = true ∧ (layerRec s (tpLayer m)).isSome = true
      (¬ shape → stepLive s = false → Completes (.tallyGrant src m []) s (Recorded uTally 0x47 s)) ∧
      (shape → stepLive s = false → Completes (.tallyGrant src m []) s (fun t => t = s)) ∧
      (¬ (shape ∧ grantLegal s src m = true) → stepLive s = true → Completes (.tallyGrant src m []) s (AbortedHere uTally 0x47 s)) ∧
      (∀ x r, halfAt s (tpLayer m) (tpHalf m) = some x → layerRec s (tpLayer m) = some r → stepLive s = true →
        shape → grantLegal s src m = true → x.fated ≤ x.tally.trip → x.packTrip ≤ x.fated →
        let g := addPacket src m x.tally.grants
        (grantsIn { x.tally with grants := g } = false → Completes (.tallyGrant src m []) s (fun t =>
          ∃ y, halfAt t (tpLayer m) (tpHalf m) = some y ∧ y.tally.grants = g)) ∧
        (grantsIn { x.tally with grants := g } = true → x.tally.closed = true → loopOf s (tpLayer m) = none →
          Completes (.tallyGrant src m []) s (fun t =>
            ∃ y, halfAt t (tpLayer m) (tpHalf m) = some y ∧ y.tally.phase = .finished ∧ y.fated = x.fated + 1 ∧
              y.blocks.map (fun b => b.sel.map (·.rows)) =
                (fateBlocks r x.tally.trip x.blocks (runsOf s (g.flatMap (·.entries)))).map (fun b => b.sel.map (·.rows)))))) ∧
    (∀ l h value x lp, halfAt s l h = some x → loopOf s l = some lp → stepLive s = true → x.tally.phase = .tripAgreement →
      (x.packTrip ≠ x.fated ∨ TokensLive s x) →
      let T := min value lp.bound
      Completes (.tripAgreement l h value) s (fun t => ∃ y, halfAt t l h = some y ∧ y.tally.trips = T ∧
        (1 < T → y.tally.phase = .counting ∧ y.tally.trip = x.tally.trip + 1) ∧ (T ≤ 1 → y.tally.phase = .finished)))

/-- O38. A legal report packet's entries land at the home (R173); a packet that fails the home's checks is illegal and
aborts the step with 0x47, one of another half than those in progress too, and one for which the landing has no room
with 0x46 (R184). Between steps, and in an aborted step, a legal packet has no effect and an illegal one is
recorded. A packet for a layer of which an entry is being fetched again waits (R220). -/
def Obligations.ReportsAtTheHome : Prop :=
  ∀ (s : State) (src : Nat) (m : Bytes),
    let l := tpLayer m
    let h := tpHalf m
    let tr := tpTrip m
    (awaitingLayer s l = true → Completes (.tallyReport src m []) s (fun t => t = s)) ∧
    (awaitingLayer s l = false →
      (stepLive s = false → reportLegal s m = true → Completes (.tallyReport src m []) s (fun t => t = s)) ∧
      (stepLive s = false → reportLegal s m = false → Completes (.tallyReport src m []) s (fun t =>
        Recorded uTally 0x47 s t ∧ Frame [.run] [.reg (uTally + 8)] s t)) ∧
      (stepLive s = true →
        (¬ (reportLegal s m = true ∧ tallyNear s l h tr = true) →
          Completes (.tallyReport src m []) s (AbortedHere uTally 0x47 s)) ∧
        (reportLegal s m = true → tallyNear s l h tr = true → landingSize s < landingUsed s + (packetEntries m).length →
          Completes (.tallyReport src m []) s (AbortedHere uTally 0x46 s)) ∧
        (reportLegal s m = true → tallyNear s l h tr = true → landingUsed s + (packetEntries m).length ≤ landingSize s →
          Completes (.tallyReport src m []) s (fun t =>
            (homeAt t l h tr).reports = addPacket src m (homeAt s l h tr).reports ∧ t.halves = s.halves))))

/-- O39. SORT takes a trip whose fates stand once the layer's map is ready; pass one counts the entries by bucket, the
prefix sums the counts and takes the segments' buffers, and pass two places the entries (R190, R194, R195, R196).
PACK writes one group for the lead entry of each token and destination: its members' headers and the payload, in a
buffer charged to SEND whose count is the number of members (R199 to R204), or one packet with LAST and no buffer
for a trip without groups. SEND makes each member's loan entry OUT before the group leaves for its first hop (R245).
The buffers of the segments that end, and of the token tiles, are taken to be in use as PACK releases them (R88). -/
def Obligations.SortAndPack : Prop :=
  ∀ s : State,
    (∀ l h x, halfAt s l h = some x → stepLive s = true → x.sort = .idle → x.sortTrip < x.fated →
      (∃ m ∈ s.bucketMaps, m.1 = l) → earlier s l h (sortDone s) = true → Completes (.sortStart l h []) s (fun t =>
        halfAt t l h = some { x with sort := .passOne } ∧ t.sortCounters = (mapOf s l).map (fun _ => 0) ∧
        Frame [.halves, .sortCounters] [.reg 0x50000] s t)) ∧
    (∀ l h x r, halfAt s l h = some x → layerRec s l = some r → stepLive s = true →
      let es := scanEntries r x
      (x.sort = .passOne → Completes (.sortPhaseEnd l h []) s (fun t => halfAt t l h = some { x with sort := .prefix_ } ∧
        t.sortCounters = passOne (mapOf s l) r es s.sortCounters)) ∧
      (∀ bs, x.sort = .prefix_ → (allocMany (segmentSizes es.length) (stationOwner s 8) [7, l, h, x.sortTrip] s).1 = some bs →
        Completes (.sortPhaseEnd l h []) s (fun t => halfAt t l h = some { x with sort := .passTwo, segBufs := bs } ∧
          t.sortCounters = prefixSums s.sortCounters)) ∧
      (x.sort = .passTwo → Completes (.sortPhaseEnd l h []) s (fun t =>
        let p := passTwo (mapOf s l) r es s.sortCounters
        halfAt t l h = some { x with sort := .idle, sortTrip := x.sortTrip + 1, segBufs := []
                                     segments := x.segments ++ trackSegments (segmentsOf (listOf p.1)) x.segBufs } ∧
        t.sortCounters = p.2 ∧ t.field 0x50010 31 0 = satAdd 32 (s.field 0x50010 31 0) es.length))) ∧
    (∀ l h x r, halfAt s l h = some x → layerRec s l = some r → stepLive s = true → x.packTrip < x.sortTrip →
      earlier s l h (packDone s) = true → sendRoom s = true → BufsLive s (x.packSegs.filterMap (·.buf) ++ tokenBufs x) →
      (x.packSegs.flatMap (·.words) = [] → Completes (.groupWrite l h []) s (fun t =>
        ∃ y, halfAt t l h = some y ∧ y.sendQ = x.sendQ ++ [⟨none, [], 0, x.packTrip, true, false⟩] ∧ y.packTrip = x.packTrip + 1)) ∧
      (∀ e rest b ts, (x.packSegs.flatMap (·.words)).map listEntry = e :: rest → blockOfSlot x e.slot = some b →
        b.input s = some ts →
        let ms := membersOf x e
        let n := groupBytes ms.length (dModel s)
        let extra := (rest.takeWhile (fun f => !leads r x f)).length
        ms.length ≤ 16 → MayAlloc s n (stationOwner s 9) [8, l, h, e.trip, e.slot, e.dest] → Completes (.groupWrite l h []) s (fun t =>
          ∃ y, halfAt t l h = some y ∧ y.sendQ = x.sendQ ++ [⟨some (bufFor s n),
              groupImage s l h b.gen e.slot e.trip ms (·.replica) e.dest (payloadOf ts (e.slot - b.base))
                (poisoned ts || x.packSegs.any (·.poison)),
              e.dest, e.trip, decide (extra = rest.length), false⟩] ∧
            y.packTrip = x.packTrip + b2n (decide (extra = rest.length)) ∧
            t.field 0x50014 31 0 = satAdd 32 (s.field 0x50014 31 0) 1 ∧
            t.field 0x50018 31 0 = satAdd 32 (s.field 0x50018 31 0) extra))) ∧
    (∀ l h x g rest buf tb, halfAt s l h = some x → stepLive s = true → x.sendQ = g :: rest → g.buf = some buf →
      g.again = false → x.loans = some tb → earlier s l h (sendDone s) = true → routeBroken s g.dest = false →
      let ms := imageMembers (dModel s) g.image
      (∀ m ∈ ms, tagKrank m.1 < tb.k) → mayLend s ms.length = true → Completes (.sendGroup l h []) s (fun t =>
        (∃ y, halfAt t l h = some y ∧ y.sendQ = rest) ∧
        (∀ m ∈ ms, ∃ v, loanAt t l h (tagSlot m.1) (tagKrank m.1) = some v ∧ v.state = .out ∧ v.pool = buf.1 ∧
          v.ptr = buf.2 ∧ v.dest = g.dest) ∧
        (firstHop s (chipId s) g.dest ≠ chipId s → s.fenceSelf = false → t.fep.waiting = s.fep.waiting ++
          [⟨firstHop s (chipId s) g.dest, 4, 0x01, s.stepNum, g.image, .none, 0, none⟩])))

/-- O40. A group of a later step aborts the step with 0x28 and one of an earlier or aborted step is counted late (R272).
A legal group for this chip takes a buffer and is held for FEED (R247); one for another chip is forwarded with HOP
set and counted (R224). A notice is kept for its experts (R249), an illegal one aborts with 0x47 (R173), and one
whose COUNT the rows received exceed with 0x28 (R247). A port's oldest rows that have waited are handed as a tile
(R248); a credit frees the tile taken and hands the next (R260). COLLECT takes an EXPERT_OUT tile into its queue,
keeps a row block's column tiles and, with the last, sends each row home (R251, R253), a row of this chip's own
token to its registrar; an illegal tile aborts with E_TILE_HEADER (R250). A buffer that is released is taken to be
in use (R88). -/
def Obligations.GroupsAndRows : Prop :=
  ∀ s : State,
    (∀ src port step (b : Bytes), s.stepNum < step → stepLive s = true →
      Completes (.groupReceive src port step b []) s (AbortedHere uReg 0x28 s)) ∧
    (∀ src port step (b : Bytes), step ≤ s.stepNum → (step < s.stepNum ∨ stepLive s = false) →
      Completes (.groupReceive src port step b []) s (fun t =>
        t.field 0x80050 31 0 = satAdd 32 (s.field 0x80050 31 0) 1 ∧ Frame [.fep] [.reg 0x80050] s t)) ∧
    (∀ src port (b : Bytes), stepLive s = true → groupAwaits s b = false →
      MayAlloc s b.length (recvOwner s port) [0xA, src, port, leAt b 0 8] →
      let w := leAt b 8 8
      let buf := bufFor s b.length
      (rwDest w ≠ chipId s → mayForward s src (rwDest w) (rwHop w) = false →
        Completes (.groupReceive src port s.stepNum b []) s (AbortedHere uFep 0x42 s)) ∧
      (rwDest w ≠ chipId s → mayForward s src (rwDest w) (rwHop w) = true → fenced s (rwDest w) = false →
        s.fenceSelf = false → Completes (.groupReceive src port s.stepNum b []) s (fun t =>
          t.fep.waiting = s.fep.waiting ++ [⟨rwDest w, 5, 0x01, s.stepNum, setGroupHop b, .buffer buf.1 buf.2, 0, none⟩] ∧
          t.field 0xC003C 31 0 = satAdd 32 (s.field 0xC003C 31 0) 1)) ∧
      (rwDest w = chipId s → groupOk s b = false → Completes (.groupReceive src port s.stepNum b []) s (AbortedHere uReg 0x28 s)) ∧
      (∀ p, rwDest w = chipId s → groupOk s b = true → FeedStill s p → isAgain s b = false →
        (∀ m ∈ imageMembers (dModel s) b, (tagLayer m.1, tagHalf m.1, rwTrip m.2) ≠ p ∧
          quarantinedHere s (rwExpert m.2) = false ∧ acting s (rwExpert m.2) = false) →
        Completes (.groupReceive src port s.stepNum b []) s (fun t =>
          ∃ g, t.recv = [g] ∧ g.src = src ∧ (g.pool, g.ptr) = buf ∧ refsOf t buf.1 buf.2 = rwMembers w))) ∧
    (∀ src (m : Bytes), awaitingLayer s (tpLayer m) = false →
      let near := noticeNear s (tpLayer m) (tpHalf m) (tpTrip m)
      let before := fun (w : Word64) => feedAt s (tpLayer m) (tpHalf m) (tpTrip m) (teExpert w)
      (stepLive s = false → noticeLegal s m = true → Completes (.replicaNotice src m []) s (fun t => t = s)) ∧
      (stepLive s = false → noticeLegal s m = false → Completes (.replicaNotice src m []) s (Recorded uTally 0x47 s)) ∧
      (stepLive s = true → ¬ (noticeLegal s m = true ∧ near = true) →
        Completes (.replicaNotice src m []) s (AbortedHere uTally 0x47 s)) ∧
      (∀ w ∈ packetEntries m, stepLive s = true → noticeLegal s m = true → near = true →
        (∀ v ∈ packetEntries m, teExpert v = teExpert w → v = w) → (∃ f, before w = some f ∧ bits w.toNat 40 24 < f.received) →
        Completes (.replicaNotice src m []) s (AbortedHere uReg 0x28 s)) ∧
      (∀ p, stepLive s = true → noticeLegal s m = true → near = true → FeedStill s p → (tpLayer m, tpHalf m, tpTrip m) ≠ p →
        (∀ w ∈ packetEntries m, ∀ f, before w = some f → f.received ≤ bits w.toNat 40 24) →
        Completes (.replicaNotice src m []) s (fun t =>
          ∀ w ∈ packetEntries m, (∀ v ∈ packetEntries m, teExpert v = teExpert w → v = w) →
            ∃ f, feedAt t (tpLayer m) (tpHalf m) (tpTrip m) (teExpert w) = some f ∧ f.notice = some (bits w.toNat 40 24)))) ∧
    (∀ port f p bs, stepLive s = true → portClear s port = true → oldestFeed s port = some f → FeedStill s p →
      port < 16 → s.tports.length = 16 → (tportAt s port).queue = [] → portFree s port = true → 0 < dModel s → dModel s ≤ 65536 →
      let rs := tileRows f.rows
      let rest := f.rows.filter (fun x => !rs.contains x)
      let ts := expertTiles s f.layer f.half f.expert rs (f.full && rest.isEmpty)
      (allocMany (ts.map (·.length)) (stationOwner s 0xB) [0xB, f.layer, f.half, f.trip, f.expert] s).1 = some bs →
      BufsLive s (rs.map (fun r => (r.pool, r.ptr))) → Completes (.feedWaitTimeout port []) s (fun t =>
        t.field 0x80044 31 0 = satAdd 32 (s.field 0x80044 31 0) rs.length ∧ ∀ b ∈ ts.head?, Out.tile port b ∈ t.out)) ∧
    (∀ port x rest, port < 16 → s.tports.length = 16 → (tportAt s port).held = x :: rest →
      (stepLive s = false ∨ ∃ p, FeedStill s p) → (∀ b, x.2 = some b → refsOf s b.1 b.2 ≠ 0) →
      ((tportAt s port).queue = [] → Completes (.tokenStreamPortCredit port []) s (fun t =>
        tportAt t port = ⟨rest, []⟩ ∧ t.out = s.out)) ∧
      (∀ q qs, (tportAt s port).queue = q :: qs → Completes (.tokenStreamPortCredit port []) s (fun t =>
        tportAt t port = ⟨rest ++ [(q.1, q.2.2)], qs⟩ ∧ t.out = s.out ++ [Out.tile port q.2.1]))) ∧
    (∀ port (b : Bytes),
      let h := hdrOf b
      let n := hdrImage h true
      let key := [0xC, port, h.layer, h.half, h.expert, h.colBase]
      let buf := bufFor s n
      let held : HeldTile := ⟨port, b, buf, false⟩
      let legal := headerLegal s 6 b = true ∧ h.step = s.stepNum
      (0 < depthOf s 0xC → depthOf s 0xC ≤ s.collectHeld.length → Completes (.collectTile port b []) s (fun t => t = s)) ∧
      ((depthOf s 0xC = 0 ∨ s.collectHeld.length < depthOf s 0xC) → MayAlloc s n (stationOwner s 0xC) key →
        (¬ legal → stepLive s = true → Completes (.collectTile port b []) s (AbortedHere uSde 0x20 s)) ∧
        (legal → stepLive s = false → Completes (.collectTile port b []) s (fun t => t.collects = s.collects ∧
          t.collectHeld = s.collectHeld ∧ t.field 0x80050 31 0 = satAdd 32 (s.field 0x80050 31 0) 1)) ∧
        (legal → stepLive s = true → s.collectHeld = [] → collectReached s h.layer h.half = false →
          Completes (.collectTile port b []) s (fun t => t.collectHeld = [held] ∧ t.collects = s.collects)) ∧
        (legal → stepLive s = true → s.collectHeld = [] → collectReached s h.layer h.half = true →
          (collectOk s port h = false → Completes (.collectTile port b []) s (AbortedHere uSde 0x20 s)) ∧
          (∀ c, collectOk s port h = true → s.collects.find? (fun c => c.port = port) = some c → h.lastCol = false →
            Completes (.collectTile port b []) s (fun t =>
              t.collects = s.collects.filter (fun x => x.port ≠ port) ++ [growCollect c held])) ∧
          (collectOk s port h = true → (∀ c ∈ s.collects, c.port ≠ port) →
            let due := rowsDue s h.layer h.half h.expert
            (due < h.rows → Completes (.collectTile port b []) s (AbortedHere uReg 0x29 s)) ∧
            (h.rows ≤ due → (tileTags b).all (tagRoutes s) = false → Completes (.collectTile port b []) s (AbortedHere uReg 0x26 s)) ∧
            (∀ bs, h.rows ≤ due → (tileTags b).all (tagRoutes s) = true →
              (allocMany (List.replicate h.rows (16 + recordPayload (dModel s) h.fmt)) (stationOwner s 0xD)
                [0xD, port, h.layer, h.half, h.expert, ((tileTags b).headD 0).toNat] (alloc n (stationOwner s 0xC) key s).2).1 = some bs →
              (buf :: bs).Nodup →
              (h.lastCol = false → Completes (.collectTile port b []) s (fun t => ∃ d, t.collects = s.collects ++ [d] ∧
                d.port = port ∧ d.nextCol = h.cols ∧ d.tags = tileTags b ∧ d.bufs = bs)) ∧
              (h.lastCol = true → s.fenceSelf = false → (∀ w ∈ tileTags b, tagOrigin w.toNat ≠ chipId s) →
                Completes (.collectTile port b []) s (fun t => t.collects = s.collects ∧
                  ∀ i tag, i < h.rows → (tileTags b)[i]? = some tag → fenced s (tagOrigin tag.toNat) = false →
                    acting s h.expert = false → firstHop s (chipId s) (tagOrigin tag.toNat) ≠ chipId s →
                    fenced s (firstHop s (chipId s) (tagOrigin tag.toNat)) = false →
                    ∃ m ∈ t.fep.waiting, m.dst = firstHop s (chipId s) (tagOrigin tag.toNat) ∧ m.lc = 6 ∧ m.kind = 2 ∧
                      leAt m.payload 0 8 = tag.toNat ∧ m.tie = .buffer (bs.getD i (0, 0)).1 (bs.getD i (0, 0)).2)) ∧
              (∀ tag, h.lastCol = true → h.rows = 1 → tileTags b = [tag] → tagOrigin tag.toNat = chipId s →
                fenced s (chipId s) = false → acting s h.expert = false → Completes (.collectTile port b []) s (fun t =>
                  ∃ u rec_, t = classify rec_ (bs.getD 0 (0, 0)) u u ∧ leAt rec_ 0 8 = tag.toNat ∧ u.halves = s.halves ∧
                    u.gen = s.gen ∧ u.field 0x8004C 31 0 = satAdd 32 (s.field 0x8004C 31 0) 1)))))))

/-- O41. A valid record whose tag matches an OUT loan of this generation makes it BACK with the record's buffer and
releases the group's reference (R210, R254); a notice sends the token to the next replica in a new group, or with
the spill order exhausted makes the loan LOST (R256, R241). A record of an earlier generation is stale: counted and
freed (R255). An invalid one aborts the step with 0x26 and a duplicate with 0x27; one for another chip is forwarded
with HOP set (R224). COMBINE combines the next row once its entries have settled (R257, R258), and aborts on POISON
(R428). EMIT hands a block's RESULT tiles in column order to its port (R260). A buffer that is released is taken to
be in use (R88). -/
def Obligations.RecordsAndResults : Prop :=
  ∀ (s : State) (src : Nat) (m : Bytes),
    let tag := leAt m 0 8
    let w := leAt m 8 8
    let key := [0xE, 256, src, leAt m 0 8, retKind w]
    let buf := bufFor s m.length
    let s1 := (alloc m.length (stationOwner s 0xE) key s).2
    let l := tagLayer tag
    let h := tagHalf tag
    let kind1 := Instr.output src m []
    let kind2 := Instr.recall src m []
    let kind3 := Instr.refuse src m []
    (MayAlloc s m.length (stationOwner s 0xE) key → tagOrigin tag ≠ chipId s → ∀ i ∈ [kind1, kind2, kind3],
      (mayForward s src (tagOrigin tag) (retHop w) = false → stepLive s = true → Completes i s (AbortedHere uFep 0x42 s)) ∧
      (mayForward s src (tagOrigin tag) (retHop w) = true → fenced s (tagOrigin tag) = false → s.fenceSelf = false →
        Completes i s (fun t => t.fep.waiting = s.fep.waiting ++
            [⟨tagOrigin tag, 7, 0x02, s.stepNum, setReturnHop m, .buffer buf.1 buf.2, 0, none⟩] ∧
          t.field 0xC003C 31 0 = satAdd 32 (s.field 0xC003C 31 0) 1))) ∧
    (MayAlloc s m.length (stationOwner s 0xE) key → tagOrigin tag = chipId s → stepLive s = true → returnAwaits s m = false →
      (∀ i ∈ [kind1, kind2, kind3], (recordValid s m = false ∨ (∃ v, matchOf s tag = some v ∧
          ∀ en, tagEntry s tag = some en → en.expert ≠ retExpert w)) → Completes i s (fun t => AbortedHere uReg 0x26 s t ∧
        t.field 0x80030 15 0 = satAdd 16 (s.field 0x80030 15 0) 1)) ∧
      (∀ i ∈ [kind1, kind2, kind3], recordValid s m = true → matchOf s tag = none → tagAge s tag = 0 → orphanOf s tag = none →
        Completes i s (fun t => AbortedHere uReg 0x27 s t ∧ t.field 0x80034 15 0 = satAdd 16 (s.field 0x80034 15 0) 1)) ∧
      (∀ i ∈ [kind1, kind2, kind3], recordValid s m = true → 0 < tagAge s tag →
        (∀ p, orphanOf s tag = some p → refsOf s p.2.pool p.2.ptr ≠ 0 ∧ (p.2.pool, p.2.ptr) ≠ buf) → Completes i s (fun t =>
          t.field 0x8002C 31 0 = satAdd 32 (s.field 0x8002C 31 0) 1 ∧ refsOf t buf.1 buf.2 = 0 ∧ t.halves = s.halves)) ∧
      (∀ v en, recordValid s m = true → matchOf s tag = some v → tagEntry s tag = some en → en.expert = retExpert w →
        refsOf s v.pool v.ptr ≠ 0 → (v.pool, v.ptr) ≠ buf →
        (retKind w = 1 → retPoison w = false → Completes kind1 s (fun t =>
          loanAt t l h (tagSlot tag) (tagKrank tag) = some { v with state := .back, pool := buf.1, ptr := buf.2 } ∧
          t.field 0x80028 31 0 = satAdd 32 (s.field 0x80028 31 0) 1 ∧
          ∃ y, halfAt t l h = some y ∧ ∃ o ∈ y.outputs, o.slot = tagSlot tag ∧ o.krank = tagKrank tag ∧ (o.pool, o.ptr) = buf)) ∧
        (retKind w = 1 → retPoison w = true → Completes kind1 s (AbortedHere uSde 0x25 s)) ∧
        (∀ i c, ((i = kind2 ∧ retKind w = 2 ∧ c = 0x8003C) ∨ (i = kind3 ∧ retKind w = 3 ∧ c = 0x80040)) →
          (nextReplica s v.expert (retSender w) (v.refused ++ [retSender w]) = none → Completes i s (fun t =>
            (∃ u, loanAt t l h (tagSlot tag) (tagKrank tag) = some u ∧ u.state = .lost) ∧
            t.field c 31 0 = satAdd 32 (s.field c 31 0) 1 ∧ t.field 0x60094 31 0 = satAdd 32 (s.field 0x60094 31 0) 1)) ∧
          (∀ x hf b ts g, nextReplica s v.expert (retSender w) (v.refused ++ [retSender w]) = some x → halfAt s l h = some hf →
            blockOfSlot hf (tagSlot tag) = some b → b.input s = some ts → sendRoom s = true →
            (alloc (groupBytes 1 (dModel s)) (stationOwner s 9) [8, l, h, 256, tagSlot tag, x.1, tagKrank tag]
              (freeBuf buf.1 buf.2 s1)).1 = some g → Completes i s (fun t =>
              loanAt t l h (tagSlot tag) (tagKrank tag) = some { v with refused := v.refused ++ [retSender w] } ∧
              t.field c 31 0 = satAdd 32 (s.field c 31 0) 1 ∧
              ∃ y, halfAt t l h = some y ∧ ∃ p ∈ y.sendQ, p.again = true ∧ p.dest = slotChip x.2 ∧ p.buf = some g))))) ∧
    (∀ l h slot x b t0, halfAt s l h = some x → stepLive s = true → x.loans ≠ none → fatesStand s x = true → combinedRows x = slot →
      earlier s l h (combineDone s) = true → blockOfSlot x slot = some b → blockAt s ⟨l, h, b.base⟩ = some b → b.sel = some t0 →
      let row := t0.rows.getD (slot - b.base) []
      let set := combineSet s x slot row
      ((t0.poison = true ∨ poisoned b.token = true) → Completes (.combineRow l h slot []) s (AbortedHere uSde 0x25 s)) ∧
      (t0.poison = false → poisoned b.token = false → (ranked row).all (fun p => entrySettled s l h slot p.1 p.2) = true →
        BufsLive s ((x.outputs.filter (fun o => o.slot = slot)).map (fun o => (o.pool, o.ptr))) →
        Completes (.combineRow l h slot []) s (fun t =>
          blockAt t ⟨l, h, b.base⟩ = some { b with combined := b.combined ++
            [(slot, (combineVals (combWide s) s.sfuVersion (rowVals b.token (slot - b.base)) set).map (·.1))] } ∧
          (∃ y, halfAt t l h = some y ∧ ∀ o ∈ y.outputs, o.slot ≠ slot) ∧
          t.field 0x81010 31 0 = satAdd 32 (s.field 0x81010 31 0) 1 ∧
          t.field 0x81018 31 0 = satAdd 32 (s.field 0x81018 31 0) (b2n set.isEmpty)))) ∧
    (∀ l h x b g, halfAt s l h = some x → emitBlock x = some b → blockAt s ⟨l, h, b.base⟩ = some b → stepLive s = true →
      fatesStand s x = true → b.combined.length = b.rows → earlier s l h emitDone = true → (tportAt s b.port).queue = [] →
      portFree s b.port = true →
      let cols := resultCols s b
      let img := resultTile s x b (cols.getD b.results (0, 0)) (decide (b.results + 1 = cols.length))
      (b.results + 1 = cols.length → BufsLive s (tileBufs b.token ++ (b.sel.bind (·.buf)).toList)) →
      (alloc img.length (stationOwner s 0xF) [0xF, l, h, b.base, b.results] s).1 = some g → Completes (.emitTile l h []) s (fun t =>
        t.out = s.out ++ [Out.tile b.port img] ∧
        ∃ c, blockAt t ⟨l, h, b.base⟩ = some c ∧ c.results = b.results + 1 ∧
          c.released = (b.released || decide (b.results + 1 = cols.length))))

/-- O42. RETRAIN takes a FAILED port to DOWN and a link that is UP to RETRAIN, or to FAILED with the third retrain
within 10^9 ticks; DISABLE and LOSS_OF_SIGNAL take a link DOWN and erase its keys; LOOPBACK is entered from DOWN
with one key drawn for both directions (R405) and left for DOWN; signal on a DOWN port that may train moves it to
TRAIN, and FEP_BOND takes hold for its group where no port of it runs a link (R311); trained lanes and the measured
delay are recorded (R310); the lowest trained link enters KEYING while fewer than four ports are there (R451); and a
port too long in TRAIN or in keying fails (R312). No other link is touched. -/
def Obligations.PortStates : Prop :=
  ∀ (s : State) (n : Nat), s.ports.length = 24 → n < 24 →
    let q := portAt s n
    (q.state = .failed → Completes (.retrain n) s (fun t => LinkIs n .down s t ∧ OtherPortsKept n s t)) ∧
    (q.state = .up → (portAt s (leadOf s n)).state ≠ .loopback → Completes (.retrain n) s (fun t =>
      LinkIs n (retrainState s n) s t ∧ OtherPortsKept n s t)) ∧
    (q.state ≠ .failed → q.state ≠ .up → Completes (.retrain n) s (fun t => t = s)) ∧
    (q.state ≠ .down → q.state ≠ .failed → Completes (.disable n true) s (fun t => LinkIs n .down s t ∧ OtherPortsKept n s t ∧
      t.field (uPort n) 0 0 = 1)) ∧
    (∀ on, (q.state = .down ∨ q.state = .failed ∨ on = false) → Completes (.disable n on) s (fun t =>
      t.field (uPort n) 0 0 = b2n on ∧ Frame [] [.reg (uPort n)] s t)) ∧
    (q.state = .down → portDisabled s n = false → s.boot.stage ≠ .held → s.sec.drbgOn = true →
      Completes (.loopback n true) s (fun t => t.field (uPort n) 2 2 = 1 ∧ (portAt t n).state = .loopback ∧
        (∃ k, (portAt t n).tx = some k ∧ (portAt t n).rx = some k) ∧ ∀ p, p ≠ n → portAt t p = portAt s p)) ∧
    (q.state = .loopback → Completes (.loopback n false) s (fun t => LinkIs n .down s t ∧ t.field (uPort n) 2 2 = 0)) ∧
    (q.state = .down → mayTrain s n = true →
      let mode := fun (p : Nat) => if (groupPorts n).all (fun k => idlePort (portAt s k)) then bondMode s n else (portAt s p).bonded
      Completes (.signalPresent n) s (fun t =>
        portAt t n = { coldPort q with state := .train, since := s.tb, bonded := mode n } ∧
        (∀ p ∈ groupPorts n, p ≠ n → portAt t p = { portAt s p with bonded := mode p }) ∧ Frame [.ports, .trace] [] s t)) ∧
    ((q.state ≠ .down ∨ mayTrain s n = false) → Completes (.signalPresent n) s (fun t => t = s)) ∧
    ((q.state = .train ∨ q.state = .keying ∨ q.state = .up ∨ q.state = .retrain) → Completes (.lossOfSignal n) s (fun t =>
      LinkIs n .down s t ∧ OtherPortsKept n s t)) ∧
    (∀ lanes delay, q.state = .train → Completes (.lanesTrained n lanes delay) s (fun t =>
      portAt t n = { q with lanes := lanes.toNat, trained := lanes == 0xFF } ∧
      t.field (uPort n + 0xC) 15 0 = delay % 2 ^ 16 ∧ Frame [.ports] [.reg (uPort n + 0xC)] s t)) ∧
    (∀ delay, q.state = .retrain → (∀ p ∈ placesOf s n, p ≠ n → (portAt s p).state = .retrain ∧ (portAt s p).trained = true) →
      Completes (.lanesTrained n 0xFF delay) s (fun t => (portAt t (leadOf s n)).keyed = s.tb ∧
        (∀ c, s.sec.cert = some c → s.sec.drbgOn = true → ∃ k, (portAt t (leadOf s n)).keying = some k ∧ k.rekey = false))) ∧
    ((List.range 24).find? (fun p => leadOf s p = p && linkTrained s p .train) = some n →
      ((List.range 24).filter (fun p => (portAt s p).state == .keying)).length < 4 → Completes (.keyingEnter n) s (fun t =>
        (∀ p ∈ linkOf s n, (portAt t p).state = .keying) ∧ (portAt t n).keyed = s.tb ∧ OtherPortsKept n s t ∧
        (∀ c, s.sec.cert = some c → s.sec.drbgOn = true → ∃ k, (portAt t n).keying = some k ∧ k.rekey = false ∧
          k.started = true ∧ (portAt t n).rekeyOut = keyFrames k.own))) ∧
    (q.state = .train → q.since + 10000000 ≤ s.tb → Completes (.trainTimeout n) s (fun t =>
      LinkIs n .failed s t ∧ OtherPortsKept n s t)) ∧
    ((q.state = .keying ∨ (q.state = .retrain ∧ q.trained = true)) → q.keyed + 1000000 ≤ s.tb →
      Completes (.keyingTimeout n) s (fun t => LinkIs n .failed s t ∧ OtherPortsKept n s t))

/-- O43. A HELLO whose certificate R405 accepts is kept and our FINISH's signature is asked for; one that fails is shown
in SEC_VERIFY_LAST and takes the link to FAILED. The signature made, our FINISH is queued (R404). A FINISH that
verifies completes the keying once ours has left and every REKEY frame is acknowledged (log entry 14): the link is
UP under the keys of R338; before that it is kept. At a rekey the receiver keeps the next key, and the side that
started switches its sender (R339). At counter 2^31 the sender starts a rekey, or retrains when the DRBG has stopped
(R339, R394); at 2^32 − 2^20 only IDLE and REKEY frames leave, and at 2^32 the link retrains (R339). -/
def Obligations.LinkKeying : Prop :=
  ∀ (s : State) (n : Nat), s.ports.length = 24 → n < 24 → leadOf s n = n →
    let q := portAt s n
    (∀ (m : Bytes) k, inKeying q = true → q.keying = some k → k.peer = none →
      let c := bytesAt m 1 320
      let good := m.length = 450 ∧ leAt m 0 1 = 1 ∧ (pointOfBytes (helloPub false m)).isSome = true
      (good → switchReason s c = 0 → Completes (.hello n m) s (fun t =>
        portAt t n = { q with keying := some { k with peer := some m, signing := true }
                              peerKey := pointOfBytes (certSubject c) } ∧ Frame [.ports] [] s t)) ∧
      (good → switchReason s c ≠ 0 → Completes (.hello n m) s (fun t => LinkIs n .failed s t ∧
        t.sec = { s.sec with lastObject := 4, lastReason := switchReason s c })) ∧
      (¬ good → Completes (.hello n m) s (fun t => LinkIs n .failed s t ∧
        t.sec = { s.sec with lastObject := 4, lastReason := 1 }))) ∧
    (∀ (m : Bytes), q.state = .up → m.length = 130 → leAt m 0 1 = 1 → (pointOfBytes (helloPub true m)).isSome = true →
      (∀ k, q.keying = some k → k.peer = none → Completes (.hello n m) s (fun t =>
        portAt t n = { q with keying := some { k with peer := some m, signing := true } })) ∧
      (q.keying = none → s.sec.drbgOn = true → Completes (.hello n m) s (fun t => ∃ k, (portAt t n).keying = some k ∧
        k.peer = some m ∧ k.signing = true ∧ k.rekey = true ∧ k.started = false ∧
        (portAt t n).rekeyOut = q.rekeyOut ++ keyFrames k.own))) ∧
    (∀ k dk, q.keying = some k → s.devKey = some dk → k.signing = true → Completes (.linkSignatureDone n) s (fun t =>
      portAt t n = { q with
        keying := some { k with signing := false, ownDone := true }
        rekeyOut := q.rekeyOut ++ keyFrames (0x02#8 :: ecdsaSign dk.d (finishDigest (handshakeHash q k))) } ∧
      t.field 0x200070 31 0 = satAdd 32 (s.field 0x200070 31 0) 1 ∧ Frame [.ports] [.reg 0x200070] s t)) ∧
    (∀ (m : Bytes) adv k pk, q.keying = some k → k.peer.isSome = true → k.peerDone = false → q.peerKey = some pk →
      let good := m.length = 97 ∧ leAt m 0 1 = 2 ∧ ecdsaVerify pk (finishDigest (handshakeHash q k)) (m.drop 1) = true
      (good → (k.ownDone = false ∨ q.rekeyOut ≠ [] ∨ (k.rekey = false ∧ q.kept ≠ [])) → Completes (.finish n m adv) s (fun t =>
        (portAt t n).keying = some { k with peerDone := true } ∧ (portAt t n).state = q.state)) ∧
      (∀ p, good → k.ownDone = true → q.rekeyOut = [] → k.rekey = true →
        pointOfBytes (helloPub true (k.peer.getD [])) = some p → Completes (.finish n m adv) s (fun t =>
          (portAt t n).keying = none ∧ (portAt t n).rxNext = some (linkKeys (handshakeHash q k) k.d p).2 ∧
          (k.started = true → (portAt t n).tx = some (linkKeys (handshakeHash q k) k.d p).1 ∧ (portAt t n).kph = !q.kph))) ∧
      (∀ p, good → k.ownDone = true → q.rekeyOut = [] → q.kept = [] → k.rekey = false →
        pointOfBytes (helloPub false (k.peer.getD [])) = some p → Completes (.finish n m adv) s (fun t =>
          (∀ x ∈ linkOf s n, (portAt t x).state = .up) ∧ (portAt t n).keying = none ∧
          (portAt t n).tx = some (linkKeys (handshakeHash q k) k.d p).1 ∧
          (portAt t n).rx = some (linkKeys (handshakeHash q k) k.d p).2 ∧
          (portAt t n).shares = (List.range 9).map (fun i => adv.shares.getD i 0))) ∧
      (¬ good → k.rekey = false → Completes (.finish n m adv) s (fun t => LinkIs n .failed s t ∧ t.sec.lastObject = 5)) ∧
      (¬ good → k.rekey = true → Completes (.finish n m adv) s (fun t => LinkIs n (retrainState s n) s t ∧
        t.sec.lastObject = 5))) ∧
    (q.state = .up → q.keying = none → 2 ^ 31 ≤ txCounter q →
      (s.sec.drbgOn = true → Completes (.rekeyStart n) s (fun t => ∃ k, (portAt t n).keying = some k ∧ k.rekey = true ∧
        k.started = true ∧ k.peer = none ∧ (portAt t n).rekeyOut = q.rekeyOut ++ keyFrames k.own)) ∧
      (s.sec.drbgOn = false → Completes (.rekeyStart n) s (fun t => LinkIs n (retrainState s n) s t))) ∧
    (q.state = .up → 2 ^ 32 - 2 ^ 20 ≤ txCounter q → Completes (.rekeyIdleOnly n) s (fun t =>
      portAt t n = { q with idleOnly := true } ∧ Frame [.ports] [] s t)) ∧
    (q.state = .up → 2 ^ 32 ≤ txCounter q → Completes (.rekeyTimeout n) s (fun t => LinkIs n (retrainState s n) s t))

/-- O44. The slots of a bonded link go round its ports (R311). With nothing to send, a link that is UP sends an IDLE
frame sealed under its key with the acknowledgement and the credit count due (R313, R316, R337); a frame to be
replayed goes first (R317); a packet that waits, with a credit for its link channel, leaves frame by frame, each
kept for replay (R315, R317); and a link in keying sends in clear with a zero tag (R337). A DATA frame that is the
next in order is accepted, and a whole packet passes to the transport; one lost in the decoder moves the receive
counter on (R337); a tag that fails is counted for its port, and the sixteenth of one port takes the link to FAILED
(R340). A replay sends every unacknowledged frame again; where eight in a row have brought no advance of ACK a link
that is UP retrains in place of a ninth (R317, R319). -/
def Obligations.FramesOnALink : Prop :=
  ∀ (s : State) (n port : Nat), s.ports.length = 24 → n < 24 → port < 24 → leadOf s port = n → leadOf s n = n →
    let q := portAt s n
    let quiet := s.fep.waiting = [] ∧ ∀ f ∈ s.fep.tx, ∀ p ∈ f.packets, p.port.isSome = true
    let zeros := fun (k : Nat) => List.replicate k (0 : Byte)
    (dealt s port = false → Completes (.frameSend port) s (fun t => t = s)) ∧
    (∀ k, dealt s port = true → q.state = .up → q.tx = some k → k.counter < 2 ^ 32 → quiet →
      (∀ f, replayNext q = some f → Completes (.frameSend port) s (fun t => (portAt t n).tx = some k.next ∧
        (portAt t n).replay = q.replay.filter (fun i => i ≠ f.fseq) ∧
        t.out = s.out ++ [Out.frame port (sealFrame k (nextHeader q f).bytes (f.payload ++ zeros (232 - f.payload.length)))])) ∧
      (replayNext q = none → q.rekeyOut = [] → q.packets = [] → q.sending = [] → Completes (.frameSend port) s (fun t =>
        t.out = s.out ++ [Out.frame port (sealFrame k (nextHeader q idleFrame).bytes (zeros 232))] ∧
        (portAt t n).tx = some k.next ∧ (portAt t n).kept = q.kept)) ∧
      (∀ lc x, replayNext q = none → q.rekeyOut = [] → q.packets = [(lc, x)] → q.sending = [] → lc ∈ lcCodes →
        holdsCredit q lc = true → q.kept.length < 512 → q.idleOnly = false → Completes (.frameSend port) s (fun t =>
          (portAt t n).tx = some k.next ∧
          (portAt t n).kept = q.kept ++ [⟨q.fseq, 1, lc, true, decide (x.length ≤ 232), x.take 232⟩] ∧
          (portAt t n).fseq = (q.fseq + 1) % 4096 ∧ (portAt t n).packets = [] ∧
          ∃ b, t.out = s.out ++ [Out.frame port b]))) ∧
    (dealt s port = true → inKeying q = true → q.rekeyOut = [] → replayNext q = none → q.tx = none →
      Completes (.frameSend port) s (fun t =>
        t.out = s.out ++ [Out.frame port ((nextHeader q idleFrame).bytes ++ zeros 232 ++ zeros 16)])) ∧
    (∀ (f : Bytes) corrected, f.length ≠ 256 → (q.state = .up ∨ q.state = .loopback) →
      Completes (.frameReceive port f corrected) s (fun t => (portAt t n).rx = q.rx.map LinkKey.next ∧
        t.field (uPort port + 0x10) 31 0 = satAdd 32 (s.field (uPort port + 0x10) 31 0) corrected ∧
        t.field (uPort port + 0x14) 31 0 = satAdd 32 (s.field (uPort port + 0x14) 31 0) 1)) ∧
    (∀ (f : Bytes) k corrected, f.length = 256 → q.state = .up → q.rx = some k → (headerOf (f.take 8)).kph = q.rxKph →
      let h := headerOf (f.take 8)
      let fails := (portAt s port).authFails
      (∀ p, openFrame k f = some p → headerOk (f.take 8) = true → h.ftype = 1 → h.fseq = q.rxSeq → h.nak = false →
        h.sop = true → h.eop = true → Completes (.frameReceive port f corrected) s (fun t =>
          t.out = s.out ++ [Out.packet n (p.take h.len)] ∧ (portAt t n).rxSeq = (q.rxSeq + 1) % 4096 ∧
          (portAt t n).rx = some k.next)) ∧
      (openFrame k f = none → fails + 1 < 16 → Completes (.frameReceive port f corrected) s (fun t =>
        (portAt t port).authFails = fails + 1 ∧ (portAt t n).rx = some k.next ∧ t.out = s.out ∧
        t.field (uPort port + 0x1C) 15 0 = satAdd 16 (s.field (uPort port + 0x1C) 15 0) 1)) ∧
      (openFrame k f = none → 16 ≤ fails + 1 → Completes (.frameReceive port f corrected) s (fun t => LinkIs n .failed s t))) ∧
    (q.kept ≠ [] →
      ((q.state = .up ∧ q.replays < 8) ∨ inKeying q = true → Completes (.replayTimeout n) s (fun t =>
        portAt t n = { q with replay := q.kept.map (·.fseq), replays := q.replays + 1 } ∧
        t.field (uPort n + 0x18) 31 0 = satAdd 32 (s.field (uPort n + 0x18) 31 0) 1)) ∧
      (q.state = .up → 8 ≤ q.replays → Completes (.replayTimeout n) s (fun t => LinkIs n (retrainState s n) s t)))

/-- O45. A packet with a bad header or payload checksum is dropped and counted (R321); the next packet of a flow that is
a whole message is delivered (R322, R323); a duplicate is counted (R325). An ACK removes the packets it covers and
returns their units (R326, R328); one is sent 160 ticks after the packet it answers. A packet whose timer expires is
sent again with RETX, and after its fourth sending the flow is lost and the step aborts with 0x41 (R326). A pinned
flow whose port has left UP moves on; of its packets those that have been sent are sent again with RETX (R325). A
group or record keeps its landing units until its consumer takes it (R328). Grants are given, taken, and released
after 10,000 idle ticks (R329). The throttle step falls one at a time (R333). -/
def Obligations.PacketsAndFlows : Prop :=
  ∀ s : State,
    (∀ port (b : Bytes), packetOk s b = false → Completes (.packetReceive port b) s (fun t =>
      t.field 0xC0034 15 0 = satAdd 16 (s.field 0xC0034 15 0) 1 ∧ Frame [] [.reg 0xC0034] s t)) ∧
    (∀ port (b : Bytes), packetOk s b = true → leAt b 0x18 4 ≠ crc32c (b.drop 32) → Completes (.packetReceive port b) s (fun t =>
      t.field 0xC0038 15 0 = satAdd 16 (s.field 0xC0038 15 0) 1 ∧ Frame [] [.reg 0xC0038] s t)) ∧
    (∀ port (b : Bytes), packetOk s b = true → leAt b 0x18 4 = crc32c (b.drop 32) →
      let f := rxFlow s (pktSrc b) (pktLc b)
      (pktPsn b = f.next → f.base = f.next → f.held = [] → pktLast b = true → f.due + 1 < 16 →
        Completes (.packetReceive port b) s (fun t =>
          t.out = s.out ++ [Out.delivered (pktSrc b) port (pktKind b) (bits (leAt b 0x10 8) 55 0) (b.drop 32)] ∧
          (rxFlow t (pktSrc b) (pktLc b)).next = (f.next + 1) % 2 ^ 24 ∧
          (rxFlow t (pktSrc b) (pktLc b)).due = f.due + 1 ∧
          (4 ≤ pktLc b → pktLc b ≤ 7 → t.fep.landed =
            s.fep.landed ++ [⟨pktSrc b, pktLc b, (b.drop 32).length, packetUnits (pktLen b)⟩]) ∧
          t.field 0xC0024 31 0 = satAdd 32 (s.field 0xC0024 31 0) 1)) ∧
      ((∃ x ∈ f.held, x.1 = pktPsn b) → Completes (.packetReceive port b) s (fun t => t.out = s.out ∧
        t.field 0xC002C 31 0 = satAdd 32 (s.field 0xC002C 31 0) 1))) ∧
    (∀ src (e : Bytes) f, txFlow s src (bits (leAt e 0 16) 123 120) = some f →
      let w := leAt e 0 16
      let next := bits w 119 96
      let covered := fun (psn : Nat) => (0 < serialSub 24 next psn && serialSub 24 next psn ≤ 4096) ||
        (serialSub 24 psn (next + 1) < 64 && bit (bits w 95 32) (serialSub 24 psn (next + 1)))
      Completes (.ack src e) s (fun t => ∃ g, txFlow t src (bits w 123 120) = some g ∧
        g.packets = f.packets.filter (fun p => !covered p.psn) ∧ g.freedSeen = bits w 31 8 ∧
        ((fallbackTo s src (bits w 123 120) = false ∨ fenced s (ownRelay s src) = true ∨ f.granted = 0) →
          g.spent = f.spent - serialSub 24 (bits w 31 8) f.freedSeen))) ∧
    (∀ peer lc k, (rxFlow s peer lc).dueTick = some k → k + 160 ≤ s.tb → peer ≠ chipId s → fenced s peer = false → s.fenceSelf = false →
      let f := rxFlow s peer lc
      Completes (.ackTimer peer lc) s (fun t => (rxFlow t peer lc).due = 0 ∧ (rxFlow t peer lc).dueTick = none ∧
        ∃ sack, (∀ i, i < 64 → bit sack i = f.held.any (fun x => x.1 = (f.next + 1 + i) % 2 ^ 24)) ∧
          t.fep.waiting = s.fep.waiting ++ [⟨peer, 0xA, 0x07, s.stepNum,
            controlEntry 1 lc (f.next * 2 ^ 96 + sack * 2 ^ 32 + f.freed * 2 ^ 8), .none, 0, none⟩])) ∧
    (∀ peer lc psn f p, txFlow s peer lc = some f → f.packets.find? (fun p => p.psn = psn) = some p → expired s p = true →
      (p.sends < 4 → Completes (.retransmitTimeout peer lc psn) s (fun t =>
        txFlow t peer lc = some { f with packets := f.packets.map (fun x => if x.psn = psn then x.again else x) } ∧
        Frame [.fep, .trace] [] s t)) ∧
      (4 ≤ p.sends → fenced s peer = false → stepLive s = true → BufsLive s (f.ties.filterMap (fun x => x.2.2.buf)) →
        Completes (.retransmitTimeout peer lc psn) s (fun t => AbortedHere uFep 0x41 s t ∧
        (∃ g, txFlow t peer lc = some g ∧ g.packets = []) ∧
        t.field 0xC0054 15 0 = satAdd 16 (s.field 0xC0054 15 0) 1))) ∧
    (∀ peer lc f n m, txFlow s peer lc = some f → f.port = some n → (portAt s n).state ≠ .up → sprayed lc = false →
      (∀ p ∈ f.packets, p.tick = none ∨ expired s p = true) → nextUp s ((n + 1) % 24) = some m →
      Completes (.pinnedFlowMove peer lc) s (fun t =>
        txFlow t peer lc = some { f with port := some m, packets := f.packets.map TxPacket.move } ∧ Frame [.fep] [] s t)) ∧
    (∀ src (e : Bytes), src ≠ chipId s → fenced s src = false → s.fenceSelf = false → s.fep.wanted = [] →
      let lc := bits (leAt e 0 16) 123 120
      let units := bits (leAt e 0 16) 119 104
      (0 < units → units ≤ 512 - givenTo s src → units ≤ s.fep.dynFree → Completes (.grantReq src e) s (fun t =>
        t.fep.dynFree = s.fep.dynFree - units ∧ t.fep.wanted = [] ∧ t.fep.waiting = s.fep.waiting ++
          [⟨src, 0xA, 0x07, s.stepNum, controlEntry 3 lc (units * 2 ^ 104), .none, 0, none⟩])) ∧
      (units = 0 → Completes (.grantReq src e) s (fun t => t.fep.given = s.fep.given.filter (fun g => g.1 ≠ (src, lc)) ∧
        t.fep.waiting = s.fep.waiting))) ∧
    (∀ src (e : Bytes) f, txFlow s src (bits (leAt e 0 16) 123 120) = some f →
      let n := bits (leAt e 0 16) 119 104
      Completes (.grant src e) s (fun t => txFlow t src (bits (leAt e 0 16) 123 120) =
        some { f with granted := f.granted + n, asked := f.asked - n } ∧ Frame [.fep] [] s t)) ∧
    (∀ peer lc f, txFlow s peer lc = some f → f.granted ≠ 0 → f.lastTick + 10000 ≤ s.tb → f.packets = [] →
      peer ≠ chipId s → fenced s peer = false → s.fenceSelf = false → Completes (.grantIdleTimeout peer lc) s (fun t =>
        txFlow t peer lc = some { f with granted := 0, spent := 0, asked := 0 } ∧ t.fep.waiting = s.fep.waiting ++
          [⟨peer, 0xA, 0x07, s.stepNum, controlEntry 2 lc 0, .none, 0, none⟩])) ∧
    (0 < s.fep.throttle → throttleD s < (thresholds s).getD (s.fep.throttle - 1) 0 → Completes .throttleStepFall s (fun t =>
      t.fep = { s.fep with throttle := s.fep.throttle - 1 } ∧ Frame [.fep, .trace] [] s t))

/-- O46. A contribution is kept by its collector, and with the rack's last the rack's partial is the contributions
reduced lane by lane (R303). An empty contribution asks for this chip's again, or is answered with a result held, as
is one that a new collector has asked for and that comes after the result (R305). Another collector's partial is
kept and acknowledged; a copy that was asked for is used (R305); an acknowledgement is kept; a request for a fenced
collector's partial is answered with that of its rack, or with an empty one (R305). -/
def Obligations.ExpressRounds : Prop :=
  ∀ (s : State) (src : Nat) (m : Bytes),
    let k := xpKey m
    let p := xpPayload m
    let late := fun (r : Round) => r.result.isSome && r.askedRack s && !r.contribs.any (fun x => x.1 = src)
    (p ≠ [] → (∀ r, roundAt s k = some r → late r = false) → Completes (.contrib src m) s (fun t =>
      ∃ r, roundAt t k = some r ∧ (src, p) ∈ r.contribs)) ∧
    (∀ r, p ≠ [] → roundAt s k = some r → r.result = none → isCollector s r = true → r.partialOf (rackOf (chipId s)) = none →
      let rack := (r.left s).filter (fun c => rackOf c = rackOf (chipId s))
      let all := r.contribs.filter (fun x => x.1 ≠ src) ++ [(src, p)]
      (∀ c ∈ rack, ∃ x ∈ all, x.1 = c) → Completes (.contrib src m) s (fun t => ∃ q, roundAt t k = some q ∧
        q.partialOf (rackOf (chipId s)) = some (reduceAll r.opw (all.filter (fun x => rack.contains x.1))))) ∧
    (∀ r, roundAt s k = some r → src ≠ chipId s → fenced s src = false → s.fenceSelf = false →
      let answer := fun (ty : Nat) (v : Bytes) (t : State) => t.fep.waiting = s.fep.waiting ++ [⟨src, 0xA, 0x05, s.stepNum,
        expressBytes ty r.opw k.group k.tag (chipId s) k.seq k.step v, .none, 0, none⟩] ∧ Frame [.fep] [] s t
      (∀ v, r.result = some v → (p = [] ∨ late r = true) → Completes (.contrib src m) s (answer 0x22 v)) ∧
      (∀ v, p = [] → r.result = none → r.own = some v → Completes (.contrib src m) s (answer 0x20 v))) ∧
    (xpSender m = src → answersAsk s k src src = false → src ≠ chipId s → fenced s src = false → s.fenceSelf = false →
      Completes (.partialMsg src m) s (fun t => (∃ r, roundAt t k = some r ∧ (src, p) ∈ r.partials) ∧
        ∃ x ∈ t.fep.waiting, x.dst = src ∧ x.payload = expressBytes 0x28 (xpOpw m) k.group k.tag (chipId s) k.seq k.step [])) ∧
    (∀ r, roundAt s k = some r → (xpSender m, src) ∈ r.asked → p ≠ [] → r.partialOf (rackOf (xpSender m)) = none →
      Completes (.partialMsg src m) s (fun t => ∃ q, roundAt t k = some q ∧ (xpSender m, p) ∈ q.partials)) ∧
    (∀ r, roundAt s k = some r → Completes (.partialAck src m) s (fun t => ∃ q, roundAt t k = some q ∧ src ∈ q.acks)) ∧
    (src ≠ chipId s → fenced s src = false → s.fenceSelf = false →
      let c := leNat p
      let held := (roundAt s k).bind (fun r => r.partialOf (rackOf c))
      Completes (.partialCopyRequest src m) s (fun t => t.fep.waiting = s.fep.waiting ++ [⟨src, 0xA, 0x05, s.stepNum,
        expressBytes 0x21 (xpOpw m) k.group k.tag c k.seq k.step (held.getD []), .none, 0, none⟩] ∧ Frame [.fep] [] s t))

/-- O47. A REGISTER_GROUP descriptor that passes its checks, with a legal group record, takes the lowest free identifier
from 0 to 4,095, keeps the record under it, and its status word shows the identifier; with all 4,096 in use it fails
with E_GROUP_FULL. UNREGISTER_GROUP frees the identifier; it fails with E_GROUP_BUSY while a descriptor naming the
group is active or waits in the ring, and with E_GROUP_UNKNOWN when the identifier is free. Neither asks whether a
step runs, and no other command but a reset changes a registration. -/
def Obligations.CollectiveGroups : Prop :=
  (∀ (s : State) (env : MemEnv) (b : Bytes), RingFits (withEnv env s) →
    let e := withEnv env s
    let a := descAddr e e.cce.next + 0x38
    let g := bytesAt b 0x10 8
    let id := bits (leAt b 4 2) 11 0
    (nextDesc e 0x10 = some b → descOk e b = true → groupOkRec e g = true →
      (∀ n, n < 4096 → groupAt e n = none → (∀ j, j < n → groupAt e j ≠ none) → Completes (.registerGroup env) s (fun t =>
        groupAt t n = some ⟨n, g⟩ ∧ (∀ j, j ≠ n → groupAt t j = groupAt e j) ∧ WordIs 4 a (2 ^ 31 + n) t)) ∧
      ((∀ n, n < 4096 → groupAt e n ≠ none) → Completes (.registerGroup env) s (fun t =>
        t.cce.groups = s.cce.groups ∧ WordIs 4 a (2 ^ 30 + 0x4F * 2 ^ 16) t))) ∧
    (nextDesc e 0x11 = some b → descOk e b = true →
      let desc := fun k => memBytes e.mem (descAddr e ((e.cce.next + k) % 65536)) 64
      let busy := (∃ c ∈ e.cce.active, c.desc.group = id) ∨
        (∃ k, 0 < k ∧ k < serialSub 16 e.cce.tail e.cce.next ∧ leAt (desc k) 0 1 < 0x10 ∧ bits (leAt (desc k) 4 2) 11 0 = id)
      (groupAt e id = none → Completes (.unregisterGroup env) s (fun t =>
        t.cce.groups = s.cce.groups ∧ WordIs 4 a (2 ^ 30 + 0x51 * 2 ^ 16) t)) ∧
      (groupAt e id ≠ none → busy → Completes (.unregisterGroup env) s (fun t =>
        t.cce.groups = s.cce.groups ∧ WordIs 4 a (2 ^ 30 + 0x50 * 2 ^ 16) t)) ∧
      (groupAt e id ≠ none → ¬ busy → Completes (.unregisterGroup env) s (fun t =>
        groupAt t id = none ∧ (∀ j, j ≠ id → groupAt t j = groupAt e j) ∧ WordIs 4 a (2 ^ 31) t)))) ∧
  (∀ (i : Instr) (s t : State), (∀ env, i ≠ .registerGroup env) → (∀ env, i ≠ .unregisterGroup env) → i ≠ .chipReset →
    i ≠ .powerOnReset → exec i s = .next t → t.cce.groups = s.cce.groups)

/-- O48. CCE_DOORBELL takes a new tail, or refuses one more than 2^n beyond the head with E_COLL_RING (R279). The next
descriptor, of any of the seven collectives, is refused with the code of R281 in its status word, waits behind 8
active collectives, its group's or its port's (R282, R293), waits for its reservation (R285), or starts: it stands
among the active ones, and the two halves of the handshake have this chip's digest; one launched in an aborted step
aborts at once with the step's code. A COLL tile with no collective to take it, or an illegal one, aborts the step;
one that does not fit aborts the collective with E_COLL_STREAM; one of an aborted collective is dropped; one that
fits has its elements placed (R293, R294). An ABORT message and the timeout abort the collective (R300, R301), and
the completion round ends it with its one outcome in STATUS (R300). -/
def Obligations.CollectiveRing : Prop :=
  ∀ (s : State) (env : MemEnv),
    let e := withEnv env s
    (∀ v : Word32, Completes (.cceDoorbell false v env) s (Refused uCce 0x02 s)) ∧
    (∀ v : Word32, 65536 ≤ v.toNat → Completes (.cceDoorbell true v env) s (Refused uCce 0x1F e)) ∧
    (∀ v : Word32, v.toNat < 65536 → 2 ^ ringLog2 e < serialSub 16 v.toNat e.cce.head →
      Completes (.cceDoorbell true v env) s (Refused uCce 0x4E e)) ∧
    (∀ v : Word32, v.toNat < 65536 → serialSub 16 v.toNat e.cce.head ≤ 2 ^ ringLog2 e →
      Completes (.cceDoorbell true v env) s (fun t => t.cce.tail = v.toNat ∧ t.cce.active = s.cce.active) ∧
      (e.cce.next = v.toNat ∨ opLegal (leNat (memBytes e.mem (descAddr e e.cce.next) 1)) →
        Completes (.cceDoorbell true v env) s (fun t => t = { e with cce := { e.cce with tail := v.toNat } }))) ∧
    (∀ p ∈ collectiveStarts env, ∀ b : Bytes,
      let ix := e.cce.next
      let d := descOf b
      RingFits e → nextDesc e p.1 = some b →
      (∀ c ∈ e.cce.active, collAt e c.index = some c ∧ c.index ≠ ix ∧ (c.desc.op = p.1 → c.phase ≠ .counts)) →
      (collCode e b ≠ 0 → Completes p.2 s (fun t =>
        WordIs 4 (descAddr e ix + 0x38) (2 ^ 30 + collCode e b * 2 ^ 16) t ∧ t.cce.active = s.cce.active)) ∧
      (collCode e b = 0 →
        let waits := 8 ≤ s.cce.active.length ∨ (∃ c ∈ s.cce.active, c.desc.group = d.group) ∨
          (d.stream = true ∧ ∃ c ∈ s.cce.active, c.desc.stream = true ∧ c.desc.port = d.port)
        (waits → Completes p.2 s (fun t => t = { e with cce := { e.cce with ringWait := true } })) ∧
        (∀ g, ¬ waits → groupAt e d.group = some g →
          let c := newColl e ix d g.bytes
          let r := allocMany (if d.op = 6 then [] else reserveSizes c (chipId e)) (classOwner e g.bytes) [0x10, ix] e
          (r.1 = none → Completes p.2 s (fun t => t = r.2)) ∧
          (∀ bs, r.1 = some bs → stepLive s = true → (d.stream = true ∨ badLine env d.src (c.data.length * elemBytes d) = false) →
            Completes p.2 s (fun t => { c with bufs := bs } ∈ t.cce.active ∧
              ∀ k ∈ [0, 1], ∃ q, roundAt t (collKey c k) = some q ∧ q.own = some (handshakeDigest c) ∧ q.members = c.members)) ∧
          (∀ bs, r.1 = some bs → stepLive s = true → d.stream = false → badLine env d.src (c.data.length * elemBytes d) = true →
            Completes p.2 s (fun t => AbortedHere uCce 0x2D s t ∧
              ∃ x ∈ t.cce.active, x.index = ix ∧ x.abortCode = 0x2D ∧ x.phase = .completion)) ∧
          (∀ bs q, r.1 = some bs → s.run = some q → q.abortCode ≠ 0 → Completes p.2 s (fun t =>
            ∃ x ∈ t.cce.active, x.index = ix ∧ x.abortCode = q.abortCode ∧ x.phase = .completion))))) ∧
    (∀ (port : Nat) (b : Bytes) (errs : Errs), otherErrors errs = [] →
      let h := hdrOf b
      let key := [0x10, 65536, port, h.base, h.colBase]
      let r := alloc (hdrImage h false) (collOwner s port) key s
      let legal := headerLegal s 9 b = true ∧ h.step = s.stepNum
      (r.1 = none → Completes (.collTile port b errs) s (fun t => t = r.2)) ∧
      (MayAlloc s (hdrImage h false) (collOwner s port) key → stepLive s = true →
        (∀ c ∈ s.cce.active, ¬ (c.desc.stream = true ∧ c.desc.port = port)) ∨ ¬ legal →
        Completes (.collTile port b errs) s (AbortedHere uSde 0x20 s)) ∧
      (∀ c, s.cce.active.find? (fun c => c.desc.stream && c.desc.port = port) = some c → collAt s c.index = some c → legal →
        MayAlloc s (hdrImage h false) (collOwner s port) key →
        (c.abortCode ≠ 0 → Completes (.collTile port b errs) s (Frame [.pools] [] s)) ∧
        (tileFits c h = false ∨ arrivedBad errs = true → c.abortCode = 0 → stepLive s = true →
          Completes (.collTile port b errs) s (fun t => AbortedHere uCce 0x54 s t ∧
            ∃ x, collAt t c.index = some x ∧ x.abortCode = 0x54)) ∧
        (tileFits c h = true → arrivedBad errs = false → c.abortCode = 0 → c.inbox = [] → c.data.length = c.desc.count →
          Completes (.collTile port b errs) s (fun t => ∃ u x, t = runColl c.index u ∧ collAt u c.index = some x ∧
            x.have_ = c.have_ ++ (List.range h.rows).map (rowSpan c.desc h) ∧
            ∀ r, r < h.rows → (x.data.drop (rowSpan c.desc h r).1).take h.cols = (elemsOf h false b).getD r [])))) ∧
    (∀ (src : Nat) (m : Bytes),
      let k := (leAt m 2 2, leAt m 4 2, leAt m 0xA 6)
      let code := leAt (bytesAt m 16 (leAt m 9 1)) 0 1
      (collOf s k.1 k.2.1 k.2.2 = none → Completes (.collAbort src m) s (fun t => t = s)) ∧
      (∀ c, collOf s k.1 k.2.1 k.2.2 = some c → collAt s c.index = some c → c.abortCode = 0 → Completes (.collAbort src m) s (fun t =>
        collAt t c.index = some { c with
            abortCode := code, sentAbort := true, contributed := true, outQ := [], phase := .completion } ∧
        (∀ d ∈ c.members, d ≠ chipId s → s.fenceSelf = false → fenced s d = false → xpOf s c d 0x23 (leBytes 1 code) ∈ t.fep.waiting) ∧
        (c.contributed = false → ∃ q, roundAt t (completionKey c) = some q ∧ q.own = some (leBytes 2 (0x200 + (0xFF - code)))) ∧
        (c.contributed = true → t.rounds = s.rounds)))) ∧
    (∀ c, collAt s c.index = some c →
      (c.abortCode = 0 → c.start + descTimeout s c.desc ≤ s.tb → Completes (.collTimeout c.index) s (fun t =>
        Recorded uCce 0x55 s t ∧ (∃ x, collAt t c.index = some x ∧ x.abortCode = 0x55) ∧
        (stepLive s = true → AbortedHere uCce 0x55 s t))) ∧
      (s.tb < c.start + descTimeout s c.desc ∨ c.abortCode ≠ 0 → Completes (.collTimeout c.index) s (fun t => t = s)) ∧
      (∀ value, c.contributed = false → Completes (.completionRound c.index value) s (fun t => t = s)) ∧
      (∀ value, c.contributed = true → c.reported = true → value / 256 ≠ 2 → Completes (.completionRound c.index value) s (fun t =>
        collAt t c.index = none ∧ t.mem = s.mem)) ∧
      (∀ value, c.contributed = true → c.reported = false → (∀ k, k < 4 → ¬ inRing s (descAddr s c.index + 0x38 + k)) →
        let code := 0xFF - value % 256
        (value / 256 ≠ 2 → Completes (.completionRound c.index value) s (fun t => collAt t c.index = none ∧
          WordIs 4 (descAddr s c.index + 0x38) (2 ^ 31) t ∧ (∀ x ∈ c.bufs, refsOf t x.1 x.2 = 0) ∧
          t.field 0xA0040 31 0 = satAdd 32 (s.field 0xA0040 31 0) 1)) ∧
        (value / 256 = 2 → code ≠ 0 → Completes (.completionRound c.index value) s (fun t => collAt t c.index = none ∧
          WordIs 4 (descAddr s c.index + 0x38) (2 ^ 30 + code * 2 ^ 16) t ∧
          t.field 0xA0044 31 0 = satAdd 32 (s.field 0xA0044 31 0) 1 ∧ (stepLive s = true → Aborted code s t)))))

/-- O49. A result of an express all-reduce is taken once (R303): the second half of a handshake starts the data phase,
or aborts with E_COLL_MISMATCH where the halves differ (R282). A chain whose header fails is discarded and counted
(R295); one whose CRC fails is asked for again once, and then aborts the collective (R298); one of an abort's
collective is dropped; a DATA chain of a direct exchange is written and its credit returned (R284, R285); a PARTIAL
takes this member's elements in and goes on, or is the result at its shard's owner, from where it goes to the others
as a RESULT (R286); a slice of the EXACT path takes its place (R289). CREDIT adds credits and releases the copy it
names (R285), NACK has the chain sent again once (R298), COUNTS fills the table (R292), and SLOT tells how a chain
is reduced (R290). Of a message that names no active collective nothing comes but the count of a discarded chain.
The payloads of the engine's own messages are the model's choice (log entry 13). -/
def Obligations.CollectiveMessages : Prop :=
  ∀ (s : State) (src : Nat) (m : Bytes),
    let k := xpKey m
    let b := xpPayload m
    (∀ r, roundAt s k = some r → r.taken = true ∨ r.own = none → Completes (.result src m) s (fun t => t = s)) ∧
    (∀ r, roundAt s k = some r → r.taken = false → r.own ≠ none →
      Completes (.result src m) s (fun t => ∃ q, roundAt t k = some q ∧ (k.group = 0xFFFF → q.result = some b ∧ q.taken = true ∧
        t.field 0xA006C 31 0 = satAdd 32 (s.field 0xA006C 31 0) 1)) ∧
      (∀ c, k.group ≠ 0xFFFF → collOf s k.group k.tag k.step = some c → collAt s c.index = some c → c.abortCode = 0 →
        (∀ y, c.phase = .handshake → k.seq = 0 → c.digestMin = some y →
          (b ≠ y → Completes (.result src m) s (fun t => ∃ x, collAt t c.index = some x ∧ x.abortCode = 0x52)) ∧
          (b = y → Completes (.result src m) s (fun t => ∃ x, collAt t c.index = some x ∧ x.phase ≠ .handshake))) ∧
        (c.phase = .handshake → k.seq = 1 → c.digestMax = none → Completes (.result src m) s (fun t =>
          collAt t c.index = some { c with digestMin := some b })) ∧
        (c.phase = .counts → k.seq = msgSeq c.msg → Completes (.result src m) s (fun t =>
          ∃ x, collAt t c.index = some x ∧ x.gathered = [b])) ∧
        (c.phase = .data → k.seq = msgSeq c.msg → isSmall c = true →
          (c.msg + 1 < smallCount c → Completes (.result src m) s (fun t =>
            collAt t c.index = some { c with gathered := c.gathered ++ [b], msg := c.msg + 1 })) ∧
          (smallCount c ≤ c.msg + 1 → Completes (.result src m) s (fun t => ∃ x, collAt t c.index = some x ∧ 0 ∈ x.done))) ∧
        (c.phase = .data → k.seq = msgSeq c.msg → isSmall c = false → Completes (.result src m) s (fun t =>
          ∃ u, t = runColl c.index (anchorTake c.index b u) ∧ collAt u c.index = some c)))) ∧
    ((¬ ∃ c ∈ s.cce.active, c.desc.group = bits (leAt m 4 2) 11 0 ∧ c.desc.tag = leAt m 6 2 ∧ c.step % 2 ^ 32 = leAt m 0x18 4) →
      Completes (.chainReceive src m []) s (fun t => t.field 0xA0054 15 0 = satAdd 16 (s.field 0xA0054 15 0) 1 ∧
        Frame [] [.reg 0xA0054] s t)) ∧
    (∀ c, leAt m 0x1C 4 ≠ crc32c (m.take 0x1C) → lostColl s m = some c → collAt s c.index = some c → c.abortCode = 0 →
      Completes (.chainReceive src m []) s (fun t => t.field 0xA0054 15 0 = satAdd 16 (s.field 0xA0054 15 0) 1 ∧
        ((src, chType m, chIx m) ∉ c.failed → collAt t c.index = some { c with failed := c.failed ++ [(src, chType m, chIx m)] } ∧
          Sent (xpOf s c src 0x25 (leBytes 1 (chType m) ++ leBytes 4 (chIx m))) s t) ∧
        ((src, chType m, chIx m) ∈ c.failed → Recorded uCce 0x2D s t ∧ ∃ x, collAt t c.index = some x ∧ x.abortCode = 0x2D))) ∧
    (∀ c, chainColl s m = some c → collAt s c.index = some c →
      let n := chIx m
      let type := chType m
      let d := c.desc
      let pay := chPayload m
      let good := pay.length = leAt m 0x10 4 ∧ leAt m 0x14 4 = crc32c pay
      let credit := xpOf s c src 0x24 (leBytes 1 type ++ leBytes 4 n ++ leBytes 1 1)
      (∀ errs, otherErrors errs = [] → arrivedBad errs = true → c.abortCode = 0 → Completes (.chainReceive src m errs) s (fun t =>
        Recorded uCce 0x2D s t ∧ t.mem = s.mem ∧ ∃ x, collAt t c.index = some x ∧ x.abortCode = 0x2D)) ∧
      (¬ good → c.abortCode ≠ 0 → Completes (.chainReceive src m []) s (fun t => t = s)) ∧
      (¬ good → c.abortCode = 0 → (src, type, n) ∉ c.failed → Completes (.chainReceive src m []) s (fun t =>
        collAt t c.index = some { c with failed := c.failed ++ [(src, type, n)] } ∧
        Sent (xpOf s c src 0x25 (leBytes 1 type ++ leBytes 4 n)) s t ∧ t.mem = s.mem)) ∧
      (¬ good → (src, type, n) ∈ c.failed → c.abortCode = 0 → Completes (.chainReceive src m []) s (fun t =>
        Recorded uCce 0x2D s t ∧ t.mem = s.mem ∧ ∃ x, collAt t c.index = some x ∧ x.abortCode = 0x2D)) ∧
      (good → c.abortCode ≠ 0 → c.outQ = [] → c.contributed = true → Completes (.chainReceive src m []) s (fun t =>
        t.field 0xA0048 31 0 = satAdd 32 (s.field 0xA0048 31 0) 1 ∧ Frame [] [.reg 0xA0048] s t)) ∧
      (good → c.abortCode = 0 → d.mode = 0 → d.op = 5 ∨ d.op = 6 → Completes (.chainReceive src m []) s (fun t =>
        ∃ u x, t = runColl c.index u ∧ Sent credit s u ∧ collAt u c.index = some x ∧ chRank m * 2 ^ 32 + n ∈ x.done ∧
          u.mem = memPut s.mem
            (d.dst + (recvBlock c (chRank m) + n * (chainBytes d / elemBytes d)) * elemBytes d)
            ((payloadElems (elemBytes d) pay).flatMap (leBytes (elemBytes d))))) ∧
      (good → c.abortCode = 0 → d.mode = 1 → type = 1 → mustHold c m = true → Completes (.chainReceive src m []) s (fun t =>
        ∃ u, t = runColl c.index u ∧ collAt u c.index = some { c with inbox := c.inbox ++ [(src, m)] } ∧ u.mem = s.mem)) ∧
      (good → c.abortCode = 0 → d.mode = 1 → type = 1 → mustHold c m = false →
        let x := (orderedChains d c.p).getD n (0, 0, 0)
        let vs := ((payloadElems (fmtSize (chFmt m)) pay).zip (c.elems x.2.1 x.2.2)).map (fun p => wireHop d (chFmt m) p.1 p.2)
        let on := fun (type hops : Nat) => OutChain.mk c.nextChip type n
          (chainImage c type hops n (vs.flatMap (leBytes (wireBytes d)))) false (some (src, 1, n)) false false
        (x.1 ≠ c.rank → Completes (.chainReceive src m []) s (fun t => ∃ u, t = runColl c.index u ∧ u.mem = s.mem ∧
          collAt u c.index = some { c with outQ := c.outQ ++ [on 1 (chHops m + 1)] })) ∧
        (x.1 = c.rank → Completes (.chainReceive src m []) s (fun t => ∃ u y, t = runColl c.index u ∧ collAt u c.index = some y ∧
          n ∈ y.done ∧ (d.op ≠ 1 → Sent credit s u) ∧ (d.op = 1 → y.outQ = c.outQ ++ [on 2 0]) ∧
          u.mem = memPut s.mem (d.dst + dstOf c (orderedChains d c.p) x * elemBytes d)
            ((vs.map (fromWire d)).flatMap (leBytes (elemBytes d)))))) ∧
      (good → c.abortCode = 0 → d.mode = 1 → type ≠ 1 → Completes (.chainReceive src m []) s (fun t =>
        ∃ u y, t = runColl c.index u ∧ collAt u c.index = some y ∧ n ∈ y.done ∧
          u.mem = memPut s.mem (d.dst + ((orderedChains d c.p).getD n (0, 0, 0)).2.1 * elemBytes d)
            (((payloadElems (wireBytes d) pay).map (fromWire d)).flatMap (leBytes (elemBytes d))))) ∧
      (good → c.abortCode = 0 → d.mode = 2 → type ≠ 5 → Completes (.chainReceive src m []) s (fun t =>
        ∃ u x y, t = runColl c.index (runExact c.index n u) ∧ Sent credit s u ∧ collAt u c.index = some x ∧
          x.exact.find? (fun z => z.ix = n) = some y ∧
          (type = 4 → (c.pos (c.chip (chRank m)), payloadElems 12 pay) ∈ y.rackIn) ∧
          (type = 6 → (rackOf (c.chip (chRank m)), payloadElems 12 pay) ∈ y.cross) ∧
          (type = 2 → (c.pos (c.chip (chRank m)), payloadElems 12 pay) ∈ y.total)))) ∧
    (expressColl s m = none → ∀ i ∈ [Instr.credit src m, .nack src m, .counts src m, .slot src m],
      Completes i s (fun t => t = s)) ∧
    (∀ c, expressColl s m = some c → collAt s c.index = some c →
      let type := leAt b 0 1
      let n := leAt b 1 4
      let copy := fun (o : OutChain) => o.dst = src && o.type = type && o.ix = n && o.sent
      Completes (.credit src m) s (fun t => ∃ u x, t = runColl c.index u ∧ collAt u c.index = some x ∧ u.mem = s.mem ∧
        creditsOf x (src, type) = creditsOf c (src, type) + leAt b 5 1 ∧ x.outQ = c.outQ.filter (fun o => !copy o)) ∧
      (∀ o, c.outQ.find? (fun o => copy o && !o.again) = some o → c.abortCode = 0 → Completes (.nack src m) s (fun t =>
        (o.toSwitch = false → Sent ⟨src, 8, 0x03, s.stepNum, o.bytes, .none, 0, none⟩ s t) ∧
        t.field 0xA0050 15 0 = satAdd 16 (s.field 0xA0050 15 0) 1 ∧
        ∃ x, collAt t c.index = some x ∧ ∀ p ∈ x.outQ, copy p = true → p.again = true)) ∧
      (c.outQ.find? (fun o => copy o && !o.again) = none ∨ c.abortCode ≠ 0 → Completes (.nack src m) s (fun t => t = s)) ∧
      (let j := c.members.idxOf src;
        c.desc.op = 6 → src ∈ c.members → (∀ r ∈ c.recvCounts, r.1 ≠ j) →
        let counts := c.recvCounts ++ [(j, leAt b 0 4)]
        let all := ∀ i, i < c.p → ∃ r ∈ counts, r.1 = i
        (¬ all → Completes (.counts src m) s (fun t =>
          collAt t c.index = some { c with recvCounts := counts, recvAt := c.recvAt.set j (leAt b 4 4) } ∧
          t.mem = memPut s.mem (c.desc.cnt + 8 * j + 4) (leBytes 4 (leAt b 0 4)))) ∧
        (all → c.phase = .counts → c.abortCode = 0 →
          (c.desc.count < sumNat (counts.map (·.2)) → Completes (.counts src m) s (fun t =>
            Recorded uCce 0x53 s t ∧ ∃ x, collAt t c.index = some x ∧ x.abortCode = 0x53)) ∧
          (sumNat (counts.map (·.2)) ≤ c.desc.count → Completes (.counts src m) s (fun t =>
            ∃ q, roundAt t (collKey c 2) = some q ∧ q.own = some (leBytes 4 (min c.ownBytes.length (2 ^ 32 - 1))))))) ∧
      Completes (.slot src m) s (fun t => ∃ u x y, t = runColl c.index (runExact c.index (leAt b 0 4) u) ∧
        collAt u c.index = some x ∧ x.exact.find? (fun z => z.ix = leAt b 0 4) = some y ∧
        y.slot = some (decide (leAt b 4 1 = 1))))

/-- O50. A doorbell or a poll reads the control line of an enabled queue: TAIL is taken, or one more than 2^n beyond
HEAD disables the queue with E_RMA_RING (R343). The next entry, of any operation of R345, is refused with its code
in STATUS and nothing sent (R346); held back by 64 outstanding ones or a FENCE (R347); or started: a LOAD held in
the cache ends at once, any other sends a LOAD or LOAD_LINE (R351); a STORE and an atomic send their request, an
atomic under the next sequence number, which SEQ shows (R342, R355, R358); a copy is cut into its pieces, and one of
a single piece sends it (R353); a WAIT ends once its word is large enough (R354); INVALIDATE empties its lines
(R352); a FENCE holds the queue (R345). -/
def Obligations.RemoteQueues : Prop :=
  ∀ (s : State) (q : Nat) (env : MemEnv), q < 16 → s.rma.length = 16 →
    (∀ v : Word32, Completes (.rmaDoorbell false q v env) s (Refused uFep 0x02 s)) ∧
    (∀ v : Word32, 2 ≤ v.toNat → Completes (.rmaDoorbell true q v env) s (Refused uFep 0x1F s)) ∧
    (qEnabled s q = false → ∀ v : Word32, v.toNat < 2 → Completes (.rmaDoorbell true q v env) s (fun t => t = s)) ∧
    (qEnabled s q = true →
      let e := withEnv env s
      let tail := leNat (memBytes e.mem (qBase e q) 2)
      ∀ i, (i = .rmaDoorbell true q 1 env ∨ (i = .rmaPoll q env ∧ (queueAt s q).read = (queueAt s q).tail ∧
          (queueAt s q).polled + s.field 0xC100C 15 0 ≤ s.tb)) →
        (serialSub 16 tail (queueAt s q).head ≤ 2 ^ qLog2 s q → Completes i s (fun t => ∃ u, t = settleQueue q u ∧
          u = { e with rma := modifyAt (fun x => { x with polled := s.tb, tail := tail }) q s.rma })) ∧
        (2 ^ qLog2 s q < serialSub 16 tail (queueAt s q).head → Completes i s (fun t => ∃ u, t = settleQueue q u ∧
          qEnabled u q = false ∧ Recorded uFep 0x58 s u ∧ (queueAt u q).tail = (queueAt s q).tail))) ∧
    (∀ p ∈ remoteStarts q env [],
      let e := beforeStart p.1 q env s
      let x := queueAt e q
      let c := cmdAt e q x.read
      let ix := x.read
      let next := c.op = p.1 ∧ canStart e q = true ∧
        ∀ k, k < (q + 16 - e.rmaTurn % 16) % 16 → canStart e ((e.rmaTurn + k) % 16) = false
      let taken := fun (o : RmaOut) (u : State) => (queueAt u q).outs.getLast? = some o ∧ (queueAt u q).read = (ix + 1) % 65536
      let o := RmaOut.start ix c 0 s.tb
      let req := fun (rtype seq addr opnd cmp len ctr : Nat) (last : Bool) (data : Bytes) =>
        requestOf s c.target (requestBytes rtype 0 last q seq addr opnd cmp (floorOf x) len ctr data)
      (canStart e q = true → hasNext e q = true ∧ fenceHolds e q = false ∧ x.outs.length < 64) ∧
      (¬ next → Completes p.2 s (fun t => t = settleQueue q e)) ∧
      (next → Completes p.2 s (fun t => t.rmaTurn = (q + 1) % 16)) ∧
      (next → EntryClear e q ix → cmdCode e c ≠ 0 → Completes p.2 s (fun t => ∃ u, t = settleQueue q u ∧
        Ended q ix (2 ^ 31 + 2 ^ 30 + cmdCode e c * 2 ^ 16) 0 e u ∧ u.out = e.out ∧ u.fep = e.fep)) ∧
      (next → cmdCode e c = 0 →
        (p.1 = 0x01 →
          (∀ l, c.cache = true → cacheHit e c.target c.addr = some l → EntryClear e q ix → Completes p.2 s (fun t => ∃ u,
            t = settleQueue q u ∧ Ended q ix (2 ^ 31) (leAt l.data (c.addr % 64) 8) e u ∧ u.fep = e.fep ∧ u.out = e.out)) ∧
          ((c.cache = false ∨ cacheHit e c.target c.addr = none) → Completes p.2 s (fun t => ∃ u,
            t = settleQueue q u ∧ taken o u ∧
            Sent (if c.cache = true ∧ 0 < cacheLines e then req 2 0 (c.addr / 64 * 64) 0 0 0 0 false []
              else req 1 0 c.addr 0 0 0 0 false []) e u))) ∧
        (p.1 = 0x02 → Completes p.2 s (fun t => ∃ u, t = settleQueue q u ∧ taken o u ∧
          Sent (req 3 0 c.addr c.opnd 0 0 0 false []) e u)) ∧
        (0x10 ≤ p.1 → p.1 ≤ 0x19 → serialSub 32 x.seq (floorOf x) < 65536 ∧
          Completes p.2 s (fun t => ∃ u, t = settleQueue q u ∧ taken { o with seq := x.seq } u ∧
            (queueAt u q).seq = (x.seq + 1) % 2 ^ 32 ∧ WordIs 4 (entryAddr e q ix + 0x3C) x.seq u ∧
            Sent (req p.1 x.seq c.addr c.opnd c.cmp 0 0 false []) e u)) ∧
        (p.1 = 0x20 ∨ p.1 = 0x21 → Completes p.2 s (fun t => ∃ u, t = settleQueue q (pumpCopy 300000 q ix env u) ∧
          taken { o with toSend := piecesOf c } u)) ∧
        (p.1 = 0x21 → c.len ≤ 3968 → roomFor e c 0 = true → (∀ o ∈ x.outs, o.index ≠ ix) → Completes p.2 s (fun t => ∃ u,
          t = settleQueue q u ∧ Sent (req 0x21 0 c.addr 0 0 c.len 0 false []) e u)) ∧
        (p.1 = 0x20 → c.len ≤ 3968 → roomFor e c 0 = true → (∀ o ∈ x.outs, o.index ≠ ix) → badLine env c.laddr c.len = false →
          MayAlloc e c.len unreserved [0x11, q, ix, 0] → Completes p.2 s (fun t => ∃ u, t = settleQueue q u ∧
            Sent (req 0x20 0 c.addr c.opnd 0 c.len c.ctr true (memBytes e.mem c.laddr c.len)) e u)) ∧
        (p.1 = 0x30 → badLine env c.laddr 8 = false → c.opnd ≤ leNat (memBytes e.mem c.laddr 8) → EntryClear e q ix →
          Completes p.2 s (fun t => ∃ u, t = settleQueue q u ∧ Ended q ix (2 ^ 31) (leNat (memBytes e.mem c.laddr 8)) e u)) ∧
        (p.1 = 0x30 → (badLine env c.laddr 8 = true ∨ leNat (memBytes e.mem c.laddr 8) < c.opnd) →
          Completes p.2 s (fun t => ∃ u, t = settleQueue q u ∧ taken o u)) ∧
        (p.1 = 0x31 → EntryClear e q ix → Completes p.2 s (fun t => ∃ u, t = settleQueue q u ∧ Ended q ix (2 ^ 31) 0 e u ∧
          (c.len = 0 → u.cache = []) ∧
          (c.len ≠ 0 → u.cache = e.cache.filter (fun l => !decide (l.chip = c.target ∧ l.line * 64 < c.addr + c.len ∧
            c.addr < (l.line + 1) * 64))))) ∧
        (p.1 = 0x32 → Completes p.2 s (fun t => ∃ u, t = settleQueue q u ∧ taken o u ∧ fenceHolds u q = true))))

/-- O51. A reply that answers no outstanding command, a STALE one among them, is discarded and counted, and a BUSY one
leaves the atomic outstanding (R359). Any other ends a LOAD, STORE or atomic with the STATUS and RESULT of R362; a
reply to a piece of a copy lands the piece, and the last one ends the copy with the first failing code (R353, R362).
An atomic without a reply is sent again with the next ATTEMPT and the current floor, and is UNKNOWN after its fourth
timeout; every other command ends with E_RMA_TIMEOUT (R359, R362). A WAIT reads its word again (R354), and a floor
that has moved is sent after 2,000 ticks (R358). -/
def Obligations.RemoteReplies : Prop :=
  ∀ (s : State) (q ix : Nat) (env : MemEnv), q < 16 → s.rma.length = 16 →
    let e := withEnv env s
    let x := queueAt s q
    (∀ (src piece : Nat) (b : Bytes),
      ((∀ o, outAt e q ix = some o → answers src piece b o = false) → Completes (.remoteReply src q ix piece b env) s (fun t =>
        t.field 0xC1414 31 0 = satAdd 32 (s.field 0xC1414 31 0) 1 ∧ Frame [] [.reg 0xC1414] e t)) ∧
      (∀ o, outAt e q ix = some o → answers src piece b o = true →
        let c := o.cmd
        let code := if leAt b 1 1 = 0 then 0 else leAt b 2 1
        (leAt b 1 1 = 5 → Completes (.remoteReply src q ix piece b env) s (fun t => t = e)) ∧
        (leAt b 1 1 ≠ 5 → isCopy c.op = false → EntryClear e q ix → code < 256 → Completes (.remoteReply src q ix piece b env) s (fun t =>
          ∃ u, t = settleQueue q u ∧ Ended q ix
            (2 ^ 31 + (if code = 0 then 0 else 2 ^ 30) + (if 1 < o.sends then 2 ^ 28 else 0) + code * 2 ^ 16)
            (if code ≠ 0 then 0 else if leAt b 0 1 = 2 then leAt b (16 + c.addr % 64) 8 else if c.op = 0x02 then 0
              else leAt b 8 8) e u ∧
            (leAt b 0 1 = 2 → code = 0 → o.noFill = false → 0 < cacheLines e →
              ⟨c.target, c.addr / 64, bytesAt b 16 64⟩ ∈ u.cache))) ∧
        (leAt b 1 1 ≠ 5 → isCopy c.op = true → Completes (.remoteReply src q ix piece b env) s (fun t =>
          ∃ u, t = settleQueue q (pumpCopy 300000 q ix env u) ∧
            outAt u q ix = some { o with waiting := o.waiting.filter (fun p => p.1 ≠ piece)
                                         code := if o.code = 0 then code else o.code } ∧
            u.mem = (if c.op = 0x21 ∧ code = 0 then memPut e.mem (c.laddr + piece) (bytesAt b 16 (min 3968 (c.len - piece)))
              else e.mem))) ∧
        (leAt b 1 1 ≠ 5 → isCopy c.op = true → o.toSend = [] → (∀ p ∈ o.waiting, p.1 = piece) → EntryClear e q ix →
          badLine env c.ctr 8 = false → code < 256 → o.code < 256 →
          let last := if o.code = 0 then code else o.code
          Completes (.remoteReply src q ix piece b env) s (fun t => ∃ u, t = settleQueue q u ∧
            Ended q ix (2 ^ 31 + (if last = 0 then 0 else 2 ^ 30) + last * 2 ^ 16) 0 e u)))) ∧
    (∀ o, outAt s q ix = some o →
      let c := o.cmd
      let due := o.tick + s.field 0xC1004 23 0 ≤ s.tb
      (0x10 ≤ c.op → c.op ≤ 0x19 → due → EntryClear s q ix → Completes (.atomicTimeout q ix) s (fun t =>
        outAt t q ix = some { o with sends := o.sends + 1, tick := s.tb, unknown := o.unknown || decide (o.sends = 4) } ∧
        Sent (requestOf s c.target (requestBytes c.op (min 3 o.sends) false q o.seq c.addr c.opnd c.cmp (floorOf x) 0 0 [])) s t ∧
        t.field 0xC1410 31 0 = satAdd 32 (s.field 0xC1410 31 0) 1 ∧
        (o.sends = 4 → WordIs 4 (entryAddr s q ix + 0x38) (2 ^ 29 + 0x5C * 2 ^ 16) t))) ∧
      (¬ due → Completes (.atomicTimeout q ix) s (fun t => t = s) ∧ Completes (.commandTimeout q ix) s (fun t => t = s)) ∧
      (isAtomic c.op = false → c.op ≠ 0x32 → due → EntryClear s q ix → Completes (.commandTimeout q ix) s (fun t =>
        ∃ u, t = settleQueue q u ∧ Ended q ix
          (2 ^ 31 + 2 ^ 30 + (if c.op = 0x02 ∨ c.op = 0x20 ∨ c.op = 0x21 then 2 ^ 29 else 0) + 0x5B * 2 ^ 16) 0 s u))) ∧
    (∀ o, outAt e q ix = some o → o.cmd.op = 0x30 → o.tick + o.sends * s.field 0xC100C 15 0 ≤ s.tb →
      let w := leNat (memBytes e.mem o.cmd.laddr 8)
      (badLine env o.cmd.laddr 8 = false → o.cmd.opnd ≤ w → EntryClear e q ix → Completes (.waitPoll q ix env) s (fun t =>
        ∃ u, t = settleQueue q u ∧ Ended q ix (2 ^ 31) w e u)) ∧
      (badLine env o.cmd.laddr 8 = true ∨ w < o.cmd.opnd → Completes (.waitPoll q ix env) s (fun t =>
        ∃ u, t = settleQueue q u ∧ outAt u q ix = some { o with sends := o.sends + 1 } ∧ u.mem = e.mem))) ∧
    (∀ (target : Nat) (l f : Nat × Nat), x.lastSent.find? (fun y => y.1 = target) = some l →
      x.floorSent.find? (fun y => y.1 = target) = some f →
      (l.2 + 2000 ≤ s.tb → f.2 ≠ floorOf x → fenced s target = false → Completes (.releaseTimer q target) s (fun t =>
        Sent (requestOf s target (requestBytes 0x22 0 false q 0 0 0 0 (floorOf x) 0 0 [])) s t ∧
        (target, floorOf x) ∈ (queueAt t q).floorSent ∧ (target, s.tb) ∈ (queueAt t q).lastSent)) ∧
      (s.tb < l.2 + 2000 ∨ f.2 = floorOf x ∨ fenced s target = true → Completes (.releaseTimer q target) s (fun t => t = s)))

/-- O52. An atomic request from requester q (chip and queue) with sequence number s and attempt a takes the steps of
R357 in order, while the dedup table has not been lost: a FLOOR ahead of the stored floor is stored and the entries
behind it are freed; s 65,536 or more beyond the floor is answered STALE; a recorded s is answered DUPLICATE with
the entry's code and value; with a free entry the request is checked, performed on the word of memory and recorded
as DONE, DENIED or FAILED; a full table refuses a first sending with E_DEDUP_FULL and answers a reissue BUSY.
Nothing is applied, and no entry made, in the other cases. -/
def Obligations.AtomicRequests : Prop :=
  ∀ (s : State) (src : Nat) (m : Bytes) (env : MemEnv) (errs : Errs), s.dedup.lost = false →
    (∀ x ∈ errs, ∃ r off, x.place = .region r off ∧ r ≠ 3) →
    let e := withEnv env s
    let r := src * 16 + bits (leAt m 2 1) 3 0
    let seq := leAt m 4 4
    let addr := leAt m 8 8
    let ahead := 0 < serialSub 32 (leAt m 0x20 4) (floorAt s r) ∧ serialSub 32 (leAt m 0x20 4) (floorAt s r) < 2 ^ 31
    let f := if ahead then leAt m 0x20 4 else floorAt s r
    let es := if ahead then s.dedup.entries.filter (fun x => !decide (x.requester = r ∧ 2 ^ 31 ≤ serialSub 32 x.seq f))
      else s.dedup.entries
    let held := es.find? (fun x => decide (x.requester = r) && decide (x.seq = seq))
    let answered := fun (outcome code value : Nat) (t : State) => Sent (replyOf s src m outcome code value []) s t ∧ floorAt t r = f
    let inert := fun (outcome code value : Nat) (t : State) => answered outcome code value t ∧ t.mem = e.mem ∧ t.dedup.entries = es
    let room := serialSub 32 seq f < 65536 ∧ held = none ∧ es.length < 65536
    (65536 ≤ serialSub 32 seq f → Completes (.reqAtomic src m env false errs) s (inert 3 0 0)) ∧
    (∀ x, serialSub 32 seq f < 65536 → held = some x → Completes (.reqAtomic src m env false errs) s (inert 1 x.code x.value)) ∧
    (room → InWindow s addr 8 3 → badLine env addr 8 = false →
      let w := leNat (memBytes e.mem addr 8)
      Completes (.reqAtomic src m env false errs) s (fun t => answered 0 0 w t ∧ t.dedup.entries = es ++ [⟨r, seq, 0, 0, w⟩] ∧
        t.mem = memPut e.mem addr (leBytes 8 (atomicWord (leAt m 0 1) w (leAt m 0x10 8) (leAt m 0x18 8))))) ∧
    (room → ¬ InWindow s addr 8 3 → Completes (.reqAtomic src m env false errs) s (fun t => answered 6 0x5A 0 t ∧ t.mem = e.mem ∧
      t.dedup.entries = es ++ [⟨r, seq, 6, 0x5A, 0⟩])) ∧
    (room → InWindow s addr 8 3 → badLine env addr 8 = true → Completes (.reqAtomic src m env false errs) s (fun t =>
      answered 4 0x2E 0 t ∧ t.mem = e.mem ∧ t.dedup.entries = es ++ [⟨r, seq, 4, 0x2E, 0⟩])) ∧
    (serialSub 32 seq f < 65536 → held = none → 65536 ≤ es.length →
      (bits (leAt m 1 1) 1 0 = 0 → Completes (.reqAtomic src m env false errs) s (inert 2 0x5D 0)) ∧
      (bits (leAt m 1 1) 1 0 ≠ 0 → Completes (.reqAtomic src m env false errs) s (inert 5 0 0)))

/-- O53. A request that no enabled window both holds and grants is answered DENIED with E_RMA_ADDR and changes nothing
in memory (R348). A permitted LOAD, LOAD_LINE or READ is answered with what memory holds, or FAILED where it reads
uncorrectable (R349); a permitted STORE or WRITE is written and acknowledged, and a WRITE with LAST and a counter
adds to it (R353). A request that is denied changes nothing else but the floor it carries (R358). When both copies
of an entry or a floor are lost, E_DEDUP_LOST is recorded with a notice, and that atomic and every later one is
answered FAILED (R360). The word an atomic leaves is that of R345. -/
def Obligations.RemoteRequests : Prop :=
  (∀ (s : State) (src : Nat) (m : Bytes) (env : MemEnv),
    let e := withEnv env s
    let addr := leAt m 8 8
    let n := leAt m 0x24 4
    let kept := (takeFloor (src * 16 + bits (leAt m 2 1) 3 0) (leAt m 0x20 4) s).dedup
    let answered := fun (outcome code value : Nat) (data : Bytes) (t : State) =>
      Sent (replyOf s src m outcome code value data) s t ∧ t.dedup = kept ∧
      (outcome = 0 → t.field 0xC1404 31 0 = satAdd 32 (s.field 0xC1404 31 0) 1) ∧
      (outcome = 6 → t.field 0xC1418 31 0 = satAdd 32 (s.field 0xC1418 31 0) 1)
    (∀ p ∈ [(8, 1, Instr.reqLoad src m env), (64, 1, .reqLoadLine src m env), (8, 2, .reqStore src m env),
        (n, 2, .reqWrite src m env), (n, 1, .reqRead src m env)],
      ¬ InWindow s addr p.1 p.2.1 → Completes p.2.2 s (fun t => answered 6 0x5A 0 [] t ∧ t.mem = e.mem)) ∧
    (∀ p ∈ [(8, Instr.reqLoad src m env), (64, .reqLoadLine src m env), (n, .reqRead src m env)],
      InWindow s addr p.1 1 → badLine env addr p.1 = true → Completes p.2 s (fun t => answered 4 0x2E 0 [] t ∧ t.mem = e.mem)) ∧
    (InWindow s addr 8 1 → badLine env addr 8 = false → Completes (.reqLoad src m env) s (fun t =>
      answered 0 0 (leNat (memBytes e.mem addr 8)) [] t ∧ t.mem = e.mem)) ∧
    (InWindow s addr 64 1 → badLine env addr 64 = false → Completes (.reqLoadLine src m env) s (fun t =>
      answered 0 0 0 (memBytes e.mem addr 64) t ∧ t.mem = e.mem)) ∧
    (InWindow s addr n 1 → badLine env addr n = false → Completes (.reqRead src m env) s (fun t =>
      answered 0 0 0 (memBytes e.mem addr n) t ∧ t.mem = e.mem)) ∧
    (InWindow s addr 8 2 → Completes (.reqStore src m env) s (fun t => answered 0 0 0 [] t ∧
      t.mem = memPut e.mem addr (leBytes 8 (leAt m 0x10 8)))) ∧
    (InWindow s addr n 2 →
      let last := bit (leAt m 1 1) 2 = true ∧ leAt m 0x28 8 ≠ 0
      let ctr := leAt m 0x28 8
      let mem := memPut e.mem addr (bytesAt m 0x30 n)
      (¬ last → Completes (.reqWrite src m env) s (fun t => answered 0 0 0 [] t ∧ t.mem = mem)) ∧
      (last → InWindow s ctr 8 3 → badLine env ctr 8 = false → Completes (.reqWrite src m env) s (fun t =>
        answered 0 0 0 [] t ∧ t.mem = memPut mem ctr (leBytes 8 (leNat (memBytes mem ctr 8) + leAt m 0x10 8)))) ∧
      (last → InWindow s ctr 8 3 → badLine env ctr 8 = true → Completes (.reqWrite src m env) s (fun t =>
        answered 4 0x2E 0 [] t ∧ t.mem = mem)) ∧
      (last → ¬ InWindow s ctr 8 3 → Completes (.reqWrite src m env) s (fun t => answered 6 0x5A 0 [] t ∧ t.mem = e.mem))) ∧
    Completes (.reqRelease src m) s (fun t => t.dedup = kept ∧ Frame [.dedup] [] s t) ∧
    (s.dedup.lost = false → Completes (.reqAtomic src m env true []) s (fun t => t.dedup.lost = true ∧ Recorded uFep 0x2F s t ∧
      Sent (replyOf s src m 4 0x2F 0 []) s t ∧ t.dedup.entries = s.dedup.entries)) ∧
    (∀ lost, s.dedup.lost = true → Completes (.reqAtomic src m env lost []) s (fun t => Sent (replyOf s src m 4 0x2F 0 []) s t ∧
      t.mem = e.mem ∧ t.dedup = s.dedup))) ∧
  (∀ w v c : Nat, w < 2 ^ 64 → v < 2 ^ 64 →
    let key := fun (n : Nat) => if n < 2 ^ 63 then (n : Int) else (n : Int) - 2 ^ 64
    atomicWord 0x10 w v c = v ∧ atomicWord 0x11 w v c = (if w = c then v else w) ∧ atomicWord 0x12 w v c = (w + v) % 2 ^ 64 ∧
    (∀ i, (atomicWord 0x13 w v c).testBit i = (w.testBit i && v.testBit i) ∧
      (atomicWord 0x14 w v c).testBit i = (w.testBit i || v.testBit i) ∧
      (atomicWord 0x15 w v c).testBit i = (w.testBit i != v.testBit i)) ∧
    atomicWord 0x16 w v c = max w v ∧ atomicWord 0x17 w v c = min w v ∧
    key (atomicWord 0x18 w v c) = max (key w) (key v) ∧ key (atomicWord 0x19 w v c) = min (key w) (key v))

/-- O54. Where a command of bring-up, clocks, debug, the plat loader, COMMIT, security, the registers and the trace
answers a next state, every part of the state outside the first list of its clause is unchanged, every register
outside the second list keeps its stored word, and memory is unchanged but for what the clause names: the notice
ring where only the ring may be written, the words that other agents have written before the command (withEnv), and
the areas computed from the registers and operands. -/
def Obligations.ControlFrames : Prop :=
  ∀ s t : State,
    ((∃ value, exec (.tbSetLo value) s = .next t) → Frame [.tb] [.reg 0x8] s t) ∧
    (exec .tbLoRead s = .next t → Frame [.out] [.reg 0x414] s t) ∧
    (exec .tbExhausted s = .next t → Frame [.tbRun, .tbExhausted] [.reg 0x8] s t) ∧
    ((∃ slot, exec (.resetRelease slot) s = .next t) → Frame [.boot] [] s t) ∧
    ((∃ image, exec (.fuseReadDone image) s = .next t) → Frame [.mem, .boot, .fuses, .devKey, .sec, .note, .trace,
      .cce, .fep, .ports] (([.port, .reg 0x200008] : List Area) ++ noteAreas) s t) ∧
    ((∃ fails romOk, exec (.selftestDone fails romOk) s = .next t) → Frame [.mem, .boot, .note, .trace, .pools,
      .cce, .fep, .ports] (([.port] : List Area) ++ noteAreas) s t) ∧
    (exec .sfuTableCopyDone s = .next t → Frame [.boot, .sfuCopying] [] s t) ∧
    ((∃ value, exec (.sfuTableSel value) s = .next t) → Frame [.sfuVersion, .sfuCopying] [.reg 0x31008] s t) ∧
    (exec .rclkLock s = .next t → Frame [.boot, .clk, .tb, .tbRun] [] s t) ∧
    (exec .timebaseTimeout s = .next t → Frame [.mem, .boot, .note, .trace, .cce, .fep, .ports] (([.port] : List
      Area) ++ noteAreas) s t) ∧
    (exec .holdover s = .next t → Frame [.mem, .boot, .clk, .tb, .tbRun, .note, .trace, .cce, .fep, .ports]
      (([.port] : List Area) ++ noteAreas) s t) ∧
    (((∃ sclk step, exec (.throttleRequest sclk step) s = .next t) ∨ (∃ sclk, exec (.emergencyThrottle sclk) s =
      .next t)) → Frame [.out, .clk, .run] [.reg 0x428] s t) ∧
    ((∃ priv, exec (.links priv) s = .next t) → Frame [.boot, .trace, .ports] [.reg 0x8] s t) ∧
    ((∃ priv, exec (.calibrate priv) s = .next t) → Frame [.out, .freshCount, .boot, .mgmtNext, .fep] [.reg 0x8] s
      t) ∧
    ((∃ src msg, exec (.time src msg) s = .next t) → Frame [.out, .freshCount, .fep] [] s t) ∧
    ((∃ src msg, exec (.timeAnswer src msg) s = .next t) → Frame [.out, .freshCount, .boot, .mgmtNext, .fep] [] s t) ∧
    ((∃ result, exec (.calibrationDone result) s = .next t) → Frame [.mem, .boot, .tb, .note, .trace, .cce, .fep,
      .ports] (([.port, .reg 0x424] : List Area) ++ noteAreas) s t) ∧
    (((∃ cells, exec (.extest cells) s = .next t) ∨ exec .tapReset s = .next t) → Frame [.tap] [] s t) ∧
    ((exec .idcode s = .next t ∨ (∃ cells, exec (.samplePreload cells) s = .next t) ∨ (∃ opcode, exec (.bypass
      opcode) s = .next t) ∨ exec .dbgHalt s = .next t) → Frame [.out, .tap] [] s t) ∧
    (exec .dbgChal s = .next t → Frame [.freshCount, .tap, .sec] [] s t) ∧
    ((∃ token, exec (.dbgUnlock token) s = .next t) → Frame [.tap, .sec] [.reg 0x200008] s t) ∧
    ((∃ priv, exec (.load priv) s = .next t) → Frame [.mem, .ldr, .note] (([.reg 0x10008] : List Area) ++ noteAreas)
      s t) ∧
    (((∃ priv, exec (.abandon priv) s = .next t) ∨ (∃ priv, exec (.activate priv) s = .next t) ∨ (∃ priv, exec
      (.disarm priv) s = .next t)) → Frame [.ldr] [.reg 0x10008] s t) ∧
    (∀ (env : MemEnv), exec (.platLoadDone env) s = .next t → Frame [.mem, .ldr, .sec, .note, .sfuLocked] (([.reg
      0x10008, .reg 0x200074] : List Area) ++ noteAreas) (withEnv env s) t) ∧
    (∀ (priv : Bool) (value : Word32), exec (.commit priv value) s = .next t → Frame [.commits, .trace, .fep]
      (([.reg (uSde + 8)] : List Area) ++ ([1, 4].flatMap setRegs).map (fun a => .reg (a + 0x8000))) s t) ∧
    (∀ (priv : Bool) (addr : Nat) (errs : Errs), exec (.readClear priv addr errs) s = .next t → Frame (([.mem,
      .beyond, .rlog, .mgmtNext, .note, .cadRefetch] : List Part) ++ abortParts) (([.reg addr, .reg 0x414, .reg
      0x300024, .reg 0x8, .reg 0x20008, .reg 0x20080, .reg 0x20084, .reg 0x20088, .reg 0x30030, .reg 0x31038, .reg
      0xA0008, .station] : List Area) ++ noteAreas ++ abortAreas) s t ∧ MemSameOff (fun _ => False) s t) ∧
    ((∃ addr uncorr, exec (.traceWindowRead addr uncorr) s = .next t) → Frame [.out] [.reg 0x20080, .reg 0x20084,
      .reg 0x20088, .reg 0x300024] s t) ∧
    ((∃ priv addr width value, exec (.registerWrite priv addr width value) s = .next t) → Frame (([.mem, .beyond,
      .freshCount, .boot, .tb, .ldr, .commits, .sec, .dat, .stepNum, .rlog, .fences, .fenceSelf, .unfences, .probes,
      .mgmtNext, .note, .sfuVersion, .sfuCopying, .cad, .lst, .quarPending, .quarUndelivered, .quarActing,
      .cadRefetch, .rma, .dedup, .ports] : List Part) ++ abortParts) [.all] s t) ∧
    (∀ (addr : Nat), exec (.dbgReg addr) s = .next t → Frame [.out, .tap] [.reg addr, .reg 0x414] s t) ∧
    ((∃ addr, exec (.dbgSram addr) s = .next t) → Frame [.out, .freshCount, .tap] [] s t) ∧
    ((∃ errs, exec (.traceWrite errs) s = .next t) → Frame (([.mem, .freshCount, .rlog, .mgmtNext, .note,
      .cadRefetch] : List Part) ++ abortParts) (([.reg 0x8, .reg 0x20008, .reg 0x20080, .reg 0x20084, .reg 0x20088,
      .reg 0x30030, .reg 0x31038, .reg 0xA0008, .reg 0x30002C, .reg 0x300030, .station] : List Area) ++ noteAreas ++
      abortAreas) s t) ∧
    (exec .drbgReseed s = .next t → Frame [.sec] [] s t) ∧
    (exec .entropyFail s = .next t → Frame [.mem, .sec, .note] (([.reg 0x200008] : List Area) ++ noteAreas) s t) ∧
    (((∃ priv, exec (.certLoad priv) s = .next t) ∨ (∃ priv, exec (.klLoad priv) s = .next t) ∨ (∃ priv, exec
      (.tokenLoad priv) s = .next t)) → Frame [.sec] [.reg 0x200008] s t) ∧
    (∀ (env : MemEnv), (exec (.certCheckDone env) s = .next t ∨ exec (.keylistCheckDone env) s = .next t ∨ exec
      (.tokenCheckDone env) s = .next t) → Frame [.mem, .sec, .note] (([.reg 0x200008, .reg 0x200074] : List Area) ++
      noteAreas) (withEnv env s) t) ∧
    ((∃ priv, exec (.chalNew priv) s = .next t) → Frame [.freshCount, .sec] [.reg 0x200008] s t)

/-- O55. Where a command of the cadastre, the pool, management, the datum, the step and the replay log answers a next
state, every part of the state outside the first list of its clause is unchanged, every register outside the second
list keeps its stored word, and memory is unchanged but for what the clause names: the notice ring where only the
ring may be written, the words that other agents have written before the command (withEnv), and the areas computed
from the registers and operands. -/
def Obligations.DatumFrames : Prop :=
  ∀ s t : State,
    (((∃ priv, exec (.stage priv) s = .next t) ∨ (∃ priv, exec (.arm priv) s = .next t) ∨ (∃ priv, exec (.listDisarm
      priv) s = .next t)) → Frame [.lst] [.reg 0x60008] s t) ∧
    (∀ (env : MemEnv), exec (.listCheckDone env) s = .next t → Frame [.mem, .note, .lst] (([.reg 0x60008] : List
      Area) ++ noteAreas) (withEnv env s) t) ∧
    ((∃ priv, exec (.go priv) s = .next t) → Frame [.dat] [.reg 0x8] s t) ∧
    (∀ (env : MemEnv), exec (.datumBegin env) s = .next t → Frame [.out, .mem, .beyond, .commits, .latched, .dat,
      .fences, .unfences, .note, .trace, .cad, .lst, .quarPending, .rounds, .rma, .cache, .fep] (s.commits.values.map
      (fun v => .reg (v.1 + 0x8000)) ++ ([.reg 0x41020, .reg 0x41024, .reg 0x30034, .reg (uPlat + 8)] : List Area) ++
      noteAreas) (withEnv env s) t ∧ MemSameOff (fun _ => False) (withEnv env s) t) ∧
    (∀ (env : MemEnv), exec (.cadastreCheckDone env) s = .next t → Frame [.out, .mem, .dat, .note, .trace, .rounds,
      .rma, .cache, .fep] (([.reg 0x10008, .reg 0x300000, .reg 0x308000] : List Area) ++ noteAreas) (withEnv env s) t) ∧
    (exec .datumTimeout s = .next t → Frame [.mem, .dat, .note, .rounds] (([.reg 0x8] : List Area) ++ noteAreas) s
      t) ∧
    (∀ (lanes : Bytes), exec (.agreementResult lanes) s = .next t → Frame [.out, .mem, .beyond, .boot, .ldr, .dat,
      .note, .trace, .lst, .demand, .quarPending, .rounds, .rma, .cache, .fep] [.all] s t ∧ ((∀ p i, armedPlat s =
      some p → p.init = some i → i.mask < 32) → MemSameOff (proposalWords s (homedExperts t).length) s t)) ∧
    (exec .poolsBuild s = .next t → Frame [.out, .mem, .beyond, .dat, .note, .demand, .pools, .rounds, .fep] (([.reg
      0x60028] : List Area) ++ noteAreas) s t ∧ MemSameOff (proposalWords s (homedExperts t).length) s t) ∧
    (∀ (env : MemEnv), exec (.cadastreReloadDone env) s = .next t → Frame (([.mem, .beyond, .dat, .fences,
      .fenceSelf, .note, .cad, .demand, .quarUndelivered] : List Part) ++ abortParts) (([.reg 0x10008, .reg 0x20008,
      .reg 0x60028, .reg 0x80038] : List Area) ++ noteAreas ++ abortAreas) (withEnv env s) t ∧ MemSameOff
      (proposalWords s (homedExperts t).length) (withEnv env s) t) ∧
    (∀ (latest : Nat) (refused : Nat), exec (.startRoundResult latest refused) s = .next t → Frame (([.mem, .beyond,
      .boot, .latched, .dat, .stepNum, .prevT, .rlog, .note, .cad, .lst, .demand, .quarActing, .quarSeen] : List Part)
      ++ abortParts) (([.reg 0x8, .reg 0x20008, .reg 0x60028, .reg 0x60098] : List Area) ++ noteAreas ++ abortAreas) s
      t ∧ MemSameOff (proposalWords s (homedExperts t).length) s t) ∧
    (exec .stepStart s = .next t → Frame (([.boot, .latched, .dat, .stepNum, .prevT, .rlog, .demand, .quarActing,
      .quarSeen] : List Part) ++ abortParts) (([.reg 0x8, .reg 0x20008] : List Area) ++ abortAreas) s t) ∧
    (∀ (env : MemEnv), exec (.listSwitchReadDone env) s = .next t → Frame [.out, .dat, .rounds, .fep] [.reg 0x60008]
      (withEnv env s) t) ∧
    (exec .verdictContribute s = .next t → Frame [.out, .run, .rounds, .fep] [] s t) ∧
    ((exec .stepTimeout s = .next t ∨ (∃ src msg, exec (.abort src msg) s = .next t)) → Frame abortParts abortAreas
      s t) ∧
    ((∃ priv, exec (.checkpoint priv) s = .next t) → Frame [.rlog] [.reg 0x8, .reg 0x274] s t) ∧
    (∀ (errs : Errs), exec (.checkpointSigned errs) s = .next t → Frame (([.mem, .beyond, .rlog, .mgmtNext, .note,
      .cadRefetch] : List Part) ++ abortParts) (([.reg 0x8, .reg 0x20008, .reg 0x20080, .reg 0x20084, .reg 0x20088,
      .reg 0x30030, .reg 0x31038, .reg 0xA0008, .reg 0x200070, .station] : List Area) ++ noteAreas ++ abortAreas) s t
      ∧ MemSameOff (checkpointWords s) s t) ∧
    ((∃ priv n value, exec (.rlogStart priv n value) s = .next t) → Frame [.mem, .rlog, .note] (([.reg 0x8] : List
      Area) ++ noteAreas) s t) ∧
    ((∃ value, exec (.stepLo value) s = .next t) → Frame [.stepNum] [.reg 0x8] s t) ∧
    ((∃ code errs, exec (.verdict code errs) s = .next t) → Frame (([.mem, .beyond, .freshCount, .verdict, .rlog,
      .mgmtNext, .note, .cadRefetch] : List Part) ++ abortParts) (([.reg 0x8, .reg 0x24C, .reg 0x274, .reg 0x20008,
      .reg 0x20080, .reg 0x20084, .reg 0x20088, .reg 0x30030, .reg 0x31038, .reg 0xA0008, .reg 0xA0040, .reg 0xA0044,
      .station] : List Area) ++ noteAreas ++ abortAreas) s t) ∧
    (((∃ priv chip, exec (.fence priv chip) s = .next t) ∨ (∃ src msg, exec (.fenceNotice src msg) s = .next t)) →
      Frame (([.mem, .beyond, .dat, .fences, .fenceSelf, .probes, .mgmtNext, .note, .quarUndelivered, .cadRefetch,
      .rma, .dedup, .ports] : List Part) ++ abortParts) (([.queue, .reg 0x8, .reg 0x20008, .reg 0x41008, .reg 0x6008C,
      .reg 0x80038, .reg 0x80044, .reg 0x80048, .reg 0xA0008, .reg 0xC0008, .reg 0xC1424] : List Area) ++ noteAreas ++
      abortAreas) s t) ∧
    ((∃ priv chip, exec (.unfence priv chip) s = .next t) → Frame [.unfences] [.reg 0x8] s t) ∧
    (exec .isolation s = .next t → Frame (([.mem, .dat, .fences, .fenceSelf, .note, .quarUndelivered] : List Part)
      ++ abortParts) (([.reg 0x8, .reg 0x20008, .reg 0x80038] : List Area) ++ noteAreas ++ abortAreas) s t) ∧
    ((∃ peer, exec (.peerWaitTimeout peer) s = .next t) → Frame [.out, .probes, .mgmtNext, .fep, .ports] [] s t) ∧
    ((∃ src msg, exec (.probe src msg) s = .next t) → Frame [.out, .fep] [] s t) ∧
    ((∃ src msg, exec (.probeAnswer src msg) s = .next t) → Frame [.probes, .fep] [] s t) ∧
    ((∃ peer, exec (.probeTimeout peer) s = .next t) → Frame (([.mem, .beyond, .fences, .probes, .mgmtNext, .note,
      .quarUndelivered, .cadRefetch, .rma, .dedup, .ports] : List Part) ++ abortParts) (([.queue, .reg 0x8, .reg
      0x310, .reg 0x20008, .reg 0x41008, .reg 0x6008C, .reg 0x80038, .reg 0x80044, .reg 0x80048, .reg 0xA0008, .reg
      0xC0008, .reg 0xC1424] : List Area) ++ noteAreas ++ abortAreas) s t) ∧
    ((∃ src msg errs, exec (.mgmtRead src msg errs) s = .next t) → Frame (([.mem, .rlog, .mgmtNext, .note,
      .cadRefetch] : List Part) ++ abortParts) (([.reg 0x8, .reg 0x20008, .reg 0x20080, .reg 0x20084, .reg 0x20088,
      .reg 0x30030, .reg 0x31038, .reg 0xA0008, .station] : List Area) ++ noteAreas ++ abortAreas) s t) ∧
    ((∃ src msg, exec (.mgmtReadAnswer src msg) s = .next t) → Frame [.out, .mgmtNext, .cad, .cadRefetch, .fep]
      [.reg 0x60088] s t) ∧
    (exec .cadRefetchTimeout s = .next t → Frame (([.cadRefetch] : List Part) ++ abortParts) (([.reg 0x60008] : List
      Area) ++ abortAreas) s t) ∧
    ((∃ value, exec (.noteRd value) s = .next t) → Frame [.mem, .note] [.reg 0x8, .reg 0x32C, .reg 0x330, .reg
      0x338] s t) ∧
    (∀ (value : Word32), exec (.noteSize value) s = .next t → Frame [.mem, .note] [.reg 0x8, .reg 0x328, .reg 0x32C,
      .reg 0x330, .reg 0x338] s t ∧ MemSameOff (inRing t) s t) ∧
    (exec .lowRearm s = .next t → Frame [.pools] [] s t)

/-- O56. Where a command of INGEST, NORM, SCORE, GATE, SELECT, TALLY, SORT, the groups and the combiner answers a next
state, every part of the state outside the first list of its clause is unchanged, every register outside the second
list keeps its stored word, and memory is unchanged but for what the clause names: the notice ring where only the
ring may be written, the words that other agents have written before the command (withEnv), and the areas computed
from the registers and operands. -/
def Obligations.StationFrames : Prop :=
  ∀ s t : State,
    (((∃ src msg errs, exec (.output src msg errs) s = .next t) ∨ (∃ src msg errs, exec (.recall src msg errs) s =
      .next t) ∨ (∃ src msg errs, exec (.refuse src msg errs) s = .next t)) → Frame (([.mem, .rlog, .mgmtNext, .note,
      .quarUndelivered, .cadRefetch] : List Part) ++ abortParts) (([.reg 0x8, .reg 0x20008, .reg 0x20080, .reg
      0x20084, .reg 0x20088, .reg 0x30030, .reg 0x31038, .reg 0x60094, .reg 0x80028, .reg 0x8002C, .reg 0x80030, .reg
      0x80034, .reg 0x80038, .reg 0x8003C, .reg 0x80040, .reg 0xA0008, .reg 0xC0008, .reg 0xC003C, .station] : List
      Area) ++ noteAreas ++ abortAreas) s t) ∧
    ((∃ port tile errs, exec (.collectTile port tile errs) s = .next t) → Frame (([.mem, .rlog, .mgmtNext, .note,
      .quarUndelivered, .cadRefetch] : List Part) ++ abortParts) (([.reg 0x8, .reg 0x20008, .reg 0x20080, .reg
      0x20084, .reg 0x20088, .reg 0x30030, .reg 0x31038, .reg 0x6008C, .reg 0x60094, .reg 0x80028, .reg 0x8002C, .reg
      0x80030, .reg 0x80034, .reg 0x80038, .reg 0x8003C, .reg 0x80040, .reg 0x8004C, .reg 0xA0008, .station] : List
      Area) ++ noteAreas ++ abortAreas) s t) ∧
    ((∃ pool errs, exec (.allocGrant pool errs) s = .next t) → Frame (([.mem, .rlog, .mgmtNext, .note,
      .quarUndelivered, .cadRefetch] : List Part) ++ abortParts) (([.reg 0x8, .reg 0x20008, .reg 0x20080, .reg
      0x20084, .reg 0x20088, .reg 0x30030, .reg 0x31038, .reg 0x6008C, .reg 0x60094, .reg 0x80028, .reg 0x8002C, .reg
      0x80030, .reg 0x80034, .reg 0x80038, .reg 0x8003C, .reg 0x80040, .reg 0x80044, .reg 0x80048, .reg 0x8004C, .reg
      0xA0008, .station] : List Area) ++ noteAreas ++ abortAreas) s t) ∧
    ((∃ layer half slot errs, exec (.combineRow layer half slot errs) s = .next t) → Frame (([.mem, .rlog,
      .mgmtNext, .note, .cadRefetch] : List Part) ++ abortParts) (([.reg 0x8, .reg 0x20008, .reg 0x20080, .reg
      0x20084, .reg 0x20088, .reg 0x30030, .reg 0x31038, .reg 0x81010, .reg 0x81014, .reg 0x81018, .reg 0x8101C, .reg
      0x81020, .reg 0x81024, .reg 0xA0008, .station] : List Area) ++ noteAreas ++ abortAreas) s t) ∧
    ((∃ layer half errs, exec (.emitTile layer half errs) s = .next t) → Frame (([.mem, .rlog, .mgmtNext, .note,
      .cadRefetch] : List Part) ++ abortParts) (([.reg 0x8, .reg 0x20008, .reg 0x20080, .reg 0x20084, .reg 0x20088,
      .reg 0x30030, .reg 0x31038, .reg 0x80044, .reg 0xA0008, .station] : List Area) ++ noteAreas ++ abortAreas) s t) ∧
    ((∃ layer half errs, exec (.sendGroup layer half errs) s = .next t) → Frame (([.mem, .rlog, .mgmtNext, .note,
      .cadRefetch] : List Part) ++ abortParts) (([.reg 0x8, .reg 0x20008, .reg 0x20080, .reg 0x20084, .reg 0x20088,
      .reg 0x30030, .reg 0x31038, .reg 0x60090, .reg 0x80038, .reg 0xA0008, .station] : List Area) ++ noteAreas ++
      abortAreas) s t) ∧
    ((∃ src port step msg errs, exec (.groupReceive src port step msg errs) s = .next t) → Frame (([.mem, .rlog,
      .mgmtNext, .note, .quarUndelivered, .cadRefetch] : List Part) ++ abortParts) (([.reg 0x8, .reg 0x20008, .reg
      0x20080, .reg 0x20084, .reg 0x20088, .reg 0x30030, .reg 0x31038, .reg 0x6008C, .reg 0x80038, .reg 0x80044, .reg
      0x80048, .reg 0xA0008, .reg 0xC0008, .reg 0xC003C, .station] : List Area) ++ noteAreas ++ abortAreas) s t) ∧
    ((∃ src msg errs, exec (.replicaNotice src msg errs) s = .next t) → Frame (([.mem, .rlog, .mgmtNext, .note,
      .cadRefetch] : List Part) ++ abortParts) (([.reg 0x8, .reg 0x20008, .reg 0x20080, .reg 0x20084, .reg 0x20088,
      .reg 0x30030, .reg 0x31038, .reg 0x41008, .reg 0x6008C, .reg 0x80038, .reg 0x80044, .reg 0x80048, .reg 0xA0008,
      .station] : List Area) ++ noteAreas ++ abortAreas) s t) ∧
    (((∃ port errs, exec (.feedWaitTimeout port errs) s = .next t) ∨ (∃ port errs, exec (.tokenStreamPortCredit port
      errs) s = .next t)) → Frame (([.mem, .rlog, .mgmtNext, .note, .cadRefetch] : List Part) ++ abortParts) (([.reg
      0x8, .reg 0x20008, .reg 0x20080, .reg 0x20084, .reg 0x20088, .reg 0x30030, .reg 0x31038, .reg 0x6008C, .reg
      0x80038, .reg 0x80044, .reg 0x80048, .reg 0xA0008, .station] : List Area) ++ noteAreas ++ abortAreas) s t) ∧
    ((∃ value, exec (.cadQuarantine value) s = .next t) → Frame (([.mem, .note, .cad, .lst, .quarPending,
      .quarUndelivered, .quarActing] : List Part) ++ abortParts) (([.reg 0x8, .reg 0x20008, .reg 0x60008, .reg
      0x6008C, .reg 0x80038, .reg 0x80044, .reg 0x80048] : List Area) ++ noteAreas ++ abortAreas) s t) ∧
    ((∃ src msg, exec (.quarantineNotice src msg) s = .next t) → Frame [.mem, .note, .cad, .lst, .quarPending,
      .quarSeen] noteAreas s t) ∧
    (exec .genRaiseDue s = .next t → Frame [.gen, .raiseDue] [] s t) ∧
    (exec .cancel s = .next t → Frame abortParts abortAreas s t) ∧
    (exec .freeOrphans s = .next t → Frame abortParts (([.reg 0x20008] : List Area) ++ abortAreas) s t) ∧
    (((∃ port tile errs, exec (.tokenTileArrive port tile errs) s = .next t) ∨ (∃ layer errs, exec (.bucketMapBuild
      layer errs) s = .next t) ∨ (∃ blk errs, exec (.tallyCount blk errs) s = .next t)) → Frame (([.mem, .rlog,
      .mgmtNext, .note, .cadRefetch] : List Part) ++ abortParts) (([.reg 0x8, .reg 0x20008, .reg 0x20080, .reg
      0x20084, .reg 0x20088, .reg 0x30030, .reg 0x31038, .reg 0xA0008, .station] : List Area) ++ noteAreas ++
      abortAreas) s t) ∧
    (∀ (blk : BlockId) (env : MemEnv) (errs : Errs), exec (.normTile blk env errs) s = .next t → Frame (([.mem,
      .beyond, .rlog, .mgmtNext, .note, .cadRefetch] : List Part) ++ abortParts) (([.reg 0x8, .reg 0x20008, .reg
      0x20080, .reg 0x20084, .reg 0x20088, .reg 0x30030, .reg 0x31008, .reg 0x3102C, .reg 0x31030, .reg 0x31034, .reg
      0x31038, .reg 0x60008, .reg 0xA0008, .station] : List Area) ++ noteAreas ++ abortAreas) s t ∧ MemSameOff (fun _
      => False) (withEnv env s) t) ∧
    (∀ (blk : BlockId) (array : Nat) (col : Nat) (env : MemEnv) (errs : Errs), exec (.anchorPrepassDone blk array
      col env errs) s = .next t → Frame (([.mem, .beyond, .rlog, .mgmtNext, .note, .cadRefetch] : List Part) ++
      abortParts) (([.reg 0x8, .reg 0x20008, .reg 0x20080, .reg 0x20084, .reg 0x20088, .reg 0x30030, .reg 0x30034,
      .reg 0x31038, .reg 0x60008, .reg 0xA0008, .station] : List Area) ++ noteAreas ++ abortAreas) s t ∧ MemSameOff
      (fun _ => False) (withEnv env s) t) ∧
    (∀ (blk : BlockId) (array : Nat) (col : Nat) (env : MemEnv) (errs : Errs), exec (.scorePairDone blk array col
      env errs) s = .next t → Frame (([.mem, .beyond, .rlog, .mgmtNext, .note, .cadRefetch] : List Part) ++
      abortParts) (([.reg 0x8, .reg 0x20008, .reg 0x20080, .reg 0x20084, .reg 0x20088, .reg 0x30000, .reg 0x30010,
      .reg 0x30014, .reg 0x30020, .reg 0x30024, .reg 0x30028, .reg 0x3002C, .reg 0x30030, .reg 0x31038, .reg 0x60008,
      .reg 0xA0008, .station] : List Area) ++ noteAreas ++ abortAreas) s t ∧ MemSameOff (fun _ => False) (withEnv env
      s) t) ∧
    (∀ (addr : Nat) (env : MemEnv), exec (.tierLineUncorr addr env) s = .next t → Frame abortParts (([.reg 0x60008,
      .reg 0x6004C, .reg 0x60050, .reg 0x60080, .reg 0x60084] : List Area) ++ abortAreas) (withEnv env s) t) ∧
    ((∃ blk errs, exec (.gateRowBlock blk errs) s = .next t) → Frame (([.mem, .rlog, .mgmtNext, .note, .cadRefetch]
      : List Part) ++ abortParts) (([.reg 0x8, .reg 0x20008, .reg 0x20080, .reg 0x20084, .reg 0x20088, .reg 0x30030,
      .reg 0x31020, .reg 0x31024, .reg 0x31028, .reg 0x31038, .reg 0xA0008, .station] : List Area) ++ noteAreas ++
      abortAreas) s t) ∧
    ((∃ blk errs, exec (.selectRowBlock blk errs) s = .next t) → Frame (([.mem, .rlog, .mgmtNext, .note,
      .cadRefetch] : List Part) ++ abortParts) (([.reg 0x8, .reg 0x20008, .reg 0x20080, .reg 0x20084, .reg 0x20088,
      .reg 0x30030, .reg 0x31038, .reg 0x40000, .reg 0x40010, .reg 0x40014, .reg 0x40018, .reg 0x4001C, .reg 0xA0008,
      .station] : List Area) ++ noteAreas ++ abortAreas) s t) ∧
    ((∃ layer half errs, exec (.sortStart layer half errs) s = .next t) → Frame (([.mem, .rlog, .mgmtNext, .note,
      .cadRefetch] : List Part) ++ abortParts) (([.reg 0x8, .reg 0x20008, .reg 0x20080, .reg 0x20084, .reg 0x20088,
      .reg 0x30030, .reg 0x31038, .reg 0x50000, .reg 0xA0008, .station] : List Area) ++ noteAreas ++ abortAreas) s t) ∧
    ((∃ layer half errs, exec (.sortPhaseEnd layer half errs) s = .next t) → Frame (([.mem, .rlog, .mgmtNext, .note,
      .cadRefetch] : List Part) ++ abortParts) (([.reg 0x8, .reg 0x20008, .reg 0x20080, .reg 0x20084, .reg 0x20088,
      .reg 0x30030, .reg 0x31038, .reg 0x50010, .reg 0xA0008, .station] : List Area) ++ noteAreas ++ abortAreas) s t) ∧
    ((∃ layer half errs, exec (.groupWrite layer half errs) s = .next t) → Frame (([.mem, .rlog, .mgmtNext, .note,
      .cadRefetch] : List Part) ++ abortParts) (([.reg 0x8, .reg 0x20008, .reg 0x20080, .reg 0x20084, .reg 0x20088,
      .reg 0x30030, .reg 0x31038, .reg 0x50014, .reg 0x50018, .reg 0x5001C, .reg 0x50020, .reg 0xA0008, .station] :
      List Area) ++ noteAreas ++ abortAreas) s t) ∧
    ((∃ layer half errs, exec (.tallyScanEnd layer half errs) s = .next t) → Frame (([.mem, .rlog, .mgmtNext, .note,
      .quarUndelivered, .cadRefetch] : List Part) ++ abortParts) (([.reg 0x8, .reg 0x20008, .reg 0x20080, .reg
      0x20084, .reg 0x20088, .reg 0x30030, .reg 0x31038, .reg 0xA0008, .station] : List Area) ++ noteAreas ++
      abortAreas) s t) ∧
    ((∃ layer half errs, exec (.tallyCloseContribute layer half errs) s = .next t) → Frame (([.mem, .rlog,
      .mgmtNext, .note, .cadRefetch] : List Part) ++ abortParts) (([.reg 0x8, .reg 0x20008, .reg 0x20080, .reg
      0x20084, .reg 0x20088, .reg 0x30030, .reg 0x31038, .reg 0x41008, .reg 0xA0008, .station] : List Area) ++
      noteAreas ++ abortAreas) s t) ∧
    ((∃ src msg errs, exec (.tallyReport src msg errs) s = .next t) → Frame (([.mem, .latched, .rlog, .mgmtNext,
      .note, .quarUndelivered, .cadRefetch] : List Part) ++ abortParts) (([.reg 0x8, .reg 0x20008, .reg 0x20080, .reg
      0x20084, .reg 0x20088, .reg 0x30030, .reg 0x31038, .reg 0x41008, .reg 0xA0008, .station] : List Area) ++
      noteAreas ++ abortAreas) s t) ∧
    ((∃ layer half errs, exec (.tallyClose layer half errs) s = .next t) → Frame (([.mem, .rlog, .mgmtNext, .note,
      .demand, .quarUndelivered, .cadRefetch] : List Part) ++ abortParts) (([.reg 0x8, .reg 0x20008, .reg 0x20080,
      .reg 0x20084, .reg 0x20088, .reg 0x30030, .reg 0x31038, .reg 0x41010, .reg 0x41014, .reg 0x41018, .reg 0xA0008,
      .station] : List Area) ++ noteAreas ++ abortAreas) s t) ∧
    ((∃ src msg errs, exec (.tallyGrant src msg errs) s = .next t) → Frame (([.mem, .rlog, .mgmtNext, .note,
      .cadRefetch] : List Part) ++ abortParts) (([.reg 0x8, .reg 0x20008, .reg 0x20080, .reg 0x20084, .reg 0x20088,
      .reg 0x30030, .reg 0x31038, .reg 0x41008, .reg 0x41010, .reg 0x41014, .reg 0x41018, .reg 0xA0008, .station] :
      List Area) ++ noteAreas ++ abortAreas) s t) ∧
    ((∃ layer half value, exec (.tripAgreement layer half value) s = .next t) → Frame (([.latched] : List Part) ++
      abortParts) (([.reg 0x20008, .reg 0x41018] : List Area) ++ abortAreas) s t) ∧
    (exec .tallyTimeout s = .next t → Frame abortParts (([.reg 0x41008] : List Area) ++ abortAreas) s t)

/-- O57. Where a command of ports, links, packets and flows answers a next state, every part of the state outside the
first list of its clause is unchanged, every register outside the second list keeps its stored word, and memory is
unchanged but for what the clause names: the notice ring where only the ring may be written, the words that other
agents have written before the command (withEnv), and the areas computed from the registers and operands. -/
def Obligations.LinkFrames : Prop :=
  ∀ s t : State,
    ((∃ port, exec (.signalPresent port) s = .next t) → Frame [.trace, .ports] [] s t) ∧
    (((∃ port, exec (.lossOfSignal port) s = .next t) ∨ (∃ port on, exec (.disable port on) s = .next t) ∨ (∃ port,
      exec (.retrain port) s = .next t) ∨ (∃ port, exec (.trainTimeout port) s = .next t) ∨ (∃ port, exec
      (.keyingTimeout port) s = .next t) ∨ (∃ port, exec (.rekeyTimeout port) s = .next t)) → Frame [.mem, .note,
      .trace, .cce, .fep, .ports] (([.port] : List Area) ++ noteAreas) s t) ∧
    (((∃ port on, exec (.loopback port on) s = .next t) ∨ (∃ port, exec (.keyingEnter port) s = .next t) ∨ (∃ port,
      exec (.rekeyStart port) s = .next t)) → Frame [.mem, .freshCount, .sec, .note, .trace, .cce, .fep, .ports]
      (([.port] : List Area) ++ noteAreas) s t) ∧
    ((∃ port lanes delay, exec (.lanesTrained port lanes delay) s = .next t) → Frame [.freshCount, .sec, .ports]
      [.port] s t) ∧
    ((∃ port msg, exec (.hello port msg) s = .next t) → Frame [.mem, .freshCount, .sec, .note, .trace, .cce, .fep,
      .ports] (([.port, .reg 0x200074] : List Area) ++ noteAreas) s t) ∧
    ((∃ port, exec (.linkSignatureDone port) s = .next t) → Frame [.ports] [.reg 0x200070] s t) ∧
    ((∃ port msg advert, exec (.finish port msg advert) s = .next t) → Frame [.mem, .sec, .note, .trace, .cce, .fep,
      .ports] (([.port, .reg 0x200074] : List Area) ++ noteAreas) s t) ∧
    ((∃ port, exec (.rekeyIdleOnly port) s = .next t) → Frame [.ports] [] s t) ∧
    ((∃ port frame corrected, exec (.frameReceive port frame corrected) s = .next t) → Frame [.out, .mem, .run,
      .note, .trace, .cce, .fep, .ports] (([.port] : List Area) ++ noteAreas) s t) ∧
    ((∃ port, exec (.replayTimeout port) s = .next t) → Frame [.mem, .run, .note, .trace, .cce, .fep, .ports]
      (([.port] : List Area) ++ noteAreas) s t) ∧
    (exec .throttleStepFall s = .next t → Frame [.trace, .fep] [] s t) ∧
    ((∃ port, exec (.frameSend port) s = .next t) → Frame [.out, .mem, .run, .note, .trace, .cce, .fep, .ports]
      (([.port, .reg 0xC0020, .reg 0xC0028] : List Area) ++ noteAreas) s t) ∧
    ((∃ port packet, exec (.packetReceive port packet) s = .next t) → Frame [.out, .trace, .fep] [.reg 0xC0024, .reg
      0xC002C, .reg 0xC0030, .reg 0xC0034, .reg 0xC0038] s t) ∧
    ((∃ src entry, exec (.ack src entry) s = .next t) → Frame (([.quarUndelivered] : List Part) ++ abortParts)
      (([.reg 0x20008] : List Area) ++ abortAreas) s t) ∧
    (((∃ peer lc, exec (.ackTimer peer lc) s = .next t) ∨ (∃ src entry, exec (.grantReq src entry) s = .next t) ∨ (∃
      peer lc, exec (.grantIdleTimeout peer lc) s = .next t)) → Frame [.out, .fep] [] s t) ∧
    ((∃ peer lc psn, exec (.retransmitTimeout peer lc psn) s = .next t) → Frame abortParts (([.reg 0x20008, .reg
      0xC0008, .reg 0xC0054] : List Area) ++ abortAreas) s t) ∧
    (((∃ peer lc, exec (.pinnedFlowMove peer lc) s = .next t) ∨ (∃ src entry, exec (.grant src entry) s = .next t))
      → Frame [.fep] [] s t)

/-- O58. Where a command of the express path and the collective engine answers a next state, every part of the state
outside the first list of its clause is unchanged, every register outside the second list keeps its stored word, and
memory is unchanged but for what the clause names: the notice ring where only the ring may be written, the words
that other agents have written before the command (withEnv), and the areas computed from the registers and operands. -/
def Obligations.CollectiveFrames : Prop :=
  ∀ s t : State,
    ((∃ priv value env, exec (.cceDoorbell priv value env) s = .next t) → Frame [.mem, .beyond, .cce] [.reg 0xA0008]
      s t) ∧
    (∀ (env : MemEnv), (exec (.registerGroup env) s = .next t ∨ exec (.unregisterGroup env) s = .next t) → Frame
      [.mem, .beyond, .cce] [.reg 0xA0008] (withEnv env s) t) ∧
    ((∃ src msg, exec (.result src msg) s = .next t) → Frame (([.mem, .beyond, .note, .quarUndelivered] : List Part)
      ++ abortParts) (([.reg 0x20008, .reg 0xA0008, .reg 0xA0058, .reg 0xA005C, .reg 0xA0060, .reg 0xA0064, .reg
      0xA0068, .reg 0xA006C] : List Area) ++ noteAreas ++ abortAreas) s t) ∧
    (((∃ env, exec (.allReduce env) s = .next t) ∨ (∃ env, exec (.reduceScatter env) s = .next t) ∨ (∃ env, exec
      (.allGather env) s = .next t) ∨ (∃ env, exec (.broadcast env) s = .next t) ∨ (∃ env, exec (.allToAll env) s =
      .next t) ∨ (∃ env, exec (.allToAllV env) s = .next t) ∨ (∃ env, exec (.barrier env) s = .next t)) → Frame
      (([.mem, .beyond, .note, .quarUndelivered] : List Part) ++ abortParts) (([.reg 0x20008, .reg 0xA0008, .reg
      0xA0060, .reg 0xA0064, .reg 0xA0068] : List Area) ++ noteAreas ++ abortAreas) s t) ∧
    ((∃ src msg errs, exec (.chainReceive src msg errs) s = .next t) → Frame (([.mem, .beyond, .rlog, .mgmtNext,
      .note, .quarUndelivered, .cadRefetch] : List Part) ++ abortParts) (([.reg 0x8, .reg 0x20008, .reg 0x20080, .reg
      0x20084, .reg 0x20088, .reg 0x30030, .reg 0x31038, .reg 0xA0008, .reg 0xA0048, .reg 0xA004C, .reg 0xA0054, .reg
      0xA0058, .reg 0xA0060, .reg 0xA0064, .reg 0xA0068, .reg 0xC1404, .reg 0xC1418, .reg 0xC141C, .reg 0xC1420,
      .station] : List Area) ++ noteAreas ++ abortAreas) s t) ∧
    ((∃ src msg, exec (.credit src msg) s = .next t) → Frame (([.mem, .beyond, .note, .quarUndelivered] : List Part)
      ++ abortParts) (([.reg 0x20008, .reg 0xA0060, .reg 0xA0064, .reg 0xA0068] : List Area) ++ noteAreas ++
      abortAreas) s t) ∧
    ((∃ src msg, exec (.nack src msg) s = .next t) → Frame (([.quarUndelivered] : List Part) ++ abortParts) (([.reg
      0x20008, .reg 0xA0050] : List Area) ++ abortAreas) s t) ∧
    ((∃ src msg, exec (.counts src msg) s = .next t) → Frame (([.mem, .beyond] : List Part) ++ abortParts) (([.reg
      0xA0008] : List Area) ++ abortAreas) s t) ∧
    ((∃ src msg, exec (.slot src msg) s = .next t) → Frame (([.mem, .beyond, .note, .quarUndelivered] : List Part)
      ++ abortParts) (([.reg 0x20008, .reg 0xA0008, .reg 0xA0058, .reg 0xA0060, .reg 0xA0064, .reg 0xA0068] : List
      Area) ++ noteAreas ++ abortAreas) s t) ∧
    ((∃ port tile errs, exec (.collTile port tile errs) s = .next t) → Frame (([.mem, .beyond, .rlog, .mgmtNext,
      .note, .quarUndelivered, .cadRefetch] : List Part) ++ abortParts) (([.reg 0x8, .reg 0x20008, .reg 0x20080, .reg
      0x20084, .reg 0x20088, .reg 0x30030, .reg 0x31038, .reg 0xA0008, .reg 0xA004C, .reg 0xA0058, .reg 0xA0060, .reg
      0xA0064, .reg 0xA0068, .station] : List Area) ++ noteAreas ++ abortAreas) s t) ∧
    ((∃ src msg, exec (.collAbort src msg) s = .next t) → Frame [.out, .rounds, .cce, .fep] [] s t) ∧
    ((∃ coll code, exec (.completionRound coll code) s = .next t) → Frame (([.mem, .beyond, .note] : List Part) ++
      abortParts) (([.reg 0xA0040, .reg 0xA0044] : List Area) ++ noteAreas ++ abortAreas) s t) ∧
    ((∃ coll, exec (.collTimeout coll) s = .next t) → Frame abortParts (([.reg 0xA0008] : List Area) ++ abortAreas)
      s t) ∧
    (((∃ src msg, exec (.contrib src msg) s = .next t) ∨ (∃ src msg, exec (.partialMsg src msg) s = .next t) ∨ (∃
      src msg, exec (.partialAck src msg) s = .next t)) → Frame [.out, .rounds, .fep] [] s t) ∧
    ((∃ src msg, exec (.partialCopyRequest src msg) s = .next t) → Frame [.out, .fep] [] s t)

/-- O59. Where a command of remote access answers a next state, every part of the state outside the first list of its
clause is unchanged, every register outside the second list keeps its stored word, and memory is unchanged but for
what the clause names: the notice ring where only the ring may be written, the words that other agents have written
before the command (withEnv), and the areas computed from the registers and operands. -/
def Obligations.RemoteAccessFrames : Prop :=
  ∀ s t : State,
    (((∃ priv q value env, exec (.rmaDoorbell priv q value env) s = .next t) ∨ (∃ q env, exec (.rmaPoll q env) s =
      .next t)) → Frame [.mem, .beyond, .note, .trace, .rma] (([.queue, .reg 0xC0008, .reg 0xC1424] : List Area) ++
      noteAreas) s t) ∧
    ((∃ q env errs, exec (.rmaLoad q env errs) s = .next t) → Frame (([.mem, .beyond, .rlog, .mgmtNext, .note,
      .cadRefetch, .rma, .rmaTurn, .cache] : List Part) ++ abortParts) (([.queue, .reg 0x8, .reg 0x20008, .reg
      0x20080, .reg 0x20084, .reg 0x20088, .reg 0x30030, .reg 0x31038, .reg 0xA0008, .reg 0xC0008, .reg 0xC1400, .reg
      0xC1408, .reg 0xC140C, .reg 0xC1424, .station] : List Area) ++ noteAreas ++ abortAreas) s t) ∧
    (((∃ q env, exec (.rmaStore q env) s = .next t) ∨ (∃ q env, exec (.rmaSwap q env) s = .next t) ∨ (∃ q env, exec
      (.rmaCas q env) s = .next t) ∨ (∃ q env, exec (.rmaAdd q env) s = .next t) ∨ (∃ q env, exec (.rmaAnd q env) s =
      .next t) ∨ (∃ q env, exec (.rmaOr q env) s = .next t) ∨ (∃ q env, exec (.rmaXor q env) s = .next t) ∨ (∃ q env,
      exec (.rmaUmax q env) s = .next t) ∨ (∃ q env, exec (.rmaUmin q env) s = .next t) ∨ (∃ q env, exec (.rmaSmax q
      env) s = .next t) ∨ (∃ q env, exec (.rmaSmin q env) s = .next t) ∨ (∃ q env, exec (.rmaPut q env) s = .next t) ∨
      (∃ q env, exec (.rmaGet q env) s = .next t) ∨ (∃ q env, exec (.rmaWait q env) s = .next t) ∨ (∃ q env, exec
      (.rmaInvalidate q env) s = .next t) ∨ (∃ q env, exec (.rmaFence q env) s = .next t)) → Frame [.out, .mem,
      .beyond, .note, .trace, .pools, .rma, .rmaTurn, .cache, .fep] (([.queue, .reg 0xC0008, .reg 0xC1400, .reg
      0xC1408, .reg 0xC140C, .reg 0xC1424] : List Area) ++ noteAreas) s t) ∧
    (∀ (src : Nat) (q : Nat) (index : Nat) (piece : Nat) (msg : Bytes) (env : MemEnv), exec (.remoteReply src q
      index piece msg env) s = .next t → Frame (([.mem, .beyond, .note, .rma, .cache] : List Part) ++ abortParts)
      (([.queue, .reg 0x20008, .reg 0xC0008, .reg 0xC1414, .reg 0xC1424] : List Area) ++ noteAreas ++ abortAreas)
      (withEnv env s) t) ∧
    ((∃ q index, exec (.atomicTimeout q index) s = .next t) → Frame [.out, .mem, .beyond, .note, .trace, .rma, .fep]
      (([.reg 0xC1410] : List Area) ++ noteAreas) s t) ∧
    ((∃ q index, exec (.commandTimeout q index) s = .next t) → Frame (([.mem, .beyond, .note, .rma] : List Part) ++
      abortParts) (([.queue, .reg 0x20008, .reg 0xC0008, .reg 0xC1424] : List Area) ++ noteAreas ++ abortAreas) s t) ∧
    (∀ (q : Nat) (index : Nat) (env : MemEnv), exec (.waitPoll q index env) s = .next t → Frame [.mem, .beyond,
      .note, .trace, .rma] (([.queue, .reg 0xC0008, .reg 0xC1424] : List Area) ++ noteAreas) (withEnv env s) t) ∧
    ((∃ q target, exec (.releaseTimer q target) s = .next t) → Frame [.out, .rma, .fep] [] s t) ∧
    (∀ (src : Nat) (msg : Bytes) (env : MemEnv), (exec (.reqLoad src msg env) s = .next t ∨ exec (.reqLoadLine src
      msg env) s = .next t ∨ exec (.reqRead src msg env) s = .next t) → Frame [.out, .dedup, .fep] [.reg 0xC1404, .reg
      0xC1418, .reg 0xC141C, .reg 0xC1420] (withEnv env s) t) ∧
    (∀ (src : Nat) (msg : Bytes) (env : MemEnv), exec (.reqStore src msg env) s = .next t → Frame [.out, .mem,
      .beyond, .dedup, .fep] [.reg 0xC1404, .reg 0xC1418, .reg 0xC141C, .reg 0xC1420] (withEnv env s) t ∧ MemSameOff
      (fun a => reqAddr msg ≤ a ∧ a < reqAddr msg + 8) (withEnv env s) t) ∧
    (∀ (src : Nat) (msg : Bytes) (env : MemEnv) (lost : Bool) (errs : Errs), exec (.reqAtomic src msg env lost errs)
      s = .next t → Frame (([.mem, .beyond, .rlog, .mgmtNext, .note, .cadRefetch, .dedup] : List Part) ++ abortParts)
      (([.reg 0x8, .reg 0x20008, .reg 0x20080, .reg 0x20084, .reg 0x20088, .reg 0x30030, .reg 0x31038, .reg 0xA0008,
      .reg 0xC0008, .reg 0xC1014, .reg 0xC1404, .reg 0xC1418, .reg 0xC141C, .reg 0xC1420, .station] : List Area) ++
      noteAreas ++ abortAreas) s t ∧ MemSameOff (fun a => reqAddr msg ≤ a ∧ a < reqAddr msg + 8) (withEnv env s) t) ∧
    (∀ (src : Nat) (msg : Bytes) (env : MemEnv), exec (.reqWrite src msg env) s = .next t → Frame [.out, .mem,
      .beyond, .dedup, .fep] [.reg 0xC1404, .reg 0xC1418, .reg 0xC141C, .reg 0xC1420] (withEnv env s) t ∧ MemSameOff
      (fun a => (reqAddr msg ≤ a ∧ a < reqAddr msg + reqLen msg) ∨ (reqCtr msg ≤ a ∧ a < reqCtr msg + 8)) (withEnv env
      s) t) ∧
    ((∃ src msg, exec (.reqRelease src msg) s = .next t) → Frame [.dedup] [] s t)

/-- O60. Where a command of remote access, or a fence, which ends commands, answers a next state, every byte of memory
outside the notice ring reads as before (as the other agents have left it), but for the HEAD words of the command
queues, RESULT, STATUS and SEQ of their entries, and the destinations and counters of the GETs that were
outstanding. Where a command of the collective engine, VERDICT or a register write does, the same holds but for
STATUS of the ring's descriptors, the count tables of the active collectives and what lies from their DST on;
VERDICT also writes its step record, and a register write may ring a doorbell of remote access. -/
def Obligations.EngineMemory : Prop :=
  ∀ s t : State,
    (∀ (priv : Bool) (chip : Nat), exec (.fence priv chip) s = .next t → MemSameOff (rmaWords s) s t) ∧
    (∀ (src : Nat) (msg : Bytes), exec (.fenceNotice src msg) s = .next t → MemSameOff (rmaWords s) s t) ∧
    (∀ (peer : Nat), exec (.probeTimeout peer) s = .next t → MemSameOff (rmaWords s) s t) ∧
    (∀ (priv : Bool) (q : Nat) (value : Word32) (env : MemEnv), exec (.rmaDoorbell priv q value env) s = .next t →
      (MemSame s t ∨ MemSameOff (rmaWords s) (withEnv env s) t)) ∧
    (∀ (q : Nat) (env : MemEnv), exec (.rmaPoll q env) s = .next t → (MemSame s t ∨ MemSameOff (rmaWords s) (withEnv
      env s) t)) ∧
    (∀ (q : Nat) (env : MemEnv) (errs : Errs), exec (.rmaLoad q env errs) s = .next t → MemSameOff (rmaWords s)
      (withEnv env s) t) ∧
    (∀ (q : Nat) (env : MemEnv), (exec (.rmaStore q env) s = .next t ∨ exec (.rmaSwap q env) s = .next t ∨ exec
      (.rmaCas q env) s = .next t ∨ exec (.rmaAdd q env) s = .next t ∨ exec (.rmaAnd q env) s = .next t ∨ exec (.rmaOr
      q env) s = .next t ∨ exec (.rmaXor q env) s = .next t ∨ exec (.rmaUmax q env) s = .next t ∨ exec (.rmaUmin q
      env) s = .next t ∨ exec (.rmaSmax q env) s = .next t ∨ exec (.rmaSmin q env) s = .next t ∨ exec (.rmaPut q env)
      s = .next t ∨ exec (.rmaGet q env) s = .next t ∨ exec (.rmaWait q env) s = .next t ∨ exec (.rmaInvalidate q env)
      s = .next t ∨ exec (.rmaFence q env) s = .next t) → MemSameOff (rmaWords s) (withEnv env s) t) ∧
    (∀ (src : Nat) (q : Nat) (index : Nat) (piece : Nat) (msg : Bytes) (env : MemEnv), exec (.remoteReply src q
      index piece msg env) s = .next t → MemSameOff (rmaWords s) (withEnv env s) t) ∧
    (∀ (q : Nat) (index : Nat), (exec (.atomicTimeout q index) s = .next t ∨ exec (.commandTimeout q index) s =
      .next t) → MemSameOff (rmaWords s) s t) ∧
    (∀ (q : Nat) (index : Nat) (env : MemEnv), exec (.waitPoll q index env) s = .next t → MemSameOff (rmaWords s)
      (withEnv env s) t) ∧
    (∀ (priv : Bool) (addr : Nat) (width : Nat) (value : Word32), exec (.registerWrite priv addr width value) s =
      .next t → (addr ≠ 0x328 → MemSameOff (fun a => rmaWords s a ∨ cceWords s a) s t)) ∧
    (∀ (code : Nat) (errs : Errs), exec (.verdict code errs) s = .next t → MemSameOff (fun a => recordWords s a ∨
      cceWords s a) s t) ∧
    (∀ (priv : Bool) (value : Word32) (env : MemEnv), exec (.cceDoorbell priv value env) s = .next t → (MemSame s t
      ∨ MemSameOff (cceWords s) (withEnv env s) t)) ∧
    (∀ (env : MemEnv), (exec (.registerGroup env) s = .next t ∨ exec (.unregisterGroup env) s = .next t ∨ exec
      (.allReduce env) s = .next t ∨ exec (.reduceScatter env) s = .next t ∨ exec (.allGather env) s = .next t ∨ exec
      (.broadcast env) s = .next t ∨ exec (.allToAll env) s = .next t ∨ exec (.allToAllV env) s = .next t ∨ exec
      (.barrier env) s = .next t) → MemSameOff (cceWords s) (withEnv env s) t) ∧
    (∀ (src : Nat) (msg : Bytes), (exec (.result src msg) s = .next t ∨ exec (.credit src msg) s = .next t ∨ exec
      (.counts src msg) s = .next t ∨ exec (.slot src msg) s = .next t) → MemSameOff (cceWords s) s t) ∧
    (∀ (src : Nat) (msg : Bytes) (errs : Errs), exec (.chainReceive src msg errs) s = .next t → MemSameOff (cceWords
      s) s t) ∧
    (∀ (port : Nat) (tile : Bytes) (errs : Errs), exec (.collTile port tile errs) s = .next t → MemSameOff (cceWords
      s) s t) ∧
    (∀ (coll : Nat) (code : Nat), exec (.completionRound coll code) s = .next t → MemSameOff (cceWords s) s t)
end

