-- ==== Sys2Proof/Laws/Stores.lean ====
section
/-! SUPPORT. The laws of the sparse stores and of memory: read after write, other keys, and that every operation keeps the
canonical form. -/
namespace Sys2Proof.Machine
open Sys2Proof

variable {α : Type}

/-! ### Reads -/

theorem storeGet_erase_self (d : α) (k : Nat) (xs : Store α) : storeGet d k (storeErase k xs) = d := by
  induction xs with
  | nil => rfl
  | cons x xs ih =>
    obtain ⟨j, v⟩ := x
    by_cases h : j = k <;> simp [storeErase, storeGet, h, ih]

theorem storeGet_erase_other (d : α) {k j : Nat} (h : k ≠ j) (xs : Store α) :
    storeGet d k (storeErase j xs) = storeGet d k xs := by
  induction xs with
  | nil => rfl
  | cons x xs ih =>
    obtain ⟨i, v⟩ := x
    by_cases hi : i = j
    · have : i ≠ k := by omega
      simp only [storeErase, if_pos hi, storeGet, if_neg this, ih]
    · simp only [storeErase, if_neg hi, storeGet, ih]

theorem storeGet_put_self (d : α) (k : Nat) (v : α) (xs : Store α) : storeGet d k (storePut k v xs) = v := by
  induction xs with
  | nil => simp [storePut, storeGet]
  | cons x xs ih =>
    obtain ⟨j, w⟩ := x
    by_cases h1 : k < j
    · simp [storePut, storeGet, h1]
    · by_cases h2 : k = j
      · simp [storePut, storeGet, h2]
      · have : j ≠ k := by omega
        simp [storePut, storeGet, h1, h2, this, ih]

theorem storeGet_put_other (d : α) {k j : Nat} (h : k ≠ j) (v : α) (xs : Store α) :
    storeGet d k (storePut j v xs) = storeGet d k xs := by
  have h' : j ≠ k := fun e => h e.symm
  induction xs with
  | nil => simp [storePut, storeGet, h']
  | cons x xs ih =>
    obtain ⟨i, w⟩ := x
    by_cases h1 : j < i
    · simp [storePut, storeGet, h1, h']
    · by_cases h2 : j = i
      · subst h2; simp [storePut, storeGet, h']
      · simp only [storePut, if_neg h1, if_neg h2, storeGet, ih]

/-! ### Keys -/

/-- Every key of a store lies above a bound. -/
def keysAbove (n : Nat) (xs : Store α) : Prop := ∀ x ∈ xs, n < x.1

theorem keysAbove_erase {n k : Nat} {xs : Store α} (h : keysAbove n xs) : keysAbove n (storeErase k xs) := by
  induction xs with
  | nil => exact h
  | cons x xs ih =>
    obtain ⟨j, v⟩ := x
    have hx : keysAbove n xs := fun y hy => h y (List.mem_cons_of_mem _ hy)
    unfold storeErase
    split
    · exact ih hx
    · intro y hy
      rcases List.mem_cons.mp hy with rfl | hy
      · exact h _ List.mem_cons_self
      · exact ih hx y hy

theorem keysAbove_put {n k : Nat} {v : α} {xs : Store α} (hk : n < k) (h : keysAbove n xs) : keysAbove n (storePut k v xs) := by
  induction xs with
  | nil => intro y hy; simp [storePut] at hy; subst hy; exact hk
  | cons x xs ih =>
    obtain ⟨j, w⟩ := x
    have hx : keysAbove n xs := fun y hy => h y (List.mem_cons_of_mem _ hy)
    have hj : n < j := h _ List.mem_cons_self
    intro y hy
    by_cases h1 : k < j
    · simp [storePut, h1] at hy
      rcases hy with rfl | rfl | hy
      · exact hk
      · exact hj
      · exact hx y hy
    · by_cases h2 : k = j
      · simp [storePut, h2] at hy
        rcases hy with rfl | hy
        · exact hj
        · exact hx y hy
      · simp [storePut, h1, h2] at hy
        rcases hy with rfl | hy
        · exact hj
        · exact ih hx y hy

variable [DecidableEq α]

/-! ### Writes -/

/-- A key reads what was written to it. -/
theorem storeGet_set_self (d : α) (k : Nat) (v : α) (xs : Store α) : storeGet d k (storeSet d k v xs) = v := by
  unfold storeSet
  split
  · next h => rw [storeGet_erase_self, h]
  · exact storeGet_put_self d k v xs

/-- A write leaves every other key alone, whatever the defaults. -/
theorem storeGet_set_other (d e : α) {k j : Nat} (h : k ≠ j) (v : α) (xs : Store α) :
    storeGet d k (storeSet e j v xs) = storeGet d k xs := by
  unfold storeSet
  split
  · exact storeGet_erase_other d h xs
  · exact storeGet_put_other d h v xs

/-! ### The canonical form -/

theorem storeWf_cons {d : Nat → α} {k : Nat} {v : α} {xs : Store α} :
    storeWf d ((k, v) :: xs) = true ↔ v ≠ d k ∧ keysAbove k xs ∧ storeWf d xs = true := by
  induction xs generalizing k v with
  | nil => simp [storeWf, keysAbove]
  | cons x ys ih =>
    obtain ⟨j, w⟩ := x
    have e : storeWf d ((k, v) :: (j, w) :: ys) = true ↔ k < j ∧ v ≠ d k ∧ storeWf d ((j, w) :: ys) = true := by
      simp [storeWf, and_assoc]
    rw [e]
    constructor
    · rintro ⟨h1, h2, h3⟩
      refine ⟨h2, ?_, h3⟩
      intro y hy
      rcases List.mem_cons.mp hy with rfl | hy
      · exact h1
      · exact Nat.lt_trans h1 ((ih.mp h3).2.1 y hy)
    · rintro ⟨h1, h2, h3⟩
      exact ⟨h2 (j, w) List.mem_cons_self, h1, h3⟩

theorem storeErase_wf {d : Nat → α} {k : Nat} {xs : Store α} (h : storeWf d xs = true) : storeWf d (storeErase k xs) = true := by
  induction xs with
  | nil => rfl
  | cons x xs ih =>
    obtain ⟨j, v⟩ := x
    obtain ⟨h1, h2, h3⟩ := storeWf_cons.mp h
    unfold storeErase
    split
    · exact ih h3
    · exact storeWf_cons.mpr ⟨h1, keysAbove_erase h2, ih h3⟩

theorem storePut_wf {d : Nat → α} {k : Nat} {v : α} {xs : Store α} (hv : v ≠ d k) (h : storeWf d xs = true) :
    storeWf d (storePut k v xs) = true := by
  induction xs with
  | nil => simp [storePut, storeWf, hv]
  | cons x xs ih =>
    obtain ⟨j, w⟩ := x
    obtain ⟨h1, h2, h3⟩ := storeWf_cons.mp h
    by_cases hlt : k < j
    · simp only [storePut, if_pos hlt]
      refine storeWf_cons.mpr ⟨hv, ?_, h⟩
      intro y hy
      rcases List.mem_cons.mp hy with rfl | hy
      · exact hlt
      · exact Nat.lt_trans hlt (h2 y hy)
    · by_cases he : k = j
      · subst he
        simp only [storePut, if_neg hlt, if_true]
        exact storeWf_cons.mpr ⟨hv, h2, h3⟩
      · simp only [storePut, if_neg hlt, if_neg he]
        exact storeWf_cons.mpr ⟨h1, keysAbove_put (by omega) h2, ih h3⟩

/-- A write keeps the canonical form. -/
theorem storeSet_wf {d : Nat → α} {k : Nat} {v : α} {xs : Store α} (h : storeWf d xs = true) :
    storeWf d (storeSet (d k) k v xs) = true := by
  unfold storeSet
  split
  · exact storeErase_wf h
  · next hv => exact storePut_wf hv h

/-! ### Memory -/

/-- Memory's bytes after a write: the bytes written, and every other byte as before. -/
theorem memByte_memPut (bs : Bytes) (m : Store Byte) (b a : Nat) :
    memByte (memPut m b bs) a = if b ≤ a ∧ a < b + bs.length then bs.getD (a - b) 0 else memByte m a := by
  induction bs generalizing m b with
  | nil =>
    rw [if_neg (by simp only [List.length_nil]; omega)]
    rfl
  | cons x bs ih =>
    simp only [memPut, ih, List.length_cons]
    by_cases h1 : b + 1 ≤ a ∧ a < b + 1 + bs.length
    · have h2 : b ≤ a ∧ a < b + (bs.length + 1) := by omega
      rw [if_pos h1, if_pos h2]
      obtain ⟨n, hn⟩ : ∃ n, a - b = n + 1 := ⟨a - b - 1, by omega⟩
      have : a - (b + 1) = n := by omega
      rw [hn, this, List.getD_cons_succ]
    · rw [if_neg h1]
      by_cases h3 : a = b
      · subst h3
        have h2 : a ≤ a ∧ a < a + (bs.length + 1) := by omega
        rw [if_pos h2, memByte, storeGet_set_self]
        simp
      · have h2 : ¬ (b ≤ a ∧ a < b + (bs.length + 1)) := by omega
        rw [if_neg h2, memByte, storeGet_set_other _ _ h3]
        rfl

theorem memByte_memPut_outside {bs : Bytes} {m : Store Byte} {b a : Nat} (h : a < b ∨ b + bs.length ≤ a) :
    memByte (memPut m b bs) a = memByte m a := by
  rw [memByte_memPut, if_neg (by omega)]

/-- What has been written is read back, up to any length. -/
theorem memBytes_memPut {bs : Bytes} {m : Store Byte} {b n : Nat} (h : n ≤ bs.length) :
    memBytes (memPut m b bs) b n = bs.take n := by
  refine List.ext_getElem (by simp [memBytes, h]) fun i hi _ => ?_
  have hn : i < n := by simpa [memBytes] using hi
  simp [memBytes, memByte_memPut, show i < bs.length by omega]

theorem memPut_wf {bs : Bytes} {m : Store Byte} {b : Nat} (h : Memory.wf m = true) : Memory.wf (memPut m b bs) = true := by
  induction bs generalizing m b with
  | nil => exact h
  | cons x bs ih => exact ih (storeSet_wf (d := fun _ => emptyByte) h)

theorem applyWrites_wf {ws : List (Nat × Bytes)} {m : Store Byte} (h : Memory.wf m = true) :
    Memory.wf (applyWrites ws m) = true := by
  induction ws generalizing m with
  | nil => exact h
  | cons w ws ih => exact ih (memPut_wf h)

theorem memWrite_wf {a : Nat} {bs : Bytes} {s : State} (h : Memory.wf s.mem = true) : Memory.wf (memWrite a bs s).mem = true :=
  memPut_wf h

theorem withEnv_wf {env : MemEnv} {s : State} (h : Memory.wf s.mem = true) : Memory.wf (withEnv env s).mem = true :=
  applyWrites_wf h

theorem reset_mem_wf : Memory.wf State.reset.mem = true := rfl

/-! ### Registers -/

/-- A register's stored word after a register has been written. -/
theorem word_setWord (s : State) (a b : Nat) (w : Word32) : (s.setWord a w).word b = if b = a then w else s.word b := by
  unfold State.word State.setWord
  by_cases h : b = a
  · subst h; simp [storeGet_set_self]
  · simp [h, storeGet_set_other]

@[simp] theorem word_setWord_self (s : State) (a : Nat) (w : Word32) : (s.setWord a w).word a = w := by
  simp [word_setWord]

theorem word_setWord_other (s : State) {a b : Nat} (h : b ≠ a) (w : Word32) : (s.setWord a w).word b = s.word b := by
  simp [word_setWord, h]

end Sys2Proof.Machine
end

