-- ==== Sys2Proof/Laws/Keeps.lean ====
section
/-! SUPPORT. The calculus of frames: `Keeps ps as s t` says that a passage from `s` to `t` changes only the parts `ps` and the
registers of the areas `as`, and keeps the invariant; its rules of composition, and one rule for each update of the state. -/
namespace Sys2Proof.Machine
open Sys2Proof

/-- Every member of a list is a member of another. -/
def Within {α : Type} (xs ys : List α) : Prop := ∀ a ∈ xs, a ∈ ys

theorem Within.of_all {α : Type} [DecidableEq α] {xs ys : List α} (h : xs.all (ys.contains ·) = true) : Within xs ys := by
  intro a ha
  exact List.contains_iff_mem.mp (List.all_eq_true.mp h a ha)

theorem Within.nil {α : Type} (ys : List α) : Within [] ys := fun _ h => absurd h List.not_mem_nil

/-- Every register of some areas lies in one of others. -/
def Covers (xs ys : List Area) : Prop := ∀ x ∈ xs, ∀ a, x.has a → ∃ y ∈ ys, y.has a

theorem Covers.of_within {xs ys : List Area} (h : Within xs ys) : Covers xs ys := fun x hx _ k => ⟨x, h x hx, k⟩

theorem Covers.of_all {xs ys : List Area} (h : xs.all (ys.contains ·) = true) : Covers xs ys := .of_within (.of_all h)

theorem Covers.nil (ys : List Area) : Covers [] ys := fun _ h => absurd h List.not_mem_nil

theorem Covers.all {xs ys : List Area} (h : Area.all ∈ ys) : Covers xs ys := fun _ _ _ _ => ⟨_, h, trivial⟩

theorem Covers.cons {x : Area} {xs ys : List Area} (h : x ∈ ys) (k : Covers xs ys) : Covers (x :: xs) ys := by
  intro y hy a ha
  rcases List.mem_cons.mp hy with rfl | hy
  · exact ⟨_, h, ha⟩
  · exact k y hy a ha

theorem Covers.port {n j : Nat} {xs ys : List Area} (hj : j < 0x40) (h : Area.port ∈ ys) (k : Covers xs ys) :
    Covers (.reg (uPort n + j) :: xs) ys := by
  intro y hy a ha
  rcases List.mem_cons.mp hy with rfl | hy
  · exact ⟨_, h, n % 24, j, Nat.mod_lt _ (by decide), hj, by simpa [Area.has, uPort] using ha⟩
  · exact k y hy a ha

theorem Covers.port0 {n : Nat} {xs ys : List Area} (h : Area.port ∈ ys) (k : Covers xs ys) :
    Covers (.reg (uPort n) :: xs) ys := Covers.port (j := 0) (by decide) h k

theorem Covers.pair {b n : Nat} {xs ys : List Area} (h : .reg b ∈ ys) (h' : .reg (b + 4) ∈ ys) (k : Covers xs ys) :
    Covers (.reg (b + 4 * (n % 2)) :: xs) ys := by
  intro y hy a ha
  rcases List.mem_cons.mp hy with rfl | hy
  · rcases Nat.mod_two_eq_zero_or_one n with e | e <;> rw [e] at ha
    · exact ⟨_, h, ha⟩
    · exact ⟨_, h', ha⟩
  · exact k y hy a ha

theorem Covers.queue {q : Nat} {xs ys : List Area} (h : Area.queue ∈ ys) (k : Covers xs ys) :
    Covers (.reg (qCtrl q) :: xs) ys := by
  intro y hy a ha
  rcases List.mem_cons.mp hy with rfl | hy
  · exact ⟨_, h, q % 16, Nat.mod_lt _ (by decide), by simpa [Area.has, qCtrl] using ha⟩
  · exact k y hy a ha

theorem Covers.station {c : Nat} {xs ys : List Area} (hc : c < 16) (h : Area.station ∈ ys) (k : Covers xs ys) :
    Covers (.reg (0x20100 + 4 * c) :: xs) ys := by
  intro y hy a ha
  rcases List.mem_cons.mp hy with rfl | hy
  · exact ⟨_, h, c, hc, ha⟩
  · exact k y hy a ha

variable {ps qs : List Part} {as bs : List Area} {s t u x y : State}

/-- Some areas hold none of the registers that place the notice ring: SDE_NOTE_BASE and SDE_NOTE_SIZE. -/
def RingFree (as : List Area) : Prop :=
  ∀ x ∈ as, ¬ x.has 0x320 ∧ ¬ x.has 0x324 ∧ ¬ x.has 0x328

theorem ringFree_of_ringFixed (h : ringFixed as = true) : RingFree as := by
  intro x hx
  have := List.all_eq_true.mp h x hx
  cases x with
  | reg a =>
    simp at this
    exact ⟨fun (e : _ = _) => this.1.1 e.symm, fun (e : _ = _) => this.1.2 e.symm, fun (e : _ = _) => this.2 e.symm⟩
  | port =>
    refine ⟨?_, ?_, ?_⟩ <;> (rintro ⟨n, k, _, _, e⟩; unfold uPort at e; omega)
  | queue =>
    refine ⟨?_, ?_, ?_⟩ <;> (rintro ⟨q, _, e⟩; unfold qCtrl at e; omega)
  | station =>
    refine ⟨?_, ?_, ?_⟩ <;> (rintro ⟨c, _, e⟩; omega)
  | all => cases this

theorem RingFree.same (h : RingFree as) (k : RegsSameBut as s t) : inRing t = inRing s := by
  have h1 := k 0x320 fun x hx => (h x hx).1
  have h2 := k 0x324 fun x hx => (h x hx).2.1
  have h3 := k 0x328 fun x hx => (h x hx).2.2
  funext a
  unfold inRing noteLog2 State.field State.addr64
  rw [h1, h2, h3]

/-- A passage that changes only some parts and some registers, and keeps the invariant. -/
structure Keeps (ps : List Part) (as : List Area) (s t : State) : Prop where
  parts : ∀ p, p ∉ ps → p ≠ .beyond → p.same s t
  beyond : .beyond ∉ ps → RingFree as → Part.beyond.same s t
  regs : RegsSameBut as s t
  inv : Inv s → Inv t

theorem Keeps.of_frame (hp : OnlyParts ps s t) (ha : RegsSameBut as s t) (hi : Inv s → Inv t) : Keeps ps as s t :=
  ⟨fun p h _ => hp p h, fun h _ => hp _ h, ha, hi⟩

theorem Part.same_refl (p : Part) (s : State) : p.same s s := by cases p <;> first | rfl | exact fun _ _ => rfl

theorem Part.same_trans {p : Part} (hp : p ≠ .beyond) (h : p.same s t) (k : p.same t u) : p.same s u := by
  cases p <;> first | exact Eq.trans k h | exact absurd rfl hp

theorem Keeps.refl (ps : List Part) (as : List Area) (s : State) : Keeps ps as s s :=
  ⟨fun p _ _ => p.same_refl s, fun _ _ _ _ => rfl, fun _ _ => rfl, fun i => i⟩

theorem RingFree.mono (h : RingFree as) (ha : Covers bs as) : RingFree bs :=
  fun x hx => ⟨fun k => let ⟨y, hy, hk⟩ := ha x hx _ k; (h y hy).1 hk, fun k => let ⟨y, hy, hk⟩ := ha x hx _ k; (h y hy).2.1 hk,
    fun k => let ⟨y, hy, hk⟩ := ha x hx _ k; (h y hy).2.2 hk⟩

theorem Keeps.trans (h : Keeps ps as s t) (k : Keeps ps as t u) : Keeps ps as s u where
  parts := fun p hp hb => Part.same_trans hb (h.parts p hp hb) (k.parts p hp hb)
  beyond := fun hp hr a ha => by
    have e := hr.same h.regs
    exact (k.beyond hp hr a (by rw [e]; exact ha)).trans (h.beyond hp hr a ha)
  regs := fun a ha => (k.regs a ha).trans (h.regs a ha)
  inv := fun i => k.inv (h.inv i)

theorem Keeps.mono (h : Keeps qs bs s t) (hp : Within qs ps) (ha : Covers bs as) : Keeps ps as s t where
  parts := fun p hq hb => h.parts p (fun m => hq (hp _ m)) hb
  beyond := fun hq hr => h.beyond (fun m => hq (hp _ m)) (hr.mono ha)
  regs := fun a hq => h.regs a (fun x hx k => let ⟨y, hy, hk⟩ := ha x hx a k; hq y hy hk)
  inv := h.inv

/-- The frame of a passage, where the notice ring keeps its place or memory beyond it may change or no memory changes. -/
theorem Keeps.frame (h : Keeps ps as s t) (hr : ringFixed as = true ∨ .beyond ∈ ps ∨ .mem ∉ ps) : Frame ps as s t := by
  refine ⟨fun p hp => ?_, h.regs⟩
  by_cases hb : p = .beyond
  · subst hb
    rcases hr with hr | hr | hr
    · exact h.beyond hp (ringFree_of_ringFixed hr)
    · exact absurd hr hp
    · intro a _
      rw [show t.mem = s.mem from h.parts .mem hr (by decide)]
  · exact h.parts p hp hb

/-- A passage that goes on through a step whose own frame lies within the frame wanted. -/
theorem Keeps.via (k : Keeps qs bs x y) (h : Keeps ps as s x) (hp : Within qs ps) (ha : Covers bs as) :
    Keeps ps as s y :=
  h.trans (k.mono hp ha)

theorem Keeps.ite {c : Prop} [Decidable c] (h : c → Keeps ps as s x) (k : ¬ c → Keeps ps as s y) :
    Keeps ps as s (if c then x else y) := by
  split
  · next hc => exact h hc
  · next hc => exact k hc

theorem Keeps.snd {β : Type} {r : β} (h : Keeps ps as s x) : Keeps ps as s (r, x).2 := h

theorem Keeps.foldl {β : Type} {f : State → β → State} {l : List β} (h : Keeps ps as s x)
    (k : ∀ y b, Keeps ps as y (f y b)) : Keeps ps as s (l.foldl f x) := by
  induction l generalizing x with
  | nil => exact h
  | cons b l ih => exact ih (h.trans (k x b))

theorem Keeps.foldlSnd {β γ : Type} {f : γ × State → β → γ × State} {l : List β} {z : γ × State} (h : Keeps ps as s z.2)
    (k : ∀ y b, Keeps ps as y.2 (f y b).2) : Keeps ps as s (l.foldl f z).2 := by
  induction l generalizing z with
  | nil => exact h
  | cons b l ih => exact ih (h.trans (k z b))

theorem Keeps.actNil {i : Nat} : Keeps ps as s (([] : List (State → State)).getD i id s) := by
  cases i <;> exact Keeps.refl _ _ _

theorem Keeps.actCons {f : State → State} {fs : List (State → State)} {i : Nat} (h : Keeps ps as s (f s))
    (k : ∀ j, Keeps ps as s (fs.getD j id s)) : Keeps ps as s ((f :: fs).getD i id s) := by
  cases i with
  | zero => exact h
  | succ n => exact k n

theorem length_modifyAt {α : Type} (f : α → α) (n : Nat) (l : List α) : (modifyAt f n l).length = l.length := by
  induction l generalizing n with
  | nil => cases n <;> rfl
  | cons a l ih => cases n <;> simp [modifyAt, ih]

/-! ### One rule for each update -/

/-- `Keeps` toward a state that is written out: the form that the rules for updates speak of. -/
def KeepsMk (ps : List Part) (as : List Area) (s t : State) : Prop := Keeps ps as s t

theorem Keeps.toMk {ps : List Part} {as : List Area} {s : State}
    {vpending : List Instr}
    {vout : List Out}
    {vregs : Store Word32}
    {vmem : Store Byte}
    {vfreshCount : Nat}
    {vboot : Boot}
    {vfuses : Fuses}
    {vdevKey : Option DevKey}
    {vclk : Clk}
    {vtb : Nat}
    {vtbRun : Bool}
    {vtbExhausted : Bool}
    {vtap : Tap}
    {vldr : Loader}
    {vcommits : Commits}
    {vlatched : Store Word32}
    {vsec : Sec}
    {vdat : Dat}
    {vrun : Option Run}
    {vstepNum : Nat}
    {vprevT : Nat}
    {vverdict : VerdictRec}
    {vrlog : RLog}
    {vfences : List Nat}
    {vfenceSelf : Bool}
    {vunfences : List Nat}
    {vprobes : List Probe}
    {vbroadcasts : List Broadcast}
    {vmgmtNext : Nat}
    {vnote : Notes}
    {vtrace : Trace}
    {vsfuVersion : Nat}
    {vsfuCopying : Bool}
    {vsfuLocked : Bool}
    {vcad : Store (List Word32)}
    {vlst : ChangeList}
    {vdemand : List Demand}
    {vquarPending : List Quarantine}
    {vquarUndelivered : Nat}
    {vquarActing : List Nat}
    {vquarSeen : List Quarantine}
    {vcadRefetch : List CadRefetch}
    {vpools : Pools}
    {vtports : List TPort}
    {vtokenLast : List (Option TileHdr)}
    {vhalves : List Half}
    {vingestHeld : List HeldTile}
    {vhomes : List HomeTally}
    {vbucketMaps : List (Nat × List (Nat × Nat × Nat))}
    {vchipHist : List (Nat × Nat)}
    {vsortCounters : List Nat}
    {vrecv : List RxGroup}
    {vfeeds : List Feed}
    {vhanded : List Handed}
    {vcollects : List Collect}
    {vcollectHeld : List HeldTile}
    {vgen : Nat}
    {vraiseDue : Bool}
    {vorphans : List LoanTable}
    {vrounds : List Round}
    {vcce : Cce}
    {vrma : List RmaQueue}
    {vrmaTurn : Nat}
    {vdedup : Dedup}
    {vcache : List CacheLine}
    {vfep : Fep}
    {vports : List Port} :
    Keeps ps as s ⟨vpending, vout, vregs, vmem, vfreshCount, vboot, vfuses, vdevKey, vclk, vtb, vtbRun, vtbExhausted, vtap, vldr, vcommits, vlatched, vsec, vdat, vrun, vstepNum, vprevT, vverdict, vrlog, vfences, vfenceSelf, vunfences, vprobes, vbroadcasts, vmgmtNext, vnote, vtrace, vsfuVersion, vsfuCopying, vsfuLocked, vcad, vlst, vdemand, vquarPending, vquarUndelivered, vquarActing, vquarSeen, vcadRefetch, vpools, vtports, vtokenLast, vhalves, vingestHeld, vhomes, vbucketMaps, vchipHist, vsortCounters, vrecv, vfeeds, vhanded, vcollects, vcollectHeld, vgen, vraiseDue, vorphans, vrounds, vcce, vrma, vrmaTurn, vdedup, vcache, vfep, vports⟩ = KeepsMk ps as s ⟨vpending, vout, vregs, vmem, vfreshCount, vboot, vfuses, vdevKey, vclk, vtb, vtbRun, vtbExhausted, vtap, vldr, vcommits, vlatched, vsec, vdat, vrun, vstepNum, vprevT, vverdict, vrlog, vfences, vfenceSelf, vunfences, vprobes, vbroadcasts, vmgmtNext, vnote, vtrace, vsfuVersion, vsfuCopying, vsfuLocked, vcad, vlst, vdemand, vquarPending, vquarUndelivered, vquarActing, vquarSeen, vcadRefetch, vpools, vtports, vtokenLast, vhalves, vingestHeld, vhomes, vbucketMaps, vchipHist, vsortCounters, vrecv, vfeeds, vhanded, vcollects, vcollectHeld, vgen, vraiseDue, vorphans, vrounds, vcce, vrma, vrmaTurn, vdedup, vcache, vfep, vports⟩ := rfl

theorem KeepsMk.set_boot {ps : List Part} {as : List Area} {s x : State} {vboot : Boot}
    (h : Keeps ps as s x) (hpboot : Within [.boot] ps)  :
    KeepsMk ps as s { x with boot := vboot } where
  parts := fun p hq hb => by
    have := h.parts p hq hb
    cases p <;> first | exact this | exact absurd (hpboot _ List.mem_cons_self) hq
  beyond := h.beyond
  regs := h.regs
  inv := fun j => let i := h.inv j; ⟨i.regs, i.mem, i.ring, i.shape.1, i.shape.2.1, i.shape.2.2.1, i.shape.2.2.2.1, i.shape.2.2.2.2⟩

theorem KeepsMk.set_broadcasts {ps : List Part} {as : List Area} {s x : State} {vbroadcasts : List Broadcast}
    (h : Keeps ps as s x) (hpbroadcasts : Within [.broadcasts] ps)  :
    KeepsMk ps as s { x with broadcasts := vbroadcasts } where
  parts := fun p hq hb => by
    have := h.parts p hq hb
    cases p <;> first | exact this | exact absurd (hpbroadcasts _ List.mem_cons_self) hq
  beyond := h.beyond
  regs := h.regs
  inv := fun j => let i := h.inv j; ⟨i.regs, i.mem, i.ring, i.shape.1, i.shape.2.1, i.shape.2.2.1, i.shape.2.2.2.1, i.shape.2.2.2.2⟩

theorem KeepsMk.set_bucketMaps {ps : List Part} {as : List Area} {s x : State} {vbucketMaps : List (Nat × List (Nat × Nat × Nat))}
    (h : Keeps ps as s x) (hpbucketMaps : Within [.bucketMaps] ps)  :
    KeepsMk ps as s { x with bucketMaps := vbucketMaps } where
  parts := fun p hq hb => by
    have := h.parts p hq hb
    cases p <;> first | exact this | exact absurd (hpbucketMaps _ List.mem_cons_self) hq
  beyond := h.beyond
  regs := h.regs
  inv := fun j => let i := h.inv j; ⟨i.regs, i.mem, i.ring, i.shape.1, i.shape.2.1, i.shape.2.2.1, i.shape.2.2.2.1, i.shape.2.2.2.2⟩

theorem KeepsMk.set_cache {ps : List Part} {as : List Area} {s x : State} {vcache : List CacheLine}
    (h : Keeps ps as s x) (hpcache : Within [.cache] ps)  :
    KeepsMk ps as s { x with cache := vcache } where
  parts := fun p hq hb => by
    have := h.parts p hq hb
    cases p <;> first | exact this | exact absurd (hpcache _ List.mem_cons_self) hq
  beyond := h.beyond
  regs := h.regs
  inv := fun j => let i := h.inv j; ⟨i.regs, i.mem, i.ring, i.shape.1, i.shape.2.1, i.shape.2.2.1, i.shape.2.2.2.1, i.shape.2.2.2.2⟩

theorem KeepsMk.set_cad {ps : List Part} {as : List Area} {s x : State} {vcad : Store (List Word32)}
    (h : Keeps ps as s x) (hpcad : Within [.cad] ps)  :
    KeepsMk ps as s { x with cad := vcad } where
  parts := fun p hq hb => by
    have := h.parts p hq hb
    cases p <;> first | exact this | exact absurd (hpcad _ List.mem_cons_self) hq
  beyond := h.beyond
  regs := h.regs
  inv := fun j => let i := h.inv j; ⟨i.regs, i.mem, i.ring, i.shape.1, i.shape.2.1, i.shape.2.2.1, i.shape.2.2.2.1, i.shape.2.2.2.2⟩

theorem KeepsMk.set_cadRefetch {ps : List Part} {as : List Area} {s x : State} {vcadRefetch : List CadRefetch}
    (h : Keeps ps as s x) (hpcadRefetch : Within [.cadRefetch] ps)  :
    KeepsMk ps as s { x with cadRefetch := vcadRefetch } where
  parts := fun p hq hb => by
    have := h.parts p hq hb
    cases p <;> first | exact this | exact absurd (hpcadRefetch _ List.mem_cons_self) hq
  beyond := h.beyond
  regs := h.regs
  inv := fun j => let i := h.inv j; ⟨i.regs, i.mem, i.ring, i.shape.1, i.shape.2.1, i.shape.2.2.1, i.shape.2.2.2.1, i.shape.2.2.2.2⟩

theorem KeepsMk.set_cce {ps : List Part} {as : List Area} {s x : State} {vcce : Cce}
    (h : Keeps ps as s x) (hpcce : Within [.cce] ps)  :
    KeepsMk ps as s { x with cce := vcce } where
  parts := fun p hq hb => by
    have := h.parts p hq hb
    cases p <;> first | exact this | exact absurd (hpcce _ List.mem_cons_self) hq
  beyond := h.beyond
  regs := h.regs
  inv := fun j => let i := h.inv j; ⟨i.regs, i.mem, i.ring, i.shape.1, i.shape.2.1, i.shape.2.2.1, i.shape.2.2.2.1, i.shape.2.2.2.2⟩

theorem KeepsMk.set_chipHist {ps : List Part} {as : List Area} {s x : State} {vchipHist : List (Nat × Nat)}
    (h : Keeps ps as s x) (hpchipHist : Within [.chipHist] ps)  :
    KeepsMk ps as s { x with chipHist := vchipHist } where
  parts := fun p hq hb => by
    have := h.parts p hq hb
    cases p <;> first | exact this | exact absurd (hpchipHist _ List.mem_cons_self) hq
  beyond := h.beyond
  regs := h.regs
  inv := fun j => let i := h.inv j; ⟨i.regs, i.mem, i.ring, i.shape.1, i.shape.2.1, i.shape.2.2.1, i.shape.2.2.2.1, i.shape.2.2.2.2⟩

theorem KeepsMk.set_clk {ps : List Part} {as : List Area} {s x : State} {vclk : Clk}
    (h : Keeps ps as s x) (hpclk : Within [.clk] ps)  :
    KeepsMk ps as s { x with clk := vclk } where
  parts := fun p hq hb => by
    have := h.parts p hq hb
    cases p <;> first | exact this | exact absurd (hpclk _ List.mem_cons_self) hq
  beyond := h.beyond
  regs := h.regs
  inv := fun j => let i := h.inv j; ⟨i.regs, i.mem, i.ring, i.shape.1, i.shape.2.1, i.shape.2.2.1, i.shape.2.2.2.1, i.shape.2.2.2.2⟩

theorem KeepsMk.set_collectHeld {ps : List Part} {as : List Area} {s x : State} {vcollectHeld : List HeldTile}
    (h : Keeps ps as s x) (hpcollectHeld : Within [.collectHeld] ps)  :
    KeepsMk ps as s { x with collectHeld := vcollectHeld } where
  parts := fun p hq hb => by
    have := h.parts p hq hb
    cases p <;> first | exact this | exact absurd (hpcollectHeld _ List.mem_cons_self) hq
  beyond := h.beyond
  regs := h.regs
  inv := fun j => let i := h.inv j; ⟨i.regs, i.mem, i.ring, i.shape.1, i.shape.2.1, i.shape.2.2.1, i.shape.2.2.2.1, i.shape.2.2.2.2⟩

theorem KeepsMk.set_collects {ps : List Part} {as : List Area} {s x : State} {vcollects : List Collect}
    (h : Keeps ps as s x) (hpcollects : Within [.collects] ps)  :
    KeepsMk ps as s { x with collects := vcollects } where
  parts := fun p hq hb => by
    have := h.parts p hq hb
    cases p <;> first | exact this | exact absurd (hpcollects _ List.mem_cons_self) hq
  beyond := h.beyond
  regs := h.regs
  inv := fun j => let i := h.inv j; ⟨i.regs, i.mem, i.ring, i.shape.1, i.shape.2.1, i.shape.2.2.1, i.shape.2.2.2.1, i.shape.2.2.2.2⟩

theorem KeepsMk.set_commits {ps : List Part} {as : List Area} {s x : State} {vcommits : Commits}
    (h : Keeps ps as s x) (hpcommits : Within [.commits] ps)  :
    KeepsMk ps as s { x with commits := vcommits } where
  parts := fun p hq hb => by
    have := h.parts p hq hb
    cases p <;> first | exact this | exact absurd (hpcommits _ List.mem_cons_self) hq
  beyond := h.beyond
  regs := h.regs
  inv := fun j => let i := h.inv j; ⟨i.regs, i.mem, i.ring, i.shape.1, i.shape.2.1, i.shape.2.2.1, i.shape.2.2.2.1, i.shape.2.2.2.2⟩

theorem KeepsMk.set_dat {ps : List Part} {as : List Area} {s x : State} {vdat : Dat}
    (h : Keeps ps as s x) (hpdat : Within [.dat] ps)  :
    KeepsMk ps as s { x with dat := vdat } where
  parts := fun p hq hb => by
    have := h.parts p hq hb
    cases p <;> first | exact this | exact absurd (hpdat _ List.mem_cons_self) hq
  beyond := h.beyond
  regs := h.regs
  inv := fun j => let i := h.inv j; ⟨i.regs, i.mem, i.ring, i.shape.1, i.shape.2.1, i.shape.2.2.1, i.shape.2.2.2.1, i.shape.2.2.2.2⟩

theorem KeepsMk.set_dedup {ps : List Part} {as : List Area} {s x : State} {vdedup : Dedup}
    (h : Keeps ps as s x) (hpdedup : Within [.dedup] ps)  :
    KeepsMk ps as s { x with dedup := vdedup } where
  parts := fun p hq hb => by
    have := h.parts p hq hb
    cases p <;> first | exact this | exact absurd (hpdedup _ List.mem_cons_self) hq
  beyond := h.beyond
  regs := h.regs
  inv := fun j => let i := h.inv j; ⟨i.regs, i.mem, i.ring, i.shape.1, i.shape.2.1, i.shape.2.2.1, i.shape.2.2.2.1, i.shape.2.2.2.2⟩

theorem KeepsMk.set_demand {ps : List Part} {as : List Area} {s x : State} {vdemand : List Demand}
    (h : Keeps ps as s x) (hpdemand : Within [.demand] ps)  :
    KeepsMk ps as s { x with demand := vdemand } where
  parts := fun p hq hb => by
    have := h.parts p hq hb
    cases p <;> first | exact this | exact absurd (hpdemand _ List.mem_cons_self) hq
  beyond := h.beyond
  regs := h.regs
  inv := fun j => let i := h.inv j; ⟨i.regs, i.mem, i.ring, i.shape.1, i.shape.2.1, i.shape.2.2.1, i.shape.2.2.2.1, i.shape.2.2.2.2⟩

theorem KeepsMk.set_devKey {ps : List Part} {as : List Area} {s x : State} {vdevKey : Option DevKey}
    (h : Keeps ps as s x) (hpdevKey : Within [.devKey] ps)  :
    KeepsMk ps as s { x with devKey := vdevKey } where
  parts := fun p hq hb => by
    have := h.parts p hq hb
    cases p <;> first | exact this | exact absurd (hpdevKey _ List.mem_cons_self) hq
  beyond := h.beyond
  regs := h.regs
  inv := fun j => let i := h.inv j; ⟨i.regs, i.mem, i.ring, i.shape.1, i.shape.2.1, i.shape.2.2.1, i.shape.2.2.2.1, i.shape.2.2.2.2⟩

theorem KeepsMk.set_feeds {ps : List Part} {as : List Area} {s x : State} {vfeeds : List Feed}
    (h : Keeps ps as s x) (hpfeeds : Within [.feeds] ps)  :
    KeepsMk ps as s { x with feeds := vfeeds } where
  parts := fun p hq hb => by
    have := h.parts p hq hb
    cases p <;> first | exact this | exact absurd (hpfeeds _ List.mem_cons_self) hq
  beyond := h.beyond
  regs := h.regs
  inv := fun j => let i := h.inv j; ⟨i.regs, i.mem, i.ring, i.shape.1, i.shape.2.1, i.shape.2.2.1, i.shape.2.2.2.1, i.shape.2.2.2.2⟩

theorem KeepsMk.set_fenceSelf {ps : List Part} {as : List Area} {s x : State} {vfenceSelf : Bool}
    (h : Keeps ps as s x) (hpfenceSelf : Within [.fenceSelf] ps)  :
    KeepsMk ps as s { x with fenceSelf := vfenceSelf } where
  parts := fun p hq hb => by
    have := h.parts p hq hb
    cases p <;> first | exact this | exact absurd (hpfenceSelf _ List.mem_cons_self) hq
  beyond := h.beyond
  regs := h.regs
  inv := fun j => let i := h.inv j; ⟨i.regs, i.mem, i.ring, i.shape.1, i.shape.2.1, i.shape.2.2.1, i.shape.2.2.2.1, i.shape.2.2.2.2⟩

theorem KeepsMk.set_fences {ps : List Part} {as : List Area} {s x : State} {vfences : List Nat}
    (h : Keeps ps as s x) (hpfences : Within [.fences] ps)  :
    KeepsMk ps as s { x with fences := vfences } where
  parts := fun p hq hb => by
    have := h.parts p hq hb
    cases p <;> first | exact this | exact absurd (hpfences _ List.mem_cons_self) hq
  beyond := h.beyond
  regs := h.regs
  inv := fun j => let i := h.inv j; ⟨i.regs, i.mem, i.ring, i.shape.1, i.shape.2.1, i.shape.2.2.1, i.shape.2.2.2.1, i.shape.2.2.2.2⟩

theorem KeepsMk.set_fep {ps : List Part} {as : List Area} {s x : State} {vfep : Fep}
    (h : Keeps ps as s x) (hpfep : Within [.fep] ps)  :
    KeepsMk ps as s { x with fep := vfep } where
  parts := fun p hq hb => by
    have := h.parts p hq hb
    cases p <;> first | exact this | exact absurd (hpfep _ List.mem_cons_self) hq
  beyond := h.beyond
  regs := h.regs
  inv := fun j => let i := h.inv j; ⟨i.regs, i.mem, i.ring, i.shape.1, i.shape.2.1, i.shape.2.2.1, i.shape.2.2.2.1, i.shape.2.2.2.2⟩

theorem KeepsMk.set_freshCount {ps : List Part} {as : List Area} {s x : State} {vfreshCount : Nat}
    (h : Keeps ps as s x) (hpfreshCount : Within [.freshCount] ps)  :
    KeepsMk ps as s { x with freshCount := vfreshCount } where
  parts := fun p hq hb => by
    have := h.parts p hq hb
    cases p <;> first | exact this | exact absurd (hpfreshCount _ List.mem_cons_self) hq
  beyond := h.beyond
  regs := h.regs
  inv := fun j => let i := h.inv j; ⟨i.regs, i.mem, i.ring, i.shape.1, i.shape.2.1, i.shape.2.2.1, i.shape.2.2.2.1, i.shape.2.2.2.2⟩

theorem KeepsMk.set_fuses {ps : List Part} {as : List Area} {s x : State} {vfuses : Fuses}
    (h : Keeps ps as s x) (hpfuses : Within [.fuses] ps)  :
    KeepsMk ps as s { x with fuses := vfuses } where
  parts := fun p hq hb => by
    have := h.parts p hq hb
    cases p <;> first | exact this | exact absurd (hpfuses _ List.mem_cons_self) hq
  beyond := h.beyond
  regs := h.regs
  inv := fun j => let i := h.inv j; ⟨i.regs, i.mem, i.ring, i.shape.1, i.shape.2.1, i.shape.2.2.1, i.shape.2.2.2.1, i.shape.2.2.2.2⟩

theorem KeepsMk.set_gen {ps : List Part} {as : List Area} {s x : State} {vgen : Nat}
    (h : Keeps ps as s x) (hpgen : Within [.gen] ps)  :
    KeepsMk ps as s { x with gen := vgen } where
  parts := fun p hq hb => by
    have := h.parts p hq hb
    cases p <;> first | exact this | exact absurd (hpgen _ List.mem_cons_self) hq
  beyond := h.beyond
  regs := h.regs
  inv := fun j => let i := h.inv j; ⟨i.regs, i.mem, i.ring, i.shape.1, i.shape.2.1, i.shape.2.2.1, i.shape.2.2.2.1, i.shape.2.2.2.2⟩

theorem KeepsMk.set_halves {ps : List Part} {as : List Area} {s x : State} {vhalves : List Half}
    (h : Keeps ps as s x) (hphalves : Within [.halves] ps)  :
    KeepsMk ps as s { x with halves := vhalves } where
  parts := fun p hq hb => by
    have := h.parts p hq hb
    cases p <;> first | exact this | exact absurd (hphalves _ List.mem_cons_self) hq
  beyond := h.beyond
  regs := h.regs
  inv := fun j => let i := h.inv j; ⟨i.regs, i.mem, i.ring, i.shape.1, i.shape.2.1, i.shape.2.2.1, i.shape.2.2.2.1, i.shape.2.2.2.2⟩

theorem KeepsMk.set_handed {ps : List Part} {as : List Area} {s x : State} {vhanded : List Handed}
    (h : Keeps ps as s x) (hphanded : Within [.handed] ps)  :
    KeepsMk ps as s { x with handed := vhanded } where
  parts := fun p hq hb => by
    have := h.parts p hq hb
    cases p <;> first | exact this | exact absurd (hphanded _ List.mem_cons_self) hq
  beyond := h.beyond
  regs := h.regs
  inv := fun j => let i := h.inv j; ⟨i.regs, i.mem, i.ring, i.shape.1, i.shape.2.1, i.shape.2.2.1, i.shape.2.2.2.1, i.shape.2.2.2.2⟩

theorem KeepsMk.set_homes {ps : List Part} {as : List Area} {s x : State} {vhomes : List HomeTally}
    (h : Keeps ps as s x) (hphomes : Within [.homes] ps)  :
    KeepsMk ps as s { x with homes := vhomes } where
  parts := fun p hq hb => by
    have := h.parts p hq hb
    cases p <;> first | exact this | exact absurd (hphomes _ List.mem_cons_self) hq
  beyond := h.beyond
  regs := h.regs
  inv := fun j => let i := h.inv j; ⟨i.regs, i.mem, i.ring, i.shape.1, i.shape.2.1, i.shape.2.2.1, i.shape.2.2.2.1, i.shape.2.2.2.2⟩

theorem KeepsMk.set_ingestHeld {ps : List Part} {as : List Area} {s x : State} {vingestHeld : List HeldTile}
    (h : Keeps ps as s x) (hpingestHeld : Within [.ingestHeld] ps)  :
    KeepsMk ps as s { x with ingestHeld := vingestHeld } where
  parts := fun p hq hb => by
    have := h.parts p hq hb
    cases p <;> first | exact this | exact absurd (hpingestHeld _ List.mem_cons_self) hq
  beyond := h.beyond
  regs := h.regs
  inv := fun j => let i := h.inv j; ⟨i.regs, i.mem, i.ring, i.shape.1, i.shape.2.1, i.shape.2.2.1, i.shape.2.2.2.1, i.shape.2.2.2.2⟩

theorem KeepsMk.set_latched {ps : List Part} {as : List Area} {s x : State} {vlatched : Store Word32}
    (h : Keeps ps as s x) (hplatched : Within [.latched] ps)  :
    KeepsMk ps as s { x with latched := vlatched } where
  parts := fun p hq hb => by
    have := h.parts p hq hb
    cases p <;> first | exact this | exact absurd (hplatched _ List.mem_cons_self) hq
  beyond := h.beyond
  regs := h.regs
  inv := fun j => let i := h.inv j; ⟨i.regs, i.mem, i.ring, i.shape.1, i.shape.2.1, i.shape.2.2.1, i.shape.2.2.2.1, i.shape.2.2.2.2⟩

theorem KeepsMk.set_ldr {ps : List Part} {as : List Area} {s x : State} {vldr : Loader}
    (h : Keeps ps as s x) (hpldr : Within [.ldr] ps)  :
    KeepsMk ps as s { x with ldr := vldr } where
  parts := fun p hq hb => by
    have := h.parts p hq hb
    cases p <;> first | exact this | exact absurd (hpldr _ List.mem_cons_self) hq
  beyond := h.beyond
  regs := h.regs
  inv := fun j => let i := h.inv j; ⟨i.regs, i.mem, i.ring, i.shape.1, i.shape.2.1, i.shape.2.2.1, i.shape.2.2.2.1, i.shape.2.2.2.2⟩

theorem KeepsMk.set_lst {ps : List Part} {as : List Area} {s x : State} {vlst : ChangeList}
    (h : Keeps ps as s x) (hplst : Within [.lst] ps)  :
    KeepsMk ps as s { x with lst := vlst } where
  parts := fun p hq hb => by
    have := h.parts p hq hb
    cases p <;> first | exact this | exact absurd (hplst _ List.mem_cons_self) hq
  beyond := h.beyond
  regs := h.regs
  inv := fun j => let i := h.inv j; ⟨i.regs, i.mem, i.ring, i.shape.1, i.shape.2.1, i.shape.2.2.1, i.shape.2.2.2.1, i.shape.2.2.2.2⟩

theorem KeepsMk.set_mem {ps : List Part} {as : List Area} {s x : State} {vmem : Store Byte}
    (h : Keeps ps as s x) (hpmem : Within [.mem, .beyond] ps) (hm : Memory.wf x.mem = true → Memory.wf vmem = true) :
    KeepsMk ps as s { x with mem := vmem } where
  parts := fun p hq hb => by
    have := h.parts p hq hb
    cases p <;> first | exact this | exact absurd (hpmem _ List.mem_cons_self) hq | exact absurd rfl hb
  beyond := fun hq _ => absurd (hpmem .beyond (by decide)) hq
  regs := h.regs
  inv := fun j => let i := h.inv j; ⟨i.regs, hm i.mem, i.ring, i.shape.1, i.shape.2.1, i.shape.2.2.1, i.shape.2.2.2.1, i.shape.2.2.2.2⟩

theorem KeepsMk.set_mgmtNext {ps : List Part} {as : List Area} {s x : State} {vmgmtNext : Nat}
    (h : Keeps ps as s x) (hpmgmtNext : Within [.mgmtNext] ps)  :
    KeepsMk ps as s { x with mgmtNext := vmgmtNext } where
  parts := fun p hq hb => by
    have := h.parts p hq hb
    cases p <;> first | exact this | exact absurd (hpmgmtNext _ List.mem_cons_self) hq
  beyond := h.beyond
  regs := h.regs
  inv := fun j => let i := h.inv j; ⟨i.regs, i.mem, i.ring, i.shape.1, i.shape.2.1, i.shape.2.2.1, i.shape.2.2.2.1, i.shape.2.2.2.2⟩

theorem KeepsMk.set_note {ps : List Part} {as : List Area} {s x : State} {vnote : Notes}
    (h : Keeps ps as s x) (hpnote : Within [.note] ps)  :
    KeepsMk ps as s { x with note := vnote } where
  parts := fun p hq hb => by
    have := h.parts p hq hb
    cases p <;> first | exact this | exact absurd (hpnote _ List.mem_cons_self) hq
  beyond := h.beyond
  regs := h.regs
  inv := fun j => let i := h.inv j; ⟨i.regs, i.mem, i.ring, i.shape.1, i.shape.2.1, i.shape.2.2.1, i.shape.2.2.2.1, i.shape.2.2.2.2⟩

theorem KeepsMk.set_orphans {ps : List Part} {as : List Area} {s x : State} {vorphans : List LoanTable}
    (h : Keeps ps as s x) (hporphans : Within [.orphans] ps)  :
    KeepsMk ps as s { x with orphans := vorphans } where
  parts := fun p hq hb => by
    have := h.parts p hq hb
    cases p <;> first | exact this | exact absurd (hporphans _ List.mem_cons_self) hq
  beyond := h.beyond
  regs := h.regs
  inv := fun j => let i := h.inv j; ⟨i.regs, i.mem, i.ring, i.shape.1, i.shape.2.1, i.shape.2.2.1, i.shape.2.2.2.1, i.shape.2.2.2.2⟩

theorem KeepsMk.set_out {ps : List Part} {as : List Area} {s x : State} {vout : List Out}
    (h : Keeps ps as s x) (hpout : Within [.out] ps)  :
    KeepsMk ps as s { x with out := vout } where
  parts := fun p hq hb => by
    have := h.parts p hq hb
    cases p <;> first | exact this | exact absurd (hpout _ List.mem_cons_self) hq
  beyond := h.beyond
  regs := h.regs
  inv := fun j => let i := h.inv j; ⟨i.regs, i.mem, i.ring, i.shape.1, i.shape.2.1, i.shape.2.2.1, i.shape.2.2.2.1, i.shape.2.2.2.2⟩

theorem KeepsMk.set_pending {ps : List Part} {as : List Area} {s x : State} {vpending : List Instr}
    (h : Keeps ps as s x) (hppending : Within [.pending] ps)  :
    KeepsMk ps as s { x with pending := vpending } where
  parts := fun p hq hb => by
    have := h.parts p hq hb
    cases p <;> first | exact this | exact absurd (hppending _ List.mem_cons_self) hq
  beyond := h.beyond
  regs := h.regs
  inv := fun j => let i := h.inv j; ⟨i.regs, i.mem, i.ring, i.shape.1, i.shape.2.1, i.shape.2.2.1, i.shape.2.2.2.1, i.shape.2.2.2.2⟩

theorem KeepsMk.set_pools {ps : List Part} {as : List Area} {s x : State} {vpools : Pools}
    (h : Keeps ps as s x) (hppools : Within [.pools] ps) (hpools : x.pools.pools.length = 6 → vpools.pools.length = 6) :
    KeepsMk ps as s { x with pools := vpools } where
  parts := fun p hq hb => by
    have := h.parts p hq hb
    cases p <;> first | exact this | exact absurd (hppools _ List.mem_cons_self) hq
  beyond := h.beyond
  regs := h.regs
  inv := fun j => let i := h.inv j; ⟨i.regs, i.mem, i.ring, i.shape.1, i.shape.2.1, i.shape.2.2.1, hpools i.shape.2.2.2.1, i.shape.2.2.2.2⟩

theorem KeepsMk.set_ports {ps : List Part} {as : List Area} {s x : State} {vports : List Port}
    (h : Keeps ps as s x) (hpports : Within [.ports] ps) (hports : x.ports.length = 24 → vports.length = 24) :
    KeepsMk ps as s { x with ports := vports } where
  parts := fun p hq hb => by
    have := h.parts p hq hb
    cases p <;> first | exact this | exact absurd (hpports _ List.mem_cons_self) hq
  beyond := h.beyond
  regs := h.regs
  inv := fun j => let i := h.inv j; ⟨i.regs, i.mem, i.ring, hports i.shape.1, i.shape.2.1, i.shape.2.2.1, i.shape.2.2.2.1, i.shape.2.2.2.2⟩

theorem KeepsMk.set_prevT {ps : List Part} {as : List Area} {s x : State} {vprevT : Nat}
    (h : Keeps ps as s x) (hpprevT : Within [.prevT] ps)  :
    KeepsMk ps as s { x with prevT := vprevT } where
  parts := fun p hq hb => by
    have := h.parts p hq hb
    cases p <;> first | exact this | exact absurd (hpprevT _ List.mem_cons_self) hq
  beyond := h.beyond
  regs := h.regs
  inv := fun j => let i := h.inv j; ⟨i.regs, i.mem, i.ring, i.shape.1, i.shape.2.1, i.shape.2.2.1, i.shape.2.2.2.1, i.shape.2.2.2.2⟩

theorem KeepsMk.set_probes {ps : List Part} {as : List Area} {s x : State} {vprobes : List Probe}
    (h : Keeps ps as s x) (hpprobes : Within [.probes] ps)  :
    KeepsMk ps as s { x with probes := vprobes } where
  parts := fun p hq hb => by
    have := h.parts p hq hb
    cases p <;> first | exact this | exact absurd (hpprobes _ List.mem_cons_self) hq
  beyond := h.beyond
  regs := h.regs
  inv := fun j => let i := h.inv j; ⟨i.regs, i.mem, i.ring, i.shape.1, i.shape.2.1, i.shape.2.2.1, i.shape.2.2.2.1, i.shape.2.2.2.2⟩

theorem KeepsMk.set_quarActing {ps : List Part} {as : List Area} {s x : State} {vquarActing : List Nat}
    (h : Keeps ps as s x) (hpquarActing : Within [.quarActing] ps)  :
    KeepsMk ps as s { x with quarActing := vquarActing } where
  parts := fun p hq hb => by
    have := h.parts p hq hb
    cases p <;> first | exact this | exact absurd (hpquarActing _ List.mem_cons_self) hq
  beyond := h.beyond
  regs := h.regs
  inv := fun j => let i := h.inv j; ⟨i.regs, i.mem, i.ring, i.shape.1, i.shape.2.1, i.shape.2.2.1, i.shape.2.2.2.1, i.shape.2.2.2.2⟩

theorem KeepsMk.set_quarPending {ps : List Part} {as : List Area} {s x : State} {vquarPending : List Quarantine}
    (h : Keeps ps as s x) (hpquarPending : Within [.quarPending] ps)  :
    KeepsMk ps as s { x with quarPending := vquarPending } where
  parts := fun p hq hb => by
    have := h.parts p hq hb
    cases p <;> first | exact this | exact absurd (hpquarPending _ List.mem_cons_self) hq
  beyond := h.beyond
  regs := h.regs
  inv := fun j => let i := h.inv j; ⟨i.regs, i.mem, i.ring, i.shape.1, i.shape.2.1, i.shape.2.2.1, i.shape.2.2.2.1, i.shape.2.2.2.2⟩

theorem KeepsMk.set_quarSeen {ps : List Part} {as : List Area} {s x : State} {vquarSeen : List Quarantine}
    (h : Keeps ps as s x) (hpquarSeen : Within [.quarSeen] ps)  :
    KeepsMk ps as s { x with quarSeen := vquarSeen } where
  parts := fun p hq hb => by
    have := h.parts p hq hb
    cases p <;> first | exact this | exact absurd (hpquarSeen _ List.mem_cons_self) hq
  beyond := h.beyond
  regs := h.regs
  inv := fun j => let i := h.inv j; ⟨i.regs, i.mem, i.ring, i.shape.1, i.shape.2.1, i.shape.2.2.1, i.shape.2.2.2.1, i.shape.2.2.2.2⟩

theorem KeepsMk.set_quarUndelivered {ps : List Part} {as : List Area} {s x : State} {vquarUndelivered : Nat}
    (h : Keeps ps as s x) (hpquarUndelivered : Within [.quarUndelivered] ps)  :
    KeepsMk ps as s { x with quarUndelivered := vquarUndelivered } where
  parts := fun p hq hb => by
    have := h.parts p hq hb
    cases p <;> first | exact this | exact absurd (hpquarUndelivered _ List.mem_cons_self) hq
  beyond := h.beyond
  regs := h.regs
  inv := fun j => let i := h.inv j; ⟨i.regs, i.mem, i.ring, i.shape.1, i.shape.2.1, i.shape.2.2.1, i.shape.2.2.2.1, i.shape.2.2.2.2⟩

theorem KeepsMk.set_raiseDue {ps : List Part} {as : List Area} {s x : State} {vraiseDue : Bool}
    (h : Keeps ps as s x) (hpraiseDue : Within [.raiseDue] ps)  :
    KeepsMk ps as s { x with raiseDue := vraiseDue } where
  parts := fun p hq hb => by
    have := h.parts p hq hb
    cases p <;> first | exact this | exact absurd (hpraiseDue _ List.mem_cons_self) hq
  beyond := h.beyond
  regs := h.regs
  inv := fun j => let i := h.inv j; ⟨i.regs, i.mem, i.ring, i.shape.1, i.shape.2.1, i.shape.2.2.1, i.shape.2.2.2.1, i.shape.2.2.2.2⟩

theorem KeepsMk.set_recv {ps : List Part} {as : List Area} {s x : State} {vrecv : List RxGroup}
    (h : Keeps ps as s x) (hprecv : Within [.recv] ps)  :
    KeepsMk ps as s { x with recv := vrecv } where
  parts := fun p hq hb => by
    have := h.parts p hq hb
    cases p <;> first | exact this | exact absurd (hprecv _ List.mem_cons_self) hq
  beyond := h.beyond
  regs := h.regs
  inv := fun j => let i := h.inv j; ⟨i.regs, i.mem, i.ring, i.shape.1, i.shape.2.1, i.shape.2.2.1, i.shape.2.2.2.1, i.shape.2.2.2.2⟩

theorem KeepsMk.set_rlog {ps : List Part} {as : List Area} {s x : State} {vrlog : RLog}
    (h : Keeps ps as s x) (hprlog : Within [.rlog] ps)  :
    KeepsMk ps as s { x with rlog := vrlog } where
  parts := fun p hq hb => by
    have := h.parts p hq hb
    cases p <;> first | exact this | exact absurd (hprlog _ List.mem_cons_self) hq
  beyond := h.beyond
  regs := h.regs
  inv := fun j => let i := h.inv j; ⟨i.regs, i.mem, i.ring, i.shape.1, i.shape.2.1, i.shape.2.2.1, i.shape.2.2.2.1, i.shape.2.2.2.2⟩

theorem KeepsMk.set_rma {ps : List Part} {as : List Area} {s x : State} {vrma : List RmaQueue}
    (h : Keeps ps as s x) (hprma : Within [.rma] ps) (hrma : x.rma.length = 16 → vrma.length = 16) :
    KeepsMk ps as s { x with rma := vrma } where
  parts := fun p hq hb => by
    have := h.parts p hq hb
    cases p <;> first | exact this | exact absurd (hprma _ List.mem_cons_self) hq
  beyond := h.beyond
  regs := h.regs
  inv := fun j => let i := h.inv j; ⟨i.regs, i.mem, i.ring, i.shape.1, i.shape.2.1, hrma i.shape.2.2.1, i.shape.2.2.2.1, i.shape.2.2.2.2⟩

theorem KeepsMk.set_rmaTurn {ps : List Part} {as : List Area} {s x : State} {vrmaTurn : Nat}
    (h : Keeps ps as s x) (hprmaTurn : Within [.rmaTurn] ps)  :
    KeepsMk ps as s { x with rmaTurn := vrmaTurn } where
  parts := fun p hq hb => by
    have := h.parts p hq hb
    cases p <;> first | exact this | exact absurd (hprmaTurn _ List.mem_cons_self) hq
  beyond := h.beyond
  regs := h.regs
  inv := fun j => let i := h.inv j; ⟨i.regs, i.mem, i.ring, i.shape.1, i.shape.2.1, i.shape.2.2.1, i.shape.2.2.2.1, i.shape.2.2.2.2⟩

theorem KeepsMk.set_rounds {ps : List Part} {as : List Area} {s x : State} {vrounds : List Round}
    (h : Keeps ps as s x) (hprounds : Within [.rounds] ps)  :
    KeepsMk ps as s { x with rounds := vrounds } where
  parts := fun p hq hb => by
    have := h.parts p hq hb
    cases p <;> first | exact this | exact absurd (hprounds _ List.mem_cons_self) hq
  beyond := h.beyond
  regs := h.regs
  inv := fun j => let i := h.inv j; ⟨i.regs, i.mem, i.ring, i.shape.1, i.shape.2.1, i.shape.2.2.1, i.shape.2.2.2.1, i.shape.2.2.2.2⟩

theorem KeepsMk.set_run {ps : List Part} {as : List Area} {s x : State} {vrun : Option Run}
    (h : Keeps ps as s x) (hprun : Within [.run] ps)  :
    KeepsMk ps as s { x with run := vrun } where
  parts := fun p hq hb => by
    have := h.parts p hq hb
    cases p <;> first | exact this | exact absurd (hprun _ List.mem_cons_self) hq
  beyond := h.beyond
  regs := h.regs
  inv := fun j => let i := h.inv j; ⟨i.regs, i.mem, i.ring, i.shape.1, i.shape.2.1, i.shape.2.2.1, i.shape.2.2.2.1, i.shape.2.2.2.2⟩

theorem KeepsMk.set_sec {ps : List Part} {as : List Area} {s x : State} {vsec : Sec}
    (h : Keeps ps as s x) (hpsec : Within [.sec] ps)  :
    KeepsMk ps as s { x with sec := vsec } where
  parts := fun p hq hb => by
    have := h.parts p hq hb
    cases p <;> first | exact this | exact absurd (hpsec _ List.mem_cons_self) hq
  beyond := h.beyond
  regs := h.regs
  inv := fun j => let i := h.inv j; ⟨i.regs, i.mem, i.ring, i.shape.1, i.shape.2.1, i.shape.2.2.1, i.shape.2.2.2.1, i.shape.2.2.2.2⟩

theorem KeepsMk.set_sfuCopying {ps : List Part} {as : List Area} {s x : State} {vsfuCopying : Bool}
    (h : Keeps ps as s x) (hpsfuCopying : Within [.sfuCopying] ps)  :
    KeepsMk ps as s { x with sfuCopying := vsfuCopying } where
  parts := fun p hq hb => by
    have := h.parts p hq hb
    cases p <;> first | exact this | exact absurd (hpsfuCopying _ List.mem_cons_self) hq
  beyond := h.beyond
  regs := h.regs
  inv := fun j => let i := h.inv j; ⟨i.regs, i.mem, i.ring, i.shape.1, i.shape.2.1, i.shape.2.2.1, i.shape.2.2.2.1, i.shape.2.2.2.2⟩

theorem KeepsMk.set_sfuLocked {ps : List Part} {as : List Area} {s x : State} {vsfuLocked : Bool}
    (h : Keeps ps as s x) (hpsfuLocked : Within [.sfuLocked] ps)  :
    KeepsMk ps as s { x with sfuLocked := vsfuLocked } where
  parts := fun p hq hb => by
    have := h.parts p hq hb
    cases p <;> first | exact this | exact absurd (hpsfuLocked _ List.mem_cons_self) hq
  beyond := h.beyond
  regs := h.regs
  inv := fun j => let i := h.inv j; ⟨i.regs, i.mem, i.ring, i.shape.1, i.shape.2.1, i.shape.2.2.1, i.shape.2.2.2.1, i.shape.2.2.2.2⟩

theorem KeepsMk.set_sfuVersion {ps : List Part} {as : List Area} {s x : State} {vsfuVersion : Nat}
    (h : Keeps ps as s x) (hpsfuVersion : Within [.sfuVersion] ps)  :
    KeepsMk ps as s { x with sfuVersion := vsfuVersion } where
  parts := fun p hq hb => by
    have := h.parts p hq hb
    cases p <;> first | exact this | exact absurd (hpsfuVersion _ List.mem_cons_self) hq
  beyond := h.beyond
  regs := h.regs
  inv := fun j => let i := h.inv j; ⟨i.regs, i.mem, i.ring, i.shape.1, i.shape.2.1, i.shape.2.2.1, i.shape.2.2.2.1, i.shape.2.2.2.2⟩

theorem KeepsMk.set_sortCounters {ps : List Part} {as : List Area} {s x : State} {vsortCounters : List Nat}
    (h : Keeps ps as s x) (hpsortCounters : Within [.sortCounters] ps)  :
    KeepsMk ps as s { x with sortCounters := vsortCounters } where
  parts := fun p hq hb => by
    have := h.parts p hq hb
    cases p <;> first | exact this | exact absurd (hpsortCounters _ List.mem_cons_self) hq
  beyond := h.beyond
  regs := h.regs
  inv := fun j => let i := h.inv j; ⟨i.regs, i.mem, i.ring, i.shape.1, i.shape.2.1, i.shape.2.2.1, i.shape.2.2.2.1, i.shape.2.2.2.2⟩

theorem KeepsMk.set_stepNum {ps : List Part} {as : List Area} {s x : State} {vstepNum : Nat}
    (h : Keeps ps as s x) (hpstepNum : Within [.stepNum] ps)  :
    KeepsMk ps as s { x with stepNum := vstepNum } where
  parts := fun p hq hb => by
    have := h.parts p hq hb
    cases p <;> first | exact this | exact absurd (hpstepNum _ List.mem_cons_self) hq
  beyond := h.beyond
  regs := h.regs
  inv := fun j => let i := h.inv j; ⟨i.regs, i.mem, i.ring, i.shape.1, i.shape.2.1, i.shape.2.2.1, i.shape.2.2.2.1, i.shape.2.2.2.2⟩

theorem KeepsMk.set_tap {ps : List Part} {as : List Area} {s x : State} {vtap : Tap}
    (h : Keeps ps as s x) (hptap : Within [.tap] ps)  :
    KeepsMk ps as s { x with tap := vtap } where
  parts := fun p hq hb => by
    have := h.parts p hq hb
    cases p <;> first | exact this | exact absurd (hptap _ List.mem_cons_self) hq
  beyond := h.beyond
  regs := h.regs
  inv := fun j => let i := h.inv j; ⟨i.regs, i.mem, i.ring, i.shape.1, i.shape.2.1, i.shape.2.2.1, i.shape.2.2.2.1, i.shape.2.2.2.2⟩

theorem KeepsMk.set_tb {ps : List Part} {as : List Area} {s x : State} {vtb : Nat}
    (h : Keeps ps as s x) (hptb : Within [.tb] ps)  :
    KeepsMk ps as s { x with tb := vtb } where
  parts := fun p hq hb => by
    have := h.parts p hq hb
    cases p <;> first | exact this | exact absurd (hptb _ List.mem_cons_self) hq
  beyond := h.beyond
  regs := h.regs
  inv := fun j => let i := h.inv j; ⟨i.regs, i.mem, i.ring, i.shape.1, i.shape.2.1, i.shape.2.2.1, i.shape.2.2.2.1, i.shape.2.2.2.2⟩

theorem KeepsMk.set_tbExhausted {ps : List Part} {as : List Area} {s x : State} {vtbExhausted : Bool}
    (h : Keeps ps as s x) (hptbExhausted : Within [.tbExhausted] ps)  :
    KeepsMk ps as s { x with tbExhausted := vtbExhausted } where
  parts := fun p hq hb => by
    have := h.parts p hq hb
    cases p <;> first | exact this | exact absurd (hptbExhausted _ List.mem_cons_self) hq
  beyond := h.beyond
  regs := h.regs
  inv := fun j => let i := h.inv j; ⟨i.regs, i.mem, i.ring, i.shape.1, i.shape.2.1, i.shape.2.2.1, i.shape.2.2.2.1, i.shape.2.2.2.2⟩

theorem KeepsMk.set_tbRun {ps : List Part} {as : List Area} {s x : State} {vtbRun : Bool}
    (h : Keeps ps as s x) (hptbRun : Within [.tbRun] ps)  :
    KeepsMk ps as s { x with tbRun := vtbRun } where
  parts := fun p hq hb => by
    have := h.parts p hq hb
    cases p <;> first | exact this | exact absurd (hptbRun _ List.mem_cons_self) hq
  beyond := h.beyond
  regs := h.regs
  inv := fun j => let i := h.inv j; ⟨i.regs, i.mem, i.ring, i.shape.1, i.shape.2.1, i.shape.2.2.1, i.shape.2.2.2.1, i.shape.2.2.2.2⟩

theorem KeepsMk.set_tokenLast {ps : List Part} {as : List Area} {s x : State} {vtokenLast : List (Option TileHdr)}
    (h : Keeps ps as s x) (hptokenLast : Within [.tokenLast] ps)  :
    KeepsMk ps as s { x with tokenLast := vtokenLast } where
  parts := fun p hq hb => by
    have := h.parts p hq hb
    cases p <;> first | exact this | exact absurd (hptokenLast _ List.mem_cons_self) hq
  beyond := h.beyond
  regs := h.regs
  inv := fun j => let i := h.inv j; ⟨i.regs, i.mem, i.ring, i.shape.1, i.shape.2.1, i.shape.2.2.1, i.shape.2.2.2.1, i.shape.2.2.2.2⟩

theorem KeepsMk.set_tports {ps : List Part} {as : List Area} {s x : State} {vtports : List TPort}
    (h : Keeps ps as s x) (hptports : Within [.tports] ps) (htports : x.tports.length = 16 → vtports.length = 16) :
    KeepsMk ps as s { x with tports := vtports } where
  parts := fun p hq hb => by
    have := h.parts p hq hb
    cases p <;> first | exact this | exact absurd (hptports _ List.mem_cons_self) hq
  beyond := h.beyond
  regs := h.regs
  inv := fun j => let i := h.inv j; ⟨i.regs, i.mem, i.ring, i.shape.1, htports i.shape.2.1, i.shape.2.2.1, i.shape.2.2.2.1, i.shape.2.2.2.2⟩

theorem KeepsMk.set_trace {ps : List Part} {as : List Area} {s x : State} {vtrace : Trace}
    (h : Keeps ps as s x) (hptrace : Within [.trace] ps) (hring : Memory.wf x.trace.ring = true → Memory.wf vtrace.ring = true) (hlanes : x.trace.lanes.length = 8 → vtrace.lanes.length = 8) :
    KeepsMk ps as s { x with trace := vtrace } where
  parts := fun p hq hb => by
    have := h.parts p hq hb
    cases p <;> first | exact this | exact absurd (hptrace _ List.mem_cons_self) hq
  beyond := h.beyond
  regs := h.regs
  inv := fun j => let i := h.inv j; ⟨i.regs, i.mem, hring i.ring, i.shape.1, i.shape.2.1, i.shape.2.2.1, i.shape.2.2.2.1, hlanes i.shape.2.2.2.2⟩

theorem KeepsMk.set_unfences {ps : List Part} {as : List Area} {s x : State} {vunfences : List Nat}
    (h : Keeps ps as s x) (hpunfences : Within [.unfences] ps)  :
    KeepsMk ps as s { x with unfences := vunfences } where
  parts := fun p hq hb => by
    have := h.parts p hq hb
    cases p <;> first | exact this | exact absurd (hpunfences _ List.mem_cons_self) hq
  beyond := h.beyond
  regs := h.regs
  inv := fun j => let i := h.inv j; ⟨i.regs, i.mem, i.ring, i.shape.1, i.shape.2.1, i.shape.2.2.1, i.shape.2.2.2.1, i.shape.2.2.2.2⟩

theorem KeepsMk.set_verdict {ps : List Part} {as : List Area} {s x : State} {vverdict : VerdictRec}
    (h : Keeps ps as s x) (hpverdict : Within [.verdict] ps)  :
    KeepsMk ps as s { x with verdict := vverdict } where
  parts := fun p hq hb => by
    have := h.parts p hq hb
    cases p <;> first | exact this | exact absurd (hpverdict _ List.mem_cons_self) hq
  beyond := h.beyond
  regs := h.regs
  inv := fun j => let i := h.inv j; ⟨i.regs, i.mem, i.ring, i.shape.1, i.shape.2.1, i.shape.2.2.1, i.shape.2.2.2.1, i.shape.2.2.2.2⟩

theorem KeepsMk.set_boot_devKey {ps : List Part} {as : List Area} {s x : State} {vboot : Boot} {vdevKey : Option DevKey}
    (h : Keeps ps as s x) (hpboot : Within [.boot] ps) (hpdevKey : Within [.devKey] ps)  :
    KeepsMk ps as s { x with boot := vboot, devKey := vdevKey } where
  parts := fun p hq hb => by
    have := h.parts p hq hb
    cases p <;> first | exact this | exact absurd (hpboot _ List.mem_cons_self) hq | exact absurd (hpdevKey _ List.mem_cons_self) hq
  beyond := h.beyond
  regs := h.regs
  inv := fun j => let i := h.inv j; ⟨i.regs, i.mem, i.ring, i.shape.1, i.shape.2.1, i.shape.2.2.1, i.shape.2.2.2.1, i.shape.2.2.2.2⟩

theorem KeepsMk.set_boot_sfuCopying {ps : List Part} {as : List Area} {s x : State} {vboot : Boot} {vsfuCopying : Bool}
    (h : Keeps ps as s x) (hpboot : Within [.boot] ps) (hpsfuCopying : Within [.sfuCopying] ps)  :
    KeepsMk ps as s { x with boot := vboot, sfuCopying := vsfuCopying } where
  parts := fun p hq hb => by
    have := h.parts p hq hb
    cases p <;> first | exact this | exact absurd (hpboot _ List.mem_cons_self) hq | exact absurd (hpsfuCopying _ List.mem_cons_self) hq
  beyond := h.beyond
  regs := h.regs
  inv := fun j => let i := h.inv j; ⟨i.regs, i.mem, i.ring, i.shape.1, i.shape.2.1, i.shape.2.2.1, i.shape.2.2.2.1, i.shape.2.2.2.2⟩

theorem KeepsMk.set_cad_lst {ps : List Part} {as : List Area} {s x : State} {vcad : Store (List Word32)} {vlst : ChangeList}
    (h : Keeps ps as s x) (hpcad : Within [.cad] ps) (hplst : Within [.lst] ps)  :
    KeepsMk ps as s { x with cad := vcad, lst := vlst } where
  parts := fun p hq hb => by
    have := h.parts p hq hb
    cases p <;> first | exact this | exact absurd (hpcad _ List.mem_cons_self) hq | exact absurd (hplst _ List.mem_cons_self) hq
  beyond := h.beyond
  regs := h.regs
  inv := fun j => let i := h.inv j; ⟨i.regs, i.mem, i.ring, i.shape.1, i.shape.2.1, i.shape.2.2.1, i.shape.2.2.2.1, i.shape.2.2.2.2⟩

theorem KeepsMk.set_fep_ports {ps : List Part} {as : List Area} {s x : State} {vfep : Fep} {vports : List Port}
    (h : Keeps ps as s x) (hpfep : Within [.fep] ps) (hpports : Within [.ports] ps) (hports : x.ports.length = 24 → vports.length = 24) :
    KeepsMk ps as s { x with fep := vfep, ports := vports } where
  parts := fun p hq hb => by
    have := h.parts p hq hb
    cases p <;> first | exact this | exact absurd (hpfep _ List.mem_cons_self) hq | exact absurd (hpports _ List.mem_cons_self) hq
  beyond := h.beyond
  regs := h.regs
  inv := fun j => let i := h.inv j; ⟨i.regs, i.mem, i.ring, hports i.shape.1, i.shape.2.1, i.shape.2.2.1, i.shape.2.2.2.1, i.shape.2.2.2.2⟩

theorem KeepsMk.set_gen_raiseDue {ps : List Part} {as : List Area} {s x : State} {vgen : Nat} {vraiseDue : Bool}
    (h : Keeps ps as s x) (hpgen : Within [.gen] ps) (hpraiseDue : Within [.raiseDue] ps)  :
    KeepsMk ps as s { x with gen := vgen, raiseDue := vraiseDue } where
  parts := fun p hq hb => by
    have := h.parts p hq hb
    cases p <;> first | exact this | exact absurd (hpgen _ List.mem_cons_self) hq | exact absurd (hpraiseDue _ List.mem_cons_self) hq
  beyond := h.beyond
  regs := h.regs
  inv := fun j => let i := h.inv j; ⟨i.regs, i.mem, i.ring, i.shape.1, i.shape.2.1, i.shape.2.2.1, i.shape.2.2.2.1, i.shape.2.2.2.2⟩

theorem KeepsMk.set_ldr_quarPending {ps : List Part} {as : List Area} {s x : State} {vldr : Loader} {vquarPending : List Quarantine}
    (h : Keeps ps as s x) (hpldr : Within [.ldr] ps) (hpquarPending : Within [.quarPending] ps)  :
    KeepsMk ps as s { x with ldr := vldr, quarPending := vquarPending } where
  parts := fun p hq hb => by
    have := h.parts p hq hb
    cases p <;> first | exact this | exact absurd (hpldr _ List.mem_cons_self) hq | exact absurd (hpquarPending _ List.mem_cons_self) hq
  beyond := h.beyond
  regs := h.regs
  inv := fun j => let i := h.inv j; ⟨i.regs, i.mem, i.ring, i.shape.1, i.shape.2.1, i.shape.2.2.1, i.shape.2.2.2.1, i.shape.2.2.2.2⟩

theorem KeepsMk.set_ldr_sfuLocked {ps : List Part} {as : List Area} {s x : State} {vldr : Loader} {vsfuLocked : Bool}
    (h : Keeps ps as s x) (hpldr : Within [.ldr] ps) (hpsfuLocked : Within [.sfuLocked] ps)  :
    KeepsMk ps as s { x with ldr := vldr, sfuLocked := vsfuLocked } where
  parts := fun p hq hb => by
    have := h.parts p hq hb
    cases p <;> first | exact this | exact absurd (hpldr _ List.mem_cons_self) hq | exact absurd (hpsfuLocked _ List.mem_cons_self) hq
  beyond := h.beyond
  regs := h.regs
  inv := fun j => let i := h.inv j; ⟨i.regs, i.mem, i.ring, i.shape.1, i.shape.2.1, i.shape.2.2.1, i.shape.2.2.2.1, i.shape.2.2.2.2⟩

theorem KeepsMk.set_probes_mgmtNext {ps : List Part} {as : List Area} {s x : State} {vprobes : List Probe} {vmgmtNext : Nat}
    (h : Keeps ps as s x) (hpprobes : Within [.probes] ps) (hpmgmtNext : Within [.mgmtNext] ps)  :
    KeepsMk ps as s { x with probes := vprobes, mgmtNext := vmgmtNext } where
  parts := fun p hq hb => by
    have := h.parts p hq hb
    cases p <;> first | exact this | exact absurd (hpprobes _ List.mem_cons_self) hq | exact absurd (hpmgmtNext _ List.mem_cons_self) hq
  beyond := h.beyond
  regs := h.regs
  inv := fun j => let i := h.inv j; ⟨i.regs, i.mem, i.ring, i.shape.1, i.shape.2.1, i.shape.2.2.1, i.shape.2.2.2.1, i.shape.2.2.2.2⟩

theorem KeepsMk.set_rma_cache {ps : List Part} {as : List Area} {s x : State} {vrma : List RmaQueue} {vcache : List CacheLine}
    (h : Keeps ps as s x) (hprma : Within [.rma] ps) (hpcache : Within [.cache] ps) (hrma : x.rma.length = 16 → vrma.length = 16) :
    KeepsMk ps as s { x with rma := vrma, cache := vcache } where
  parts := fun p hq hb => by
    have := h.parts p hq hb
    cases p <;> first | exact this | exact absurd (hprma _ List.mem_cons_self) hq | exact absurd (hpcache _ List.mem_cons_self) hq
  beyond := h.beyond
  regs := h.regs
  inv := fun j => let i := h.inv j; ⟨i.regs, i.mem, i.ring, i.shape.1, i.shape.2.1, hrma i.shape.2.2.1, i.shape.2.2.2.1, i.shape.2.2.2.2⟩

theorem KeepsMk.set_sfuVersion_sfuCopying {ps : List Part} {as : List Area} {s x : State} {vsfuVersion : Nat} {vsfuCopying : Bool}
    (h : Keeps ps as s x) (hpsfuVersion : Within [.sfuVersion] ps) (hpsfuCopying : Within [.sfuCopying] ps)  :
    KeepsMk ps as s { x with sfuVersion := vsfuVersion, sfuCopying := vsfuCopying } where
  parts := fun p hq hb => by
    have := h.parts p hq hb
    cases p <;> first | exact this | exact absurd (hpsfuVersion _ List.mem_cons_self) hq | exact absurd (hpsfuCopying _ List.mem_cons_self) hq
  beyond := h.beyond
  regs := h.regs
  inv := fun j => let i := h.inv j; ⟨i.regs, i.mem, i.ring, i.shape.1, i.shape.2.1, i.shape.2.2.1, i.shape.2.2.2.1, i.shape.2.2.2.2⟩

theorem KeepsMk.set_tbRun_tbExhausted {ps : List Part} {as : List Area} {s x : State} {vtbRun : Bool} {vtbExhausted : Bool}
    (h : Keeps ps as s x) (hptbRun : Within [.tbRun] ps) (hptbExhausted : Within [.tbExhausted] ps)  :
    KeepsMk ps as s { x with tbRun := vtbRun, tbExhausted := vtbExhausted } where
  parts := fun p hq hb => by
    have := h.parts p hq hb
    cases p <;> first | exact this | exact absurd (hptbRun _ List.mem_cons_self) hq | exact absurd (hptbExhausted _ List.mem_cons_self) hq
  beyond := h.beyond
  regs := h.regs
  inv := fun j => let i := h.inv j; ⟨i.regs, i.mem, i.ring, i.shape.1, i.shape.2.1, i.shape.2.2.1, i.shape.2.2.2.1, i.shape.2.2.2.2⟩

theorem KeepsMk.set_tokenLast_ingestHeld {ps : List Part} {as : List Area} {s x : State} {vtokenLast : List (Option TileHdr)} {vingestHeld : List HeldTile}
    (h : Keeps ps as s x) (hptokenLast : Within [.tokenLast] ps) (hpingestHeld : Within [.ingestHeld] ps)  :
    KeepsMk ps as s { x with tokenLast := vtokenLast, ingestHeld := vingestHeld } where
  parts := fun p hq hb => by
    have := h.parts p hq hb
    cases p <;> first | exact this | exact absurd (hptokenLast _ List.mem_cons_self) hq | exact absurd (hpingestHeld _ List.mem_cons_self) hq
  beyond := h.beyond
  regs := h.regs
  inv := fun j => let i := h.inv j; ⟨i.regs, i.mem, i.ring, i.shape.1, i.shape.2.1, i.shape.2.2.1, i.shape.2.2.2.1, i.shape.2.2.2.2⟩

theorem KeepsMk.set_boot_fuses_devKey {ps : List Part} {as : List Area} {s x : State} {vboot : Boot} {vfuses : Fuses} {vdevKey : Option DevKey}
    (h : Keeps ps as s x) (hpboot : Within [.boot] ps) (hpfuses : Within [.fuses] ps) (hpdevKey : Within [.devKey] ps)  :
    KeepsMk ps as s { x with boot := vboot, fuses := vfuses, devKey := vdevKey } where
  parts := fun p hq hb => by
    have := h.parts p hq hb
    cases p <;> first | exact this | exact absurd (hpboot _ List.mem_cons_self) hq | exact absurd (hpfuses _ List.mem_cons_self) hq | exact absurd (hpdevKey _ List.mem_cons_self) hq
  beyond := h.beyond
  regs := h.regs
  inv := fun j => let i := h.inv j; ⟨i.regs, i.mem, i.ring, i.shape.1, i.shape.2.1, i.shape.2.2.1, i.shape.2.2.2.1, i.shape.2.2.2.2⟩

theorem KeepsMk.set_bucketMaps_chipHist_sortCounters {ps : List Part} {as : List Area} {s x : State} {vbucketMaps : List (Nat × List (Nat × Nat × Nat))} {vchipHist : List (Nat × Nat)} {vsortCounters : List Nat}
    (h : Keeps ps as s x) (hpbucketMaps : Within [.bucketMaps] ps) (hpchipHist : Within [.chipHist] ps) (hpsortCounters : Within [.sortCounters] ps)  :
    KeepsMk ps as s { x with bucketMaps := vbucketMaps, chipHist := vchipHist, sortCounters := vsortCounters } where
  parts := fun p hq hb => by
    have := h.parts p hq hb
    cases p <;> first | exact this | exact absurd (hpbucketMaps _ List.mem_cons_self) hq | exact absurd (hpchipHist _ List.mem_cons_self) hq | exact absurd (hpsortCounters _ List.mem_cons_self) hq
  beyond := h.beyond
  regs := h.regs
  inv := fun j => let i := h.inv j; ⟨i.regs, i.mem, i.ring, i.shape.1, i.shape.2.1, i.shape.2.2.1, i.shape.2.2.2.1, i.shape.2.2.2.2⟩

theorem KeepsMk.set_dat_fences_fenceSelf {ps : List Part} {as : List Area} {s x : State} {vdat : Dat} {vfences : List Nat} {vfenceSelf : Bool}
    (h : Keeps ps as s x) (hpdat : Within [.dat] ps) (hpfences : Within [.fences] ps) (hpfenceSelf : Within [.fenceSelf] ps)  :
    KeepsMk ps as s { x with dat := vdat, fences := vfences, fenceSelf := vfenceSelf } where
  parts := fun p hq hb => by
    have := h.parts p hq hb
    cases p <;> first | exact this | exact absurd (hpdat _ List.mem_cons_self) hq | exact absurd (hpfences _ List.mem_cons_self) hq | exact absurd (hpfenceSelf _ List.mem_cons_self) hq
  beyond := h.beyond
  regs := h.regs
  inv := fun j => let i := h.inv j; ⟨i.regs, i.mem, i.ring, i.shape.1, i.shape.2.1, i.shape.2.2.1, i.shape.2.2.2.1, i.shape.2.2.2.2⟩

theorem KeepsMk.set_dat_trace_demand {ps : List Part} {as : List Area} {s x : State} {vdat : Dat} {vtrace : Trace} {vdemand : List Demand}
    (h : Keeps ps as s x) (hpdat : Within [.dat] ps) (hptrace : Within [.trace] ps) (hpdemand : Within [.demand] ps) (hring : Memory.wf x.trace.ring = true → Memory.wf vtrace.ring = true) (hlanes : x.trace.lanes.length = 8 → vtrace.lanes.length = 8) :
    KeepsMk ps as s { x with dat := vdat, trace := vtrace, demand := vdemand } where
  parts := fun p hq hb => by
    have := h.parts p hq hb
    cases p <;> first | exact this | exact absurd (hpdat _ List.mem_cons_self) hq | exact absurd (hptrace _ List.mem_cons_self) hq | exact absurd (hpdemand _ List.mem_cons_self) hq
  beyond := h.beyond
  regs := h.regs
  inv := fun j => let i := h.inv j; ⟨i.regs, i.mem, hring i.ring, i.shape.1, i.shape.2.1, i.shape.2.2.1, i.shape.2.2.2.1, hlanes i.shape.2.2.2.2⟩

theorem KeepsMk.set_fences_unfences_fep {ps : List Part} {as : List Area} {s x : State} {vfences : List Nat} {vunfences : List Nat} {vfep : Fep}
    (h : Keeps ps as s x) (hpfences : Within [.fences] ps) (hpunfences : Within [.unfences] ps) (hpfep : Within [.fep] ps)  :
    KeepsMk ps as s { x with fences := vfences, unfences := vunfences, fep := vfep } where
  parts := fun p hq hb => by
    have := h.parts p hq hb
    cases p <;> first | exact this | exact absurd (hpfences _ List.mem_cons_self) hq | exact absurd (hpunfences _ List.mem_cons_self) hq | exact absurd (hpfep _ List.mem_cons_self) hq
  beyond := h.beyond
  regs := h.regs
  inv := fun j => let i := h.inv j; ⟨i.regs, i.mem, i.ring, i.shape.1, i.shape.2.1, i.shape.2.2.1, i.shape.2.2.2.1, i.shape.2.2.2.2⟩

theorem KeepsMk.set_boot_clk_tb_tbRun {ps : List Part} {as : List Area} {s x : State} {vboot : Boot} {vclk : Clk} {vtb : Nat} {vtbRun : Bool}
    (h : Keeps ps as s x) (hpboot : Within [.boot] ps) (hpclk : Within [.clk] ps) (hptb : Within [.tb] ps) (hptbRun : Within [.tbRun] ps)  :
    KeepsMk ps as s { x with boot := vboot, clk := vclk, tb := vtb, tbRun := vtbRun } where
  parts := fun p hq hb => by
    have := h.parts p hq hb
    cases p <;> first | exact this | exact absurd (hpboot _ List.mem_cons_self) hq | exact absurd (hpclk _ List.mem_cons_self) hq | exact absurd (hptb _ List.mem_cons_self) hq | exact absurd (hptbRun _ List.mem_cons_self) hq
  beyond := h.beyond
  regs := h.regs
  inv := fun j => let i := h.inv j; ⟨i.regs, i.mem, i.ring, i.shape.1, i.shape.2.1, i.shape.2.2.1, i.shape.2.2.2.1, i.shape.2.2.2.2⟩

theorem KeepsMk.set_pending_out_mem_freshCount_tap {ps : List Part} {as : List Area} {s x : State} {vpending : List Instr} {vout : List Out} {vmem : Store Byte} {vfreshCount : Nat} {vtap : Tap}
    (h : Keeps ps as s x) (hppending : Within [.pending] ps) (hpout : Within [.out] ps) (hpmem : Within [.mem, .beyond] ps) (hpfreshCount : Within [.freshCount] ps) (hptap : Within [.tap] ps) (hm : Memory.wf x.mem = true → Memory.wf vmem = true) :
    KeepsMk ps as s { x with pending := vpending, out := vout, mem := vmem, freshCount := vfreshCount, tap := vtap } where
  parts := fun p hq hb => by
    have := h.parts p hq hb
    cases p <;> first | exact this | exact absurd (hppending _ List.mem_cons_self) hq | exact absurd (hpout _ List.mem_cons_self) hq | exact absurd (hpmem _ List.mem_cons_self) hq | exact absurd (hpfreshCount _ List.mem_cons_self) hq | exact absurd (hptap _ List.mem_cons_self) hq | exact absurd rfl hb
  beyond := fun hq _ => absurd (hpmem .beyond (by decide)) hq
  regs := h.regs
  inv := fun j => let i := h.inv j; ⟨i.regs, hm i.mem, i.ring, i.shape.1, i.shape.2.1, i.shape.2.2.1, i.shape.2.2.2.1, i.shape.2.2.2.2⟩

theorem KeepsMk.set_halves_ingestHeld_recv_collects_collectHeld_fep {ps : List Part} {as : List Area} {s x : State} {vhalves : List Half} {vingestHeld : List HeldTile} {vrecv : List RxGroup} {vcollects : List Collect} {vcollectHeld : List HeldTile} {vfep : Fep}
    (h : Keeps ps as s x) (hphalves : Within [.halves] ps) (hpingestHeld : Within [.ingestHeld] ps) (hprecv : Within [.recv] ps) (hpcollects : Within [.collects] ps) (hpcollectHeld : Within [.collectHeld] ps) (hpfep : Within [.fep] ps)  :
    KeepsMk ps as s { x with halves := vhalves, ingestHeld := vingestHeld, recv := vrecv, collects := vcollects, collectHeld := vcollectHeld, fep := vfep } where
  parts := fun p hq hb => by
    have := h.parts p hq hb
    cases p <;> first | exact this | exact absurd (hphalves _ List.mem_cons_self) hq | exact absurd (hpingestHeld _ List.mem_cons_self) hq | exact absurd (hprecv _ List.mem_cons_self) hq | exact absurd (hpcollects _ List.mem_cons_self) hq | exact absurd (hpcollectHeld _ List.mem_cons_self) hq | exact absurd (hpfep _ List.mem_cons_self) hq
  beyond := h.beyond
  regs := h.regs
  inv := fun j => let i := h.inv j; ⟨i.regs, i.mem, i.ring, i.shape.1, i.shape.2.1, i.shape.2.2.1, i.shape.2.2.2.1, i.shape.2.2.2.2⟩

theorem KeepsMk.set_run_halves_homes_feeds_handed_collects_collectHeld {ps : List Part} {as : List Area} {s x : State} {vrun : Option Run} {vhalves : List Half} {vhomes : List HomeTally} {vfeeds : List Feed} {vhanded : List Handed} {vcollects : List Collect} {vcollectHeld : List HeldTile}
    (h : Keeps ps as s x) (hprun : Within [.run] ps) (hphalves : Within [.halves] ps) (hphomes : Within [.homes] ps) (hpfeeds : Within [.feeds] ps) (hphanded : Within [.handed] ps) (hpcollects : Within [.collects] ps) (hpcollectHeld : Within [.collectHeld] ps)  :
    KeepsMk ps as s { x with run := vrun, halves := vhalves, homes := vhomes, feeds := vfeeds, handed := vhanded, collects := vcollects, collectHeld := vcollectHeld } where
  parts := fun p hq hb => by
    have := h.parts p hq hb
    cases p <;> first | exact this | exact absurd (hprun _ List.mem_cons_self) hq | exact absurd (hphalves _ List.mem_cons_self) hq | exact absurd (hphomes _ List.mem_cons_self) hq | exact absurd (hpfeeds _ List.mem_cons_self) hq | exact absurd (hphanded _ List.mem_cons_self) hq | exact absurd (hpcollects _ List.mem_cons_self) hq | exact absurd (hpcollectHeld _ List.mem_cons_self) hq
  beyond := h.beyond
  regs := h.regs
  inv := fun j => let i := h.inv j; ⟨i.regs, i.mem, i.ring, i.shape.1, i.shape.2.1, i.shape.2.2.1, i.shape.2.2.2.1, i.shape.2.2.2.2⟩

theorem KeepsMk.set_boot_latched_run_stepNum_prevT_broadcasts_quarActing_quarSeen_bucketMaps_rounds {ps : List Part} {as : List Area} {s x : State} {vboot : Boot} {vlatched : Store Word32} {vrun : Option Run} {vstepNum : Nat} {vprevT : Nat} {vbroadcasts : List Broadcast} {vquarActing : List Nat} {vquarSeen : List Quarantine} {vbucketMaps : List (Nat × List (Nat × Nat × Nat))} {vrounds : List Round}
    (h : Keeps ps as s x) (hpboot : Within [.boot] ps) (hplatched : Within [.latched] ps) (hprun : Within [.run] ps) (hpstepNum : Within [.stepNum] ps) (hpprevT : Within [.prevT] ps) (hpbroadcasts : Within [.broadcasts] ps) (hpquarActing : Within [.quarActing] ps) (hpquarSeen : Within [.quarSeen] ps) (hpbucketMaps : Within [.bucketMaps] ps) (hprounds : Within [.rounds] ps)  :
    KeepsMk ps as s { x with boot := vboot, latched := vlatched, run := vrun, stepNum := vstepNum, prevT := vprevT, broadcasts := vbroadcasts, quarActing := vquarActing, quarSeen := vquarSeen, bucketMaps := vbucketMaps, rounds := vrounds } where
  parts := fun p hq hb => by
    have := h.parts p hq hb
    cases p <;> first | exact this | exact absurd (hpboot _ List.mem_cons_self) hq | exact absurd (hplatched _ List.mem_cons_self) hq | exact absurd (hprun _ List.mem_cons_self) hq | exact absurd (hpstepNum _ List.mem_cons_self) hq | exact absurd (hpprevT _ List.mem_cons_self) hq | exact absurd (hpbroadcasts _ List.mem_cons_self) hq | exact absurd (hpquarActing _ List.mem_cons_self) hq | exact absurd (hpquarSeen _ List.mem_cons_self) hq | exact absurd (hpbucketMaps _ List.mem_cons_self) hq | exact absurd (hprounds _ List.mem_cons_self) hq
  beyond := h.beyond
  regs := h.regs
  inv := fun j => let i := h.inv j; ⟨i.regs, i.mem, i.ring, i.shape.1, i.shape.2.1, i.shape.2.2.1, i.shape.2.2.2.1, i.shape.2.2.2.2⟩

theorem KeepsMk.set_pools_tports_tokenLast_halves_ingestHeld_homes_bucketMaps_chipHist_sortCounters_recv_feeds_handed_collects_collectHeld_fep {ps : List Part} {as : List Area} {s x : State} {vpools : Pools} {vtports : List TPort} {vtokenLast : List (Option TileHdr)} {vhalves : List Half} {vingestHeld : List HeldTile} {vhomes : List HomeTally} {vbucketMaps : List (Nat × List (Nat × Nat × Nat))} {vchipHist : List (Nat × Nat)} {vsortCounters : List Nat} {vrecv : List RxGroup} {vfeeds : List Feed} {vhanded : List Handed} {vcollects : List Collect} {vcollectHeld : List HeldTile} {vfep : Fep}
    (h : Keeps ps as s x) (hppools : Within [.pools] ps) (hptports : Within [.tports] ps) (hptokenLast : Within [.tokenLast] ps) (hphalves : Within [.halves] ps) (hpingestHeld : Within [.ingestHeld] ps) (hphomes : Within [.homes] ps) (hpbucketMaps : Within [.bucketMaps] ps) (hpchipHist : Within [.chipHist] ps) (hpsortCounters : Within [.sortCounters] ps) (hprecv : Within [.recv] ps) (hpfeeds : Within [.feeds] ps) (hphanded : Within [.handed] ps) (hpcollects : Within [.collects] ps) (hpcollectHeld : Within [.collectHeld] ps) (hpfep : Within [.fep] ps) (hpools : x.pools.pools.length = 6 → vpools.pools.length = 6) (htports : x.tports.length = 16 → vtports.length = 16) :
    KeepsMk ps as s { x with pools := vpools, tports := vtports, tokenLast := vtokenLast, halves := vhalves, ingestHeld := vingestHeld, homes := vhomes, bucketMaps := vbucketMaps, chipHist := vchipHist, sortCounters := vsortCounters, recv := vrecv, feeds := vfeeds, handed := vhanded, collects := vcollects, collectHeld := vcollectHeld, fep := vfep } where
  parts := fun p hq hb => by
    have := h.parts p hq hb
    cases p <;> first | exact this | exact absurd (hppools _ List.mem_cons_self) hq | exact absurd (hptports _ List.mem_cons_self) hq | exact absurd (hptokenLast _ List.mem_cons_self) hq | exact absurd (hphalves _ List.mem_cons_self) hq | exact absurd (hpingestHeld _ List.mem_cons_self) hq | exact absurd (hphomes _ List.mem_cons_self) hq | exact absurd (hpbucketMaps _ List.mem_cons_self) hq | exact absurd (hpchipHist _ List.mem_cons_self) hq | exact absurd (hpsortCounters _ List.mem_cons_self) hq | exact absurd (hprecv _ List.mem_cons_self) hq | exact absurd (hpfeeds _ List.mem_cons_self) hq | exact absurd (hphanded _ List.mem_cons_self) hq | exact absurd (hpcollects _ List.mem_cons_self) hq | exact absurd (hpcollectHeld _ List.mem_cons_self) hq | exact absurd (hpfep _ List.mem_cons_self) hq
  beyond := h.beyond
  regs := h.regs
  inv := fun j => let i := h.inv j; ⟨i.regs, i.mem, i.ring, i.shape.1, htports i.shape.2.1, i.shape.2.2.1, hpools i.shape.2.2.2.1, i.shape.2.2.2.2⟩

/-! ### Registers -/

theorem Keeps.setWord {a : Nat} {w : Word32} (h : Keeps ps as s x) (ha : .reg a ∈ as) : Keeps ps as s (x.setWord a w) where
  parts := fun p hq hb => by
    have := h.parts p hq hb
    cases p <;> exact this
  beyond := h.beyond
  regs := fun b hb => by
    have hne : b ≠ a := fun e => hb _ ha e
    rw [word_setWord_other _ hne]
    exact h.regs b hb
  inv := fun j => let i := h.inv j
    ⟨storeSet_wf i.regs, i.mem, i.ring, i.shape⟩

/-- An address lies outside an area, decidably; of a port's block and of the command queues' registers, outside the whole
range. -/
def Area.misses (x : Area) (a : Nat) : Bool :=
  match x with
  | .reg b => a ≠ b
  | .port => a < 0x100000 || 0x1C0000 ≤ a
  | .queue => a < 0xC1108 || 0xC1308 ≤ a
  | .station => a < 0x20100 || 0x20140 ≤ a
  | .all => false

theorem Area.not_has_of_misses {x : Area} {a : Nat} (h : x.misses a = true) : ¬ x.has a := by
  cases x with
  | reg b => simpa [Area.misses, Area.has] using h
  | port =>
    rintro ⟨n, k, hn, hk, e⟩
    simp [Area.misses, uPort] at h e
    omega
  | queue =>
    rintro ⟨q, hq, e⟩
    simp [Area.misses, qCtrl] at h e
    omega
  | station =>
    rintro ⟨c, hc, e⟩
    simp [Area.misses] at h
    omega
  | all => cases h

/-- A register outside every area of a frame reads as before. -/
theorem RegsSameBut.word {a : Nat} (h : RegsSameBut as s t) (ha : as.all (·.misses a) = true) : t.word a = s.word a :=
  h a fun _ hx => Area.not_has_of_misses (List.all_eq_true.mp ha _ hx)

/-- A code recorded in a unit stays as it was where what follows leaves the unit's error status alone. -/
theorem Recorded.after {unit code : Nat} (h : Recorded unit code s t) (k : u.word (unit + 8) = t.word (unit + 8)) :
    Recorded unit code s u := by
  unfold Recorded State.field at *
  rw [k]
  exact h

/-- A code recorded in a unit whose error status what went before has left alone. -/
theorem Recorded.before {unit code : Nat} (h : Recorded unit code t u) (k : t.word (unit + 8) = s.word (unit + 8)) :
    Recorded unit code s u := by
  unfold Recorded State.field at *
  rw [k] at h
  exact h

end Sys2Proof.Machine
end

