-- ==== Sys2Proof/Laws/FramesOps.lean ====
section
/-! SUPPORT. What each operation of Machine/Ops.lean changes: the parts of the state and the registers, and that it keeps the
invariant. -/
namespace Sys2Proof.Machine
open Sys2Proof

theorem memWrite_keeps (a : Nat) (bs : Bytes) (s : State) : Keeps [.mem, .beyond] [] s (memWrite a bs s) :=
  KeepsMk.set_mem (Keeps.refl _ _ s) (Within.of_all (by decide)) memPut_wf

theorem withEnv_keeps (env : MemEnv) (s : State) : Keeps [.mem, .beyond] [] s (withEnv env s) :=
  KeepsMk.set_mem (Keeps.refl _ _ s) (Within.of_all (by decide)) applyWrites_wf

theorem setWord_keeps (s : State) (a : Nat) (w : Word32) : Keeps [] [.reg a] s (s.setWord a w) :=
  Keeps.setWord (Keeps.refl _ _ s) (by simp)

theorem setField_keeps (s : State) (a hi lo v : Nat) : Keeps [] [.reg a] s (s.setField a hi lo v) := setWord_keeps s a _

theorem bumpField_keeps (s : State) (a hi lo n : Nat) : Keeps [] [.reg a] s (s.bumpField a hi lo n) := setWord_keeps s a _

theorem bump_keeps (s : State) (a n : Nat) : Keeps [] [.reg a] s (s.bump a n) := setWord_keeps s a _

theorem bump16_keeps (s : State) (a n : Nat) : Keeps [] [.reg a] s (s.bump16 a n) := setWord_keeps s a _

theorem fresh_keeps (s : State) : Keeps [.freshCount] [] s s.fresh.2 :=
  KeepsMk.set_freshCount (Keeps.refl _ _ s) (Within.of_all (by decide))

theorem fresh_keeps_eq {s t : State} {n : Nat} (h : s.fresh = (n, t)) : Keeps [.freshCount] [] s t := by
  have := fresh_keeps s
  rw [h] at this
  exact this

theorem traceEvent_keeps (lane code arg : Nat) (s : State) :
    Keeps [.trace] [] s (traceEvent lane code arg s) := by
  unfold traceEvent
  repeat' first
    | (simp only [Keeps.toMk]; first | with_reducible apply KeepsMk.set_trace)
    | (with_reducible apply Within.of_all; decide)
    | with_reducible exact Keeps.refl _ _ _
    | (with_reducible refine Keeps.ite (fun _ => ?_) (fun _ => ?_))
    | exact fun h => h
    | exact fun h => (length_modifyAt _ _ _).trans h

theorem setIrq_keeps (t : Nat) (s : State) :
    Keeps [] [.reg 0x338] s (setIrq t s) := by
  unfold setIrq
  repeat' first
    | (with_reducible apply Within.of_all; decide)
    | (with_reducible apply Covers.of_all; decide)
    | with_reducible exact Keeps.refl _ _ _
    | with_reducible apply Keeps.via (setField_keeps _ _ _ _ _)

theorem length_leBytes (n v : Nat) : (leBytes n v).length = n := by
  induction n generalizing v with
  | zero => rfl
  | succ n ih => simp [leBytes, ih]

theorem length_noticeBytes (type code unit seq step tb arg : Nat) : (noticeBytes type code unit seq step tb arg).length = 32 := by
  simp [noticeBytes, length_leBytes]

theorem noteEntry_keeps (type code unit arg : Nat) (s : State) :
    Keeps [.mem, .note] [.reg 0x32C, .reg 0x338] s (noteEntry type code unit arg s) := by
  have key : Keeps [.mem, .beyond, .note] [.reg 0x32C, .reg 0x338] s (noteEntry type code unit arg s) := by
    unfold noteEntry
    repeat' first
      | (simp only [Keeps.toMk]; first | with_reducible apply KeepsMk.set_note)
      | (with_reducible apply Within.of_all; decide)
      | (with_reducible apply Covers.of_all; decide)
      | with_reducible exact Keeps.refl _ _ _
      | with_reducible apply Keeps.via (memWrite_keeps _ _ _)
      | with_reducible apply Keeps.via (setField_keeps _ _ _ _ _)
      | with_reducible apply Keeps.via (setIrq_keeps _ _)
  refine ⟨fun p hp hb => key.parts p ?_ hb, fun _ _ a ha => ?_, key.regs, key.inv⟩
  · simp only [List.mem_cons, List.not_mem_nil, or_false] at hp ⊢
    exact fun h => h.elim (fun e => hp (.inl e)) (fun h => h.elim hb (fun e => hp (.inr e)))
  · refine memByte_memPut_outside ?_
    rw [length_noticeBytes]
    have hm := Nat.mod_lt (noteWr s) (Nat.two_pow_pos (noteLog2 s))
    unfold inRing at ha
    omega

theorem noteCairn_keeps (s : State) :
    Keeps [.mem, .note] [.reg 0x32C, .reg 0x338] s (noteCairn s) := by
  unfold noteCairn
  repeat' first
    | (simp only [Keeps.toMk]; first | with_reducible apply KeepsMk.set_note)
    | (with_reducible apply Within.of_all; decide)
    | (with_reducible apply Covers.of_all; decide)
    | with_reducible exact Keeps.refl _ _ _
    | with_reducible apply Keeps.via (noteEntry_keeps _ _ _ _ _)
    | (with_reducible refine Keeps.ite (fun _ => ?_) (fun _ => ?_))

theorem notice_keeps (type code unit arg : Nat) (s0 : State) :
    Keeps [.mem, .note] noteAreas s0 (notice type code unit arg s0) := by
  unfold notice
  repeat' first
    | (simp only [Keeps.toMk]; first | with_reducible apply KeepsMk.set_note)
    | (with_reducible apply Within.of_all; decide)
    | (with_reducible apply Covers.of_all; decide)
    | with_reducible exact Keeps.refl _ _ _
    | with_reducible apply Keeps.via (bump16_keeps _ _ _)
    | with_reducible apply Keeps.via (setIrq_keeps _ _)
    | with_reducible apply Keeps.via (noteEntry_keeps _ _ _ _ _)
    | with_reducible apply Keeps.via (noteCairn_keeps _)
    | (with_reducible refine Keeps.ite (fun _ => ?_) (fun _ => ?_))

theorem record_keeps (unit code : Nat) (s : State) : Keeps [] [.reg (unit + 8)] s (record unit code s) := setWord_keeps s _ _

theorem countFault_keeps (unit code : Nat) (s : State) :
    Keeps [.mem, .note] [.reg 0x32C, .reg 0x334, .reg 0x338, .reg (unit + 8)] s (countFault unit code s) := by
  unfold countFault
  repeat' first
    | (with_reducible apply Within.of_all; decide)
    | with_reducible exact Covers.nil _
    | (with_reducible apply Covers.cons; · first | decide | simp)
    | with_reducible exact Keeps.refl _ _ _
    | with_reducible apply Keeps.via (notice_keeps _ _ _ _ _)
    | with_reducible apply Keeps.via (record_keeps _ _ _)
    | unfold noteAreas
    | unfold abortAreas
    | simp only [List.cons_append, List.nil_append]

theorem securityCode_keeps (unit code : Nat) (s : State) :
    Keeps [.mem, .note] [.reg 0x32C, .reg 0x334, .reg 0x338, .reg (unit + 8)] s (securityCode unit code s) := by
  unfold securityCode
  repeat' first
    | (with_reducible apply Within.of_all; decide)
    | with_reducible exact Covers.nil _
    | (with_reducible apply Covers.cons; · first | decide | simp)
    | with_reducible exact Keeps.refl _ _ _
    | with_reducible apply Keeps.via (notice_keeps _ _ _ _ _)
    | with_reducible apply Keeps.via (record_keeps _ _ _)
    | unfold noteAreas
    | unfold abortAreas
    | simp only [List.cons_append, List.nil_append]

theorem platNotice_keeps (code status : Nat) (s : State) :
    Keeps [.mem, .note] noteAreas s (platNotice code status s) := by
  unfold platNotice
  repeat' first
    | (with_reducible apply Within.of_all; decide)
    | (with_reducible apply Covers.of_all; decide)
    | with_reducible exact Keeps.refl _ _ _
    | with_reducible apply Keeps.via (notice_keeps _ _ _ _ _)

theorem emitOut_keeps (o : Out) (s : State) :
    Keeps [.out] [] s (emitOut o s) := by
  unfold emitOut
  repeat' first
    | (simp only [Keeps.toMk]; first | with_reducible apply KeepsMk.set_out)
    | (with_reducible apply Within.of_all; decide)
    | with_reducible exact Keeps.refl _ _ _

theorem modRun_keeps (f : Run → Run) (s : State) :
    Keeps [.run] [] s (modRun f s) := by
  unfold modRun
  repeat' first
    | (simp only [Keeps.toMk]; first | with_reducible apply KeepsMk.set_run)
    | (with_reducible apply Within.of_all; decide)
    | with_reducible exact Keeps.refl _ _ _

end Sys2Proof.Machine
end

