-- ==== Sys2Proof/Laws/FramesPool.lean ====
section
/-! SUPPORT. What each operation of Machine/Pool.lean changes: the parts of the state and the registers, and that it keeps the
invariant. -/
namespace Sys2Proof.Machine
open Sys2Proof

theorem modPool_keeps (p : Nat) (f : Pool → Pool) (s : State) :
    Keeps [.pools] [] s (modPool p f s) := by
  unfold modPool
  repeat' first
    | (simp only [Keeps.toMk]; first | with_reducible apply KeepsMk.set_pools)
    | (with_reducible apply Within.of_all; decide)
    | with_reducible exact Keeps.refl _ _ _
    | exact fun h => (length_modifyAt _ _ _).trans h

theorem takeBuf_keeps (p o : Nat) (s : State) : Keeps [.pools] [] s (takeBuf p o s).2 := by
  unfold takeBuf
  repeat' first
    | (with_reducible apply Within.of_all; decide)
    | with_reducible exact Covers.nil _
    | exact id
    | with_reducible exact Keeps.refl _ _ _
    | (simp only [Keeps.toMk]; with_reducible apply KeepsMk.set_pools)
    | with_reducible apply Keeps.via (modPool_keeps _ _ _)

theorem takeBuf_keeps_eq {p o n : Nat} {s t : State} (h : takeBuf p o s = (n, t)) : Keeps [.pools] [] s t := by
  have := takeBuf_keeps p o s
  rw [h] at this
  exact this

theorem alloc_keeps (size o : Nat) (key : List Nat) (s : State) : Keeps [.trace, .pools] [] s (alloc size o key s).2 := by
  unfold alloc
  dsimp only
  split
  · simp only [Keeps.toMk]
    exact KeepsMk.set_pools (Keeps.refl _ _ s) (Within.of_all (by decide)) id
  · split
    · exact Keeps.refl _ _ _
    · split
      · exact (takeBuf_keeps _ o s).mono (Within.of_all (by decide)) (Covers.nil _)
      · refine Keeps.via (traceEvent_keeps _ _ _ _) ?_ (Within.of_all (by decide)) (Covers.nil _)
        exact KeepsMk.set_pools (Keeps.refl _ _ s) (Within.of_all (by decide)) id

theorem alloc_keeps_eq {size o : Nat} {key : List Nat} {s t : State} {r : Option (Nat × Nat)} (h : alloc size o key s = (r, t)) :
    Keeps [.trace, .pools] [] s t := by
  have := alloc_keeps size o key s
  rw [h] at this
  exact this

theorem keepGranted_keeps (o : Nat) (bs : List ((Nat × Nat) × List Nat)) (s : State) :
    Keeps [.pools] [] s (keepGranted o bs s) := by
  unfold keepGranted
  repeat' first
    | (simp only [Keeps.toMk]; first | with_reducible apply KeepsMk.set_pools)
    | (with_reducible apply Within.of_all; decide)
    | with_reducible exact Keeps.refl _ _ _
    | exact fun h => h

theorem allocMany_keeps (sizes : List Nat) (o : Nat) (key : List Nat) (s : State) :
    Keeps [.trace, .pools] [] s (allocMany sizes o key s).2 := by
  have fold : ∀ (l : List Nat) (acc : List ((Nat × Nat) × List Nat) × State), Keeps [.trace, .pools] [] s acc.2 →
      Keeps [.trace, .pools] [] s (l.foldl (fun (acc : List ((Nat × Nat) × List Nat) × State) i =>
        match alloc (sizes.getD i 0) o (key ++ [i]) acc.2 with
        | (some b, s') => (acc.1 ++ [(b, key ++ [i])], s')
        | (none, s') => (acc.1, s')) acc).2 := by
    intro l
    induction l with
    | nil => exact fun _ h => h
    | cons i l ih =>
      intro acc h
      apply ih
      dsimp only
      split <;> next heq => exact h.trans (alloc_keeps_eq heq)
  have k := fold (List.range sizes.length) ([], s) (Keeps.refl _ _ s)
  unfold allocMany
  dsimp only
  split
  · exact k
  · exact Keeps.via (keepGranted_keeps _ _ _) k (Within.of_all (by decide)) (Covers.nil _)

theorem allocMany_keeps_eq {sizes : List Nat} {o : Nat} {key : List Nat} {s t : State} {r : Option (List (Nat × Nat))}
    (h : allocMany sizes o key s = (r, t)) : Keeps [.trace, .pools] [] s t := by
  have := allocMany_keeps sizes o key s
  rw [h] at this
  exact this

theorem freeBuf_keeps (p ptr : Nat) (s : State) :
    Keeps [.pools] [] s (freeBuf p ptr s) := by
  unfold freeBuf
  repeat' first
    | (simp only [Keeps.toMk]; first | with_reducible apply KeepsMk.set_pools)
    | (with_reducible apply Within.of_all; decide)
    | (with_reducible apply Covers.of_all; decide)
    | with_reducible exact Keeps.refl _ _ _
    | with_reducible apply Keeps.via (modPool_keeps _ _ _)
    | (with_reducible refine Keeps.ite (fun _ => ?_) (fun _ => ?_))
    | exact fun h => h

theorem setRefs_keeps (p ptr n : Nat) (s : State) :
    Keeps [.pools] [] s (setRefs p ptr n s) := by
  unfold setRefs
  repeat' first
    | (simp only [Keeps.toMk]; first | with_reducible apply KeepsMk.set_pools)
    | (with_reducible apply Within.of_all; decide)
    | with_reducible exact Keeps.refl _ _ _
    | exact fun h => h

theorem dropRef_keeps (p ptr : Nat) (s : State) :
    Keeps [.pools] [] s (dropRef p ptr s) := by
  unfold dropRef
  repeat' first
    | (with_reducible apply Within.of_all; decide)
    | (with_reducible apply Covers.of_all; decide)
    | with_reducible exact Keeps.refl _ _ _
    | with_reducible apply Keeps.via (freeBuf_keeps _ _ _)
    | with_reducible apply Keeps.via (setRefs_keeps _ _ _ _)
    | (with_reducible refine Keeps.ite (fun _ => ?_) (fun _ => ?_))

theorem cancelRequests_keeps (p : List Nat → Bool) (s : State) :
    Keeps [.pools] [] s (cancelRequests p s) := by
  unfold cancelRequests
  repeat' first
    | (simp only [Keeps.toMk]; first | with_reducible apply KeepsMk.set_pools)
    | (with_reducible apply Within.of_all; decide)
    | (with_reducible apply Covers.of_all; decide)
    | with_reducible exact Keeps.refl _ _ _
    | with_reducible apply Keeps.via (freeBuf_keeps _ _ _)
    | (with_reducible refine Keeps.foldl ?_ (fun _ _ => ?_))
    | exact fun h => h

theorem freeAll_keeps (bs : List (Nat × Nat)) (s : State) :
    Keeps [.pools] [] s (freeAll bs s) := by
  unfold freeAll
  repeat' first
    | (with_reducible apply Within.of_all; decide)
    | (with_reducible apply Covers.of_all; decide)
    | with_reducible exact Keeps.refl _ _ _
    | with_reducible apply Keeps.via (freeBuf_keeps _ _ _)
    | (with_reducible refine Keeps.foldl ?_ (fun _ _ => ?_))

theorem buildPools_keeps (counts : List Nat) (owners : List OwnerRec) (s : State) :
    Keeps [.pools] [] s (buildPools counts owners s) := by
  unfold buildPools
  repeat' first
    | (simp only [Keeps.toMk]; first | with_reducible apply KeepsMk.set_pools)
    | (with_reducible apply Within.of_all; decide)
    | with_reducible exact Keeps.refl _ _ _
    | (intro h; first | done | (simpa using h; done) | (simp; done))

theorem lowRearm_keeps (s : State) :
    Keeps [.pools] [] s (lowRearm s) := by
  unfold lowRearm
  repeat' first
    | (simp only [Keeps.toMk]; first | with_reducible apply KeepsMk.set_pools)
    | (with_reducible apply Within.of_all; decide)
    | with_reducible exact Keeps.refl _ _ _
    | (intro h; first | done | (simpa using h; done) | (simp; done))

theorem withdrawTop_keeps (p : Nat) (s : State) :
    Keeps [.mem, .note, .pools] ([Area.reg 0x20008] ++ noteAreas) s (withdrawTop p s) := by
  unfold withdrawTop
  repeat' first
    | (with_reducible apply Within.of_all; decide)
    | (with_reducible apply Covers.of_all; decide)
    | with_reducible exact Keeps.refl _ _ _
    | with_reducible apply Keeps.via (countFault_keeps _ _ _)
    | with_reducible apply Keeps.via (modPool_keeps _ _ _)
    | (with_reducible refine Keeps.ite (fun _ => ?_) (fun _ => ?_))

theorem countSram_keeps (fatal : Bool) (bank : Nat) (s : State) :
    Keeps [] [.reg 0x20080, .reg 0x20084, .reg 0x20088] s (countSram fatal bank s) := by
  unfold countSram
  repeat' first
    | (with_reducible apply Within.of_all; decide)
    | (with_reducible apply Covers.of_all; decide)
    | with_reducible exact Keeps.refl _ _ _
    | with_reducible apply Keeps.via (setField_keeps _ _ _ _ _)
    | with_reducible apply Keeps.via (bumpField_keeps _ _ _ _ _)
    | with_reducible apply Keeps.via (bump_keeps _ _ _)
    | (with_reducible refine Keeps.ite (fun _ => ?_) (fun _ => ?_))

end Sys2Proof.Machine
end

