-- ==== Sys2Proof/Laws/FramesFabric.lean ====
section
/-! SUPPORT. What each operation of Machine/Fabric.lean changes: the parts of the state and the registers, and that it keeps the
invariant. -/
namespace Sys2Proof.Machine
open Sys2Proof

theorem modHalf_keeps (l h : Nat) (f : Half → Half) (s : State) :
    Keeps [.halves] [] s (modHalf l h f s) := by
  unfold modHalf
  repeat' first
    | (simp only [Keeps.toMk]; first | with_reducible apply KeepsMk.set_halves)
    | (with_reducible apply Within.of_all; decide)
    | with_reducible exact Keeps.refl _ _ _

theorem post_keeps (m : Message) (s : State) :
    Keeps [.out, .fep] [] s (post m s) := by
  unfold post
  repeat' first
    | (simp only [Keeps.toMk]; first | with_reducible apply KeepsMk.set_fep)
    | (with_reducible apply Within.of_all; decide)
    | (with_reducible apply Covers.of_all; decide)
    | with_reducible exact Keeps.refl _ _ _
    | with_reducible apply Keeps.via (emitOut_keeps _ _)
    | (with_reducible refine Keeps.ite (fun _ => ?_) (fun _ => ?_))

theorem postAll_keeps (dsts : List Nat) (lc kind : Nat) (payload : Bytes) (s : State) :
    Keeps [.out, .fep] [] s (postAll dsts lc kind payload s) := by
  unfold postAll
  repeat' first
    | (with_reducible apply Within.of_all; decide)
    | (with_reducible apply Covers.of_all; decide)
    | with_reducible exact Keeps.refl _ _ _
    | with_reducible apply Keeps.via (post_keeps _ _)
    | (with_reducible refine Keeps.foldl ?_ (fun _ _ => ?_))

theorem sendExpress_keeps (dst type opw : Nat) (k : RoundKey) (payload : Bytes) (s : State) :
    Keeps [.out, .fep] [] s (sendExpress dst type opw k payload s) := by
  unfold sendExpress
  repeat' first
    | (with_reducible apply Within.of_all; decide)
    | (with_reducible apply Covers.of_all; decide)
    | with_reducible exact Keeps.refl _ _ _
    | with_reducible apply Keeps.via (post_keeps _ _)

theorem modRound_keeps (k : RoundKey) (f : Round → Round) (s : State) :
    Keeps [.rounds] [] s (modRound k f s) := by
  unfold modRound
  repeat' first
    | (simp only [Keeps.toMk]; first | with_reducible apply KeepsMk.set_rounds)
    | (with_reducible apply Within.of_all; decide)
    | with_reducible exact Keeps.refl _ _ _

theorem openRound_keeps (k : RoundKey) (opw : Nat) (members : List Nat) (s : State) :
    Keeps [.rounds] [] s (openRound k opw members s) := by
  unfold openRound
  repeat' first
    | (simp only [Keeps.toMk]; first | with_reducible apply KeepsMk.set_rounds)
    | (with_reducible apply Within.of_all; decide)
    | with_reducible exact Keeps.refl _ _ _
    | (with_reducible refine Keeps.ite (fun _ => ?_) (fun _ => ?_))

theorem renewRound_keeps (k : RoundKey) (s : State) :
    Keeps [.rounds] [] s (renewRound k s) := by
  unfold renewRound
  repeat' first
    | (simp only [Keeps.toMk]; first | with_reducible apply KeepsMk.set_rounds)
    | (with_reducible apply Within.of_all; decide)
    | with_reducible exact Keeps.refl _ _ _

theorem askRack_keeps (k : RoundKey) (s : State) :
    Keeps [.out, .rounds, .fep] [] s (askRack k s) := by
  unfold askRack
  repeat' first
    | (with_reducible apply Within.of_all; decide)
    | (with_reducible apply Covers.of_all; decide)
    | with_reducible exact Keeps.refl _ _ _
    | with_reducible apply Keeps.via (sendExpress_keeps _ _ _ _ _ _)
    | with_reducible apply Keeps.via (modRound_keeps _ _ _)
    | (with_reducible refine Keeps.foldl ?_ (fun _ _ => ?_))
    | split

theorem askCopy_keeps (k : RoundKey) (opw c dst : Nat) (s : State) :
    Keeps [.out, .rounds, .fep] [] s (askCopy k opw c dst s) := by
  unfold askCopy
  repeat' first
    | (with_reducible apply Within.of_all; decide)
    | (with_reducible apply Covers.of_all; decide)
    | with_reducible exact Keeps.refl _ _ _
    | with_reducible apply Keeps.via (sendExpress_keeps _ _ _ _ _ _)
    | with_reducible apply Keeps.via (modRound_keeps _ _ _)

theorem askCopies_keeps (k : RoundKey) (f : Nat) (s : State) :
    Keeps [.out, .rounds, .fep] [] s (askCopies k f s) := by
  unfold askCopies
  repeat' first
    | (with_reducible apply Within.of_all; decide)
    | (with_reducible apply Covers.of_all; decide)
    | with_reducible exact Keeps.refl _ _ _
    | with_reducible apply Keeps.via (askRack_keeps _ _)
    | with_reducible apply Keeps.via (askCopy_keeps _ _ _ _ _)
    | (with_reducible refine Keeps.ite (fun _ => ?_) (fun _ => ?_))
    | (with_reducible refine Keeps.foldl ?_ (fun _ _ => ?_))
    | split

theorem contribute_keeps (k : RoundKey) (opw : Nat) (members : List Nat) (payload : Bytes) (s : State) :
    Keeps [.out, .rounds, .fep] [] s (contribute k opw members payload s) := by
  unfold contribute
  repeat' first
    | (with_reducible apply Within.of_all; decide)
    | (with_reducible apply Covers.of_all; decide)
    | with_reducible exact Keeps.refl _ _ _
    | with_reducible apply Keeps.via (sendExpress_keeps _ _ _ _ _ _)
    | with_reducible apply Keeps.via (modRound_keeps _ _ _)
    | with_reducible apply Keeps.via (openRound_keeps _ _ _ _)
    | with_reducible apply Keeps.via (renewRound_keeps _ _)
    | with_reducible apply Keeps.via (askCopies_keeps _ _ _)
    | (with_reducible refine Keeps.ite (fun _ => ?_) (fun _ => ?_))
    | split

theorem bcastFan_keeps (kind : Nat) (payload : Bytes) (from_ : Nat) (s : State) :
    Keeps [.out, .fep] [] s (bcastFan kind payload from_ s) := by
  unfold bcastFan
  repeat' first
    | (with_reducible apply Within.of_all; decide)
    | (with_reducible apply Covers.of_all; decide)
    | with_reducible exact Keeps.refl _ _ _
    | with_reducible apply Keeps.via (postAll_keeps _ _ _ _ _)

theorem bcastSend_keeps (kind step subject : Nat) (payload : Bytes) (s : State) :
    Keeps [.out, .broadcasts, .fep] [] s (bcastSend kind step subject payload s) := by
  unfold bcastSend
  repeat' first
    | (simp only [Keeps.toMk]; first | with_reducible apply KeepsMk.set_broadcasts)
    | (with_reducible apply Within.of_all; decide)
    | (with_reducible apply Covers.of_all; decide)
    | with_reducible exact Keeps.refl _ _ _
    | with_reducible apply Keeps.via (post_keeps _ _)
    | with_reducible apply Keeps.via (bcastFan_keeps _ _ _ _)
    | (with_reducible refine Keeps.ite (fun _ => ?_) (fun _ => ?_))
    | split
    | (dsimp -proj only)

theorem bcastPass_keeps (kind step subject src : Nat) (payload : Bytes) (s : State) :
    Keeps [.out, .broadcasts, .fep] [] s (bcastPass kind step subject src payload s) := by
  unfold bcastPass
  repeat' first
    | (simp only [Keeps.toMk]; first | with_reducible apply KeepsMk.set_broadcasts)
    | (with_reducible apply Within.of_all; decide)
    | (with_reducible apply Covers.of_all; decide)
    | with_reducible exact Keeps.refl _ _ _
    | with_reducible apply Keeps.via (postAll_keeps _ _ _ _ _)
    | with_reducible apply Keeps.via (bcastFan_keeps _ _ _ _)
    | (with_reducible refine Keeps.ite (fun _ => ?_) (fun _ => ?_))

theorem raiseGen_keeps (s : State) :
    Keeps [.gen, .raiseDue] [.reg 0x80008] s (raiseGen s) := by
  unfold raiseGen
  repeat' first
    | (simp only [Keeps.toMk]; first | with_reducible apply KeepsMk.set_gen_raiseDue | with_reducible apply KeepsMk.set_raiseDue)
    | (with_reducible apply Within.of_all; decide)
    | (with_reducible apply Covers.of_all; decide)
    | with_reducible exact Keeps.refl _ _ _
    | with_reducible apply Keeps.via (record_keeps _ _ _)
    | (with_reducible refine Keeps.ite (fun _ => ?_) (fun _ => ?_))

theorem genRaiseDue_keeps (s : State) :
    Keeps [.gen, .raiseDue] [] s (genRaiseDue s) := by
  unfold genRaiseDue
  repeat' first
    | (simp only [Keeps.toMk]; first | with_reducible apply KeepsMk.set_gen_raiseDue)
    | (with_reducible apply Within.of_all; decide)
    | with_reducible exact Keeps.refl _ _ _
    | (with_reducible refine Keeps.ite (fun _ => ?_) (fun _ => ?_))

theorem abortColl_keeps (ix code : Nat) (s : State) :
    Keeps [.out, .rounds, .cce, .fep] [] s (abortColl ix code s) := by
  unfold abortColl
  repeat' first
    | (simp only [Keeps.toMk]; first | with_reducible apply KeepsMk.set_cce)
    | (with_reducible apply Within.of_all; decide)
    | (with_reducible apply Covers.of_all; decide)
    | with_reducible exact Keeps.refl _ _ _
    | with_reducible apply Keeps.via (sendExpress_keeps _ _ _ _ _ _)
    | with_reducible apply Keeps.via (contribute_keeps _ _ _ _ _)
    | (with_reducible refine Keeps.ite (fun _ => ?_) (fun _ => ?_))
    | (with_reducible refine Keeps.foldl ?_ (fun _ _ => ?_))
    | split

theorem abortColls_keeps (code : Nat) (s : State) :
    Keeps [.out, .rounds, .cce, .fep] [] s (abortColls code s) := by
  unfold abortColls
  repeat' first
    | (with_reducible apply Within.of_all; decide)
    | (with_reducible apply Covers.of_all; decide)
    | with_reducible exact Keeps.refl _ _ _
    | with_reducible apply Keeps.via (abortColl_keeps _ _ _)
    | (with_reducible refine Keeps.foldl ?_ (fun _ _ => ?_))

theorem orphanLoans_keeps (s : State) :
    Keeps [.pools, .orphans] [] s (orphanLoans s) := by
  unfold orphanLoans
  repeat' first
    | (simp only [Keeps.toMk]; first | with_reducible apply KeepsMk.set_orphans)
    | (with_reducible apply Within.of_all; decide)
    | (with_reducible apply Covers.of_all; decide)
    | with_reducible exact Keeps.refl _ _ _
    | with_reducible apply Keeps.via (freeAll_keeps _ _)
    | (with_reducible refine Keeps.ite (fun _ => ?_) (fun _ => ?_))
    | (with_reducible refine Keeps.foldl ?_ (fun _ _ => ?_))

theorem stopStations_keeps (s : State) :
    Keeps [.pools, .tports, .tokenLast, .halves, .ingestHeld, .homes, .bucketMaps, .chipHist, .sortCounters, .recv, .feeds, .handed, .collects, .collectHeld, .fep] [.reg 0x80050] s (stopStations s) := by
  unfold stopStations
  repeat' first
    | (simp only [Keeps.toMk]; first | with_reducible apply KeepsMk.set_pools_tports_tokenLast_halves_ingestHeld_homes_bucketMaps_chipHist_sortCounters_recv_feeds_handed_collects_collectHeld_fep)
    | (with_reducible apply Within.of_all; decide)
    | (with_reducible apply Covers.of_all; decide)
    | with_reducible exact Keeps.refl _ _ _
    | with_reducible apply Keeps.via (bump_keeps _ _ _)
    | with_reducible apply Keeps.via (freeAll_keeps _ _)
    | exact fun h => h
    | exact fun h => (List.length_map _).trans h

theorem abortStep_keeps (code : Nat) (onSelf : Bool) (s : State) :
    Keeps abortParts abortAreas s (abortStep code onSelf s) := by
  unfold abortStep
  repeat' first
    | (simp only [Keeps.toMk]; first | with_reducible apply KeepsMk.set_run)
    | (with_reducible apply Within.of_all; decide)
    | (with_reducible apply Covers.of_all; decide)
    | with_reducible exact Keeps.refl _ _ _
    | with_reducible apply Keeps.via (bcastSend_keeps _ _ _ _ _)
    | with_reducible apply Keeps.via (raiseGen_keeps _)
    | with_reducible apply Keeps.via (abortColls_keeps _ _)
    | with_reducible apply Keeps.via (orphanLoans_keeps _)
    | with_reducible apply Keeps.via (stopStations_keeps _)
    | with_reducible apply Keeps.via (traceEvent_keeps _ _ _ _)
    | (with_reducible refine Keeps.ite (fun _ => ?_) (fun _ => ?_))
    | split

theorem raiseAborts_keeps (unit code : Nat) (s : State) :
    Keeps abortParts [.reg 0x80008, .reg 0x80050, .reg (unit + 8)] s (raiseAborts unit code s) := by
  unfold raiseAborts
  repeat' first
    | (with_reducible apply Within.of_all; decide)
    | with_reducible exact Covers.nil _
    | (with_reducible apply Covers.cons; · first | decide | simp)
    | with_reducible exact Keeps.refl _ _ _
    | with_reducible apply Keeps.via (abortStep_keeps _ _ _)
    | with_reducible apply Keeps.via (record_keeps _ _ _)
    | unfold noteAreas
    | unfold abortAreas
    | simp only [List.cons_append, List.nil_append]

theorem raiseColl_keeps (ix code : Nat) (s : State) :
    Keeps abortParts ([Area.reg 0xA0008] ++ abortAreas) s (raiseColl ix code s) := by
  unfold raiseColl
  repeat' first
    | (with_reducible apply Within.of_all; decide)
    | (with_reducible apply Covers.of_all; decide)
    | with_reducible exact Keeps.refl _ _ _
    | with_reducible apply Keeps.via (abortColl_keeps _ _ _)
    | with_reducible apply Keeps.via (raiseAborts_keeps _ _ _)

theorem release_keeps (p ptr : Nat) (s : State) :
    Keeps abortParts ([Area.reg 0x20008] ++ abortAreas) s (release p ptr s) := by
  unfold release
  repeat' first
    | (with_reducible apply Within.of_all; decide)
    | (with_reducible apply Covers.of_all; decide)
    | with_reducible exact Keeps.refl _ _ _
    | with_reducible apply Keeps.via (raiseAborts_keeps _ _ _)
    | with_reducible apply Keeps.via (dropRef_keeps _ _ _)
    | (with_reducible refine Keeps.ite (fun _ => ?_) (fun _ => ?_))

theorem releaseOpt_keeps (b : Option (Nat × Nat)) (s : State) :
    Keeps abortParts ([Area.reg 0x20008] ++ abortAreas) s (releaseOpt b s) := by
  unfold releaseOpt
  repeat' first
    | (with_reducible apply Within.of_all; decide)
    | (with_reducible apply Covers.of_all; decide)
    | with_reducible exact Keeps.refl _ _ _
    | with_reducible apply Keeps.via (release_keeps _ _ _)
    | split

theorem raiseRefs_keeps (p ptr n : Nat) (s : State) :
    Keeps abortParts ([Area.reg 0x20008] ++ abortAreas) s (raiseRefs p ptr n s) := by
  unfold raiseRefs
  repeat' first
    | (with_reducible apply Within.of_all; decide)
    | (with_reducible apply Covers.of_all; decide)
    | with_reducible exact Keeps.refl _ _ _
    | with_reducible apply Keeps.via (raiseAborts_keeps _ _ _)
    | with_reducible apply Keeps.via (setRefs_keeps _ _ _ _)
    | (with_reducible refine Keeps.ite (fun _ => ?_) (fun _ => ?_))

theorem countDelivered_keeps (t : Tie) (s : State) :
    Keeps [.quarUndelivered, .halves] [] s (countDelivered t s) := by
  unfold countDelivered
  repeat' first
    | (simp only [Keeps.toMk]; first | with_reducible apply KeepsMk.set_quarUndelivered)
    | (with_reducible apply Within.of_all; decide)
    | (with_reducible apply Covers.of_all; decide)
    | with_reducible exact Keeps.refl _ _ _
    | with_reducible apply Keeps.via (modHalf_keeps _ _ _ _)
    | split

theorem settle_keeps (t : Tie) (s : State) :
    Keeps ([Part.quarUndelivered] ++ abortParts) ([Area.reg 0x20008] ++ abortAreas) s (settle t s) := by
  unfold settle
  repeat' first
    | (with_reducible apply Within.of_all; decide)
    | (with_reducible apply Covers.of_all; decide)
    | with_reducible exact Keeps.refl _ _ _
    | with_reducible apply Keeps.via (release_keeps _ _ _)
    | with_reducible apply Keeps.via (countDelivered_keeps _ _)
    | split

theorem passLanded_keeps (src len : Nat) (s : State) :
    Keeps [.fep] [] s (passLanded src len s) := by
  unfold passLanded
  repeat' first
    | (simp only [Keeps.toMk]; first | with_reducible apply KeepsMk.set_fep)
    | (with_reducible apply Within.of_all; decide)
    | with_reducible exact Keeps.refl _ _ _
    | split

theorem send_keeps (m : Message) (s : State) :
    Keeps ([Part.quarUndelivered] ++ abortParts) ([Area.reg 0x20008] ++ abortAreas) s (send m s) := by
  unfold send
  repeat' first
    | (with_reducible apply Within.of_all; decide)
    | (with_reducible apply Covers.of_all; decide)
    | with_reducible exact Keeps.refl _ _ _
    | with_reducible apply Keeps.via (post_keeps _ _)
    | with_reducible apply Keeps.via (settle_keeps _ _)
    | (with_reducible refine Keeps.ite (fun _ => ?_) (fun _ => ?_))

theorem sendCounted_keeps (m : Message) (s : State) :
    Keeps [.out, .quarUndelivered, .halves, .fep] [] s (sendCounted m s) := by
  unfold sendCounted
  repeat' first
    | (with_reducible apply Within.of_all; decide)
    | (with_reducible apply Covers.of_all; decide)
    | with_reducible exact Keeps.refl _ _ _
    | with_reducible apply Keeps.via (post_keeps _ _)
    | with_reducible apply Keeps.via (countDelivered_keeps _ _)
    | (with_reducible refine Keeps.ite (fun _ => ?_) (fun _ => ?_))

theorem sendAll_keeps (dsts : List Nat) (lc kind : Nat) (payload : Bytes) (tie : Tie) (s : State) :
    Keeps [.out, .quarUndelivered, .halves, .fep] [] s (sendAll dsts lc kind payload tie s) := by
  unfold sendAll
  repeat' first
    | (with_reducible apply Within.of_all; decide)
    | (with_reducible apply Covers.of_all; decide)
    | with_reducible exact Keeps.refl _ _ _
    | with_reducible apply Keeps.via (sendCounted_keeps _ _)
    | (with_reducible refine Keeps.foldl ?_ (fun _ _ => ?_))

theorem cancel_keeps (s : State) :
    Keeps abortParts abortAreas s (cancel s) := by
  unfold cancel
  repeat' first
    | (with_reducible apply Within.of_all; decide)
    | (with_reducible apply Covers.of_all; decide)
    | with_reducible exact Keeps.refl _ _ _
    | with_reducible apply Keeps.via (raiseAborts_keeps _ _ _)
    | (with_reducible refine Keeps.ite (fun _ => ?_) (fun _ => ?_))

theorem freeOrphans_keeps (s : State) :
    Keeps abortParts ([Area.reg 0x20008] ++ abortAreas) s (freeOrphans s) := by
  unfold freeOrphans
  repeat' first
    | (simp only [Keeps.toMk]; first | with_reducible apply KeepsMk.set_orphans)
    | (with_reducible apply Within.of_all; decide)
    | (with_reducible apply Covers.of_all; decide)
    | with_reducible exact Keeps.refl _ _ _
    | with_reducible apply Keeps.via (release_keeps _ _ _)
    | with_reducible apply Keeps.via (freeAll_keeps _ _)
    | (with_reducible refine Keeps.ite (fun _ => ?_) (fun _ => ?_))
    | (with_reducible refine Keeps.foldl ?_ (fun _ _ => ?_))

end Sys2Proof.Machine
end

