-- ==== Sys2Proof/Laws/FramesSecure.lean ====
section
/-! SUPPORT. What each operation of Machine/Secure.lean changes: the parts of the state and the registers, and that it keeps the
invariant. -/
namespace Sys2Proof.Machine
open Sys2Proof

theorem verifyFail_keeps (object reason : Nat) (s : State) :
    Keeps [.sec] [.reg 0x200074] s (verifyFail object reason s) := by
  unfold verifyFail
  repeat' first
    | (simp only [Keeps.toMk]; first | with_reducible apply KeepsMk.set_sec)
    | (with_reducible apply Within.of_all; decide)
    | (with_reducible apply Covers.of_all; decide)
    | with_reducible exact Keeps.refl _ _ _
    | with_reducible apply Keeps.via (bump_keeps _ _ _)

theorem drbg_keeps (n : Nat) (s : State) : Keeps [.freshCount, .sec] [] s (drbg n s).2 := by
  unfold drbg
  repeat' first
    | (with_reducible apply Within.of_all; decide)
    | with_reducible exact Covers.nil _
    | with_reducible exact Keeps.refl _ _ _
    | (simp only [Keeps.toMk]; first | with_reducible apply KeepsMk.set_sec | with_reducible apply KeepsMk.set_freshCount)
    | with_reducible apply Keeps.via (fresh_keeps _)

theorem drbg_keeps_eq {n : Nat} {s t : State} {r : Bytes} (h : drbg n s = (r, t)) : Keeps [.freshCount, .sec] [] s t := by
  have := drbg_keeps n s
  rw [h] at this
  exact this

theorem drbgReseed_keeps (s : State) :
    Keeps [.sec] [] s (drbgReseed s) := by
  unfold drbgReseed
  repeat' first
    | (simp only [Keeps.toMk]; first | with_reducible apply KeepsMk.set_sec)
    | (with_reducible apply Within.of_all; decide)
    | with_reducible exact Keeps.refl _ _ _
    | (with_reducible refine Keeps.ite (fun _ => ?_) (fun _ => ?_))

theorem entropyFail_keeps (s : State) :
    Keeps [.mem, .sec, .note] ([Area.reg 0x200008] ++ noteAreas) s (entropyFail s) := by
  unfold entropyFail
  repeat' first
    | (simp only [Keeps.toMk]; first | with_reducible apply KeepsMk.set_sec)
    | (with_reducible apply Within.of_all; decide)
    | (with_reducible apply Covers.of_all; decide)
    | with_reducible exact Keeps.refl _ _ _
    | with_reducible apply Keeps.via (securityCode_keeps _ _ _)
    | (with_reducible refine Keeps.ite (fun _ => ?_) (fun _ => ?_))

theorem certLoad_keeps (s : State) :
    Keeps [.sec] [.reg 0x200008] s (certLoad s) := by
  unfold certLoad
  repeat' first
    | (simp only [Keeps.toMk]; first | with_reducible apply KeepsMk.set_sec)
    | (with_reducible apply Within.of_all; decide)
    | (with_reducible apply Covers.of_all; decide)
    | with_reducible exact Keeps.refl _ _ _
    | with_reducible apply Keeps.via (record_keeps _ _ _)
    | (with_reducible refine Keeps.ite (fun _ => ?_) (fun _ => ?_))

theorem certCheckDone_keeps (env : MemEnv) (s0 : State) :
    Keeps [.mem, .beyond, .sec, .note] ([Area.reg 0x200008, Area.reg 0x200074] ++ noteAreas) s0 (certCheckDone env s0) := by
  unfold certCheckDone
  repeat' first
    | (simp only [Keeps.toMk]; first | with_reducible apply KeepsMk.set_sec)
    | (with_reducible apply Within.of_all; decide)
    | (with_reducible apply Covers.of_all; decide)
    | with_reducible exact Keeps.refl _ _ _
    | with_reducible apply Keeps.via (withEnv_keeps _ _)
    | with_reducible apply Keeps.via (securityCode_keeps _ _ _)
    | with_reducible apply Keeps.via (verifyFail_keeps _ _ _)
    | (with_reducible refine Keeps.ite (fun _ => ?_) (fun _ => ?_))
    | split
    | (dsimp -proj only)

theorem certCheckDone_keeps_env (env : MemEnv) (s0 : State) :
    Keeps [.mem, .sec, .note] ([Area.reg 0x200008, Area.reg 0x200074] ++ noteAreas) (withEnv env s0) (certCheckDone env s0) := by
  unfold certCheckDone
  repeat' first
    | (simp only [Keeps.toMk]; first | with_reducible apply KeepsMk.set_sec)
    | (with_reducible apply Within.of_all; decide)
    | (with_reducible apply Covers.of_all; decide)
    | with_reducible exact Keeps.refl _ _ _
    | with_reducible apply Keeps.via (securityCode_keeps _ _ _)
    | with_reducible apply Keeps.via (verifyFail_keeps _ _ _)
    | (with_reducible refine Keeps.ite (fun _ => ?_) (fun _ => ?_))
    | split
    | (dsimp -proj only)

theorem klLoad_keeps (s : State) :
    Keeps [.sec] [.reg 0x200008] s (klLoad s) := by
  unfold klLoad
  repeat' first
    | (simp only [Keeps.toMk]; first | with_reducible apply KeepsMk.set_sec)
    | (with_reducible apply Within.of_all; decide)
    | (with_reducible apply Covers.of_all; decide)
    | with_reducible exact Keeps.refl _ _ _
    | with_reducible apply Keeps.via (record_keeps _ _ _)
    | (with_reducible refine Keeps.ite (fun _ => ?_) (fun _ => ?_))

theorem keylistCheckDone_keeps (env : MemEnv) (s0 : State) :
    Keeps [.mem, .beyond, .sec, .note] ([Area.reg 0x200008, Area.reg 0x200074] ++ noteAreas) s0 (keylistCheckDone env s0) := by
  unfold keylistCheckDone
  repeat' first
    | (simp only [Keeps.toMk]; first | with_reducible apply KeepsMk.set_sec)
    | (with_reducible apply Within.of_all; decide)
    | (with_reducible apply Covers.of_all; decide)
    | with_reducible exact Keeps.refl _ _ _
    | with_reducible apply Keeps.via (withEnv_keeps _ _)
    | with_reducible apply Keeps.via (securityCode_keeps _ _ _)
    | with_reducible apply Keeps.via (verifyFail_keeps _ _ _)
    | (with_reducible refine Keeps.ite (fun _ => ?_) (fun _ => ?_))
    | split
    | (dsimp -proj only)

theorem keylistCheckDone_keeps_env (env : MemEnv) (s0 : State) :
    Keeps [.mem, .sec, .note] ([Area.reg 0x200008, Area.reg 0x200074] ++ noteAreas) (withEnv env s0) (keylistCheckDone env s0) := by
  unfold keylistCheckDone
  repeat' first
    | (simp only [Keeps.toMk]; first | with_reducible apply KeepsMk.set_sec)
    | (with_reducible apply Within.of_all; decide)
    | (with_reducible apply Covers.of_all; decide)
    | with_reducible exact Keeps.refl _ _ _
    | with_reducible apply Keeps.via (securityCode_keeps _ _ _)
    | with_reducible apply Keeps.via (verifyFail_keeps _ _ _)
    | (with_reducible refine Keeps.ite (fun _ => ?_) (fun _ => ?_))
    | split
    | (dsimp -proj only)

theorem drawChallenge_keeps (s : State) :
    Keeps [.freshCount, .sec] [] s (drawChallenge s) := by
  unfold drawChallenge
  repeat' first
    | (simp only [Keeps.toMk]; first | with_reducible apply KeepsMk.set_sec)
    | (with_reducible apply Within.of_all; decide)
    | (with_reducible apply Covers.of_all; decide)
    | with_reducible exact Keeps.refl _ _ _
    | with_reducible apply Keeps.via (drbg_keeps _ _)
    | (with_reducible refine Keeps.ite (fun _ => ?_) (fun _ => ?_))

theorem deliver_keeps (src : TokenSrc) (s : State) :
    Keeps [.sec] [.reg 0x200008] s (deliver src s) := by
  unfold deliver
  repeat' first
    | (simp only [Keeps.toMk]; first | with_reducible apply KeepsMk.set_sec)
    | (with_reducible apply Within.of_all; decide)
    | (with_reducible apply Covers.of_all; decide)
    | with_reducible exact Keeps.refl _ _ _
    | with_reducible apply Keeps.via (record_keeps _ _ _)
    | (with_reducible refine Keeps.ite (fun _ => ?_) (fun _ => ?_))

theorem tokenFail_keeps (s : State) :
    Keeps [.mem, .sec, .note] ([Area.reg 0x200008] ++ noteAreas) s (tokenFail s) := by
  unfold tokenFail
  repeat' first
    | (simp only [Keeps.toMk]; first | with_reducible apply KeepsMk.set_sec)
    | (with_reducible apply Within.of_all; decide)
    | (with_reducible apply Covers.of_all; decide)
    | with_reducible exact Keeps.refl _ _ _
    | with_reducible apply Keeps.via (securityCode_keeps _ _ _)

theorem tokenCheckDone_keeps (env : MemEnv) (s0 : State) :
    Keeps [.mem, .beyond, .sec, .note] ([Area.reg 0x200008, Area.reg 0x200074] ++ noteAreas) s0 (tokenCheckDone env s0) := by
  unfold tokenCheckDone
  repeat' first
    | (simp only [Keeps.toMk]; first | with_reducible apply KeepsMk.set_sec)
    | (with_reducible apply Within.of_all; decide)
    | (with_reducible apply Covers.of_all; decide)
    | with_reducible exact Keeps.refl _ _ _
    | with_reducible apply Keeps.via (withEnv_keeps _ _)
    | with_reducible apply Keeps.via (verifyFail_keeps _ _ _)
    | with_reducible apply Keeps.via (tokenFail_keeps _)
    | (with_reducible refine Keeps.ite (fun _ => ?_) (fun _ => ?_))
    | split
    | (dsimp -proj only)

theorem tokenCheckDone_keeps_env (env : MemEnv) (s0 : State) :
    Keeps [.mem, .sec, .note] ([Area.reg 0x200008, Area.reg 0x200074] ++ noteAreas) (withEnv env s0) (tokenCheckDone env s0) := by
  unfold tokenCheckDone
  repeat' first
    | (simp only [Keeps.toMk]; first | with_reducible apply KeepsMk.set_sec)
    | (with_reducible apply Within.of_all; decide)
    | (with_reducible apply Covers.of_all; decide)
    | with_reducible exact Keeps.refl _ _ _
    | with_reducible apply Keeps.via (verifyFail_keeps _ _ _)
    | with_reducible apply Keeps.via (tokenFail_keeps _)
    | (with_reducible refine Keeps.ite (fun _ => ?_) (fun _ => ?_))
    | split
    | (dsimp -proj only)

end Sys2Proof.Machine
end

