-- ==== Sys2Proof/Laws/FramesLink.lean ====
section
/-! SUPPORT. What each operation of Machine/Link.lean changes: the parts of the state and the registers, and that it keeps the
invariant. -/
namespace Sys2Proof.Machine
open Sys2Proof

theorem modPort_keeps (n : Nat) (f : Port → Port) (s : State) :
    Keeps [.ports] [] s (modPort n f s) := by
  unfold modPort
  repeat' first
    | (simp only [Keeps.toMk]; first | with_reducible apply KeepsMk.set_ports)
    | (with_reducible apply Within.of_all; decide)
    | with_reducible exact Keeps.refl _ _ _
    | exact fun h => (length_modifyAt _ _ _).trans h

theorem modTx_keeps (dst lc : Nat) (f : TxFlow → TxFlow) (s : State) :
    Keeps [.fep] [] s (modTx dst lc f s) := by
  unfold modTx
  repeat' first
    | (simp only [Keeps.toMk]; first | with_reducible apply KeepsMk.set_fep)
    | (with_reducible apply Within.of_all; decide)
    | with_reducible exact Keeps.refl _ _ _

theorem unplace_keeps (b : Bytes) (s : State) :
    Keeps [.fep] [] s (unplace b s) := by
  unfold unplace
  repeat' first
    | (with_reducible apply Within.of_all; decide)
    | (with_reducible apply Covers.of_all; decide)
    | with_reducible exact Keeps.refl _ _ _
    | with_reducible apply Keeps.via (modTx_keeps _ _ _ _)

theorem clearPackets_keeps (n : Nat) (s : State) :
    Keeps [.fep, .ports] [] s (clearPackets n s) := by
  unfold clearPackets
  repeat' first
    | (with_reducible apply Within.of_all; decide)
    | (with_reducible apply Covers.of_all; decide)
    | with_reducible exact Keeps.refl _ _ _
    | with_reducible apply Keeps.via (modPort_keeps _ _ _)
    | with_reducible apply Keeps.via (unplace_keeps _ _)
    | (with_reducible refine Keeps.foldl ?_ (fun _ _ => ?_))

theorem noteIsolation_keeps (s : State) :
    Keeps [.fep] [] s (noteIsolation s) := by
  unfold noteIsolation
  repeat' first
    | (simp only [Keeps.toMk]; first | with_reducible apply KeepsMk.set_fep)
    | (with_reducible apply Within.of_all; decide)
    | with_reducible exact Keeps.refl _ _ _
    | (with_reducible refine Keeps.ite (fun _ => ?_) (fun _ => ?_))

theorem noteSlots_keeps (s : State) :
    Keeps [.cce] [] s (noteSlots s) := by
  unfold noteSlots
  repeat' first
    | (simp only [Keeps.toMk]; first | with_reducible apply KeepsMk.set_cce)
    | (with_reducible apply Within.of_all; decide)
    | with_reducible exact Keeps.refl _ _ _

theorem throttleRise_keeps (s : State) :
    Keeps [.trace, .fep] [] s (throttleRise s) := by
  unfold throttleRise
  repeat' first
    | (simp only [Keeps.toMk]; first | with_reducible apply KeepsMk.set_fep)
    | (with_reducible apply Within.of_all; decide)
    | (with_reducible apply Covers.of_all; decide)
    | with_reducible exact Keeps.refl _ _ _
    | with_reducible apply Keeps.via (traceEvent_keeps _ _ _ _)
    | (with_reducible refine Keeps.ite (fun _ => ?_) (fun _ => ?_))

theorem notePorts_keeps (s : State) :
    Keeps [.trace, .cce, .fep] [] s (notePorts s) := by
  unfold notePorts
  repeat' first
    | (with_reducible apply Within.of_all; decide)
    | (with_reducible apply Covers.of_all; decide)
    | with_reducible exact Keeps.refl _ _ _
    | with_reducible apply Keeps.via (noteIsolation_keeps _)
    | with_reducible apply Keeps.via (noteSlots_keeps _)
    | with_reducible apply Keeps.via (throttleRise_keeps _)

theorem setState_keeps (n : Nat) (st : PortState) (sec : Option Nat) (s : State) :
    Keeps [.mem, .note, .trace, .cce, .fep, .ports] ([Area.port] ++ noteAreas) s (setState n st sec s) := by
  unfold setState
  repeat' first
    | (with_reducible apply Within.of_all; decide)
    | (with_reducible apply Covers.of_all; decide)
    | (with_reducible apply Covers.port (by decide); decide)
    | (with_reducible apply Covers.cons; · first | decide | simp)
    | with_reducible exact Keeps.refl _ _ _
    | with_reducible apply Keeps.via (modPort_keeps _ _ _)
    | with_reducible apply Keeps.via (notePorts_keeps _)
    | with_reducible apply Keeps.via (traceEvent_keeps _ _ _ _)
    | with_reducible apply Keeps.via (notice_keeps _ _ _ _ _)
    | with_reducible apply Keeps.via (countFault_keeps _ _ _)
    | with_reducible apply Keeps.via (securityCode_keeps _ _ _)
    | (with_reducible refine Keeps.ite (fun _ => ?_) (fun _ => ?_))
    | (with_reducible refine Keeps.foldl ?_ (fun _ _ => ?_))
    | split

theorem dropLink_keeps (n : Nat) (st : PortState) (sec : Option Nat) (s : State) :
    Keeps [.mem, .note, .trace, .cce, .fep, .ports] ([Area.port] ++ noteAreas) s (dropLink n st sec s) := by
  unfold dropLink
  repeat' first
    | (with_reducible apply Within.of_all; decide)
    | (with_reducible apply Covers.of_all; decide)
    | with_reducible exact Keeps.refl _ _ _
    | with_reducible apply Keeps.via (modPort_keeps _ _ _)
    | with_reducible apply Keeps.via (clearPackets_keeps _ _)
    | with_reducible apply Keeps.via (setState_keeps _ _ _ _)
    | (with_reducible refine Keeps.foldl ?_ (fun _ _ => ?_))

theorem toRetrain_keeps (n : Nat) (sec : Option Nat) (s : State) :
    Keeps [.mem, .note, .trace, .cce, .fep, .ports] ([Area.port] ++ noteAreas) s (toRetrain n sec s) := by
  unfold toRetrain
  repeat' first
    | (with_reducible apply Within.of_all; decide)
    | (with_reducible apply Covers.of_all; decide)
    | (with_reducible apply Covers.port (by decide); decide)
    | with_reducible exact Keeps.refl _ _ _
    | with_reducible apply Keeps.via (modPort_keeps _ _ _)
    | with_reducible apply Keeps.via (clearPackets_keeps _ _)
    | with_reducible apply Keeps.via (setState_keeps _ _ _ _)
    | with_reducible apply Keeps.via (dropLink_keeps _ _ _ _)
    | with_reducible apply Keeps.via (bump16_keeps _ _ _)
    | (with_reducible refine Keeps.ite (fun _ => ?_) (fun _ => ?_))
    | (with_reducible refine Keeps.foldl ?_ (fun _ _ => ?_))

theorem latchBond_keeps (n : Nat) (s : State) :
    Keeps [.ports] [] s (latchBond n s) := by
  unfold latchBond
  repeat' first
    | (with_reducible apply Within.of_all; decide)
    | (with_reducible apply Covers.of_all; decide)
    | with_reducible exact Keeps.refl _ _ _
    | with_reducible apply Keeps.via (modPort_keeps _ _ _)
    | (with_reducible refine Keeps.ite (fun _ => ?_) (fun _ => ?_))
    | (with_reducible refine Keeps.foldl ?_ (fun _ _ => ?_))

theorem enterTrain_keeps (n : Nat) (s : State) :
    Keeps [.trace, .ports] [] s (enterTrain n s) := by
  unfold enterTrain
  repeat' first
    | (with_reducible apply Within.of_all; decide)
    | (with_reducible apply Covers.of_all; decide)
    | with_reducible exact Keeps.refl _ _ _
    | with_reducible apply Keeps.via (modPort_keeps _ _ _)
    | with_reducible apply Keeps.via (latchBond_keeps _ _)
    | with_reducible apply Keeps.via (traceEvent_keeps _ _ _ _)
    | (with_reducible refine Keeps.ite (fun _ => ?_) (fun _ => ?_))

theorem lossOfSignal_keeps (n : Nat) (s : State) :
    Keeps [.mem, .note, .trace, .cce, .fep, .ports] ([Area.port] ++ noteAreas) s (lossOfSignal n s) := by
  unfold lossOfSignal
  repeat' first
    | (with_reducible apply Within.of_all; decide)
    | (with_reducible apply Covers.of_all; decide)
    | with_reducible exact Keeps.refl _ _ _
    | with_reducible apply Keeps.via (dropLink_keeps _ _ _ _)
    | split

theorem disable_keeps (n : Nat) (on : Bool) (s : State) :
    Keeps [.mem, .note, .trace, .cce, .fep, .ports] ([Area.port] ++ noteAreas) s (disable n on s) := by
  unfold disable
  repeat' first
    | (with_reducible apply Within.of_all; decide)
    | (with_reducible apply Covers.of_all; decide)
    | (with_reducible apply Covers.port0; decide)
    | with_reducible exact Keeps.refl _ _ _
    | with_reducible apply Keeps.via (dropLink_keeps _ _ _ _)
    | with_reducible apply Keeps.via (setField_keeps _ _ _ _ _)
    | (with_reducible refine Keeps.ite (fun _ => ?_) (fun _ => ?_))
    | split

theorem retrain_keeps (n : Nat) (s : State) :
    Keeps [.mem, .note, .trace, .cce, .fep, .ports] ([Area.port] ++ noteAreas) s (retrain n s) := by
  unfold retrain
  repeat' first
    | (with_reducible apply Within.of_all; decide)
    | (with_reducible apply Covers.of_all; decide)
    | with_reducible exact Keeps.refl _ _ _
    | with_reducible apply Keeps.via (dropLink_keeps _ _ _ _)
    | with_reducible apply Keeps.via (toRetrain_keeps _ _ _)
    | split

theorem enterLoopback_keeps (n : Nat) (s : State) :
    Keeps [.trace, .ports] [] s (enterLoopback n s) := by
  unfold enterLoopback
  repeat' first
    | (with_reducible apply Within.of_all; decide)
    | (with_reducible apply Covers.of_all; decide)
    | with_reducible exact Keeps.refl _ _ _
    | with_reducible apply Keeps.via (modPort_keeps _ _ _)
    | with_reducible apply Keeps.via (traceEvent_keeps _ _ _ _)

theorem loopback_keeps (n : Nat) (on : Bool) (s : State) :
    Keeps [.mem, .freshCount, .sec, .note, .trace, .cce, .fep, .ports] ([Area.port] ++ noteAreas) s (loopback n on s) := by
  unfold loopback
  repeat' first
    | (with_reducible apply Within.of_all; decide)
    | (with_reducible apply Covers.of_all; decide)
    | (with_reducible apply Covers.port0; decide)
    | with_reducible exact Keeps.refl _ _ _
    | with_reducible apply Keeps.via (modPort_keeps _ _ _)
    | with_reducible apply Keeps.via (dropLink_keeps _ _ _ _)
    | with_reducible apply Keeps.via (enterLoopback_keeps _ _)
    | with_reducible apply Keeps.via (setField_keeps _ _ _ _ _)
    | with_reducible apply Keeps.via (drbg_keeps _ _)
    | (with_reducible refine Keeps.ite (fun _ => ?_) (fun _ => ?_))
    | split

theorem holdPorts_keeps (s : State) :
    Keeps [.mem, .note, .trace, .cce, .fep, .ports] ([Area.port] ++ noteAreas) s (holdPorts s) := by
  unfold holdPorts
  repeat' first
    | (with_reducible apply Within.of_all; decide)
    | (with_reducible apply Covers.of_all; decide)
    | with_reducible exact Keeps.refl _ _ _
    | with_reducible apply Keeps.via (dropLink_keeps _ _ _ _)
    | (with_reducible refine Keeps.ite (fun _ => ?_) (fun _ => ?_))
    | (with_reducible refine Keeps.foldl ?_ (fun _ _ => ?_))

theorem ephemeral_keeps (s : State) :
    Keeps [.freshCount, .sec] [] s (ephemeral s).2.2.2 := by
  unfold ephemeral
  repeat' first
    | (with_reducible apply Within.of_all; decide)
    | (with_reducible apply Covers.of_all; decide)
    | with_reducible exact Keeps.refl _ _ _
    | with_reducible apply Keeps.via (drbg_keeps _ _)

theorem beginKeying_keeps (n : Nat) (s : State) :
    Keeps [.freshCount, .sec, .ports] [] s (beginKeying n s) := by
  unfold beginKeying
  repeat' first
    | (with_reducible apply Within.of_all; decide)
    | (with_reducible apply Covers.of_all; decide)
    | with_reducible exact Keeps.refl _ _ _
    | with_reducible apply Keeps.via (modPort_keeps _ _ _)
    | with_reducible apply Keeps.via (ephemeral_keeps _)
    | split

theorem lanesTrained_keeps (n : Nat) (lanes : Byte) (delay : Nat) (s : State) :
    Keeps [.freshCount, .sec, .ports] [.port] s (lanesTrained n lanes delay s) := by
  unfold lanesTrained
  repeat' first
    | (with_reducible apply Within.of_all; decide)
    | (with_reducible apply Covers.of_all; decide)
    | (with_reducible apply Covers.port (by decide); decide)
    | with_reducible exact Keeps.refl _ _ _
    | with_reducible apply Keeps.via (modPort_keeps _ _ _)
    | with_reducible apply Keeps.via (beginKeying_keeps _ _)
    | with_reducible apply Keeps.via (setField_keeps _ _ _ _ _)
    | (with_reducible refine Keeps.ite (fun _ => ?_) (fun _ => ?_))

theorem keyingEnter_keeps (n : Nat) (s : State) :
    Keeps [.mem, .freshCount, .sec, .note, .trace, .cce, .fep, .ports] ([Area.port] ++ noteAreas) s (keyingEnter n s) := by
  unfold keyingEnter
  repeat' first
    | (with_reducible apply Within.of_all; decide)
    | (with_reducible apply Covers.of_all; decide)
    | with_reducible exact Keeps.refl _ _ _
    | with_reducible apply Keeps.via (setState_keeps _ _ _ _)
    | with_reducible apply Keeps.via (beginKeying_keeps _ _)
    | (with_reducible refine Keeps.ite (fun _ => ?_) (fun _ => ?_))

theorem trainTimeout_keeps (n : Nat) (s : State) :
    Keeps [.mem, .note, .trace, .cce, .fep, .ports] ([Area.port] ++ noteAreas) s (trainTimeout n s) := by
  unfold trainTimeout
  repeat' first
    | (with_reducible apply Within.of_all; decide)
    | (with_reducible apply Covers.of_all; decide)
    | with_reducible exact Keeps.refl _ _ _
    | with_reducible apply Keeps.via (dropLink_keeps _ _ _ _)
    | (with_reducible refine Keeps.ite (fun _ => ?_) (fun _ => ?_))

theorem keyingTimeout_keeps (n : Nat) (s : State) :
    Keeps [.mem, .note, .trace, .cce, .fep, .ports] ([Area.port] ++ noteAreas) s (keyingTimeout n s) := by
  unfold keyingTimeout
  repeat' first
    | (with_reducible apply Within.of_all; decide)
    | (with_reducible apply Covers.of_all; decide)
    | with_reducible exact Keeps.refl _ _ _
    | with_reducible apply Keeps.via (dropLink_keeps _ _ _ _)
    | (with_reducible refine Keeps.ite (fun _ => ?_) (fun _ => ?_))

theorem peerFail_keeps (n object reason : Nat) (rekey : Bool) (s : State) :
    Keeps [.mem, .sec, .note, .trace, .cce, .fep, .ports] ([Area.port, Area.reg 0x200074] ++ noteAreas) s (peerFail n object reason rekey s) := by
  unfold peerFail
  repeat' first
    | (with_reducible apply Within.of_all; decide)
    | (with_reducible apply Covers.of_all; decide)
    | with_reducible exact Keeps.refl _ _ _
    | with_reducible apply Keeps.via (dropLink_keeps _ _ _ _)
    | with_reducible apply Keeps.via (toRetrain_keeps _ _ _)
    | with_reducible apply Keeps.via (verifyFail_keeps _ _ _)
    | (with_reducible refine Keeps.ite (fun _ => ?_) (fun _ => ?_))

theorem hello_keeps (n : Nat) (m : Bytes) (s : State) :
    Keeps [.mem, .freshCount, .sec, .note, .trace, .cce, .fep, .ports] ([Area.port, Area.reg 0x200074] ++ noteAreas) s (hello n m s) := by
  unfold hello
  repeat' first
    | (with_reducible apply Within.of_all; decide)
    | (with_reducible apply Covers.of_all; decide)
    | with_reducible exact Keeps.refl _ _ _
    | with_reducible apply Keeps.via (modPort_keeps _ _ _)
    | with_reducible apply Keeps.via (toRetrain_keeps _ _ _)
    | with_reducible apply Keeps.via (ephemeral_keeps _)
    | with_reducible apply Keeps.via (peerFail_keeps _ _ _ _ _)
    | (with_reducible refine Keeps.ite (fun _ => ?_) (fun _ => ?_))
    | split

theorem clearAuth_keeps (n : Nat) (s : State) :
    Keeps [.ports] [] s (clearAuth n s) := by
  unfold clearAuth
  repeat' first
    | (with_reducible apply Within.of_all; decide)
    | (with_reducible apply Covers.of_all; decide)
    | with_reducible exact Keeps.refl _ _ _
    | with_reducible apply Keeps.via (modPort_keeps _ _ _)
    | (with_reducible refine Keeps.foldl ?_ (fun _ _ => ?_))

theorem tryComplete_keeps (n : Nat) (s : State) :
    Keeps [.mem, .note, .trace, .cce, .fep, .ports] ([Area.port] ++ noteAreas) s (tryComplete n s) := by
  unfold tryComplete
  repeat' first
    | (with_reducible apply Within.of_all; decide)
    | (with_reducible apply Covers.of_all; decide)
    | with_reducible exact Keeps.refl _ _ _
    | with_reducible apply Keeps.via (modPort_keeps _ _ _)
    | with_reducible apply Keeps.via (setState_keeps _ _ _ _)
    | with_reducible apply Keeps.via (clearAuth_keeps _ _)
    | with_reducible apply Keeps.via (traceEvent_keeps _ _ _ _)
    | (with_reducible refine Keeps.ite (fun _ => ?_) (fun _ => ?_))
    | split
    | (dsimp -proj only)

theorem linkSignatureDone_keeps (n : Nat) (s : State) :
    Keeps [.ports] [.reg 0x200070] s (linkSignatureDone n s) := by
  unfold linkSignatureDone
  repeat' first
    | (with_reducible apply Within.of_all; decide)
    | (with_reducible apply Covers.of_all; decide)
    | with_reducible exact Keeps.refl _ _ _
    | with_reducible apply Keeps.via (modPort_keeps _ _ _)
    | with_reducible apply Keeps.via (bump_keeps _ _ _)
    | (with_reducible refine Keeps.ite (fun _ => ?_) (fun _ => ?_))
    | split
    | (dsimp -proj only)

theorem finish_keeps (n : Nat) (m : Bytes) (adv : Advert) (s : State) :
    Keeps [.mem, .sec, .note, .trace, .cce, .fep, .ports] ([Area.port, Area.reg 0x200074] ++ noteAreas) s (finish n m adv s) := by
  unfold finish
  repeat' first
    | (with_reducible apply Within.of_all; decide)
    | (with_reducible apply Covers.of_all; decide)
    | with_reducible exact Keeps.refl _ _ _
    | with_reducible apply Keeps.via (modPort_keeps _ _ _)
    | with_reducible apply Keeps.via (peerFail_keeps _ _ _ _ _)
    | with_reducible apply Keeps.via (tryComplete_keeps _ _)
    | (with_reducible refine Keeps.ite (fun _ => ?_) (fun _ => ?_))
    | split
    | (dsimp -proj only)

theorem rekeyStart_keeps (n : Nat) (s : State) :
    Keeps [.mem, .freshCount, .sec, .note, .trace, .cce, .fep, .ports] ([Area.port] ++ noteAreas) s (rekeyStart n s) := by
  unfold rekeyStart
  repeat' first
    | (with_reducible apply Within.of_all; decide)
    | (with_reducible apply Covers.of_all; decide)
    | with_reducible exact Keeps.refl _ _ _
    | with_reducible apply Keeps.via (modPort_keeps _ _ _)
    | with_reducible apply Keeps.via (toRetrain_keeps _ _ _)
    | with_reducible apply Keeps.via (ephemeral_keeps _)
    | (with_reducible refine Keeps.ite (fun _ => ?_) (fun _ => ?_))

theorem rekeyIdleOnly_keeps (n : Nat) (s : State) :
    Keeps [.ports] [] s (rekeyIdleOnly n s) := by
  unfold rekeyIdleOnly
  repeat' first
    | (with_reducible apply Within.of_all; decide)
    | (with_reducible apply Covers.of_all; decide)
    | with_reducible exact Keeps.refl _ _ _
    | with_reducible apply Keeps.via (modPort_keeps _ _ _)
    | (with_reducible refine Keeps.ite (fun _ => ?_) (fun _ => ?_))

theorem rekeyTimeout_keeps (n : Nat) (s : State) :
    Keeps [.mem, .note, .trace, .cce, .fep, .ports] ([Area.port] ++ noteAreas) s (rekeyTimeout n s) := by
  unfold rekeyTimeout
  repeat' first
    | (with_reducible apply Within.of_all; decide)
    | (with_reducible apply Covers.of_all; decide)
    | with_reducible exact Keeps.refl _ _ _
    | with_reducible apply Keeps.via (toRetrain_keeps _ _ _)
    | (with_reducible refine Keeps.ite (fun _ => ?_) (fun _ => ?_))

theorem linkReplay_keeps (n ack : Nat) (s : State) :
    Keeps [.mem, .run, .note, .trace, .cce, .fep, .ports] ([Area.port] ++ noteAreas) s (linkReplay n ack s) := by
  unfold linkReplay
  repeat' first
    | (with_reducible apply Within.of_all; decide)
    | (with_reducible apply Covers.of_all; decide)
    | (with_reducible apply Covers.port (by decide); decide)
    | with_reducible exact Keeps.refl _ _ _
    | with_reducible apply Keeps.via (modPort_keeps _ _ _)
    | with_reducible apply Keeps.via (toRetrain_keeps _ _ _)
    | with_reducible apply Keeps.via (bump_keeps _ _ _)
    | with_reducible apply Keeps.via (traceEvent_keeps _ _ _ _)
    | with_reducible apply Keeps.via (modRun_keeps _ _)
    | (with_reducible refine Keeps.ite (fun _ => ?_) (fun _ => ?_))

theorem takeAck_keeps (n : Nat) (h : FrameHeader) (s : State) :
    Keeps [.mem, .run, .note, .trace, .cce, .fep, .ports] ([Area.port] ++ noteAreas) s (takeAck n h s) := by
  unfold takeAck
  repeat' first
    | (with_reducible apply Within.of_all; decide)
    | (with_reducible apply Covers.of_all; decide)
    | with_reducible exact Keeps.refl _ _ _
    | with_reducible apply Keeps.via (modPort_keeps _ _ _)
    | with_reducible apply Keeps.via (linkReplay_keeps _ _ _)
    | (with_reducible refine Keeps.ite (fun _ => ?_) (fun _ => ?_))

theorem takeCredit_keeps (n : Nat) (h : FrameHeader) (s : State) :
    Keeps [.ports] [] s (takeCredit n h s) := by
  unfold takeCredit
  repeat' first
    | (with_reducible apply Within.of_all; decide)
    | (with_reducible apply Covers.of_all; decide)
    | with_reducible exact Keeps.refl _ _ _
    | with_reducible apply Keeps.via (modPort_keeps _ _ _)
    | (with_reducible refine Keeps.ite (fun _ => ?_) (fun _ => ?_))

theorem takeRekey_keeps (n : Nat) (h : FrameHeader) (payload : Bytes) (s : State) :
    Keeps [.out, .ports] [] s (takeRekey n h payload s) := by
  unfold takeRekey
  repeat' first
    | (with_reducible apply Within.of_all; decide)
    | (with_reducible apply Covers.of_all; decide)
    | with_reducible exact Keeps.refl _ _ _
    | with_reducible apply Keeps.via (modPort_keeps _ _ _)
    | with_reducible apply Keeps.via (emitOut_keeps _ _)
    | (with_reducible refine Keeps.ite (fun _ => ?_) (fun _ => ?_))

theorem takeData_keeps (n : Nat) (h : FrameHeader) (payload : Bytes) (s : State) :
    Keeps [.out, .ports] [] s (takeData n h payload s) := by
  unfold takeData
  repeat' first
    | (with_reducible apply Within.of_all; decide)
    | (with_reducible apply Covers.of_all; decide)
    | with_reducible exact Keeps.refl _ _ _
    | with_reducible apply Keeps.via (modPort_keeps _ _ _)
    | with_reducible apply Keeps.via (emitOut_keeps _ _)
    | (with_reducible refine Keeps.ite (fun _ => ?_) (fun _ => ?_))

theorem takeFrame_keeps (n : Nat) (h : FrameHeader) (payload : Bytes) (s : State) :
    Keeps [.out, .mem, .run, .note, .trace, .cce, .fep, .ports] ([Area.port] ++ noteAreas) s (takeFrame n h payload s) := by
  unfold takeFrame
  repeat' first
    | (with_reducible apply Within.of_all; decide)
    | (with_reducible apply Covers.of_all; decide)
    | with_reducible exact Keeps.refl _ _ _
    | with_reducible apply Keeps.via (modPort_keeps _ _ _)
    | with_reducible apply Keeps.via (takeAck_keeps _ _ _)
    | with_reducible apply Keeps.via (takeCredit_keeps _ _ _)
    | with_reducible apply Keeps.via (takeRekey_keeps _ _ _ _)
    | with_reducible apply Keeps.via (takeData_keeps _ _ _ _)
    | (with_reducible refine Keeps.ite (fun _ => ?_) (fun _ => ?_))

theorem lostFrame_keeps (n : Nat) (s : State) :
    Keeps [.ports] [] s (lostFrame n s) := by
  unfold lostFrame
  repeat' first
    | (with_reducible apply Within.of_all; decide)
    | (with_reducible apply Covers.of_all; decide)
    | with_reducible exact Keeps.refl _ _ _
    | with_reducible apply Keeps.via (modPort_keeps _ _ _)

theorem authFail_keeps (port n : Nat) (s : State) :
    Keeps [.mem, .note, .trace, .cce, .fep, .ports] ([Area.port] ++ noteAreas) s (authFail port n s) := by
  unfold authFail
  repeat' first
    | (with_reducible apply Within.of_all; decide)
    | (with_reducible apply Covers.of_all; decide)
    | (with_reducible apply Covers.port (by decide); decide)
    | with_reducible exact Keeps.refl _ _ _
    | with_reducible apply Keeps.via (modPort_keeps _ _ _)
    | with_reducible apply Keeps.via (dropLink_keeps _ _ _ _)
    | with_reducible apply Keeps.via (lostFrame_keeps _ _)
    | with_reducible apply Keeps.via (bump16_keeps _ _ _)
    | (with_reducible refine Keeps.ite (fun _ => ?_) (fun _ => ?_))

theorem receiveKeyed_keeps (port n : Nat) (f : Bytes) (s : State) :
    Keeps [.out, .mem, .run, .note, .trace, .cce, .fep, .ports] ([Area.port] ++ noteAreas) s (receiveKeyed port n f s) := by
  unfold receiveKeyed
  repeat' first
    | (with_reducible apply Within.of_all; decide)
    | (with_reducible apply Covers.of_all; decide)
    | with_reducible exact Keeps.refl _ _ _
    | with_reducible apply Keeps.via (modPort_keeps _ _ _)
    | with_reducible apply Keeps.via (clearAuth_keeps _ _)
    | with_reducible apply Keeps.via (takeFrame_keeps _ _ _ _)
    | with_reducible apply Keeps.via (authFail_keeps _ _ _)
    | (with_reducible refine Keeps.ite (fun _ => ?_) (fun _ => ?_))
    | split

theorem receiveClear_keeps (n : Nat) (f : Bytes) (s : State) :
    Keeps [.out, .mem, .run, .note, .trace, .cce, .fep, .ports] ([Area.port] ++ noteAreas) s (receiveClear n f s) := by
  unfold receiveClear
  repeat' first
    | (with_reducible apply Within.of_all; decide)
    | (with_reducible apply Covers.of_all; decide)
    | with_reducible exact Keeps.refl _ _ _
    | with_reducible apply Keeps.via (modPort_keeps _ _ _)
    | with_reducible apply Keeps.via (tryComplete_keeps _ _)
    | with_reducible apply Keeps.via (takeFrame_keeps _ _ _ _)
    | (with_reducible refine Keeps.ite (fun _ => ?_) (fun _ => ?_))

theorem frameReceive_keeps (port : Nat) (f : Bytes) (corrected : Nat) (s0 : State) :
    Keeps [.out, .mem, .run, .note, .trace, .cce, .fep, .ports] ([Area.port] ++ noteAreas) s0 (frameReceive port f corrected s0) := by
  unfold frameReceive
  repeat' first
    | (with_reducible apply Within.of_all; decide)
    | (with_reducible apply Covers.of_all; decide)
    | (with_reducible apply Covers.port (by decide); decide)
    | with_reducible exact Keeps.refl _ _ _
    | with_reducible apply Keeps.via (modPort_keeps _ _ _)
    | with_reducible apply Keeps.via (lostFrame_keeps _ _)
    | with_reducible apply Keeps.via (receiveKeyed_keeps _ _ _ _)
    | with_reducible apply Keeps.via (receiveClear_keeps _ _ _)
    | with_reducible apply Keeps.via (bump_keeps _ _ _)
    | (with_reducible refine Keeps.ite (fun _ => ?_) (fun _ => ?_))

theorem replayTimeout_keeps (n : Nat) (s : State) :
    Keeps [.mem, .run, .note, .trace, .cce, .fep, .ports] ([Area.port] ++ noteAreas) s (replayTimeout n s) := by
  unfold replayTimeout
  repeat' first
    | (with_reducible apply Within.of_all; decide)
    | (with_reducible apply Covers.of_all; decide)
    | with_reducible exact Keeps.refl _ _ _
    | with_reducible apply Keeps.via (linkReplay_keeps _ _ _)
    | (with_reducible refine Keeps.ite (fun _ => ?_) (fun _ => ?_))

end Sys2Proof.Machine
end

