-- ==== Sys2Proof/Laws/FramesLoader.lean ====
section
/-! SUPPORT. What each operation of Machine/Loader.lean changes: the parts of the state and the registers, and that it keeps the
invariant. -/
namespace Sys2Proof.Machine
open Sys2Proof

theorem platEvent_keeps (code : Nat) (s : State) :
    Keeps [.mem, .note] noteAreas s (platEvent code s) := by
  unfold platEvent
  repeat' first
    | (with_reducible apply Within.of_all; decide)
    | (with_reducible apply Covers.of_all; decide)
    | with_reducible exact Keeps.refl _ _ _
    | with_reducible apply Keeps.via (platNotice_keeps _ _ _)

theorem ldrLoad_keeps (s : State) :
    Keeps [.mem, .ldr, .note] ([Area.reg 0x10008] ++ noteAreas) s (ldrLoad s) := by
  unfold ldrLoad
  repeat' first
    | (simp only [Keeps.toMk]; first | with_reducible apply KeepsMk.set_ldr)
    | (with_reducible apply Within.of_all; decide)
    | (with_reducible apply Covers.of_all; decide)
    | with_reducible exact Keeps.refl _ _ _
    | with_reducible apply Keeps.via (record_keeps _ _ _)
    | with_reducible apply Keeps.via (securityCode_keeps _ _ _)
    | (with_reducible refine Keeps.ite (fun _ => ?_) (fun _ => ?_))
    | split

theorem ldrAbandon_keeps (s : State) :
    Keeps [.ldr] [.reg 0x10008] s (ldrAbandon s) := by
  unfold ldrAbandon
  repeat' first
    | (simp only [Keeps.toMk]; first | with_reducible apply KeepsMk.set_ldr)
    | (with_reducible apply Within.of_all; decide)
    | (with_reducible apply Covers.of_all; decide)
    | with_reducible exact Keeps.refl _ _ _
    | with_reducible apply Keeps.via (record_keeps _ _ _)
    | split

theorem ldrActivate_keeps (s : State) :
    Keeps [.ldr] [.reg 0x10008] s (ldrActivate s) := by
  unfold ldrActivate
  repeat' first
    | (simp only [Keeps.toMk]; first | with_reducible apply KeepsMk.set_ldr)
    | (with_reducible apply Within.of_all; decide)
    | (with_reducible apply Covers.of_all; decide)
    | with_reducible exact Keeps.refl _ _ _
    | with_reducible apply Keeps.via (record_keeps _ _ _)
    | split

theorem ldrDisarm_keeps (s : State) :
    Keeps [.ldr] [.reg 0x10008] s (ldrDisarm s) := by
  unfold ldrDisarm
  repeat' first
    | (simp only [Keeps.toMk]; first | with_reducible apply KeepsMk.set_ldr)
    | (with_reducible apply Within.of_all; decide)
    | (with_reducible apply Covers.of_all; decide)
    | with_reducible exact Keeps.refl _ _ _
    | with_reducible apply Keeps.via (record_keeps _ _ _)
    | split

theorem rejectImage_keeps (code : Nat) (s : State) :
    Keeps [.mem, .ldr, .note] ([Area.reg 0x10008] ++ noteAreas) s (rejectImage code s) := by
  unfold rejectImage
  repeat' first
    | (simp only [Keeps.toMk]; first | with_reducible apply KeepsMk.set_ldr)
    | (with_reducible apply Within.of_all; decide)
    | (with_reducible apply Covers.of_all; decide)
    | with_reducible exact Keeps.refl _ _ _
    | with_reducible apply Keeps.via (platEvent_keeps _ _)
    | with_reducible apply Keeps.via (record_keeps _ _ _)
    | with_reducible apply Keeps.via (securityCode_keeps _ _ _)
    | (with_reducible refine Keeps.ite (fun _ => ?_) (fun _ => ?_))

theorem platLoadDone_keeps (env : MemEnv) (s0 : State) :
    Keeps [.mem, .beyond, .ldr, .sec, .note, .sfuLocked] ([Area.reg 0x10008, Area.reg 0x200074] ++ noteAreas) s0 (platLoadDone env s0) := by
  unfold platLoadDone
  repeat' first
    | (simp only [Keeps.toMk]; first | with_reducible apply KeepsMk.set_ldr_sfuLocked | with_reducible apply KeepsMk.set_ldr)
    | (with_reducible apply Within.of_all; decide)
    | (with_reducible apply Covers.of_all; decide)
    | with_reducible exact Keeps.refl _ _ _
    | with_reducible apply Keeps.via (platEvent_keeps _ _)
    | with_reducible apply Keeps.via (rejectImage_keeps _ _)
    | with_reducible apply Keeps.via (withEnv_keeps _ _)
    | with_reducible apply Keeps.via (verifyFail_keeps _ _ _)
    | (with_reducible refine Keeps.ite (fun _ => ?_) (fun _ => ?_))
    | split
    | (dsimp -proj only)

theorem platLoadDone_keeps_env (env : MemEnv) (s0 : State) :
    Keeps [.mem, .ldr, .sec, .note, .sfuLocked] ([Area.reg 0x10008, Area.reg 0x200074] ++ noteAreas) (withEnv env s0) (platLoadDone env s0) := by
  unfold platLoadDone
  repeat' first
    | (simp only [Keeps.toMk]; first | with_reducible apply KeepsMk.set_ldr_sfuLocked | with_reducible apply KeepsMk.set_ldr)
    | (with_reducible apply Within.of_all; decide)
    | (with_reducible apply Covers.of_all; decide)
    | with_reducible exact Keeps.refl _ _ _
    | with_reducible apply Keeps.via (platEvent_keeps _ _)
    | with_reducible apply Keeps.via (rejectImage_keeps _ _)
    | with_reducible apply Keeps.via (verifyFail_keeps _ _ _)
    | (with_reducible refine Keeps.ite (fun _ => ?_) (fun _ => ?_))
    | split
    | (dsimp -proj only)

theorem makeLive_keeps (vs : List (Nat × Word32)) (s : State) :
    Keeps [] [.all] s (makeLive vs s) := by
  unfold makeLive
  repeat' first
    | (with_reducible apply Within.of_all; decide)
    | (with_reducible apply Covers.all; decide)
    | with_reducible exact Keeps.refl _ _ _
    | with_reducible apply Keeps.via (setWord_keeps _ _ _)
    | (with_reducible refine Keeps.foldl ?_ (fun _ _ => ?_))

theorem traceRestart_keeps (s : State) :
    Keeps [.trace] [] s (traceRestart s) := by
  unfold traceRestart
  repeat' first
    | (simp only [Keeps.toMk]; first | with_reducible apply KeepsMk.set_trace)
    | (with_reducible apply Within.of_all; decide)
    | with_reducible exact Keeps.refl _ _ _
    | exact fun h => h
    | (intro h; first | done | (simpa using h; done) | (simp; done))
    | split

theorem commitSets_keeps (mask : Nat) (s : State) :
    Keeps [.commits, .trace] [.all] s (commitSets mask s) := by
  unfold commitSets
  repeat' first
    | (simp only [Keeps.toMk]; first | with_reducible apply KeepsMk.set_commits)
    | (with_reducible apply Within.of_all; decide)
    | (with_reducible apply Covers.of_all; decide)
    | with_reducible exact Keeps.refl _ _ _
    | with_reducible apply Keeps.via (makeLive_keeps _ _)
    | with_reducible apply Keeps.via (traceRestart_keeps _)
    | (with_reducible refine Keeps.ite (fun _ => ?_) (fun _ => ?_))

theorem doCommit_keeps (value : Word32) (s : State) :
    Keeps [.commits, .trace, .fep] [.all] s (doCommit value s) := by
  unfold doCommit
  repeat' first
    | (simp only [Keeps.toMk]; first | with_reducible apply KeepsMk.set_commits)
    | (with_reducible apply Within.of_all; decide)
    | (with_reducible apply Covers.of_all; decide)
    | (with_reducible apply Covers.all; decide)
    | with_reducible exact Keeps.refl _ _ _
    | with_reducible apply Keeps.via (throttleRise_keeps _)
    | with_reducible apply Keeps.via (commitSets_keeps _ _)
    | with_reducible apply Keeps.via (record_keeps _ _ _)
    | (with_reducible refine Keeps.ite (fun _ => ?_) (fun _ => ?_))
    | split

theorem applyPending_keeps (s : State) :
    Keeps [.commits] [.all] s (applyPending s) := by
  unfold applyPending
  repeat' first
    | (simp only [Keeps.toMk]; first | with_reducible apply KeepsMk.set_commits)
    | (with_reducible apply Within.of_all; decide)
    | (with_reducible apply Covers.of_all; decide)
    | with_reducible exact Keeps.refl _ _ _
    | with_reducible apply Keeps.via (makeLive_keeps _ _)

end Sys2Proof.Machine
end

