-- ==== Sys2Proof/Laws/FramesTransport.lean ====
section
/-! SUPPORT. What each operation of Machine/Transport.lean changes: the parts of the state and the registers, and that it keeps the
invariant. -/
namespace Sys2Proof.Machine
open Sys2Proof

theorem openFlow_keeps (dst lc : Nat) (s : State) :
    Keeps [.fep] [] s (openFlow dst lc s) := by
  unfold openFlow
  repeat' first
    | (simp only [Keeps.toMk]; first | with_reducible apply KeepsMk.set_fep)
    | (with_reducible apply Within.of_all; decide)
    | with_reducible exact Keeps.refl _ _ _
    | (with_reducible refine Keeps.ite (fun _ => ?_) (fun _ => ?_))

theorem sendControl_keeps (dst : Nat) (entry : Bytes) (s : State) :
    Keeps [.out, .fep] [] s (sendControl dst entry s) := by
  unfold sendControl
  repeat' first
    | (with_reducible apply Within.of_all; decide)
    | (with_reducible apply Covers.of_all; decide)
    | with_reducible exact Keeps.refl _ _ _
    | with_reducible apply Keeps.via (post_keeps _ _)

theorem reserveReply_keeps (len : Nat) (s : State) :
    Keeps [.fep] [] s (reserveReply len s) := by
  unfold reserveReply
  repeat' first
    | (simp only [Keeps.toMk]; first | with_reducible apply KeepsMk.set_fep)
    | (with_reducible apply Within.of_all; decide)
    | with_reducible exact Keeps.refl _ _ _

theorem releaseReply_keeps (len : Nat) (s : State) :
    Keeps [.fep] [] s (releaseReply len s) := by
  unfold releaseReply
  repeat' first
    | (simp only [Keeps.toMk]; first | with_reducible apply KeepsMk.set_fep)
    | (with_reducible apply Within.of_all; decide)
    | with_reducible exact Keeps.refl _ _ _

theorem endRequest_keeps (dst id : Nat) (s : State) :
    Keeps [.fep] [] s (endRequest dst id s) := by
  unfold endRequest
  repeat' first
    | (simp only [Keeps.toMk]; first | with_reducible apply KeepsMk.set_fep)
    | (with_reducible apply Within.of_all; decide)
    | (with_reducible apply Covers.of_all; decide)
    | with_reducible exact Keeps.refl _ _ _
    | with_reducible apply Keeps.via (releaseReply_keeps _ _)
    | (with_reducible refine Keeps.ite (fun _ => ?_) (fun _ => ?_))

theorem askUnits_keeps (m : Message) (f : TxFlow) (s : State) :
    Keeps [.out, .fep] [] s (askUnits m f s) := by
  unfold askUnits
  repeat' first
    | (with_reducible apply Within.of_all; decide)
    | (with_reducible apply Covers.of_all; decide)
    | with_reducible exact Keeps.refl _ _ _
    | with_reducible apply Keeps.via (modTx_keeps _ _ _ _)
    | with_reducible apply Keeps.via (sendControl_keeps _ _ _)
    | (with_reducible refine Keeps.ite (fun _ => ?_) (fun _ => ?_))

theorem cutMessage_keeps (x0 : Nat) (x1 : Message) (s : State) :
    Keeps [.out, .fep] [] s (cutMessage x0 x1 s).2 := by
  induction x0 generalizing x1 s with
  | zero => exact Keeps.refl _ _ _
  | succ n ih =>
    unfold cutMessage
    repeat' first
      | (simp only [Keeps.toMk]; first | with_reducible apply KeepsMk.set_fep)
      | (with_reducible apply Within.of_all; decide)
      | (with_reducible apply Covers.of_all; decide)
      | with_reducible exact Keeps.refl _ _ _
      | with_reducible apply Keeps.via (modTx_keeps _ _ _ _)
      | with_reducible apply Keeps.via (reserveReply_keeps _ _)
      | with_reducible apply Keeps.via (askUnits_keeps _ _ _)
      | with_reducible apply Keeps.via (ih _ _)
      | (with_reducible refine Keeps.ite (fun _ => ?_) (fun _ => ?_))
      | split
      | (dsimp -proj only)

theorem cutMessage_keeps_eq  {x0 : Nat} {x1 : Message} {s : State} {s' : State} {r : Option Message}
    (hr : cutMessage x0 x1 s = (r, s')) : Keeps [.out, .fep] [] s s' := by
  have := cutMessage_keeps x0 x1 s
  rw [hr] at this
  exact this

theorem cutWaiting_keeps (x0 : List Message) (x1 : List (Nat × Nat)) (s : State) :
    Keeps [.out, .fep] [] s (cutWaiting x0 x1 s) := by
  induction x0 generalizing x1 s with
  | nil => exact Keeps.refl _ _ _
  | cons y ys ih =>
    unfold cutWaiting
    repeat' first
      | (simp only [Keeps.toMk]; first | with_reducible apply KeepsMk.set_fep)
      | (with_reducible apply Within.of_all; decide)
      | (with_reducible apply Covers.of_all; decide)
      | with_reducible exact Keeps.refl _ _ _
      | with_reducible apply Keeps.via (openFlow_keeps _ _ _)
      | with_reducible apply Keeps.via (cutMessage_keeps_eq (by assumption))
      | with_reducible apply Keeps.via (ih _ _)
      | (with_reducible refine Keeps.ite (fun _ => ?_) (fun _ => ?_))
      | split

theorem placeOn_keeps (n : Nat) (f : TxFlow) (p : TxPacket) (s : State) :
    Keeps [.fep, .ports] [] s (placeOn n f p s) := by
  unfold placeOn
  repeat' first
    | (with_reducible apply Within.of_all; decide)
    | (with_reducible apply Covers.of_all; decide)
    | with_reducible exact Keeps.refl _ _ _
    | with_reducible apply Keeps.via (modPort_keeps _ _ _)
    | with_reducible apply Keeps.via (modTx_keeps _ _ _ _)

theorem placePacket_keeps (f : TxFlow) (p : TxPacket) (s : State) :
    Keeps [.fep, .ports] [] s (placePacket f p s) := by
  unfold placePacket
  repeat' first
    | (with_reducible apply Within.of_all; decide)
    | (with_reducible apply Covers.of_all; decide)
    | with_reducible exact Keeps.refl _ _ _
    | with_reducible apply Keeps.via (modTx_keeps _ _ _ _)
    | with_reducible apply Keeps.via (placeOn_keeps _ _ _ _)
    | (with_reducible refine Keeps.ite (fun _ => ?_) (fun _ => ?_))
    | split

theorem pump_keeps (s : State) :
    Keeps [.out, .trace, .fep, .ports] [] s (pump s) := by
  unfold pump
  repeat' first
    | (simp only [Keeps.toMk]; first | with_reducible apply KeepsMk.set_fep)
    | (with_reducible apply Within.of_all; decide)
    | (with_reducible apply Covers.of_all; decide)
    | with_reducible exact Keeps.refl _ _ _
    | with_reducible apply Keeps.via (throttleRise_keeps _)
    | with_reducible apply Keeps.via (cutWaiting_keeps _ _ _)
    | with_reducible apply Keeps.via (placePacket_keeps _ _ _)
    | (with_reducible refine Keeps.foldl ?_ (fun _ _ => ?_))

theorem throttleFall_keeps (s : State) :
    Keeps [.trace, .fep] [] s (throttleFall s) := by
  unfold throttleFall
  repeat' first
    | (simp only [Keeps.toMk]; first | with_reducible apply KeepsMk.set_fep)
    | (with_reducible apply Within.of_all; decide)
    | (with_reducible apply Covers.of_all; decide)
    | with_reducible exact Keeps.refl _ _ _
    | with_reducible apply Keeps.via (traceEvent_keeps _ _ _ _)
    | (with_reducible refine Keeps.ite (fun _ => ?_) (fun _ => ?_))

theorem emitFrame_keeps (port n : Nat) (f : KeptFrame) (s : State) :
    Keeps [.out, .ports] [] s (emitFrame port n f s) := by
  unfold emitFrame
  repeat' first
    | (with_reducible apply Within.of_all; decide)
    | (with_reducible apply Covers.of_all; decide)
    | with_reducible exact Keeps.refl _ _ _
    | with_reducible apply Keeps.via (modPort_keeps _ _ _)
    | with_reducible apply Keeps.via (emitOut_keeps _ _)

theorem startPacket_keeps (b : Bytes) (s : State) :
    Keeps [.run, .fep] [.reg 0xC0020, .reg 0xC0028] s (startPacket b s) := by
  unfold startPacket
  repeat' first
    | (with_reducible apply Within.of_all; decide)
    | (with_reducible apply Covers.of_all; decide)
    | with_reducible exact Keeps.refl _ _ _
    | with_reducible apply Keeps.via (modTx_keeps _ _ _ _)
    | with_reducible apply Keeps.via (bump_keeps _ _ _)
    | with_reducible apply Keeps.via (modRun_keeps _ _)
    | (with_reducible refine Keeps.ite (fun _ => ?_) (fun _ => ?_))
    | split

theorem sendData_keeps (port n i : Nat) (s : State) :
    Keeps [.out, .run, .fep, .ports] [.reg 0xC0020, .reg 0xC0028] s (sendData port n i s) := by
  unfold sendData
  repeat' first
    | (with_reducible apply Within.of_all; decide)
    | (with_reducible apply Covers.of_all; decide)
    | with_reducible exact Keeps.refl _ _ _
    | with_reducible apply Keeps.via (modPort_keeps _ _ _)
    | with_reducible apply Keeps.via (emitFrame_keeps _ _ _ _)
    | with_reducible apply Keeps.via (startPacket_keeps _ _)
    | (with_reducible refine Keeps.ite (fun _ => ?_) (fun _ => ?_))
    | split
    | (dsimp -proj only)

theorem sendRekey_keeps (port n : Nat) (f : KeptFrame) (s : State) :
    Keeps [.out, .mem, .note, .trace, .cce, .fep, .ports] ([Area.port] ++ noteAreas) s (sendRekey port n f s) := by
  unfold sendRekey
  repeat' first
    | (with_reducible apply Within.of_all; decide)
    | (with_reducible apply Covers.of_all; decide)
    | with_reducible exact Keeps.refl _ _ _
    | with_reducible apply Keeps.via (modPort_keeps _ _ _)
    | with_reducible apply Keeps.via (tryComplete_keeps _ _)
    | with_reducible apply Keeps.via (emitFrame_keeps _ _ _ _)

theorem sendAgain_keeps (port n : Nat) (f : KeptFrame) (s : State) :
    Keeps [.out, .ports] [] s (sendAgain port n f s) := by
  unfold sendAgain
  repeat' first
    | (with_reducible apply Within.of_all; decide)
    | (with_reducible apply Covers.of_all; decide)
    | with_reducible exact Keeps.refl _ _ _
    | with_reducible apply Keeps.via (modPort_keeps _ _ _)
    | with_reducible apply Keeps.via (emitFrame_keeps _ _ _ _)

theorem keyingSlot_keeps (port n : Nat) (s : State) :
    Keeps [.out, .mem, .note, .trace, .cce, .fep, .ports] ([Area.port] ++ noteAreas) s (keyingSlot port n s) := by
  unfold keyingSlot
  repeat' first
    | (with_reducible apply Within.of_all; decide)
    | (with_reducible apply Covers.of_all; decide)
    | with_reducible exact Keeps.refl _ _ _
    | with_reducible apply Keeps.via (emitFrame_keeps _ _ _ _)
    | with_reducible apply Keeps.via (sendRekey_keeps _ _ _ _)
    | with_reducible apply Keeps.via (sendAgain_keeps _ _ _ _)
    | split

theorem fillSlot_keeps (port n : Nat) (s : State) :
    Keeps [.out, .mem, .run, .note, .trace, .cce, .fep, .ports] ([Area.port, Area.reg 0xC0020, Area.reg 0xC0028] ++ noteAreas) s (fillSlot port n s) := by
  unfold fillSlot
  repeat' first
    | (with_reducible apply Within.of_all; decide)
    | (with_reducible apply Covers.of_all; decide)
    | with_reducible exact Keeps.refl _ _ _
    | with_reducible apply Keeps.via (emitFrame_keeps _ _ _ _)
    | with_reducible apply Keeps.via (sendData_keeps _ _ _ _)
    | with_reducible apply Keeps.via (sendRekey_keeps _ _ _ _)
    | with_reducible apply Keeps.via (sendAgain_keeps _ _ _ _)
    | (with_reducible refine Keeps.ite (fun _ => ?_) (fun _ => ?_))
    | split

theorem dealOn_keeps (port : Nat) (s : State) :
    Keeps [.ports] [] s (dealOn port s) := by
  unfold dealOn
  repeat' first
    | (with_reducible apply Within.of_all; decide)
    | (with_reducible apply Covers.of_all; decide)
    | with_reducible exact Keeps.refl _ _ _
    | with_reducible apply Keeps.via (modPort_keeps _ _ _)

theorem frameSend_keeps (port : Nat) (s : State) :
    Keeps [.out, .mem, .run, .note, .trace, .cce, .fep, .ports] ([Area.port, Area.reg 0xC0020, Area.reg 0xC0028] ++ noteAreas) s (frameSend port s) := by
  unfold frameSend
  repeat' first
    | (with_reducible apply Within.of_all; decide)
    | (with_reducible apply Covers.of_all; decide)
    | with_reducible exact Keeps.refl _ _ _
    | with_reducible apply Keeps.via (frameReceive_keeps _ _ _ _)
    | with_reducible apply Keeps.via (pump_keeps _)
    | with_reducible apply Keeps.via (emitFrame_keeps _ _ _ _)
    | with_reducible apply Keeps.via (keyingSlot_keeps _ _ _)
    | with_reducible apply Keeps.via (fillSlot_keeps _ _ _)
    | with_reducible apply Keeps.via (dealOn_keeps _ _)
    | (with_reducible refine Keeps.ite (fun _ => ?_) (fun _ => ?_))
    | split
    | (dsimp -proj only)

theorem putRx_keeps (f : RxFlow) (s : State) :
    Keeps [.fep] [] s (putRx f s) := by
  unfold putRx
  repeat' first
    | (simp only [Keeps.toMk]; first | with_reducible apply KeepsMk.set_fep)
    | (with_reducible apply Within.of_all; decide)
    | with_reducible exact Keeps.refl _ _ _

theorem sendAck_keeps (src lc : Nat) (s : State) :
    Keeps [.out, .fep] [] s (sendAck src lc s) := by
  unfold sendAck
  repeat' first
    | (with_reducible apply Within.of_all; decide)
    | (with_reducible apply Covers.of_all; decide)
    | with_reducible exact Keeps.refl _ _ _
    | with_reducible apply Keeps.via (sendControl_keeps _ _ _)
    | with_reducible apply Keeps.via (putRx_keeps _ _)

theorem landMessage_keeps (src lc len units : Nat) (f : RxFlow) (s : State) :
    Keeps [.fep] [] s (landMessage src lc len units f s) := by
  unfold landMessage
  repeat' first
    | (simp only [Keeps.toMk]; first | with_reducible apply KeepsMk.set_fep)
    | (with_reducible apply Within.of_all; decide)
    | (with_reducible apply Covers.of_all; decide)
    | with_reducible exact Keeps.refl _ _ _
    | with_reducible apply Keeps.via (putRx_keeps _ _)
    | (with_reducible refine Keeps.ite (fun _ => ?_) (fun _ => ?_))

theorem deliverAll_keeps (x0 : Nat) (x1 : Nat) (x2 : Nat) (x3 : Nat) (s : State) :
    Keeps [.out, .fep] [] s (deliverAll x0 x1 x2 x3 s) := by
  induction x0 generalizing x1 x2 x3 s with
  | zero => exact Keeps.refl _ _ _
  | succ n ih =>
    unfold deliverAll
    repeat' first
      | (with_reducible apply Within.of_all; decide)
      | (with_reducible apply Covers.of_all; decide)
      | with_reducible exact Keeps.refl _ _ _
      | with_reducible apply Keeps.via (emitOut_keeps _ _)
      | with_reducible apply Keeps.via (landMessage_keeps _ _ _ _ _ _)
      | with_reducible apply Keeps.via (ih _ _ _ _)
      | split
      | (dsimp -proj only)

theorem takePacket_keeps (port src lc : Nat) (b : Bytes) (s : State) :
    Keeps [.out, .fep] [.reg 0xC0024] s (takePacket port src lc b s) := by
  unfold takePacket
  repeat' first
    | (with_reducible apply Within.of_all; decide)
    | (with_reducible apply Covers.of_all; decide)
    | with_reducible exact Keeps.refl _ _ _
    | with_reducible apply Keeps.via (bump_keeps _ _ _)
    | with_reducible apply Keeps.via (putRx_keeps _ _)
    | with_reducible apply Keeps.via (sendAck_keeps _ _ _)
    | with_reducible apply Keeps.via (deliverAll_keeps _ _ _ _ _)
    | (with_reducible refine Keeps.ite (fun _ => ?_) (fun _ => ?_))

theorem takeDuplicate_keeps (src lc : Nat) (s : State) :
    Keeps [.fep] [.reg 0xC002C] s (takeDuplicate src lc s) := by
  unfold takeDuplicate
  repeat' first
    | (with_reducible apply Within.of_all; decide)
    | (with_reducible apply Covers.of_all; decide)
    | with_reducible exact Keeps.refl _ _ _
    | with_reducible apply Keeps.via (bump_keeps _ _ _)
    | with_reducible apply Keeps.via (putRx_keeps _ _)

theorem packetReceive_keeps (port : Nat) (b : Bytes) (s : State) :
    Keeps [.out, .trace, .fep] [.reg 0xC0024, .reg 0xC002C, .reg 0xC0030, .reg 0xC0034, .reg 0xC0038] s (packetReceive port b s) := by
  unfold packetReceive
  repeat' first
    | (with_reducible apply Within.of_all; decide)
    | (with_reducible apply Covers.of_all; decide)
    | with_reducible exact Keeps.refl _ _ _
    | with_reducible apply Keeps.via (bump_keeps _ _ _)
    | with_reducible apply Keeps.via (bump16_keeps _ _ _)
    | with_reducible apply Keeps.via (traceEvent_keeps _ _ _ _)
    | with_reducible apply Keeps.via (takePacket_keeps _ _ _ _ _)
    | with_reducible apply Keeps.via (takeDuplicate_keeps _ _ _)
    | (with_reducible refine Keeps.ite (fun _ => ?_) (fun _ => ?_))

theorem settleTies_keeps (dst lc : Nat) (s : State) :
    Keeps ([Part.quarUndelivered] ++ abortParts) ([Area.reg 0x20008] ++ abortAreas) s (settleTies dst lc s) := by
  unfold settleTies
  repeat' first
    | (with_reducible apply Within.of_all; decide)
    | (with_reducible apply Covers.of_all; decide)
    | with_reducible exact Keeps.refl _ _ _
    | with_reducible apply Keeps.via (settle_keeps _ _)
    | with_reducible apply Keeps.via (modTx_keeps _ _ _ _)
    | (with_reducible refine Keeps.foldl ?_ (fun _ _ => ?_))
    | split

theorem giveBack_keeps (dst lc : Nat) (s : State) :
    Keeps [.out, .fep] [] s (giveBack dst lc s) := by
  unfold giveBack
  repeat' first
    | (with_reducible apply Within.of_all; decide)
    | (with_reducible apply Covers.of_all; decide)
    | with_reducible exact Keeps.refl _ _ _
    | with_reducible apply Keeps.via (modTx_keeps _ _ _ _)
    | with_reducible apply Keeps.via (sendControl_keeps _ _ _)

theorem releaseFallback_keeps (dst lc : Nat) (s : State) :
    Keeps [.out, .fep] [] s (releaseFallback dst lc s) := by
  unfold releaseFallback
  repeat' first
    | (with_reducible apply Within.of_all; decide)
    | (with_reducible apply Covers.of_all; decide)
    | with_reducible exact Keeps.refl _ _ _
    | with_reducible apply Keeps.via (giveBack_keeps _ _ _)
    | (with_reducible refine Keeps.ite (fun _ => ?_) (fun _ => ?_))
    | split

theorem takeAckEntry_keeps (src : Nat) (e : Bytes) (s : State) :
    Keeps ([Part.quarUndelivered] ++ abortParts) ([Area.reg 0x20008] ++ abortAreas) s (takeAckEntry src e s) := by
  unfold takeAckEntry
  repeat' first
    | (with_reducible apply Within.of_all; decide)
    | (with_reducible apply Covers.of_all; decide)
    | with_reducible exact Keeps.refl _ _ _
    | with_reducible apply Keeps.via (modTx_keeps _ _ _ _)
    | with_reducible apply Keeps.via (settleTies_keeps _ _ _)
    | with_reducible apply Keeps.via (releaseFallback_keeps _ _ _)

theorem ackTimer_keeps (peer lc : Nat) (s : State) :
    Keeps [.out, .fep] [] s (ackTimer peer lc s) := by
  unfold ackTimer
  repeat' first
    | (with_reducible apply Within.of_all; decide)
    | (with_reducible apply Covers.of_all; decide)
    | with_reducible exact Keeps.refl _ _ _
    | with_reducible apply Keeps.via (sendAck_keeps _ _ _)
    | (with_reducible refine Keeps.ite (fun _ => ?_) (fun _ => ?_))
    | split

theorem giveUpTie_keeps (t : Tie) (s : State) :
    Keeps abortParts ([Area.reg 0x20008] ++ abortAreas) s (giveUpTie t s) := by
  unfold giveUpTie
  repeat' first
    | (with_reducible apply Within.of_all; decide)
    | (with_reducible apply Covers.of_all; decide)
    | with_reducible exact Keeps.refl _ _ _
    | with_reducible apply Keeps.via (release_keeps _ _ _)
    | split

theorem loseFlow_keeps (dst lc psn : Nat) (s : State) :
    Keeps abortParts ([Area.reg 0x20008, Area.reg 0xC0008, Area.reg 0xC0054] ++ abortAreas) s (loseFlow dst lc psn s) := by
  unfold loseFlow
  repeat' first
    | (with_reducible apply Within.of_all; decide)
    | (with_reducible apply Covers.of_all; decide)
    | with_reducible exact Keeps.refl _ _ _
    | with_reducible apply Keeps.via (raiseAborts_keeps _ _ _)
    | with_reducible apply Keeps.via (modTx_keeps _ _ _ _)
    | with_reducible apply Keeps.via (bump16_keeps _ _ _)
    | with_reducible apply Keeps.via (traceEvent_keeps _ _ _ _)
    | with_reducible apply Keeps.via (giveUpTie_keeps _ _)
    | (with_reducible refine Keeps.ite (fun _ => ?_) (fun _ => ?_))
    | (with_reducible refine Keeps.foldl ?_ (fun _ _ => ?_))

theorem retransmitTimeout_keeps (peer lc psn : Nat) (s : State) :
    Keeps abortParts ([Area.reg 0x20008, Area.reg 0xC0008, Area.reg 0xC0054] ++ abortAreas) s (retransmitTimeout peer lc psn s) := by
  unfold retransmitTimeout
  repeat' first
    | (with_reducible apply Within.of_all; decide)
    | (with_reducible apply Covers.of_all; decide)
    | with_reducible exact Keeps.refl _ _ _
    | with_reducible apply Keeps.via (modTx_keeps _ _ _ _)
    | with_reducible apply Keeps.via (traceEvent_keeps _ _ _ _)
    | with_reducible apply Keeps.via (loseFlow_keeps _ _ _ _)
    | (with_reducible refine Keeps.ite (fun _ => ?_) (fun _ => ?_))
    | split

theorem pinnedFlowMove_keeps (peer lc : Nat) (s : State) :
    Keeps [.fep] [] s (pinnedFlowMove peer lc s) := by
  unfold pinnedFlowMove
  repeat' first
    | (with_reducible apply Within.of_all; decide)
    | (with_reducible apply Covers.of_all; decide)
    | with_reducible exact Keeps.refl _ _ _
    | with_reducible apply Keeps.via (modTx_keeps _ _ _ _)
    | (with_reducible refine Keeps.ite (fun _ => ?_) (fun _ => ?_))
    | split

theorem addGiven_keeps (k : Nat × Nat) (n : Nat) (s : State) :
    Keeps [.fep] [] s (addGiven k n s) := by
  unfold addGiven
  repeat' first
    | (simp only [Keeps.toMk]; first | with_reducible apply KeepsMk.set_fep)
    | (with_reducible apply Within.of_all; decide)
    | with_reducible exact Keeps.refl _ _ _

theorem serveGrants_keeps (x0 : List ((Nat × Nat) × Nat)) (s : State) :
    Keeps [.out, .fep] [] s (serveGrants x0 s) := by
  induction x0 generalizing s with
  | nil => exact Keeps.refl _ _ _
  | cons y ys ih =>
    unfold serveGrants
    repeat' first
      | (simp only [Keeps.toMk]; first | with_reducible apply KeepsMk.set_fep)
      | (with_reducible apply Within.of_all; decide)
      | (with_reducible apply Covers.of_all; decide)
      | with_reducible exact Keeps.refl _ _ _
      | with_reducible apply Keeps.via (sendControl_keeps _ _ _)
      | with_reducible apply Keeps.via (addGiven_keeps _ _ _)
      | with_reducible apply Keeps.via (ih _)
      | (with_reducible refine Keeps.ite (fun _ => ?_) (fun _ => ?_))

theorem reserveGrants_keeps (s : State) :
    Keeps [.out, .fep] [] s (reserveGrants s) := by
  unfold reserveGrants
  repeat' first
    | (simp only [Keeps.toMk]; first | with_reducible apply KeepsMk.set_fep)
    | (with_reducible apply Within.of_all; decide)
    | (with_reducible apply Covers.of_all; decide)
    | with_reducible exact Keeps.refl _ _ _
    | with_reducible apply Keeps.via (serveGrants_keeps _ _)

theorem grantReq_keeps (src : Nat) (e : Bytes) (s : State) :
    Keeps [.out, .fep] [] s (grantReq src e s) := by
  unfold grantReq
  repeat' first
    | (simp only [Keeps.toMk]; first | with_reducible apply KeepsMk.set_fep)
    | (with_reducible apply Within.of_all; decide)
    | (with_reducible apply Covers.of_all; decide)
    | with_reducible exact Keeps.refl _ _ _
    | with_reducible apply Keeps.via (reserveGrants_keeps _)
    | (with_reducible refine Keeps.ite (fun _ => ?_) (fun _ => ?_))

theorem takeGrant_keeps (src : Nat) (e : Bytes) (s : State) :
    Keeps [.fep] [] s (takeGrant src e s) := by
  unfold takeGrant
  repeat' first
    | (with_reducible apply Within.of_all; decide)
    | (with_reducible apply Covers.of_all; decide)
    | with_reducible exact Keeps.refl _ _ _
    | with_reducible apply Keeps.via (modTx_keeps _ _ _ _)
    | with_reducible apply Keeps.via (openFlow_keeps _ _ _)

theorem grantIdleTimeout_keeps (peer lc : Nat) (s : State) :
    Keeps [.out, .fep] [] s (grantIdleTimeout peer lc s) := by
  unfold grantIdleTimeout
  repeat' first
    | (with_reducible apply Within.of_all; decide)
    | (with_reducible apply Covers.of_all; decide)
    | with_reducible exact Keeps.refl _ _ _
    | with_reducible apply Keeps.via (giveBack_keeps _ _ _)
    | (with_reducible refine Keeps.ite (fun _ => ?_) (fun _ => ?_))
    | split

theorem divideLanding_keeps (s : State) :
    Keeps [.out, .fep] [] s (divideLanding s) := by
  unfold divideLanding
  repeat' first
    | (simp only [Keeps.toMk]; first | with_reducible apply KeepsMk.set_fep)
    | (with_reducible apply Within.of_all; decide)
    | (with_reducible apply Covers.of_all; decide)
    | with_reducible exact Keeps.refl _ _ _
    | with_reducible apply Keeps.via (reserveGrants_keeps _)

end Sys2Proof.Machine
end

