-- ==== Sys2Proof/Laws/FramesBoot.lean ====
section
/-! SUPPORT. What each operation of Machine/Boot.lean changes: the parts of the state and the registers, and that it keeps the
invariant. -/
namespace Sys2Proof.Machine
open Sys2Proof

theorem tbTick_keeps (s : State) :
    Keeps [.tb, .run] [] s (tbTick s) := by
  unfold tbTick
  repeat' first
    | (simp only [Keeps.toMk]; first | with_reducible apply KeepsMk.set_tb)
    | (with_reducible apply Within.of_all; decide)
    | (with_reducible apply Covers.of_all; decide)
    | with_reducible exact Keeps.refl _ _ _
    | with_reducible apply Keeps.via (modRun_keeps _ _)
    | (with_reducible refine Keeps.ite (fun _ => ?_) (fun _ => ?_))

theorem tbSetLo_keeps (value : Word32) (s : State) :
    Keeps [.tb] [.reg 0x8] s (tbSetLo value s) := by
  unfold tbSetLo
  repeat' first
    | (simp only [Keeps.toMk]; first | with_reducible apply KeepsMk.set_tb)
    | (with_reducible apply Within.of_all; decide)
    | (with_reducible apply Covers.of_all; decide)
    | with_reducible exact Keeps.refl _ _ _
    | with_reducible apply Keeps.via (record_keeps _ _ _)
    | (with_reducible refine Keeps.ite (fun _ => ?_) (fun _ => ?_))
    | split

theorem tbLoRead_keeps (s : State) :
    Keeps [] [.reg 0x414] s (tbLoRead s).2 := by
  unfold tbLoRead
  repeat' first
    | (with_reducible apply Within.of_all; decide)
    | (with_reducible apply Covers.of_all; decide)
    | with_reducible exact Keeps.refl _ _ _
    | with_reducible apply Keeps.via (setWord_keeps _ _ _)

theorem tbLoRead_keeps_eq {s : State} {s' : State} {r : Word32}
    (hr : tbLoRead s = (r, s')) : Keeps [] [.reg 0x414] s s' := by
  have := tbLoRead_keeps s
  rw [hr] at this
  exact this

theorem tbExhausted_keeps (s : State) :
    Keeps [.tbRun, .tbExhausted] [.reg 0x8] s (tbExhausted s) := by
  unfold tbExhausted
  repeat' first
    | (simp only [Keeps.toMk]; first | with_reducible apply KeepsMk.set_tbRun_tbExhausted)
    | (with_reducible apply Within.of_all; decide)
    | (with_reducible apply Covers.of_all; decide)
    | with_reducible exact Keeps.refl _ _ _
    | with_reducible apply Keeps.via (record_keeps _ _ _)
    | (with_reducible refine Keeps.ite (fun _ => ?_) (fun _ => ?_))

/-- The parts that a chip reset changes (R447): all but the queue, the outputs made, memory and the counter of free values. -/
def resetParts : List Part :=
  [.boot, .fuses, .devKey, .clk, .tb, .tbRun, .tbExhausted, .tap, .ldr, .commits, .latched, .sec, .dat, .run, .stepNum, .prevT, .verdict, .rlog, .fences, .fenceSelf, .unfences, .probes, .broadcasts, .mgmtNext, .note, .trace, .sfuVersion, .sfuCopying, .sfuLocked, .cad, .lst, .demand, .quarPending, .quarUndelivered, .quarActing, .quarSeen, .cadRefetch, .pools, .tports, .tokenLast, .halves, .ingestHeld, .homes, .bucketMaps, .chipHist, .sortCounters, .recv, .feeds, .handed, .collects, .collectHeld, .gen, .raiseDue, .orphans, .rounds, .cce, .rma, .rmaTurn, .dedup, .cache, .fep, .ports]

theorem chipReset_keeps (s : State) : Keeps resetParts [.all] s (chipReset s) where
  parts := fun p hp hb => by
    cases p <;> first | rfl | exact absurd rfl hb | exact absurd (by decide) hp
  beyond := fun _ _ _ _ => rfl
  regs := fun a ha => absurd trivial (ha .all List.mem_cons_self)
  inv := fun i => ⟨rfl, i.mem, rfl, rfl, rfl, rfl, rfl, rfl⟩

theorem toHeld_keeps (f : Boot → Boot) (s : State) :
    Keeps [.mem, .boot, .note, .trace, .cce, .fep, .ports] ([Area.port] ++ noteAreas) s (toHeld f s) := by
  unfold toHeld
  repeat' first
    | (simp only [Keeps.toMk]; first | with_reducible apply KeepsMk.set_boot)
    | (with_reducible apply Within.of_all; decide)
    | (with_reducible apply Covers.of_all; decide)
    | with_reducible exact Keeps.refl _ _ _
    | with_reducible apply Keeps.via (holdPorts_keeps _)

theorem resetRelease_keeps (slot : Nat) (s : State) :
    Keeps [.boot] [] s (resetRelease slot s) := by
  unfold resetRelease
  repeat' first
    | (simp only [Keeps.toMk]; first | with_reducible apply KeepsMk.set_boot)
    | (with_reducible apply Within.of_all; decide)
    | with_reducible exact Keeps.refl _ _ _
    | (with_reducible refine Keeps.ite (fun _ => ?_) (fun _ => ?_))

theorem seedDrbg_keeps (ok : Bool) (s : State) :
    Keeps [.mem, .sec, .note] ([Area.reg 0x200008] ++ noteAreas) s (seedDrbg ok s) := by
  unfold seedDrbg
  repeat' first
    | (simp only [Keeps.toMk]; first | with_reducible apply KeepsMk.set_sec)
    | (with_reducible apply Within.of_all; decide)
    | (with_reducible apply Covers.of_all; decide)
    | with_reducible exact Keeps.refl _ _ _
    | with_reducible apply Keeps.via (securityCode_keeps _ _ _)
    | (with_reducible refine Keeps.ite (fun _ => ?_) (fun _ => ?_))

theorem fuseReadDone_keeps (i : FuseImage) (s : State) :
    Keeps [.mem, .boot, .fuses, .devKey, .sec, .note, .trace, .cce, .fep, .ports] ([Area.port, Area.reg 0x200008] ++ noteAreas) s (fuseReadDone i s) := by
  unfold fuseReadDone
  repeat' first
    | (simp only [Keeps.toMk]; first | with_reducible apply KeepsMk.set_boot_fuses_devKey | with_reducible apply KeepsMk.set_boot_devKey | with_reducible apply KeepsMk.set_fuses)
    | (with_reducible apply Within.of_all; decide)
    | (with_reducible apply Covers.of_all; decide)
    | with_reducible exact Keeps.refl _ _ _
    | with_reducible apply Keeps.via (toHeld_keeps _ _)
    | with_reducible apply Keeps.via (seedDrbg_keeps _ _)
    | with_reducible apply Keeps.via (securityCode_keeps _ _ _)
    | (with_reducible refine Keeps.ite (fun _ => ?_) (fun _ => ?_))

theorem selftestDone_keeps (fails : List Nat) (romOk : Bool) (s : State) :
    Keeps [.mem, .boot, .note, .trace, .pools, .cce, .fep, .ports] ([Area.port] ++ noteAreas) s (selftestDone fails romOk s) := by
  unfold selftestDone
  repeat' first
    | (simp only [Keeps.toMk]; first | with_reducible apply KeepsMk.set_boot)
    | (with_reducible apply Within.of_all; decide)
    | (with_reducible apply Covers.of_all; decide)
    | with_reducible exact Keeps.refl _ _ _
    | with_reducible apply Keeps.via (toHeld_keeps _ _)
    | with_reducible apply Keeps.via (buildPools_keeps _ _ _)
    | (with_reducible refine Keeps.ite (fun _ => ?_) (fun _ => ?_))

theorem sfuCopyDone_keeps (s : State) :
    Keeps [.boot, .sfuCopying] [] s (sfuCopyDone s) := by
  unfold sfuCopyDone
  repeat' first
    | (simp only [Keeps.toMk]; first | with_reducible apply KeepsMk.set_boot_sfuCopying | with_reducible apply KeepsMk.set_sfuCopying)
    | (with_reducible apply Within.of_all; decide)
    | with_reducible exact Keeps.refl _ _ _
    | (with_reducible refine Keeps.ite (fun _ => ?_) (fun _ => ?_))

theorem sfuTableSel_keeps (value : Word32) (s : State) :
    Keeps [.sfuVersion, .sfuCopying] [.reg 0x31008] s (sfuTableSel value s) := by
  unfold sfuTableSel
  repeat' first
    | (simp only [Keeps.toMk]; first | with_reducible apply KeepsMk.set_sfuVersion_sfuCopying)
    | (with_reducible apply Within.of_all; decide)
    | (with_reducible apply Covers.of_all; decide)
    | with_reducible exact Keeps.refl _ _ _
    | with_reducible apply Keeps.via (record_keeps _ _ _)
    | (with_reducible refine Keeps.ite (fun _ => ?_) (fun _ => ?_))

theorem rclkLock_keeps (s : State) :
    Keeps [.boot, .clk, .tb, .tbRun] [] s (rclkLock s) := by
  unfold rclkLock
  repeat' first
    | (simp only [Keeps.toMk]; first | with_reducible apply KeepsMk.set_boot_clk_tb_tbRun)
    | (with_reducible apply Within.of_all; decide)
    | with_reducible exact Keeps.refl _ _ _
    | (with_reducible refine Keeps.ite (fun _ => ?_) (fun _ => ?_))

theorem timebaseTimeout_keeps (s : State) :
    Keeps [.mem, .boot, .note, .trace, .cce, .fep, .ports] ([Area.port] ++ noteAreas) s (timebaseTimeout s) := by
  unfold timebaseTimeout
  repeat' first
    | (with_reducible apply Within.of_all; decide)
    | (with_reducible apply Covers.of_all; decide)
    | with_reducible exact Keeps.refl _ _ _
    | with_reducible apply Keeps.via (toHeld_keeps _ _)
    | (with_reducible refine Keeps.ite (fun _ => ?_) (fun _ => ?_))

theorem holdover_keeps (s : State) :
    Keeps [.mem, .boot, .clk, .tb, .tbRun, .note, .trace, .cce, .fep, .ports] ([Area.port] ++ noteAreas) s (holdover s) := by
  unfold holdover
  repeat' first
    | (simp only [Keeps.toMk]; first | with_reducible apply KeepsMk.set_clk)
    | (with_reducible apply Within.of_all; decide)
    | (with_reducible apply Covers.of_all; decide)
    | with_reducible exact Keeps.refl _ _ _
    | with_reducible apply Keeps.via (dropLink_keeps _ _ _ _)
    | (with_reducible refine Keeps.ite (fun _ => ?_) (fun _ => ?_))
    | (with_reducible refine Keeps.foldl ?_ (fun _ _ => ?_))

theorem clockStep_keeps (sclk : Bool) (step : Nat) (s : State) :
    Keeps [.out, .clk, .run] [.reg 0x428] s (clockStep sclk step s) := by
  unfold clockStep
  repeat' first
    | (simp only [Keeps.toMk]; first | with_reducible apply KeepsMk.set_clk)
    | (with_reducible apply Within.of_all; decide)
    | (with_reducible apply Covers.of_all; decide)
    | with_reducible exact Keeps.refl _ _ _
    | with_reducible apply Keeps.via (bump_keeps _ _ _)
    | with_reducible apply Keeps.via (emitOut_keeps _ _)
    | with_reducible apply Keeps.via (modRun_keeps _ _)

theorem throttleRequest_keeps (sclk : Bool) (step : Nat) (s : State) :
    Keeps [.out, .clk, .run] [.reg 0x428] s (throttleRequest sclk step s) := by
  unfold throttleRequest
  repeat' first
    | (with_reducible apply Within.of_all; decide)
    | (with_reducible apply Covers.of_all; decide)
    | with_reducible exact Keeps.refl _ _ _
    | with_reducible apply Keeps.via (clockStep_keeps _ _ _)
    | (with_reducible refine Keeps.ite (fun _ => ?_) (fun _ => ?_))

theorem bootLinks_keeps (s : State) :
    Keeps [.boot, .trace, .ports] [.reg 0x8] s (bootLinks s) := by
  unfold bootLinks
  repeat' first
    | (simp only [Keeps.toMk]; first | with_reducible apply KeepsMk.set_boot)
    | (with_reducible apply Within.of_all; decide)
    | (with_reducible apply Covers.of_all; decide)
    | with_reducible exact Keeps.refl _ _ _
    | with_reducible apply Keeps.via (enterTrain_keeps _ _)
    | with_reducible apply Keeps.via (record_keeps _ _ _)
    | (with_reducible refine Keeps.ite (fun _ => ?_) (fun _ => ?_))
    | (with_reducible refine Keeps.foldl ?_ (fun _ _ => ?_))

theorem mgmtRequest_keeps (dst mtype arg0 arg1 : Nat) (body : Bytes) (s : State) :
    Keeps [.out, .mgmtNext, .fep] [] s (mgmtRequest dst mtype arg0 arg1 body s) := by
  unfold mgmtRequest
  repeat' first
    | (simp only [Keeps.toMk]; first | with_reducible apply KeepsMk.set_mgmtNext)
    | (with_reducible apply Within.of_all; decide)
    | (with_reducible apply Covers.of_all; decide)
    | with_reducible exact Keeps.refl _ _ _
    | with_reducible apply Keeps.via (post_keeps _ _)

theorem askTime_keeps (s : State) :
    Keeps [.out, .freshCount, .mgmtNext, .fep] [] s (askTime s) := by
  unfold askTime
  repeat' first
    | (with_reducible apply Within.of_all; decide)
    | (with_reducible apply Covers.of_all; decide)
    | with_reducible exact Keeps.refl _ _ _
    | with_reducible apply Keeps.via (mgmtRequest_keeps _ _ _ _ _ _)
    | with_reducible apply Keeps.via (fresh_keeps _)
    | (with_reducible refine Keeps.ite (fun _ => ?_) (fun _ => ?_))

theorem bootCalibrate_keeps (s : State) :
    Keeps [.out, .freshCount, .boot, .mgmtNext, .fep] [.reg 0x8] s (bootCalibrate s) := by
  unfold bootCalibrate
  repeat' first
    | (simp only [Keeps.toMk]; first | with_reducible apply KeepsMk.set_boot)
    | (with_reducible apply Within.of_all; decide)
    | (with_reducible apply Covers.of_all; decide)
    | with_reducible exact Keeps.refl _ _ _
    | with_reducible apply Keeps.via (askTime_keeps _)
    | with_reducible apply Keeps.via (record_keeps _ _ _)
    | (with_reducible refine Keeps.ite (fun _ => ?_) (fun _ => ?_))

theorem mgmtTime_keeps (src : Nat) (m : Bytes) (s : State) :
    Keeps [.out, .freshCount, .fep] [] s (mgmtTime src m s) := by
  unfold mgmtTime
  repeat' first
    | (with_reducible apply Within.of_all; decide)
    | (with_reducible apply Covers.of_all; decide)
    | with_reducible exact Keeps.refl _ _ _
    | with_reducible apply Keeps.via (post_keeps _ _)
    | with_reducible apply Keeps.via (fresh_keeps _)

theorem timeAnswer_keeps (src : Nat) (s0 : State) :
    Keeps [.out, .freshCount, .boot, .mgmtNext, .fep] [] s0 (timeAnswer src s0) := by
  unfold timeAnswer
  repeat' first
    | (simp only [Keeps.toMk]; first | with_reducible apply KeepsMk.set_boot)
    | (with_reducible apply Within.of_all; decide)
    | (with_reducible apply Covers.of_all; decide)
    | with_reducible exact Keeps.refl _ _ _
    | with_reducible apply Keeps.via (askTime_keeps _)
    | with_reducible apply Keeps.via (releaseReply_keeps _ _)
    | (with_reducible refine Keeps.ite (fun _ => ?_) (fun _ => ?_))

theorem calibrationDone_keeps (c : Calibration) (s : State) :
    Keeps [.mem, .boot, .tb, .note, .trace, .cce, .fep, .ports] ([Area.port, Area.reg 0x424] ++ noteAreas) s (calibrationDone c s) := by
  unfold calibrationDone
  repeat' first
    | (simp only [Keeps.toMk]; first | with_reducible apply KeepsMk.set_tb | with_reducible apply KeepsMk.set_boot)
    | (with_reducible apply Within.of_all; decide)
    | (with_reducible apply Covers.of_all; decide)
    | with_reducible exact Keeps.refl _ _ _
    | with_reducible apply Keeps.via (toHeld_keeps _ _)
    | with_reducible apply Keeps.via (setWord_keeps _ _ _)
    | (with_reducible refine Keeps.ite (fun _ => ?_) (fun _ => ?_))

theorem tapBypass_keeps (ir : Byte) (s : State) :
    Keeps [.out, .tap] [] s (tapBypass ir s) := by
  unfold tapBypass
  repeat' first
    | (simp only [Keeps.toMk]; first | with_reducible apply KeepsMk.set_tap)
    | (with_reducible apply Within.of_all; decide)
    | (with_reducible apply Covers.of_all; decide)
    | with_reducible exact Keeps.refl _ _ _
    | with_reducible apply Keeps.via (emitOut_keeps _ _)

end Sys2Proof.Machine
end

