-- ==== Sys2Proof/Laws/FramesCadastre.lean ====
section
/-! SUPPORT. What each operation of Machine/Cadastre.lean changes: the parts of the state and the registers, and that it keeps the
invariant. -/
namespace Sys2Proof.Machine
open Sys2Proof

theorem cadNotice_keeps (code event : Nat) (s : State) :
    Keeps [.mem, .note] noteAreas s (cadNotice code event s) := by
  unfold cadNotice
  repeat' first
    | (with_reducible apply Within.of_all; decide)
    | (with_reducible apply Covers.of_all; decide)
    | with_reducible exact Keeps.refl _ _ _
    | with_reducible apply Keeps.via (notice_keeps _ _ _ _ _)

theorem listStage_keeps (s : State) :
    Keeps [.lst] [.reg 0x60008] s (listStage s) := by
  unfold listStage
  repeat' first
    | (simp only [Keeps.toMk]; first | with_reducible apply KeepsMk.set_lst)
    | (with_reducible apply Within.of_all; decide)
    | (with_reducible apply Covers.of_all; decide)
    | with_reducible exact Keeps.refl _ _ _
    | with_reducible apply Keeps.via (record_keeps _ _ _)
    | split

theorem listCheckDone_keeps (env : MemEnv) (s0 : State) :
    Keeps [.mem, .beyond, .note, .lst] ([Area.reg 0x60008] ++ noteAreas) s0 (listCheckDone env s0) := by
  unfold listCheckDone
  repeat' first
    | (simp only [Keeps.toMk]; first | with_reducible apply KeepsMk.set_lst)
    | (with_reducible apply Within.of_all; decide)
    | (with_reducible apply Covers.of_all; decide)
    | with_reducible exact Keeps.refl _ _ _
    | with_reducible apply Keeps.via (cadNotice_keeps _ _ _)
    | with_reducible apply Keeps.via (withEnv_keeps _ _)
    | with_reducible apply Keeps.via (record_keeps _ _ _)
    | (with_reducible refine Keeps.ite (fun _ => ?_) (fun _ => ?_))
    | split
    | (dsimp -proj only)

theorem listCheckDone_keeps_env (env : MemEnv) (s0 : State) :
    Keeps [.mem, .note, .lst] ([Area.reg 0x60008] ++ noteAreas) (withEnv env s0) (listCheckDone env s0) := by
  unfold listCheckDone
  repeat' first
    | (simp only [Keeps.toMk]; first | with_reducible apply KeepsMk.set_lst)
    | (with_reducible apply Within.of_all; decide)
    | (with_reducible apply Covers.of_all; decide)
    | with_reducible exact Keeps.refl _ _ _
    | with_reducible apply Keeps.via (cadNotice_keeps _ _ _)
    | with_reducible apply Keeps.via (record_keeps _ _ _)
    | (with_reducible refine Keeps.ite (fun _ => ?_) (fun _ => ?_))
    | split
    | (dsimp -proj only)

theorem listArm_keeps (s : State) :
    Keeps [.lst] [.reg 0x60008] s (listArm s) := by
  unfold listArm
  repeat' first
    | (simp only [Keeps.toMk]; first | with_reducible apply KeepsMk.set_lst)
    | (with_reducible apply Within.of_all; decide)
    | (with_reducible apply Covers.of_all; decide)
    | with_reducible exact Keeps.refl _ _ _
    | with_reducible apply Keeps.via (record_keeps _ _ _)
    | split

theorem listDisarm_keeps (s : State) :
    Keeps [.lst] [.reg 0x60008] s (listDisarm s) := by
  unfold listDisarm
  repeat' first
    | (simp only [Keeps.toMk]; first | with_reducible apply KeepsMk.set_lst)
    | (with_reducible apply Within.of_all; decide)
    | (with_reducible apply Covers.of_all; decide)
    | with_reducible exact Keeps.refl _ _ _
    | with_reducible apply Keeps.via (record_keeps _ _ _)
    | split

theorem switchRec_keeps (r : ListRec) (s : State) :
    Keeps [.cad] [.reg 0x60098] s (switchRec r s) := by
  unfold switchRec
  repeat' first
    | (simp only [Keeps.toMk]; first | with_reducible apply KeepsMk.set_cad)
    | (with_reducible apply Within.of_all; decide)
    | (with_reducible apply Covers.of_all; decide)
    | with_reducible exact Keeps.refl _ _ _
    | with_reducible apply Keeps.via (bump16_keeps _ _ _)
    | (with_reducible refine Keeps.ite (fun _ => ?_) (fun _ => ?_))
    | split

theorem switchList_keeps (b : Bytes) (s : State) :
    Keeps [.mem, .note, .cad, .lst] ([Area.reg 0x60098] ++ noteAreas) s (switchList b s) := by
  unfold switchList
  repeat' first
    | (simp only [Keeps.toMk]; first | with_reducible apply KeepsMk.set_lst)
    | (with_reducible apply Within.of_all; decide)
    | (with_reducible apply Covers.of_all; decide)
    | with_reducible exact Keeps.refl _ _ _
    | with_reducible apply Keeps.via (cadNotice_keeps _ _ _)
    | with_reducible apply Keeps.via (switchRec_keeps _ _)
    | (with_reducible refine Keeps.foldl ?_ (fun _ _ => ?_))

theorem discardList_keeps (s : State) :
    Keeps [.mem, .note, .lst] ([Area.reg 0x60098] ++ noteAreas) s (discardList s) := by
  unfold discardList
  repeat' first
    | (simp only [Keeps.toMk]; first | with_reducible apply KeepsMk.set_lst)
    | (with_reducible apply Within.of_all; decide)
    | (with_reducible apply Covers.of_all; decide)
    | with_reducible exact Keeps.refl _ _ _
    | with_reducible apply Keeps.via (cadNotice_keeps _ _ _)
    | with_reducible apply Keeps.via (bump16_keeps _ _ _)
    | (with_reducible refine Keeps.ite (fun _ => ?_) (fun _ => ?_))

theorem quarantineSlot_keeps (e chip : Nat) (s : State) :
    Keeps [.cad, .lst] [] s (quarantineSlot e chip s) := by
  unfold quarantineSlot
  repeat' first
    | (simp only [Keeps.toMk]; first | with_reducible apply KeepsMk.set_cad_lst)
    | (with_reducible apply Within.of_all; decide)
    | with_reducible exact Keeps.refl _ _ _
    | split

end Sys2Proof.Machine
end

