-- ==== Sys2Proof/Laws/FramesSram.lean ====
section
/-! SUPPORT. What each operation of Machine/Sram.lean changes: the parts of the state and the registers, and that it keeps the
invariant. -/
namespace Sys2Proof.Machine
open Sys2Proof

theorem poisonBuf_keeps (b : Nat × Nat) (s : State) :
    Keeps abortParts ([Area.reg 0x8, Area.reg 0xA0008] ++ abortAreas) s (poisonBuf b s) := by
  unfold poisonBuf
  repeat' first
    | (simp only [Keeps.toMk]; first | with_reducible apply KeepsMk.set_halves_ingestHeld_recv_collects_collectHeld_fep)
    | (with_reducible apply Within.of_all; decide)
    | (with_reducible apply Covers.of_all; decide)
    | with_reducible exact Keeps.refl _ _ _
    | with_reducible apply Keeps.via (raiseAborts_keeps _ _ _)
    | with_reducible apply Keeps.via (raiseColl_keeps _ _ _)
    | (with_reducible refine Keeps.ite (fun _ => ?_) (fun _ => ?_))
    | (with_reducible refine Keeps.foldl ?_ (fun _ _ => ?_))

theorem askEntry_keeps (x : Nat) (peers : List Nat) (tick : Nat) (s : State) :
    Keeps [.out, .mgmtNext, .cadRefetch, .fep] [] s (askEntry x peers tick s) := by
  unfold askEntry
  repeat' first
    | (simp only [Keeps.toMk]; first | with_reducible apply KeepsMk.set_cadRefetch)
    | (with_reducible apply Within.of_all; decide)
    | (with_reducible apply Covers.of_all; decide)
    | with_reducible exact Keeps.refl _ _ _
    | with_reducible apply Keeps.via (mgmtRequest_keeps _ _ _ _ _ _)
    | split

theorem refetchEntry_keeps (x : Nat) (s : State) :
    Keeps [.out, .mgmtNext, .cadRefetch, .fep] [] s (refetchEntry x s) := by
  unfold refetchEntry
  repeat' first
    | (with_reducible apply Within.of_all; decide)
    | (with_reducible apply Covers.of_all; decide)
    | with_reducible exact Keeps.refl _ _ _
    | with_reducible apply Keeps.via (askEntry_keeps _ _ _ _)
    | (with_reducible refine Keeps.ite (fun _ => ?_) (fun _ => ?_))

theorem logFault_keeps (s : State) :
    Keeps [.mem, .rlog, .note] ([Area.reg 0x8] ++ noteAreas) s (logFault s) := by
  unfold logFault
  repeat' first
    | (simp only [Keeps.toMk]; first | with_reducible apply KeepsMk.set_rlog)
    | (with_reducible apply Within.of_all; decide)
    | (with_reducible apply Covers.of_all; decide)
    | with_reducible exact Keeps.refl _ _ _
    | with_reducible apply Keeps.via (securityCode_keeps _ _ _)
    | (with_reducible refine Keeps.ite (fun _ => ?_) (fun _ => ?_))

theorem queueError_keeps (c : Nat) (b : Nat × Nat) (fatal : Bool) (s : State) :
    Keeps abortParts ([Area.reg 0x8, Area.reg 0xA0008, Area.station] ++ abortAreas) s (queueError c b fatal s) := by
  unfold queueError
  repeat' first
    | (with_reducible apply Within.of_all; decide)
    | (with_reducible apply Covers.of_all; decide)
    | with_reducible refine Covers.station (by simp at *; omega) (by decide) ?_
    | with_reducible exact Keeps.refl _ _ _
    | with_reducible apply Keeps.via (setField_keeps _ _ _ _ _)
    | with_reducible apply Keeps.via (bumpField_keeps _ _ _ _ _)
    | with_reducible apply Keeps.via (poisonBuf_keeps _ _)
    | (with_reducible refine Keeps.ite (fun _ => ?_) (fun _ => ?_))

theorem takeError_keeps (e : ErrEvent) (s : State) :
    Keeps ([Part.mem, Part.rlog, Part.mgmtNext, Part.note, Part.cadRefetch] ++ abortParts) ([Area.reg 0x8, Area.reg 0x20008, Area.reg 0x20080, Area.reg 0x20084, Area.reg 0x20088, Area.reg 0x30030, Area.reg 0x31038, Area.reg 0xA0008, Area.station] ++ noteAreas ++ abortAreas) s (takeError e s) := by
  unfold takeError
  repeat' first
    | (with_reducible apply Within.of_all; decide)
    | (with_reducible apply Covers.of_all; decide)
    | with_reducible exact Keeps.refl _ _ _
    | with_reducible apply Keeps.via (bumpField_keeps _ _ _ _ _)
    | with_reducible apply Keeps.via (withdrawTop_keeps _ _)
    | with_reducible apply Keeps.via (countSram_keeps _ _ _)
    | with_reducible apply Keeps.via (poisonBuf_keeps _ _)
    | with_reducible apply Keeps.via (refetchEntry_keeps _ _)
    | with_reducible apply Keeps.via (logFault_keeps _)
    | with_reducible apply Keeps.via (queueError_keeps _ _ _ _)
    | (with_reducible refine Keeps.ite (fun _ => ?_) (fun _ => ?_))
    | split

theorem takeErrors_keeps (es : Errs) (s : State) :
    Keeps ([Part.mem, Part.rlog, Part.mgmtNext, Part.note, Part.cadRefetch] ++ abortParts) ([Area.reg 0x8, Area.reg 0x20008, Area.reg 0x20080, Area.reg 0x20084, Area.reg 0x20088, Area.reg 0x30030, Area.reg 0x31038, Area.reg 0xA0008, Area.station] ++ noteAreas ++ abortAreas) s (takeErrors es s) := by
  unfold takeErrors
  repeat' first
    | (with_reducible apply Within.of_all; decide)
    | (with_reducible apply Covers.of_all; decide)
    | with_reducible exact Keeps.refl _ _ _
    | with_reducible apply Keeps.via (takeError_keeps _ _)
    | (with_reducible refine Keeps.foldl ?_ (fun _ _ => ?_))

theorem allocGrant_keeps (p : Nat) (s : State) :
    Keeps [.trace, .pools] [] s (allocGrant p s) := by
  unfold allocGrant
  repeat' first
    | (simp only [Keeps.toMk]; first | with_reducible apply KeepsMk.set_pools)
    | (with_reducible apply Within.of_all; decide)
    | (with_reducible apply Covers.of_all; decide)
    | with_reducible exact Keeps.refl _ _ _
    | with_reducible apply Keeps.via (traceEvent_keeps _ _ _ _)
    | with_reducible apply Keeps.via (takeBuf_keeps _ _ _)
    | exact fun h => h
    | split

end Sys2Proof.Machine
end

