-- ==== Sys2Proof/Laws/FramesIngest.lean ====
section
/-! SUPPORT. What each operation of Machine/Ingest.lean changes: the parts of the state and the registers, and that it keeps the
invariant. -/
namespace Sys2Proof.Machine
open Sys2Proof

theorem traceTile_keeps (ev station kind l h base colBase rows : Nat) (s : State) :
    Keeps [.trace] [] s (traceTile ev station kind l h base colBase rows s) := by
  unfold traceTile
  repeat' first
    | (with_reducible apply Within.of_all; decide)
    | (with_reducible apply Covers.of_all; decide)
    | with_reducible exact Keeps.refl _ _ _
    | with_reducible apply Keeps.via (traceEvent_keeps _ _ _ _)

theorem modBlock_keeps (b : BlockId) (f : Block → Block) (s : State) :
    Keeps [.halves] [] s (modBlock b f s) := by
  unfold modBlock
  repeat' first
    | (with_reducible apply Within.of_all; decide)
    | (with_reducible apply Covers.of_all; decide)
    | with_reducible exact Keeps.refl _ _ _
    | with_reducible apply Keeps.via (modHalf_keeps _ _ _ _)

theorem intoQueue_keeps {ps : List Part} {as : List Area} {s before after : State} {c : Nat} (h : Keeps ps as s before)
    (k : Keeps ps as s after) : Keeps ps as s (intoQueue c before after) := by
  unfold intoQueue
  split
  · exact k
  · exact h

theorem illegalTile_keeps (buf : Nat × Nat) (s : State) :
    Keeps abortParts ([Area.reg 0x8, Area.reg 0x20008] ++ abortAreas) s (illegalTile buf s) := by
  unfold illegalTile
  repeat' first
    | (with_reducible apply Within.of_all; decide)
    | (with_reducible apply Covers.of_all; decide)
    | with_reducible exact Keeps.refl _ _ _
    | with_reducible apply Keeps.via (raiseAborts_keeps _ _ _)
    | with_reducible apply Keeps.via (release_keeps _ _ _)

theorem takeToken_keeps (t : HeldTile) (s : State) :
    Keeps abortParts ([Area.reg 0x8, Area.reg 0x20008] ++ abortAreas) s (takeToken t s) := by
  unfold takeToken
  repeat' first
    | (simp only [Keeps.toMk]; first | with_reducible apply KeepsMk.set_halves)
    | (with_reducible apply Within.of_all; decide)
    | (with_reducible apply Covers.of_all; decide)
    | with_reducible exact Keeps.refl _ _ _
    | with_reducible apply Keeps.via (traceTile_keeps _ _ _ _ _ _ _ _ _)
    | with_reducible apply Keeps.via (illegalTile_keeps _ _)
    | with_reducible apply Keeps.via (setRefs_keeps _ _ _ _)
    | (with_reducible refine Keeps.ite (fun _ => ?_) (fun _ => ?_))

theorem takeHeld_keeps (x0 : Nat) (s : State) :
    Keeps abortParts ([Area.reg 0x8, Area.reg 0x20008] ++ abortAreas) s (takeHeld x0 s) := by
  induction x0 generalizing s with
  | zero => exact Keeps.refl _ _ _
  | succ n ih =>
    unfold takeHeld
    repeat' first
      | (simp only [Keeps.toMk]; first | with_reducible apply KeepsMk.set_ingestHeld)
      | (with_reducible apply Within.of_all; decide)
      | (with_reducible apply Covers.of_all; decide)
      | with_reducible exact Keeps.refl _ _ _
      | with_reducible apply Keeps.via (takeToken_keeps _ _)
      | with_reducible apply Keeps.via (ih _)
      | (with_reducible refine Keeps.ite (fun _ => ?_) (fun _ => ?_))
      | split

theorem ingestOn_keeps (s : State) :
    Keeps abortParts ([Area.reg 0x8, Area.reg 0x20008] ++ abortAreas) s (ingestOn s) := by
  unfold ingestOn
  repeat' first
    | (with_reducible apply Within.of_all; decide)
    | (with_reducible apply Covers.of_all; decide)
    | with_reducible exact Keeps.refl _ _ _
    | with_reducible apply Keeps.via (takeHeld_keeps _ _)

theorem placeToken_keeps (t : HeldTile) (s : State) :
    Keeps abortParts ([Area.reg 0x8, Area.reg 0x20008] ++ abortAreas) s (placeToken t s) := by
  unfold placeToken
  repeat' first
    | (simp only [Keeps.toMk]; first | with_reducible apply KeepsMk.set_tokenLast_ingestHeld)
    | (with_reducible apply Within.of_all; decide)
    | (with_reducible apply Covers.of_all; decide)
    | with_reducible exact Keeps.refl _ _ _
    | with_reducible apply Keeps.via (illegalTile_keeps _ _)
    | with_reducible apply Keeps.via (ingestOn_keeps _)
    | (with_reducible refine Keeps.ite (fun _ => ?_) (fun _ => ?_))

theorem landToken_keeps (t : HeldTile) (s : State) :
    Keeps abortParts ([Area.reg 0x8, Area.reg 0x20008] ++ abortAreas) s (landToken t s) := by
  unfold landToken
  repeat' first
    | (with_reducible apply Within.of_all; decide)
    | (with_reducible apply Covers.of_all; decide)
    | with_reducible exact Keeps.refl _ _ _
    | with_reducible apply Keeps.via (release_keeps _ _ _)
    | with_reducible apply Keeps.via (illegalTile_keeps _ _)
    | with_reducible apply Keeps.via (placeToken_keeps _ _)
    | with_reducible apply Keeps.via (bump_keeps _ _ _)
    | (with_reducible refine Keeps.ite (fun _ => ?_) (fun _ => ?_))

theorem tokenTileArrive_keeps (port : Nat) (b : Bytes) (errs : Errs) (s0 : State) :
    Keeps ([Part.mem, Part.rlog, Part.mgmtNext, Part.note, Part.cadRefetch] ++ abortParts) ([Area.reg 0x8, Area.reg 0x20008, Area.reg 0x20080, Area.reg 0x20084, Area.reg 0x20088, Area.reg 0x30030, Area.reg 0x31038, Area.reg 0xA0008, Area.station] ++ noteAreas ++ abortAreas) s0 (tokenTileArrive port b errs s0) := by
  unfold tokenTileArrive
  repeat' first
    | (with_reducible apply Within.of_all; decide)
    | (with_reducible apply Covers.of_all; decide)
    | with_reducible exact Keeps.refl _ _ _
    | with_reducible apply Keeps.via (landToken_keeps _ _)
    | with_reducible apply Keeps.via (alloc_keeps_eq (by assumption))
    | with_reducible apply Keeps.via (takeErrors_keeps _ _)
    | (with_reducible refine Keeps.ite (fun _ => ?_) (fun _ => ?_))
    | split

end Sys2Proof.Machine
end

