-- ==== Sys2Proof/Laws/FramesRounds.lean ====
section
/-! SUPPORT. What each operation of Machine/Rounds.lean changes: the parts of the state and the registers, and that it keeps the
invariant. -/
namespace Sys2Proof.Machine
open Sys2Proof

theorem tryPartial_keeps (k : RoundKey) (s : State) :
    Keeps [.out, .rounds, .fep] [] s (tryPartial k s) := by
  unfold tryPartial
  repeat' first
    | (with_reducible apply Within.of_all; decide)
    | (with_reducible apply Covers.of_all; decide)
    | with_reducible exact Keeps.refl _ _ _
    | with_reducible apply Keeps.via (sendExpress_keeps _ _ _ _ _ _)
    | with_reducible apply Keeps.via (modRound_keeps _ _ _)
    | (with_reducible refine Keeps.ite (fun _ => ?_) (fun _ => ?_))
    | (with_reducible refine Keeps.foldl ?_ (fun _ _ => ?_))
    | split

theorem tryResult_keeps (k : RoundKey) (s : State) :
    Keeps [.out, .rounds, .fep] [] s (tryResult k s) := by
  unfold tryResult
  repeat' first
    | (with_reducible apply Within.of_all; decide)
    | (with_reducible apply Covers.of_all; decide)
    | with_reducible exact Keeps.refl _ _ _
    | with_reducible apply Keeps.via (sendExpress_keeps _ _ _ _ _ _)
    | with_reducible apply Keeps.via (modRound_keeps _ _ _)
    | (with_reducible refine Keeps.ite (fun _ => ?_) (fun _ => ?_))
    | (with_reducible refine Keeps.foldl ?_ (fun _ _ => ?_))
    | split

theorem runRound_keeps (k : RoundKey) (s : State) :
    Keeps [.out, .rounds, .fep] [] s (runRound k s) := by
  unfold runRound
  repeat' first
    | (with_reducible apply Within.of_all; decide)
    | (with_reducible apply Covers.of_all; decide)
    | with_reducible exact Keeps.refl _ _ _
    | with_reducible apply Keeps.via (tryPartial_keeps _ _)
    | with_reducible apply Keeps.via (tryResult_keeps _ _)

theorem openFor_keeps (m : Bytes) (s : State) :
    Keeps [.rounds] [] s (openFor m s) := by
  unfold openFor
  repeat' first
    | (with_reducible apply Within.of_all; decide)
    | (with_reducible apply Covers.of_all; decide)
    | with_reducible exact Keeps.refl _ _ _
    | with_reducible apply Keeps.via (openRound_keeps _ _ _ _)

theorem contributeAgain_keeps (src : Nat) (k : RoundKey) (s : State) :
    Keeps [.out, .fep] [] s (contributeAgain src k s) := by
  unfold contributeAgain
  repeat' first
    | (with_reducible apply Within.of_all; decide)
    | (with_reducible apply Covers.of_all; decide)
    | with_reducible exact Keeps.refl _ _ _
    | with_reducible apply Keeps.via (sendExpress_keeps _ _ _ _ _ _)
    | split

theorem openNext_keeps (m : Bytes) (s : State) :
    Keeps [.rounds] [] s (openNext m s) := by
  unfold openNext
  repeat' first
    | (with_reducible apply Within.of_all; decide)
    | (with_reducible apply Covers.of_all; decide)
    | with_reducible exact Keeps.refl _ _ _
    | with_reducible apply Keeps.via (renewRound_keeps _ _)
    | with_reducible apply Keeps.via (openFor_keeps _ _)
    | (with_reducible refine Keeps.ite (fun _ => ?_) (fun _ => ?_))

theorem takeContrib_keeps (src : Nat) (m : Bytes) (s : State) :
    Keeps [.out, .rounds, .fep] [] s (takeContrib src m s) := by
  unfold takeContrib
  repeat' first
    | (with_reducible apply Within.of_all; decide)
    | (with_reducible apply Covers.of_all; decide)
    | with_reducible exact Keeps.refl _ _ _
    | with_reducible apply Keeps.via (modRound_keeps _ _ _)
    | with_reducible apply Keeps.via (runRound_keeps _ _)
    | with_reducible apply Keeps.via (openNext_keeps _ _)

theorem contribArrive_keeps (src : Nat) (m : Bytes) (s : State) :
    Keeps [.out, .rounds, .fep] [] s (contribArrive src m s) := by
  unfold contribArrive
  repeat' first
    | (with_reducible apply Within.of_all; decide)
    | (with_reducible apply Covers.of_all; decide)
    | with_reducible exact Keeps.refl _ _ _
    | with_reducible apply Keeps.via (sendExpress_keeps _ _ _ _ _ _)
    | with_reducible apply Keeps.via (contributeAgain_keeps _ _ _)
    | with_reducible apply Keeps.via (takeContrib_keeps _ _ _)
    | (with_reducible refine Keeps.ite (fun _ => ?_) (fun _ => ?_))
    | split

theorem copyAnswer_keeps (c src : Nat) (k : RoundKey) (p : Bytes) (s : State) :
    Keeps [.out, .rounds, .fep] [] s (copyAnswer c src k p s) := by
  unfold copyAnswer
  repeat' first
    | (with_reducible apply Within.of_all; decide)
    | (with_reducible apply Covers.of_all; decide)
    | with_reducible exact Keeps.refl _ _ _
    | with_reducible apply Keeps.via (sendExpress_keeps _ _ _ _ _ _)
    | with_reducible apply Keeps.via (modRound_keeps _ _ _)
    | with_reducible apply Keeps.via (askRack_keeps _ _)
    | (with_reducible refine Keeps.ite (fun _ => ?_) (fun _ => ?_))
    | split
    | (dsimp -proj only)

theorem partialArrive_keeps (src : Nat) (m : Bytes) (s : State) :
    Keeps [.out, .rounds, .fep] [] s (partialArrive src m s) := by
  unfold partialArrive
  repeat' first
    | (with_reducible apply Within.of_all; decide)
    | (with_reducible apply Covers.of_all; decide)
    | with_reducible exact Keeps.refl _ _ _
    | with_reducible apply Keeps.via (sendExpress_keeps _ _ _ _ _ _)
    | with_reducible apply Keeps.via (modRound_keeps _ _ _)
    | with_reducible apply Keeps.via (runRound_keeps _ _)
    | with_reducible apply Keeps.via (openNext_keeps _ _)
    | with_reducible apply Keeps.via (copyAnswer_keeps _ _ _ _ _)
    | (with_reducible refine Keeps.ite (fun _ => ?_) (fun _ => ?_))

theorem partialAck_keeps (src : Nat) (m : Bytes) (s : State) :
    Keeps [.out, .rounds, .fep] [] s (partialAck src m s) := by
  unfold partialAck
  repeat' first
    | (with_reducible apply Within.of_all; decide)
    | (with_reducible apply Covers.of_all; decide)
    | with_reducible exact Keeps.refl _ _ _
    | with_reducible apply Keeps.via (modRound_keeps _ _ _)
    | with_reducible apply Keeps.via (runRound_keeps _ _)

theorem partialCopyRequest_keeps (src : Nat) (m : Bytes) (s : State) :
    Keeps [.out, .fep] [] s (partialCopyRequest src m s) := by
  unfold partialCopyRequest
  repeat' first
    | (with_reducible apply Within.of_all; decide)
    | (with_reducible apply Covers.of_all; decide)
    | with_reducible exact Keeps.refl _ _ _
    | with_reducible apply Keeps.via (post_keeps _ _)

theorem shareResult_keeps (r : Round) (v : Bytes) (from_ : Nat) (s : State) :
    Keeps [.out, .fep] [] s (shareResult r v from_ s) := by
  unfold shareResult
  repeat' first
    | (with_reducible apply Within.of_all; decide)
    | (with_reducible apply Covers.of_all; decide)
    | with_reducible exact Keeps.refl _ _ _
    | with_reducible apply Keeps.via (sendExpress_keeps _ _ _ _ _ _)
    | (with_reducible refine Keeps.foldl ?_ (fun _ _ => ?_))

theorem replaceCollector_keeps (r : Round) (f : Nat) (s : State) :
    Keeps [.out, .rounds, .fep] [] s (replaceCollector r f s) := by
  unfold replaceCollector
  repeat' first
    | (with_reducible apply Within.of_all; decide)
    | (with_reducible apply Covers.of_all; decide)
    | with_reducible exact Keeps.refl _ _ _
    | with_reducible apply Keeps.via (sendExpress_keeps _ _ _ _ _ _)
    | with_reducible apply Keeps.via (askCopies_keeps _ _ _)
    | with_reducible apply Keeps.via (shareResult_keeps _ _ _ _)
    | (with_reducible refine Keeps.ite (fun _ => ?_) (fun _ => ?_))
    | (with_reducible refine Keeps.foldl ?_ (fun _ _ => ?_))
    | split

theorem roundFence_keeps (f : Nat) (k : RoundKey) (s : State) :
    Keeps [.out, .rounds, .fep] [] s (roundFence f k s) := by
  unfold roundFence
  repeat' first
    | (with_reducible apply Within.of_all; decide)
    | (with_reducible apply Covers.of_all; decide)
    | with_reducible exact Keeps.refl _ _ _
    | with_reducible apply Keeps.via (modRound_keeps _ _ _)
    | with_reducible apply Keeps.via (askRack_keeps _ _)
    | with_reducible apply Keeps.via (runRound_keeps _ _)
    | with_reducible apply Keeps.via (replaceCollector_keeps _ _ _)
    | (with_reducible refine Keeps.ite (fun _ => ?_) (fun _ => ?_))
    | split

theorem roundsFence_keeps (f : Nat) (s : State) :
    Keeps [.out, .rounds, .fep] [] s (roundsFence f s) := by
  unfold roundsFence
  repeat' first
    | (with_reducible apply Within.of_all; decide)
    | (with_reducible apply Covers.of_all; decide)
    | with_reducible exact Keeps.refl _ _ _
    | with_reducible apply Keeps.via (roundFence_keeps _ _ _)
    | (with_reducible refine Keeps.foldl ?_ (fun _ _ => ?_))

end Sys2Proof.Machine
end

