-- ==== Sys2Proof/Laws/FramesCce.lean ====
section
/-! SUPPORT. What each operation of Machine/Cce.lean changes: the parts of the state and the registers, and that it keeps the
invariant. -/
namespace Sys2Proof.Machine
open Sys2Proof

theorem modCce_keeps (f : Cce → Cce) (s : State) :
    Keeps [.cce] [] s (modCce f s) := by
  unfold modCce
  repeat' first
    | (simp only [Keeps.toMk]; first | with_reducible apply KeepsMk.set_cce)
    | (with_reducible apply Within.of_all; decide)
    | with_reducible exact Keeps.refl _ _ _

theorem ringStatus_keeps (ix status : Nat) (s : State) :
    Keeps [.mem, .beyond, .cce] [] s (ringStatus ix status s) := by
  unfold ringStatus
  repeat' first
    | (with_reducible apply Within.of_all; decide)
    | (with_reducible apply Covers.of_all; decide)
    | with_reducible exact Keeps.refl _ _ _
    | with_reducible apply Keeps.via (modCce_keeps _ _)
    | with_reducible apply Keeps.via (memWrite_keeps _ _ _)

theorem ringNext_keeps (s : State) :
    Keeps [.cce] [] s (ringNext s) := by
  unfold ringNext
  repeat' first
    | (with_reducible apply Within.of_all; decide)
    | (with_reducible apply Covers.of_all; decide)
    | with_reducible exact Keeps.refl _ _ _
    | with_reducible apply Keeps.via (modCce_keeps _ _)

theorem ringRefuse_keeps (ix code : Nat) (s : State) :
    Keeps [.mem, .beyond, .cce] [.reg 0xA0008] s (ringRefuse ix code s) := by
  unfold ringRefuse
  repeat' first
    | (with_reducible apply Within.of_all; decide)
    | (with_reducible apply Covers.of_all; decide)
    | with_reducible exact Keeps.refl _ _ _
    | with_reducible apply Keeps.via (ringStatus_keeps _ _ _)
    | with_reducible apply Keeps.via (ringNext_keeps _)
    | with_reducible apply Keeps.via (record_keeps _ _ _)

theorem ringSkip_keeps (x0 : Nat) (s : State) :
    Keeps [.mem, .beyond, .cce] [.reg 0xA0008] s (ringSkip x0 s) := by
  induction x0 generalizing s with
  | zero => exact Keeps.refl _ _ _
  | succ n ih =>
    unfold ringSkip
    repeat' first
      | (with_reducible apply Within.of_all; decide)
      | (with_reducible apply Covers.of_all; decide)
      | with_reducible exact Keeps.refl _ _ _
      | with_reducible apply Keeps.via (ringRefuse_keeps _ _ _)
      | with_reducible apply Keeps.via (ih _)
      | (with_reducible refine Keeps.ite (fun _ => ?_) (fun _ => ?_))

theorem cceDoorbell_keeps (value : Word32) (env : MemEnv) (s0 : State) :
    Keeps [.mem, .beyond, .cce] [.reg 0xA0008] s0 (cceDoorbell value env s0) := by
  unfold cceDoorbell
  repeat' first
    | (with_reducible apply Within.of_all; decide)
    | (with_reducible apply Covers.of_all; decide)
    | with_reducible exact Keeps.refl _ _ _
    | with_reducible apply Keeps.via (modCce_keeps _ _)
    | with_reducible apply Keeps.via (ringSkip_keeps _ _)
    | with_reducible apply Keeps.via (withEnv_keeps _ _)
    | with_reducible apply Keeps.via (record_keeps _ _ _)
    | (with_reducible refine Keeps.ite (fun _ => ?_) (fun _ => ?_))

theorem cceDoorbell_keeps_env (value : Word32) (env : MemEnv) (s0 : State) :
    Keeps [.mem, .beyond, .cce] [.reg 0xA0008] (withEnv env s0) (cceDoorbell value env s0) := by
  unfold cceDoorbell
  repeat' first
    | (with_reducible apply Within.of_all; decide)
    | (with_reducible apply Covers.of_all; decide)
    | with_reducible exact Keeps.refl _ _ _
    | with_reducible apply Keeps.via (modCce_keeps _ _)
    | with_reducible apply Keeps.via (ringSkip_keeps _ _)
    | with_reducible apply Keeps.via (record_keeps _ _ _)
    | (with_reducible refine Keeps.ite (fun _ => ?_) (fun _ => ?_))

theorem registerGroup_keeps (env : MemEnv) (s0 : State) :
    Keeps [.mem, .beyond, .cce] [.reg 0xA0008] s0 (registerGroup env s0) := by
  unfold registerGroup
  repeat' first
    | (with_reducible apply Within.of_all; decide)
    | (with_reducible apply Covers.of_all; decide)
    | with_reducible exact Keeps.refl _ _ _
    | with_reducible apply Keeps.via (modCce_keeps _ _)
    | with_reducible apply Keeps.via (ringStatus_keeps _ _ _)
    | with_reducible apply Keeps.via (ringNext_keeps _)
    | with_reducible apply Keeps.via (ringRefuse_keeps _ _ _)
    | with_reducible apply Keeps.via (ringSkip_keeps _ _)
    | with_reducible apply Keeps.via (withEnv_keeps _ _)
    | (with_reducible refine Keeps.ite (fun _ => ?_) (fun _ => ?_))
    | split
    | (dsimp -proj only)

theorem registerGroup_keeps_env (env : MemEnv) (s0 : State) :
    Keeps [.mem, .beyond, .cce] [.reg 0xA0008] (withEnv env s0) (registerGroup env s0) := by
  unfold registerGroup
  repeat' first
    | (with_reducible apply Within.of_all; decide)
    | (with_reducible apply Covers.of_all; decide)
    | with_reducible exact Keeps.refl _ _ _
    | with_reducible apply Keeps.via (modCce_keeps _ _)
    | with_reducible apply Keeps.via (ringStatus_keeps _ _ _)
    | with_reducible apply Keeps.via (ringNext_keeps _)
    | with_reducible apply Keeps.via (ringRefuse_keeps _ _ _)
    | with_reducible apply Keeps.via (ringSkip_keeps _ _)
    | (with_reducible refine Keeps.ite (fun _ => ?_) (fun _ => ?_))
    | split
    | (dsimp -proj only)

theorem unregisterGroup_keeps (env : MemEnv) (s0 : State) :
    Keeps [.mem, .beyond, .cce] [.reg 0xA0008] s0 (unregisterGroup env s0) := by
  unfold unregisterGroup
  repeat' first
    | (with_reducible apply Within.of_all; decide)
    | (with_reducible apply Covers.of_all; decide)
    | with_reducible exact Keeps.refl _ _ _
    | with_reducible apply Keeps.via (modCce_keeps _ _)
    | with_reducible apply Keeps.via (ringStatus_keeps _ _ _)
    | with_reducible apply Keeps.via (ringNext_keeps _)
    | with_reducible apply Keeps.via (ringRefuse_keeps _ _ _)
    | with_reducible apply Keeps.via (ringSkip_keeps _ _)
    | with_reducible apply Keeps.via (withEnv_keeps _ _)
    | (with_reducible refine Keeps.ite (fun _ => ?_) (fun _ => ?_))
    | split
    | (dsimp -proj only)

theorem unregisterGroup_keeps_env (env : MemEnv) (s0 : State) :
    Keeps [.mem, .beyond, .cce] [.reg 0xA0008] (withEnv env s0) (unregisterGroup env s0) := by
  unfold unregisterGroup
  repeat' first
    | (with_reducible apply Within.of_all; decide)
    | (with_reducible apply Covers.of_all; decide)
    | with_reducible exact Keeps.refl _ _ _
    | with_reducible apply Keeps.via (modCce_keeps _ _)
    | with_reducible apply Keeps.via (ringStatus_keeps _ _ _)
    | with_reducible apply Keeps.via (ringNext_keeps _)
    | with_reducible apply Keeps.via (ringRefuse_keeps _ _ _)
    | with_reducible apply Keeps.via (ringSkip_keeps _ _)
    | (with_reducible refine Keeps.ite (fun _ => ?_) (fun _ => ?_))
    | split
    | (dsimp -proj only)

theorem modColl_keeps (ix : Nat) (f : Coll → Coll) (s : State) :
    Keeps [.cce] [] s (modColl ix f s) := by
  unfold modColl
  repeat' first
    | (with_reducible apply Within.of_all; decide)
    | (with_reducible apply Covers.of_all; decide)
    | with_reducible exact Keeps.refl _ _ _
    | with_reducible apply Keeps.via (modCce_keeps _ _)

theorem collContribute_keeps (c : Coll) (seq opw : Nat) (payload : Bytes) (s : State) :
    Keeps [.out, .rounds, .fep] [] s (collContribute c seq opw payload s) := by
  unfold collContribute
  repeat' first
    | (with_reducible apply Within.of_all; decide)
    | (with_reducible apply Covers.of_all; decide)
    | with_reducible exact Keeps.refl _ _ _
    | with_reducible apply Keeps.via (contribute_keeps _ _ _ _ _)

theorem sendCredit_keeps (c : Coll) (dst type ix n : Nat) (s : State) :
    Keeps [.out, .fep] [] s (sendCredit c dst type ix n s) := by
  unfold sendCredit
  repeat' first
    | (with_reducible apply Within.of_all; decide)
    | (with_reducible apply Covers.of_all; decide)
    | with_reducible exact Keeps.refl _ _ _
    | with_reducible apply Keeps.via (sendExpress_keeps _ _ _ _ _ _)

theorem grantCredits_keeps (c : Coll) (s : State) :
    Keeps [.out, .fep] [] s (grantCredits c s) := by
  unfold grantCredits
  repeat' first
    | (with_reducible apply Within.of_all; decide)
    | (with_reducible apply Covers.of_all; decide)
    | with_reducible exact Keeps.refl _ _ _
    | with_reducible apply Keeps.via (sendCredit_keeps _ _ _ _ _ _)
    | (with_reducible refine Keeps.foldl ?_ (fun _ _ => ?_))

theorem queueChain_keeps (ix : Nat) (o : OutChain) (s : State) :
    Keeps [.cce] [] s (queueChain ix o s) := by
  unfold queueChain
  repeat' first
    | (with_reducible apply Within.of_all; decide)
    | (with_reducible apply Covers.of_all; decide)
    | with_reducible exact Keeps.refl _ _ _
    | with_reducible apply Keeps.via (modColl_keeps _ _ _)

theorem leaveChain_keeps (o : OutChain) (s : State) :
    Keeps ([Part.quarUndelivered] ++ abortParts) ([Area.reg 0x20008] ++ abortAreas) s (leaveChain o s) := by
  unfold leaveChain
  repeat' first
    | (simp only [Keeps.toMk]; first | with_reducible apply KeepsMk.set_fep)
    | (with_reducible apply Within.of_all; decide)
    | (with_reducible apply Covers.of_all; decide)
    | with_reducible exact Keeps.refl _ _ _
    | with_reducible apply Keeps.via (send_keeps _ _)
    | (with_reducible refine Keeps.ite (fun _ => ?_) (fun _ => ?_))

theorem drainColl_keeps (x0 : Nat) (x1 : Nat) (s : State) :
    Keeps ([Part.quarUndelivered] ++ abortParts) ([Area.reg 0x20008] ++ abortAreas) s (drainColl x0 x1 s) := by
  induction x0 generalizing x1 s with
  | zero => exact Keeps.refl _ _ _
  | succ n ih =>
    unfold drainColl
    repeat' first
      | (with_reducible apply Within.of_all; decide)
      | (with_reducible apply Covers.of_all; decide)
      | with_reducible exact Keeps.refl _ _ _
      | with_reducible apply Keeps.via (modColl_keeps _ _ _)
      | with_reducible apply Keeps.via (leaveChain_keeps _ _)
      | with_reducible apply Keeps.via (ih _ _)
      | split

theorem writeElems_keeps (c : Coll) (at_ : Nat) (codes : List Nat) (s : State) :
    Keeps [.mem, .beyond] [] s (writeElems c at_ codes s) := by
  unfold writeElems
  repeat' first
    | (with_reducible apply Within.of_all; decide)
    | (with_reducible apply Covers.of_all; decide)
    | with_reducible exact Keeps.refl _ _ _
    | with_reducible apply Keeps.via (memWrite_keeps _ _ _)

theorem markDone_keeps (ix key : Nat) (s : State) :
    Keeps [.cce] [] s (markDone ix key s) := by
  unfold markDone
  repeat' first
    | (with_reducible apply Within.of_all; decide)
    | (with_reducible apply Covers.of_all; decide)
    | with_reducible exact Keeps.refl _ _ _
    | with_reducible apply Keeps.via (modColl_keeps _ _ _)

theorem countResults_keeps (vs : List (Nat × ScoreClass)) (s : State) :
    Keeps [] [.reg 0xA0060, .reg 0xA0064, .reg 0xA0068] s (countResults vs s) := by
  unfold countResults
  repeat' first
    | (with_reducible apply Within.of_all; decide)
    | (with_reducible apply Covers.of_all; decide)
    | with_reducible exact Keeps.refl _ _ _
    | with_reducible apply Keeps.via (bump_keeps _ _ _)

theorem reportColl_keeps (c : Coll) (code : Nat) (s : State) :
    Keeps [.mem, .beyond, .note] noteAreas s (reportColl c code s) := by
  unfold reportColl
  repeat' first
    | (with_reducible apply Within.of_all; decide)
    | (with_reducible apply Covers.of_all; decide)
    | with_reducible exact Keeps.refl _ _ _
    | with_reducible apply Keeps.via (memWrite_keeps _ _ _)
    | with_reducible apply Keeps.via (notice_keeps _ _ _ _ _)

theorem collComplete_keeps (ix : Nat) (s : State) :
    Keeps [.out, .mem, .beyond, .note, .rounds, .cce, .fep] noteAreas s (collComplete ix s) := by
  unfold collComplete
  repeat' first
    | (with_reducible apply Within.of_all; decide)
    | (with_reducible apply Covers.of_all; decide)
    | with_reducible exact Keeps.refl _ _ _
    | with_reducible apply Keeps.via (modColl_keeps _ _ _)
    | with_reducible apply Keeps.via (reportColl_keeps _ _ _)
    | with_reducible apply Keeps.via (contribute_keeps _ _ _ _ _)
    | (with_reducible refine Keeps.ite (fun _ => ?_) (fun _ => ?_))
    | split

theorem smallContribute_keeps (c : Coll) (s : State) :
    Keeps [.out, .rounds, .fep] [] s (smallContribute c s) := by
  unfold smallContribute
  repeat' first
    | (with_reducible apply Within.of_all; decide)
    | (with_reducible apply Covers.of_all; decide)
    | with_reducible exact Keeps.refl _ _ _
    | with_reducible apply Keeps.via (collContribute_keeps _ _ _ _ _)

theorem smallReduce_keeps (c : Coll) (s : State) :
    Keeps [.mem, .beyond] [.reg 0xA005C, .reg 0xA0060, .reg 0xA0064, .reg 0xA0068] s (smallReduce c s) := by
  unfold smallReduce
  repeat' first
    | (with_reducible apply Within.of_all; decide)
    | (with_reducible apply Covers.of_all; decide)
    | with_reducible exact Keeps.refl _ _ _
    | with_reducible apply Keeps.via (writeElems_keeps _ _ _ _)
    | with_reducible apply Keeps.via (countResults_keeps _ _)
    | with_reducible apply Keeps.via (bump_keeps _ _ _)
    | (with_reducible refine Keeps.ite (fun _ => ?_) (fun _ => ?_))
    | (with_reducible refine Keeps.foldl ?_ (fun _ _ => ?_))

theorem smallResult_keeps (ix : Nat) (s : State) :
    Keeps [.out, .mem, .beyond, .note, .rounds, .cce, .fep] ([Area.reg 0xA005C, Area.reg 0xA0060, Area.reg 0xA0064, Area.reg 0xA0068] ++ noteAreas) s (smallResult ix s) := by
  unfold smallResult
  repeat' first
    | (with_reducible apply Within.of_all; decide)
    | (with_reducible apply Covers.of_all; decide)
    | with_reducible exact Keeps.refl _ _ _
    | with_reducible apply Keeps.via (writeElems_keeps _ _ _ _)
    | with_reducible apply Keeps.via (markDone_keeps _ _ _)
    | with_reducible apply Keeps.via (collComplete_keeps _ _)
    | with_reducible apply Keeps.via (smallReduce_keeps _ _)
    | split

theorem smallTake_keeps (ix : Nat) (b : Bytes) (s : State) :
    Keeps [.out, .mem, .beyond, .note, .rounds, .cce, .fep] ([Area.reg 0xA005C, Area.reg 0xA0060, Area.reg 0xA0064, Area.reg 0xA0068] ++ noteAreas) s (smallTake ix b s) := by
  unfold smallTake
  repeat' first
    | (with_reducible apply Within.of_all; decide)
    | (with_reducible apply Covers.of_all; decide)
    | with_reducible exact Keeps.refl _ _ _
    | with_reducible apply Keeps.via (modColl_keeps _ _ _)
    | with_reducible apply Keeps.via (smallContribute_keeps _ _)
    | with_reducible apply Keeps.via (smallResult_keeps _ _)
    | (with_reducible refine Keeps.ite (fun _ => ?_) (fun _ => ?_))
    | split
    | (dsimp -proj only)

theorem queueAll_keeps (ix : Nat) (c : Coll) (dsts : List Nat) (type hops k : Nat) (payload : Bytes) (owed : Option (Nat × Nat × Nat)) (s : State) :
    Keeps [.cce] [] s (queueAll ix c dsts type hops k payload owed s) := by
  unfold queueAll
  repeat' first
    | (with_reducible apply Within.of_all; decide)
    | (with_reducible apply Covers.of_all; decide)
    | with_reducible exact Keeps.refl _ _ _
    | with_reducible apply Keeps.via (queueChain_keeps _ _ _)
    | (with_reducible refine Keeps.foldl ?_ (fun _ _ => ?_))

theorem launchChains_keeps (ix : Nat) (s : State) :
    Keeps [.mem, .beyond, .cce] [] s (launchChains ix s) := by
  unfold launchChains
  repeat' first
    | (with_reducible apply Within.of_all; decide)
    | (with_reducible apply Covers.of_all; decide)
    | with_reducible exact Keeps.refl _ _ _
    | with_reducible apply Keeps.via (queueChain_keeps _ _ _)
    | with_reducible apply Keeps.via (writeElems_keeps _ _ _ _)
    | with_reducible apply Keeps.via (markDone_keeps _ _ _)
    | with_reducible apply Keeps.via (queueAll_keeps _ _ _ _ _ _ _ _ _)
    | (with_reducible refine Keeps.ite (fun _ => ?_) (fun _ => ?_))
    | (with_reducible refine Keeps.foldl ?_ (fun _ _ => ?_))
    | split
    | (dsimp -proj only)

theorem launchDirect_keeps (ix : Nat) (s : State) :
    Keeps [.mem, .beyond, .cce] [] s (launchDirect ix s) := by
  unfold launchDirect
  repeat' first
    | (with_reducible apply Within.of_all; decide)
    | (with_reducible apply Covers.of_all; decide)
    | with_reducible exact Keeps.refl _ _ _
    | with_reducible apply Keeps.via (queueChain_keeps _ _ _)
    | with_reducible apply Keeps.via (writeElems_keeps _ _ _ _)
    | with_reducible apply Keeps.via (markDone_keeps _ _ _)
    | (with_reducible refine Keeps.ite (fun _ => ?_) (fun _ => ?_))
    | (with_reducible refine Keeps.foldl ?_ (fun _ _ => ?_))
    | split

theorem launchOrdered_keeps (x0 : Nat) (x1 : Nat) (s : State) :
    Keeps [.mem, .beyond, .cce] [.reg 0xA0060, .reg 0xA0064, .reg 0xA0068] s (launchOrdered x0 x1 s) := by
  induction x0 generalizing x1 s with
  | zero => exact Keeps.refl _ _ _
  | succ n ih =>
    unfold launchOrdered
    repeat' first
      | (with_reducible apply Within.of_all; decide)
      | (with_reducible apply Covers.of_all; decide)
      | with_reducible exact Keeps.refl _ _ _
      | with_reducible apply Keeps.via (modColl_keeps _ _ _)
      | with_reducible apply Keeps.via (queueChain_keeps _ _ _)
      | with_reducible apply Keeps.via (writeElems_keeps _ _ _ _)
      | with_reducible apply Keeps.via (markDone_keeps _ _ _)
      | with_reducible apply Keeps.via (countResults_keeps _ _)
      | with_reducible apply Keeps.via (ih _ _)
      | (with_reducible refine Keeps.ite (fun _ => ?_) (fun _ => ?_))
      | split
      | (dsimp -proj only)

theorem modExact_keeps (ix k : Nat) (f : ExactChain → ExactChain) (s : State) :
    Keeps [.cce] [] s (modExact ix k f s) := by
  unfold modExact
  repeat' first
    | (with_reducible apply Within.of_all; decide)
    | (with_reducible apply Covers.of_all; decide)
    | with_reducible exact Keeps.refl _ _ _
    | with_reducible apply Keeps.via (modColl_keeps _ _ _)

theorem anchorContribute_keeps (ix : Nat) (s : State) :
    Keeps [.out, .rounds, .fep] [] s (anchorContribute ix s) := by
  unfold anchorContribute
  repeat' first
    | (with_reducible apply Within.of_all; decide)
    | (with_reducible apply Covers.of_all; decide)
    | with_reducible exact Keeps.refl _ _ _
    | with_reducible apply Keeps.via (collContribute_keeps _ _ _ _ _)
    | (with_reducible refine Keeps.ite (fun _ => ?_) (fun _ => ?_))
    | split
    | (dsimp -proj only)

theorem decideSlot_keeps (ix : Nat) (e : ExactChain) (s : State) :
    Keeps [.out, .cce, .fep] [] s (decideSlot ix e s) := by
  unfold decideSlot
  repeat' first
    | (with_reducible apply Within.of_all; decide)
    | (with_reducible apply Covers.of_all; decide)
    | with_reducible exact Keeps.refl _ _ _
    | with_reducible apply Keeps.via (modCce_keeps _ _)
    | with_reducible apply Keeps.via (modExact_keeps _ _ _ _)
    | with_reducible apply Keeps.via (sendExpress_keeps _ _ _ _ _ _)
    | (with_reducible refine Keeps.ite (fun _ => ?_) (fun _ => ?_))
    | (with_reducible refine Keeps.foldl ?_ (fun _ _ => ?_))
    | split

theorem sendRack_keeps (ix : Nat) (e : ExactChain) (s : State) :
    Keeps [.cce] [] s (sendRack ix e s) := by
  unfold sendRack
  repeat' first
    | (with_reducible apply Within.of_all; decide)
    | (with_reducible apply Covers.of_all; decide)
    | with_reducible exact Keeps.refl _ _ _
    | with_reducible apply Keeps.via (queueChain_keeps _ _ _)
    | with_reducible apply Keeps.via (modExact_keeps _ _ _ _)
    | (with_reducible refine Keeps.ite (fun _ => ?_) (fun _ => ?_))
    | (with_reducible refine Keeps.foldl ?_ (fun _ _ => ?_))
    | split

theorem sendCross_keeps (ix : Nat) (c : Coll) (me : Nat) (v : List Nat) (k : Nat) (s : State) :
    Keeps [.cce] [] s (sendCross ix c me v k s) := by
  unfold sendCross
  repeat' first
    | (with_reducible apply Within.of_all; decide)
    | (with_reducible apply Covers.of_all; decide)
    | with_reducible exact Keeps.refl _ _ _
    | with_reducible apply Keeps.via (queueChain_keeps _ _ _)
    | with_reducible apply Keeps.via (modExact_keeps _ _ _ _)
    | (with_reducible refine Keeps.foldl ?_ (fun _ _ => ?_))

theorem sendTotal_keeps (ix : Nat) (c : Coll) (me : Nat) (x : ChainSpan) (v : List Nat) (k : Nat) (s : State) :
    Keeps [.cce] [] s (sendTotal ix c me x v k s) := by
  unfold sendTotal
  repeat' first
    | (with_reducible apply Within.of_all; decide)
    | (with_reducible apply Covers.of_all; decide)
    | with_reducible exact Keeps.refl _ _ _
    | with_reducible apply Keeps.via (queueAll_keeps _ _ _ _ _ _ _ _ _)
    | with_reducible apply Keeps.via (modExact_keeps _ _ _ _)

theorem finishExact_keeps (ix : Nat) (c : Coll) (x : ChainSpan) (e : ExactChain) (s : State) :
    Keeps ([Part.mem, Part.beyond] ++ abortParts) ([Area.reg 0xA0008, Area.reg 0xA0058, Area.reg 0xA0060, Area.reg 0xA0064, Area.reg 0xA0068] ++ abortAreas) s (finishExact ix c x e s) := by
  unfold finishExact
  repeat' first
    | (with_reducible apply Within.of_all; decide)
    | (with_reducible apply Covers.of_all; decide)
    | with_reducible exact Keeps.refl _ _ _
    | with_reducible apply Keeps.via (writeElems_keeps _ _ _ _)
    | with_reducible apply Keeps.via (markDone_keeps _ _ _)
    | with_reducible apply Keeps.via (countResults_keeps _ _)
    | with_reducible apply Keeps.via (modExact_keeps _ _ _ _)
    | with_reducible apply Keeps.via (raiseColl_keeps _ _ _)
    | with_reducible apply Keeps.via (bump_keeps _ _ _)
    | (with_reducible refine Keeps.ite (fun _ => ?_) (fun _ => ?_))

theorem exactRack_keeps (ix k : Nat) (s : State) :
    Keeps [.out, .cce, .fep] [] s (exactRack ix k s) := by
  unfold exactRack
  repeat' first
    | (with_reducible apply Within.of_all; decide)
    | (with_reducible apply Covers.of_all; decide)
    | with_reducible exact Keeps.refl _ _ _
    | with_reducible apply Keeps.via (decideSlot_keeps _ _ _)
    | with_reducible apply Keeps.via (sendRack_keeps _ _ _)
    | split
    | (dsimp -proj only)

theorem exactCross_keeps (ix k : Nat) (s : State) :
    Keeps [.cce] [] s (exactCross ix k s) := by
  unfold exactCross
  repeat' first
    | (with_reducible apply Within.of_all; decide)
    | (with_reducible apply Covers.of_all; decide)
    | with_reducible exact Keeps.refl _ _ _
    | with_reducible apply Keeps.via (sendCross_keeps _ _ _ _ _ _)
    | (with_reducible refine Keeps.ite (fun _ => ?_) (fun _ => ?_))
    | split

theorem exactTotal_keeps (ix k : Nat) (s : State) :
    Keeps [.cce] [] s (exactTotal ix k s) := by
  unfold exactTotal
  repeat' first
    | (with_reducible apply Within.of_all; decide)
    | (with_reducible apply Covers.of_all; decide)
    | with_reducible exact Keeps.refl _ _ _
    | with_reducible apply Keeps.via (sendTotal_keeps _ _ _ _ _ _ _)
    | (with_reducible refine Keeps.ite (fun _ => ?_) (fun _ => ?_))
    | split

theorem exactEnd_keeps (ix k : Nat) (s : State) :
    Keeps ([Part.mem, Part.beyond] ++ abortParts) ([Area.reg 0xA0008, Area.reg 0xA0058, Area.reg 0xA0060, Area.reg 0xA0064, Area.reg 0xA0068] ++ abortAreas) s (exactEnd ix k s) := by
  unfold exactEnd
  repeat' first
    | (with_reducible apply Within.of_all; decide)
    | (with_reducible apply Covers.of_all; decide)
    | with_reducible exact Keeps.refl _ _ _
    | with_reducible apply Keeps.via (finishExact_keeps _ _ _ _ _)
    | (with_reducible refine Keeps.ite (fun _ => ?_) (fun _ => ?_))
    | split

theorem runExact_keeps (ix k : Nat) (s : State) :
    Keeps ([Part.mem, Part.beyond] ++ abortParts) ([Area.reg 0xA0008, Area.reg 0xA0058, Area.reg 0xA0060, Area.reg 0xA0064, Area.reg 0xA0068] ++ abortAreas) s (runExact ix k s) := by
  unfold runExact
  repeat' first
    | (with_reducible apply Within.of_all; decide)
    | (with_reducible apply Covers.of_all; decide)
    | with_reducible exact Keeps.refl _ _ _
    | with_reducible apply Keeps.via (exactRack_keeps _ _ _)
    | with_reducible apply Keeps.via (exactCross_keeps _ _ _)
    | with_reducible apply Keeps.via (exactTotal_keeps _ _ _)
    | with_reducible apply Keeps.via (exactEnd_keeps _ _ _)
    | (with_reducible refine Keeps.ite (fun _ => ?_) (fun _ => ?_))
    | split

theorem anchorTake_keeps (ix : Nat) (b : Bytes) (s : State) :
    Keeps ([Part.mem, Part.beyond] ++ abortParts) ([Area.reg 0xA0008, Area.reg 0xA0058, Area.reg 0xA005C, Area.reg 0xA0060, Area.reg 0xA0064, Area.reg 0xA0068] ++ abortAreas) s (anchorTake ix b s) := by
  unfold anchorTake
  repeat' first
    | (with_reducible apply Within.of_all; decide)
    | (with_reducible apply Covers.of_all; decide)
    | with_reducible exact Keeps.refl _ _ _
    | with_reducible apply Keeps.via (modColl_keeps _ _ _)
    | with_reducible apply Keeps.via (modExact_keeps _ _ _ _)
    | with_reducible apply Keeps.via (anchorContribute_keeps _ _)
    | with_reducible apply Keeps.via (runExact_keeps _ _ _)
    | with_reducible apply Keeps.via (bump_keeps _ _ _)
    | (with_reducible refine Keeps.ite (fun _ => ?_) (fun _ => ?_))
    | split
    | (dsimp -proj only)

theorem runColl_keeps (ix : Nat) (s : State) :
    Keeps ([Part.mem, Part.beyond, Part.note, Part.quarUndelivered] ++ abortParts) ([Area.reg 0x20008, Area.reg 0xA0060, Area.reg 0xA0064, Area.reg 0xA0068] ++ noteAreas ++ abortAreas) s (runColl ix s) := by
  unfold runColl
  repeat' first
    | (with_reducible apply Within.of_all; decide)
    | (with_reducible apply Covers.of_all; decide)
    | with_reducible exact Keeps.refl _ _ _
    | with_reducible apply Keeps.via (drainColl_keeps _ _ _)
    | with_reducible apply Keeps.via (collComplete_keeps _ _)
    | with_reducible apply Keeps.via (launchChains_keeps _ _)
    | with_reducible apply Keeps.via (launchOrdered_keeps _ _ _)
    | with_reducible apply Keeps.via (anchorContribute_keeps _ _)
    | (with_reducible refine Keeps.ite (fun _ => ?_) (fun _ => ?_))
    | split

theorem enterData_keeps (ix : Nat) (s : State) :
    Keeps ([Part.mem, Part.beyond, Part.note, Part.quarUndelivered] ++ abortParts) ([Area.reg 0x20008, Area.reg 0xA0060, Area.reg 0xA0064, Area.reg 0xA0068] ++ noteAreas ++ abortAreas) s (enterData ix s) := by
  unfold enterData
  repeat' first
    | (with_reducible apply Within.of_all; decide)
    | (with_reducible apply Covers.of_all; decide)
    | with_reducible exact Keeps.refl _ _ _
    | with_reducible apply Keeps.via (modColl_keeps _ _ _)
    | with_reducible apply Keeps.via (grantCredits_keeps _ _)
    | with_reducible apply Keeps.via (collComplete_keeps _ _)
    | with_reducible apply Keeps.via (smallContribute_keeps _ _)
    | with_reducible apply Keeps.via (launchDirect_keeps _ _)
    | with_reducible apply Keeps.via (runColl_keeps _ _)
    | (with_reducible refine Keeps.ite (fun _ => ?_) (fun _ => ?_))
    | split

theorem tryReserve_keeps (ix : Nat) (s : State) :
    Keeps ([Part.mem, Part.beyond, Part.note, Part.quarUndelivered] ++ abortParts) ([Area.reg 0x20008, Area.reg 0xA0060, Area.reg 0xA0064, Area.reg 0xA0068] ++ noteAreas ++ abortAreas) s (tryReserve ix s) := by
  unfold tryReserve
  repeat' first
    | (with_reducible apply Within.of_all; decide)
    | (with_reducible apply Covers.of_all; decide)
    | with_reducible exact Keeps.refl _ _ _
    | with_reducible apply Keeps.via (modColl_keeps _ _ _)
    | with_reducible apply Keeps.via (enterData_keeps _ _)
    | with_reducible apply Keeps.via (allocMany_keeps_eq (by assumption))
    | (with_reducible refine Keeps.ite (fun _ => ?_) (fun _ => ?_))
    | split

theorem tryCounts_keeps (ix : Nat) (s : State) :
    Keeps abortParts ([Area.reg 0xA0008] ++ abortAreas) s (tryCounts ix s) := by
  unfold tryCounts
  repeat' first
    | (with_reducible apply Within.of_all; decide)
    | (with_reducible apply Covers.of_all; decide)
    | with_reducible exact Keeps.refl _ _ _
    | with_reducible apply Keeps.via (collContribute_keeps _ _ _ _ _)
    | with_reducible apply Keeps.via (raiseColl_keeps _ _ _)
    | (with_reducible refine Keeps.ite (fun _ => ?_) (fun _ => ?_))
    | split

theorem sizeTake_keeps (ix : Nat) (b : Bytes) (s : State) :
    Keeps ([Part.mem, Part.beyond, Part.note, Part.quarUndelivered] ++ abortParts) ([Area.reg 0x20008, Area.reg 0xA0060, Area.reg 0xA0064, Area.reg 0xA0068] ++ noteAreas ++ abortAreas) s (sizeTake ix b s) := by
  unfold sizeTake
  repeat' first
    | (with_reducible apply Within.of_all; decide)
    | (with_reducible apply Covers.of_all; decide)
    | with_reducible exact Keeps.refl _ _ _
    | with_reducible apply Keeps.via (modColl_keeps _ _ _)
    | with_reducible apply Keeps.via (tryReserve_keeps _ _)

theorem sendCounts_keeps (ix : Nat) (s : State) :
    Keeps ([Part.mem, Part.beyond] ++ abortParts) ([Area.reg 0xA0008] ++ abortAreas) s (sendCounts ix s) := by
  unfold sendCounts
  repeat' first
    | (with_reducible apply Within.of_all; decide)
    | (with_reducible apply Covers.of_all; decide)
    | with_reducible exact Keeps.refl _ _ _
    | with_reducible apply Keeps.via (modColl_keeps _ _ _)
    | with_reducible apply Keeps.via (tryCounts_keeps _ _)
    | with_reducible apply Keeps.via (sendExpress_keeps _ _ _ _ _ _)
    | with_reducible apply Keeps.via (memWrite_keeps _ _ _)
    | (with_reducible refine Keeps.foldl ?_ (fun _ _ => ?_))
    | split

theorem handshakeTake_keeps (ix seq : Nat) (b : Bytes) (s : State) :
    Keeps ([Part.mem, Part.beyond, Part.note, Part.quarUndelivered] ++ abortParts) ([Area.reg 0x20008, Area.reg 0xA0008, Area.reg 0xA0060, Area.reg 0xA0064, Area.reg 0xA0068] ++ noteAreas ++ abortAreas) s (handshakeTake ix seq b s) := by
  unfold handshakeTake
  repeat' first
    | (with_reducible apply Within.of_all; decide)
    | (with_reducible apply Covers.of_all; decide)
    | with_reducible exact Keeps.refl _ _ _
    | with_reducible apply Keeps.via (modColl_keeps _ _ _)
    | with_reducible apply Keeps.via (enterData_keeps _ _)
    | with_reducible apply Keeps.via (sendCounts_keeps _ _)
    | with_reducible apply Keeps.via (raiseColl_keeps _ _ _)
    | (with_reducible refine Keeps.ite (fun _ => ?_) (fun _ => ?_))
    | split
    | (dsimp -proj only)

theorem resultTake_keeps (k : RoundKey) (b : Bytes) (s : State) :
    Keeps ([Part.mem, Part.beyond, Part.note, Part.quarUndelivered] ++ abortParts) ([Area.reg 0x20008, Area.reg 0xA0008, Area.reg 0xA0058, Area.reg 0xA005C, Area.reg 0xA0060, Area.reg 0xA0064, Area.reg 0xA0068] ++ noteAreas ++ abortAreas) s (resultTake k b s) := by
  unfold resultTake
  repeat' first
    | (with_reducible apply Within.of_all; decide)
    | (with_reducible apply Covers.of_all; decide)
    | with_reducible exact Keeps.refl _ _ _
    | with_reducible apply Keeps.via (smallTake_keeps _ _ _)
    | with_reducible apply Keeps.via (anchorTake_keeps _ _ _)
    | with_reducible apply Keeps.via (runColl_keeps _ _)
    | with_reducible apply Keeps.via (sizeTake_keeps _ _ _)
    | with_reducible apply Keeps.via (handshakeTake_keeps _ _ _ _)
    | (with_reducible refine Keeps.ite (fun _ => ?_) (fun _ => ?_))
    | split

theorem resultArrive_keeps (src : Nat) (m : Bytes) (s : State) :
    Keeps ([Part.mem, Part.beyond, Part.note, Part.quarUndelivered] ++ abortParts) ([Area.reg 0x20008, Area.reg 0xA0008, Area.reg 0xA0058, Area.reg 0xA005C, Area.reg 0xA0060, Area.reg 0xA0064, Area.reg 0xA0068, Area.reg 0xA006C] ++ noteAreas ++ abortAreas) s (resultArrive src m s) := by
  unfold resultArrive
  repeat' first
    | (with_reducible apply Within.of_all; decide)
    | (with_reducible apply Covers.of_all; decide)
    | with_reducible exact Keeps.refl _ _ _
    | with_reducible apply Keeps.via (resultTake_keeps _ _ _)
    | with_reducible apply Keeps.via (modRound_keeps _ _ _)
    | with_reducible apply Keeps.via (bump_keeps _ _ _)
    | with_reducible apply Keeps.via (runRound_keeps _ _)
    | with_reducible apply Keeps.via (shareResult_keeps _ _ _ _)
    | (with_reducible refine Keeps.ite (fun _ => ?_) (fun _ => ?_))
    | split
    | (dsimp -proj only)

theorem launchColl_keeps (c : Coll) (bad : Bool) (s : State) :
    Keeps abortParts ([Area.reg 0xA0008] ++ abortAreas) s (launchColl c bad s) := by
  unfold launchColl
  repeat' first
    | (with_reducible apply Within.of_all; decide)
    | (with_reducible apply Covers.of_all; decide)
    | with_reducible exact Keeps.refl _ _ _
    | with_reducible apply Keeps.via (modCce_keeps _ _)
    | with_reducible apply Keeps.via (ringNext_keeps _)
    | with_reducible apply Keeps.via (collContribute_keeps _ _ _ _ _)
    | with_reducible apply Keeps.via (abortColl_keeps _ _ _)
    | with_reducible apply Keeps.via (raiseColl_keeps _ _ _)
    | with_reducible apply Keeps.via (traceEvent_keeps _ _ _ _)
    | (with_reducible refine Keeps.ite (fun _ => ?_) (fun _ => ?_))

theorem startColl_keeps (op : Nat) (env : MemEnv) (s0 : State) :
    Keeps ([Part.mem, Part.beyond, Part.note, Part.quarUndelivered] ++ abortParts) ([Area.reg 0x20008, Area.reg 0xA0008, Area.reg 0xA0060, Area.reg 0xA0064, Area.reg 0xA0068] ++ noteAreas ++ abortAreas) s0 (startColl op env s0) := by
  unfold startColl
  repeat' first
    | (with_reducible apply Within.of_all; decide)
    | (with_reducible apply Covers.of_all; decide)
    | with_reducible exact Keeps.refl _ _ _
    | with_reducible apply Keeps.via (modCce_keeps _ _)
    | with_reducible apply Keeps.via (ringRefuse_keeps _ _ _)
    | with_reducible apply Keeps.via (ringSkip_keeps _ _)
    | with_reducible apply Keeps.via (tryReserve_keeps _ _)
    | with_reducible apply Keeps.via (launchColl_keeps _ _ _)
    | with_reducible apply Keeps.via (withEnv_keeps _ _)
    | with_reducible apply Keeps.via (allocMany_keeps_eq (by assumption))
    | (with_reducible refine Keeps.ite (fun _ => ?_) (fun _ => ?_))
    | (with_reducible refine Keeps.foldl ?_ (fun _ _ => ?_))
    | split
    | (dsimp -proj only)

theorem takePartial_keeps (ix : Nat) (c : Coll) (m : Bytes) (owed : Nat × Nat × Nat) (s : State) :
    Keeps [.out, .mem, .beyond, .cce, .fep] [.reg 0xA0060, .reg 0xA0064, .reg 0xA0068] s (takePartial ix c m owed s) := by
  unfold takePartial
  repeat' first
    | (with_reducible apply Within.of_all; decide)
    | (with_reducible apply Covers.of_all; decide)
    | with_reducible exact Keeps.refl _ _ _
    | with_reducible apply Keeps.via (sendCredit_keeps _ _ _ _ _ _)
    | with_reducible apply Keeps.via (queueChain_keeps _ _ _)
    | with_reducible apply Keeps.via (writeElems_keeps _ _ _ _)
    | with_reducible apply Keeps.via (markDone_keeps _ _ _)
    | with_reducible apply Keeps.via (countResults_keeps _ _)
    | (with_reducible refine Keeps.ite (fun _ => ?_) (fun _ => ?_))

theorem takeResultChain_keeps (ix : Nat) (c : Coll) (m : Bytes) (owed : Nat × Nat × Nat) (s : State) :
    Keeps [.out, .mem, .beyond, .cce, .fep] [.reg 0xA0060, .reg 0xA0064, .reg 0xA0068] s (takeResultChain ix c m owed s) := by
  unfold takeResultChain
  repeat' first
    | (with_reducible apply Within.of_all; decide)
    | (with_reducible apply Covers.of_all; decide)
    | with_reducible exact Keeps.refl _ _ _
    | with_reducible apply Keeps.via (sendCredit_keeps _ _ _ _ _ _)
    | with_reducible apply Keeps.via (queueChain_keeps _ _ _)
    | with_reducible apply Keeps.via (writeElems_keeps _ _ _ _)
    | with_reducible apply Keeps.via (markDone_keeps _ _ _)
    | with_reducible apply Keeps.via (countResults_keeps _ _)
    | (with_reducible refine Keeps.ite (fun _ => ?_) (fun _ => ?_))

theorem takeDataChain_keeps (ix : Nat) (c : Coll) (me : Nat) (m : Bytes) (owed : Nat × Nat × Nat) (s : State) :
    Keeps [.out, .mem, .beyond, .cce, .fep] [] s (takeDataChain ix c me m owed s) := by
  unfold takeDataChain
  repeat' first
    | (with_reducible apply Within.of_all; decide)
    | (with_reducible apply Covers.of_all; decide)
    | with_reducible exact Keeps.refl _ _ _
    | with_reducible apply Keeps.via (sendCredit_keeps _ _ _ _ _ _)
    | with_reducible apply Keeps.via (queueChain_keeps _ _ _)
    | with_reducible apply Keeps.via (writeElems_keeps _ _ _ _)
    | with_reducible apply Keeps.via (markDone_keeps _ _ _)
    | with_reducible apply Keeps.via (queueAll_keeps _ _ _ _ _ _ _ _ _)
    | (with_reducible refine Keeps.ite (fun _ => ?_) (fun _ => ?_))
    | split
    | (dsimp -proj only)

theorem takeSlice_keeps (ix : Nat) (c : Coll) (m : Bytes) (owed : Nat × Nat × Nat) (s : State) :
    Keeps ([Part.mem, Part.beyond] ++ abortParts) ([Area.reg 0xA0008, Area.reg 0xA004C, Area.reg 0xA0058, Area.reg 0xA0060, Area.reg 0xA0064, Area.reg 0xA0068] ++ abortAreas) s (takeSlice ix c m owed s) := by
  unfold takeSlice
  repeat' first
    | (with_reducible apply Within.of_all; decide)
    | (with_reducible apply Covers.of_all; decide)
    | with_reducible exact Keeps.refl _ _ _
    | with_reducible apply Keeps.via (modCce_keeps _ _)
    | with_reducible apply Keeps.via (modColl_keeps _ _ _)
    | with_reducible apply Keeps.via (sendCredit_keeps _ _ _ _ _ _)
    | with_reducible apply Keeps.via (modExact_keeps _ _ _ _)
    | with_reducible apply Keeps.via (runExact_keeps _ _ _)
    | with_reducible apply Keeps.via (bump_keeps _ _ _)
    | (with_reducible refine Keeps.ite (fun _ => ?_) (fun _ => ?_))

theorem takeChain_keeps (ix src : Nat) (m : Bytes) (s : State) :
    Keeps ([Part.mem, Part.beyond] ++ abortParts) ([Area.reg 0xA0008, Area.reg 0xA004C, Area.reg 0xA0058, Area.reg 0xA0060, Area.reg 0xA0064, Area.reg 0xA0068] ++ abortAreas) s (takeChain ix src m s) := by
  unfold takeChain
  repeat' first
    | (with_reducible apply Within.of_all; decide)
    | (with_reducible apply Covers.of_all; decide)
    | with_reducible exact Keeps.refl _ _ _
    | with_reducible apply Keeps.via (modColl_keeps _ _ _)
    | with_reducible apply Keeps.via (takePartial_keeps _ _ _ _ _)
    | with_reducible apply Keeps.via (takeResultChain_keeps _ _ _ _ _)
    | with_reducible apply Keeps.via (takeDataChain_keeps _ _ _ _ _ _)
    | with_reducible apply Keeps.via (takeSlice_keeps _ _ _ _ _)
    | (with_reducible refine Keeps.ite (fun _ => ?_) (fun _ => ?_))
    | split

theorem badChain_keeps (ix src : Nat) (m : Bytes) (s : State) :
    Keeps abortParts ([Area.reg 0xA0008, Area.reg 0xC1404, Area.reg 0xC1418, Area.reg 0xC141C, Area.reg 0xC1420] ++ abortAreas) s (badChain ix src m s) := by
  unfold badChain
  repeat' first
    | (with_reducible apply Within.of_all; decide)
    | (with_reducible apply Covers.of_all; decide)
    | with_reducible exact Keeps.refl _ _ _
    | with_reducible apply Keeps.via (modColl_keeps _ _ _)
    | with_reducible apply Keeps.via (sendExpress_keeps _ _ _ _ _ _)
    | with_reducible apply Keeps.via (raiseColl_keeps _ _ _)
    | (with_reducible refine Keeps.ite (fun _ => ?_) (fun _ => ?_))
    | split

theorem chainReceive_keeps (src : Nat) (m : Bytes) (errs : Errs) (s0 : State) :
    Keeps ([Part.mem, Part.beyond, Part.rlog, Part.mgmtNext, Part.note, Part.quarUndelivered, Part.cadRefetch] ++ abortParts) ([Area.reg 0x8, Area.reg 0x20008, Area.reg 0x20080, Area.reg 0x20084, Area.reg 0x20088, Area.reg 0x30030, Area.reg 0x31038, Area.reg 0xA0008, Area.reg 0xA0048, Area.reg 0xA004C, Area.reg 0xA0054, Area.reg 0xA0058, Area.reg 0xA0060, Area.reg 0xA0064, Area.reg 0xA0068, Area.reg 0xC1404, Area.reg 0xC1418, Area.reg 0xC141C, Area.reg 0xC1420, Area.station] ++ noteAreas ++ abortAreas) s0 (chainReceive src m errs s0) := by
  unfold chainReceive
  repeat' first
    | (with_reducible apply Within.of_all; decide)
    | (with_reducible apply Covers.of_all; decide)
    | with_reducible exact Keeps.refl _ _ _
    | with_reducible apply Keeps.via (runColl_keeps _ _)
    | with_reducible apply Keeps.via (takeChain_keeps _ _ _ _)
    | with_reducible apply Keeps.via (badChain_keeps _ _ _ _)
    | with_reducible apply Keeps.via (raiseColl_keeps _ _ _)
    | with_reducible apply Keeps.via (bump_keeps _ _ _)
    | with_reducible apply Keeps.via (bump16_keeps _ _ _)
    | with_reducible apply Keeps.via (takeErrors_keeps _ _)
    | split
    | (dsimp -proj only)

theorem creditArrive_keeps (src : Nat) (m : Bytes) (s : State) :
    Keeps ([Part.mem, Part.beyond, Part.note, Part.quarUndelivered] ++ abortParts) ([Area.reg 0x20008, Area.reg 0xA0060, Area.reg 0xA0064, Area.reg 0xA0068] ++ noteAreas ++ abortAreas) s (creditArrive src m s) := by
  unfold creditArrive
  repeat' first
    | (with_reducible apply Within.of_all; decide)
    | (with_reducible apply Covers.of_all; decide)
    | with_reducible exact Keeps.refl _ _ _
    | with_reducible apply Keeps.via (modColl_keeps _ _ _)
    | with_reducible apply Keeps.via (sendCredit_keeps _ _ _ _ _ _)
    | with_reducible apply Keeps.via (runColl_keeps _ _)
    | (with_reducible refine Keeps.foldl ?_ (fun _ _ => ?_))
    | split

theorem nackArrive_keeps (src : Nat) (m : Bytes) (s : State) :
    Keeps ([Part.quarUndelivered] ++ abortParts) ([Area.reg 0x20008, Area.reg 0xA0050] ++ abortAreas) s (nackArrive src m s) := by
  unfold nackArrive
  repeat' first
    | (with_reducible apply Within.of_all; decide)
    | (with_reducible apply Covers.of_all; decide)
    | with_reducible exact Keeps.refl _ _ _
    | with_reducible apply Keeps.via (modColl_keeps _ _ _)
    | with_reducible apply Keeps.via (leaveChain_keeps _ _)
    | with_reducible apply Keeps.via (bump16_keeps _ _ _)
    | with_reducible apply Keeps.via (traceEvent_keeps _ _ _ _)
    | split
    | (dsimp -proj only)

theorem countsArrive_keeps (src : Nat) (m : Bytes) (s : State) :
    Keeps ([Part.mem, Part.beyond] ++ abortParts) ([Area.reg 0xA0008] ++ abortAreas) s (countsArrive src m s) := by
  unfold countsArrive
  repeat' first
    | (with_reducible apply Within.of_all; decide)
    | (with_reducible apply Covers.of_all; decide)
    | with_reducible exact Keeps.refl _ _ _
    | with_reducible apply Keeps.via (modColl_keeps _ _ _)
    | with_reducible apply Keeps.via (tryCounts_keeps _ _)
    | with_reducible apply Keeps.via (memWrite_keeps _ _ _)
    | (with_reducible refine Keeps.ite (fun _ => ?_) (fun _ => ?_))
    | split

theorem slotArrive_keeps (m : Bytes) (s : State) :
    Keeps ([Part.mem, Part.beyond, Part.note, Part.quarUndelivered] ++ abortParts) ([Area.reg 0x20008, Area.reg 0xA0008, Area.reg 0xA0058, Area.reg 0xA0060, Area.reg 0xA0064, Area.reg 0xA0068] ++ noteAreas ++ abortAreas) s (slotArrive m s) := by
  unfold slotArrive
  repeat' first
    | (with_reducible apply Within.of_all; decide)
    | (with_reducible apply Covers.of_all; decide)
    | with_reducible exact Keeps.refl _ _ _
    | with_reducible apply Keeps.via (modColl_keeps _ _ _)
    | with_reducible apply Keeps.via (modExact_keeps _ _ _ _)
    | with_reducible apply Keeps.via (runExact_keeps _ _ _)
    | with_reducible apply Keeps.via (runColl_keeps _ _)
    | (with_reducible refine Keeps.ite (fun _ => ?_) (fun _ => ?_))
    | split

theorem landColl_keeps (port : Nat) (b : Bytes) (bad : Bool) (s : State) :
    Keeps ([Part.mem, Part.beyond, Part.note, Part.quarUndelivered] ++ abortParts) ([Area.reg 0x8, Area.reg 0x20008, Area.reg 0xA0008, Area.reg 0xA004C, Area.reg 0xA0058, Area.reg 0xA0060, Area.reg 0xA0064, Area.reg 0xA0068] ++ noteAreas ++ abortAreas) s (landColl port b bad s) := by
  unfold landColl
  repeat' first
    | (with_reducible apply Within.of_all; decide)
    | (with_reducible apply Covers.of_all; decide)
    | with_reducible exact Keeps.refl _ _ _
    | with_reducible apply Keeps.via (modColl_keeps _ _ _)
    | with_reducible apply Keeps.via (runColl_keeps _ _)
    | with_reducible apply Keeps.via (takeChain_keeps _ _ _ _)
    | with_reducible apply Keeps.via (raiseAborts_keeps _ _ _)
    | with_reducible apply Keeps.via (raiseColl_keeps _ _ _)
    | (with_reducible refine Keeps.ite (fun _ => ?_) (fun _ => ?_))
    | (with_reducible refine Keeps.foldl ?_ (fun _ _ => ?_))
    | split

theorem collTile_keeps (port : Nat) (b : Bytes) (errs : Errs) (s0 : State) :
    Keeps ([Part.mem, Part.beyond, Part.rlog, Part.mgmtNext, Part.note, Part.quarUndelivered, Part.cadRefetch] ++ abortParts) ([Area.reg 0x8, Area.reg 0x20008, Area.reg 0x20080, Area.reg 0x20084, Area.reg 0x20088, Area.reg 0x30030, Area.reg 0x31038, Area.reg 0xA0008, Area.reg 0xA004C, Area.reg 0xA0058, Area.reg 0xA0060, Area.reg 0xA0064, Area.reg 0xA0068, Area.station] ++ noteAreas ++ abortAreas) s0 (collTile port b errs s0) := by
  unfold collTile
  repeat' first
    | (with_reducible apply Within.of_all; decide)
    | (with_reducible apply Covers.of_all; decide)
    | with_reducible exact Keeps.refl _ _ _
    | with_reducible apply Keeps.via (landColl_keeps _ _ _ _)
    | with_reducible apply Keeps.via (release_keeps _ _ _)
    | with_reducible apply Keeps.via (alloc_keeps_eq (by assumption))
    | with_reducible apply Keeps.via (takeErrors_keeps _ _)
    | split
    | (dsimp -proj only)

theorem collAbort_keeps (m : Bytes) (s : State) :
    Keeps [.out, .rounds, .cce, .fep] [] s (collAbort m s) := by
  unfold collAbort
  repeat' first
    | (with_reducible apply Within.of_all; decide)
    | (with_reducible apply Covers.of_all; decide)
    | with_reducible exact Keeps.refl _ _ _
    | with_reducible apply Keeps.via (abortColl_keeps _ _ _)
    | split

theorem endColl_keeps (c : Coll) (code : Nat) (s : State) :
    Keeps [.mem, .beyond, .note, .trace, .pools, .cce] ([Area.reg 0xA0040, Area.reg 0xA0044] ++ noteAreas) s (endColl c code s) := by
  unfold endColl
  repeat' first
    | (with_reducible apply Within.of_all; decide)
    | (with_reducible apply Covers.of_all; decide)
    | with_reducible exact Keeps.refl _ _ _
    | with_reducible apply Keeps.via (modCce_keeps _ _)
    | with_reducible apply Keeps.via (reportColl_keeps _ _ _)
    | with_reducible apply Keeps.via (bump_keeps _ _ _)
    | with_reducible apply Keeps.via (traceEvent_keeps _ _ _ _)
    | with_reducible apply Keeps.via (freeAll_keeps _ _)
    | (with_reducible refine Keeps.ite (fun _ => ?_) (fun _ => ?_))

theorem completionRound_keeps (ix value : Nat) (s : State) :
    Keeps ([Part.mem, Part.beyond, Part.note] ++ abortParts) ([Area.reg 0xA0040, Area.reg 0xA0044] ++ noteAreas ++ abortAreas) s (completionRound ix value s) := by
  unfold completionRound
  repeat' first
    | (with_reducible apply Within.of_all; decide)
    | (with_reducible apply Covers.of_all; decide)
    | with_reducible exact Keeps.refl _ _ _
    | with_reducible apply Keeps.via (endColl_keeps _ _ _)
    | with_reducible apply Keeps.via (abortStep_keeps _ _ _)
    | (with_reducible refine Keeps.ite (fun _ => ?_) (fun _ => ?_))
    | split

theorem collTimeout_keeps (ix : Nat) (s : State) :
    Keeps abortParts ([Area.reg 0xA0008] ++ abortAreas) s (collTimeout ix s) := by
  unfold collTimeout
  repeat' first
    | (with_reducible apply Within.of_all; decide)
    | (with_reducible apply Covers.of_all; decide)
    | with_reducible exact Keeps.refl _ _ _
    | with_reducible apply Keeps.via (raiseColl_keeps _ _ _)
    | (with_reducible refine Keeps.ite (fun _ => ?_) (fun _ => ?_))
    | split

theorem collsFence_keeps (f : Nat) (s : State) :
    Keeps abortParts ([Area.reg 0xA0008] ++ abortAreas) s (collsFence f s) := by
  unfold collsFence
  repeat' first
    | (with_reducible apply Within.of_all; decide)
    | (with_reducible apply Covers.of_all; decide)
    | with_reducible exact Keeps.refl _ _ _
    | with_reducible apply Keeps.via (raiseColl_keeps _ _ _)
    | (with_reducible refine Keeps.foldl ?_ (fun _ _ => ?_))

theorem endColls_keeps (code : Nat) (s : State) :
    Keeps [.mem, .beyond, .note, .trace, .pools, .cce] ([Area.reg 0xA0040, Area.reg 0xA0044] ++ noteAreas) s (endColls code s) := by
  unfold endColls
  repeat' first
    | (with_reducible apply Within.of_all; decide)
    | (with_reducible apply Covers.of_all; decide)
    | with_reducible exact Keeps.refl _ _ _
    | with_reducible apply Keeps.via (endColl_keeps _ _ _)
    | (with_reducible refine Keeps.foldl ?_ (fun _ _ => ?_))

end Sys2Proof.Machine
end

