-- ==== Sys2Proof/Laws/FramesScore.lean ====
section
/-! SUPPORT. What each operation of Machine/Score.lean changes: the parts of the state and the registers, and that it keeps the
invariant. -/
namespace Sys2Proof.Machine
open Sys2Proof

theorem traceTiles_keeps (ev station kind : Nat) (k : BlockId) (rows : Nat) (ts : List Tile) (s : State) :
    Keeps [.trace] [] s (traceTiles ev station kind k rows ts s) := by
  unfold traceTiles
  repeat' first
    | (with_reducible apply Within.of_all; decide)
    | (with_reducible apply Covers.of_all; decide)
    | with_reducible exact Keeps.refl _ _ _
    | with_reducible apply Keeps.via (traceTile_keeps _ _ _ _ _ _ _ _ _)
    | (with_reducible refine Keeps.foldl ?_ (fun _ _ => ?_))

theorem normRun_keeps (k : BlockId) (env : MemEnv) (s : State) :
    Keeps abortParts ([Area.reg 0x8, Area.reg 0x20008, Area.reg 0x31008, Area.reg 0x3102C, Area.reg 0x31030, Area.reg 0x31034, Area.reg 0x60008] ++ abortAreas) s (normRun k env s) := by
  unfold normRun
  repeat' first
    | (with_reducible apply Within.of_all; decide)
    | (with_reducible apply Covers.of_all; decide)
    | with_reducible exact Keeps.refl _ _ _
    | with_reducible apply Keeps.via (raiseAborts_keeps _ _ _)
    | with_reducible apply Keeps.via (releaseOpt_keeps _ _)
    | with_reducible apply Keeps.via (modBlock_keeps _ _ _)
    | with_reducible refine intoQueue_keeps ?_ ?_
    | with_reducible apply Keeps.via (ingestOn_keeps _)
    | with_reducible apply Keeps.via (bump_keeps _ _ _)
    | with_reducible apply Keeps.via (allocMany_keeps_eq (by assumption))
    | with_reducible apply Keeps.via (traceTiles_keeps _ _ _ _ _ _ _)
    | (with_reducible refine Keeps.ite (fun _ => ?_) (fun _ => ?_))
    | (with_reducible refine Keeps.foldl ?_ (fun _ _ => ?_))
    | split
    | (dsimp -proj only)

theorem normTile_keeps (k : BlockId) (env : MemEnv) (errs : Errs) (s : State) :
    Keeps ([Part.mem, Part.beyond, Part.rlog, Part.mgmtNext, Part.note, Part.cadRefetch] ++ abortParts) ([Area.reg 0x8, Area.reg 0x20008, Area.reg 0x20080, Area.reg 0x20084, Area.reg 0x20088, Area.reg 0x30030, Area.reg 0x31008, Area.reg 0x3102C, Area.reg 0x31030, Area.reg 0x31034, Area.reg 0x31038, Area.reg 0x60008, Area.reg 0xA0008, Area.station] ++ noteAreas ++ abortAreas) s (normTile k env errs s) := by
  unfold normTile
  repeat' first
    | (with_reducible apply Within.of_all; decide)
    | (with_reducible apply Covers.of_all; decide)
    | with_reducible exact Keeps.refl _ _ _
    | with_reducible apply Keeps.via (withEnv_keeps _ _)
    | with_reducible apply Keeps.via (normRun_keeps _ _ _)
    | with_reducible apply Keeps.via (takeErrors_keeps _ _)

theorem noteAnchors_keeps (as : List Int) (s : State) :
    Keeps [] [.reg 0x30034] s (noteAnchors as s) := by
  unfold noteAnchors
  repeat' first
    | (with_reducible apply Within.of_all; decide)
    | (with_reducible apply Covers.of_all; decide)
    | with_reducible exact Keeps.refl _ _ _
    | with_reducible apply Keeps.via (setField_keeps _ _ _ _ _)
    | split

theorem anchorPrepass_keeps (k : BlockId) (array c : Nat) (env : MemEnv) (errs : Errs) (s0 : State) :
    Keeps ([Part.mem, Part.beyond, Part.rlog, Part.mgmtNext, Part.note, Part.cadRefetch] ++ abortParts) ([Area.reg 0x8, Area.reg 0x20008, Area.reg 0x20080, Area.reg 0x20084, Area.reg 0x20088, Area.reg 0x30030, Area.reg 0x30034, Area.reg 0x31038, Area.reg 0x60008, Area.reg 0xA0008, Area.station] ++ noteAreas ++ abortAreas) s0 (anchorPrepass k array c env errs s0) := by
  unfold anchorPrepass
  repeat' first
    | (with_reducible apply Within.of_all; decide)
    | (with_reducible apply Covers.of_all; decide)
    | with_reducible exact Keeps.refl _ _ _
    | with_reducible apply Keeps.via (raiseAborts_keeps _ _ _)
    | with_reducible apply Keeps.via (modBlock_keeps _ _ _)
    | with_reducible apply Keeps.via (withEnv_keeps _ _)
    | with_reducible apply Keeps.via (noteAnchors_keeps _ _)
    | with_reducible apply Keeps.via (takeErrors_keeps _ _)
    | (with_reducible refine Keeps.ite (fun _ => ?_) (fun _ => ?_))
    | split
    | (dsimp -proj only)

theorem scoreLeaves_keeps (k : BlockId) (r : LayerRec) (ts : List Tile) (s : State) :
    Keeps [.trace] [] s (scoreLeaves k r ts s) := by
  unfold scoreLeaves
  repeat' first
    | (with_reducible apply Within.of_all; decide)
    | (with_reducible apply Covers.of_all; decide)
    | with_reducible exact Keeps.refl _ _ _
    | with_reducible apply Keeps.via (traceTiles_keeps _ _ _ _ _ _ _)
    | (with_reducible refine Keeps.ite (fun _ => ?_) (fun _ => ?_))
    | split

theorem scorePair_keeps (k : BlockId) (array c : Nat) (env : MemEnv) (errs : Errs) (s0 : State) :
    Keeps ([Part.mem, Part.beyond, Part.rlog, Part.mgmtNext, Part.note, Part.cadRefetch] ++ abortParts) ([Area.reg 0x8, Area.reg 0x20008, Area.reg 0x20080, Area.reg 0x20084, Area.reg 0x20088, Area.reg 0x30000, Area.reg 0x30010, Area.reg 0x30014, Area.reg 0x30020, Area.reg 0x30024, Area.reg 0x30028, Area.reg 0x3002C, Area.reg 0x30030, Area.reg 0x31038, Area.reg 0x60008, Area.reg 0xA0008, Area.station] ++ noteAreas ++ abortAreas) s0 (scorePair k array c env errs s0) := by
  unfold scorePair
  repeat' first
    | (with_reducible apply Within.of_all; decide)
    | (with_reducible apply Covers.of_all; decide)
    | (with_reducible apply Covers.pair; decide; decide)
    | with_reducible exact Keeps.refl _ _ _
    | with_reducible apply Keeps.via (raiseAborts_keeps _ _ _)
    | with_reducible apply Keeps.via (modBlock_keeps _ _ _)
    | with_reducible refine intoQueue_keeps ?_ ?_
    | with_reducible apply Keeps.via (ingestOn_keeps _)
    | with_reducible apply Keeps.via (withEnv_keeps _ _)
    | with_reducible apply Keeps.via (setField_keeps _ _ _ _ _)
    | with_reducible apply Keeps.via (bump_keeps _ _ _)
    | with_reducible apply Keeps.via (alloc_keeps_eq (by assumption))
    | with_reducible apply Keeps.via (traceTiles_keeps _ _ _ _ _ _ _)
    | with_reducible apply Keeps.via (scoreLeaves_keeps _ _ _ _)
    | with_reducible apply Keeps.via (takeErrors_keeps _ _)
    | (with_reducible refine Keeps.ite (fun _ => ?_) (fun _ => ?_))
    | split
    | (dsimp -proj only)

theorem tierLine_keeps (addr : Nat) (env : MemEnv) (s0 : State) :
    Keeps ([Part.mem, Part.beyond] ++ abortParts) ([Area.reg 0x60008, Area.reg 0x6004C, Area.reg 0x60050, Area.reg 0x60080, Area.reg 0x60084] ++ abortAreas) s0 (tierLine addr env s0) := by
  unfold tierLine
  repeat' first
    | (with_reducible apply Within.of_all; decide)
    | (with_reducible apply Covers.of_all; decide)
    | with_reducible exact Keeps.refl _ _ _
    | with_reducible apply Keeps.via (raiseAborts_keeps _ _ _)
    | with_reducible apply Keeps.via (withEnv_keeps _ _)
    | with_reducible apply Keeps.via (setWord_keeps _ _ _)
    | with_reducible apply Keeps.via (bump_keeps _ _ _)
    | (with_reducible refine Keeps.ite (fun _ => ?_) (fun _ => ?_))

theorem tierLine_keeps_env (addr : Nat) (env : MemEnv) (s0 : State) :
    Keeps abortParts ([Area.reg 0x60008, Area.reg 0x6004C, Area.reg 0x60050, Area.reg 0x60080, Area.reg 0x60084] ++ abortAreas) (withEnv env s0) (tierLine addr env s0) := by
  unfold tierLine
  repeat' first
    | (with_reducible apply Within.of_all; decide)
    | (with_reducible apply Covers.of_all; decide)
    | with_reducible exact Keeps.refl _ _ _
    | with_reducible apply Keeps.via (raiseAborts_keeps _ _ _)
    | with_reducible apply Keeps.via (setWord_keeps _ _ _)
    | with_reducible apply Keeps.via (bump_keeps _ _ _)
    | (with_reducible refine Keeps.ite (fun _ => ?_) (fun _ => ?_))

theorem gateBlock_keeps (k : BlockId) (errs : Errs) (s0 : State) :
    Keeps ([Part.mem, Part.rlog, Part.mgmtNext, Part.note, Part.cadRefetch] ++ abortParts) ([Area.reg 0x8, Area.reg 0x20008, Area.reg 0x20080, Area.reg 0x20084, Area.reg 0x20088, Area.reg 0x30030, Area.reg 0x31020, Area.reg 0x31024, Area.reg 0x31028, Area.reg 0x31038, Area.reg 0xA0008, Area.station] ++ noteAreas ++ abortAreas) s0 (gateBlock k errs s0) := by
  unfold gateBlock
  repeat' first
    | (with_reducible apply Within.of_all; decide)
    | (with_reducible apply Covers.of_all; decide)
    | with_reducible exact Keeps.refl _ _ _
    | with_reducible apply Keeps.via (releaseOpt_keeps _ _)
    | with_reducible apply Keeps.via (modBlock_keeps _ _ _)
    | with_reducible refine intoQueue_keeps ?_ ?_
    | with_reducible apply Keeps.via (bump_keeps _ _ _)
    | with_reducible apply Keeps.via (allocMany_keeps_eq (by assumption))
    | with_reducible apply Keeps.via (traceTiles_keeps _ _ _ _ _ _ _)
    | with_reducible apply Keeps.via (takeErrors_keeps _ _)
    | (with_reducible refine Keeps.ite (fun _ => ?_) (fun _ => ?_))
    | (with_reducible refine Keeps.foldl ?_ (fun _ _ => ?_))
    | split
    | (dsimp -proj only)

theorem selectBlock_keeps (k : BlockId) (errs : Errs) (s0 : State) :
    Keeps ([Part.mem, Part.rlog, Part.mgmtNext, Part.note, Part.cadRefetch] ++ abortParts) ([Area.reg 0x8, Area.reg 0x20008, Area.reg 0x20080, Area.reg 0x20084, Area.reg 0x20088, Area.reg 0x30030, Area.reg 0x31038, Area.reg 0x40000, Area.reg 0x40010, Area.reg 0x40014, Area.reg 0x40018, Area.reg 0x4001C, Area.reg 0xA0008, Area.station] ++ noteAreas ++ abortAreas) s0 (selectBlock k errs s0) := by
  unfold selectBlock
  repeat' first
    | (with_reducible apply Within.of_all; decide)
    | (with_reducible apply Covers.of_all; decide)
    | with_reducible exact Keeps.refl _ _ _
    | with_reducible apply Keeps.via (releaseOpt_keeps _ _)
    | with_reducible apply Keeps.via (modBlock_keeps _ _ _)
    | with_reducible refine intoQueue_keeps ?_ ?_
    | with_reducible apply Keeps.via (setField_keeps _ _ _ _ _)
    | with_reducible apply Keeps.via (bump_keeps _ _ _)
    | with_reducible apply Keeps.via (alloc_keeps_eq (by assumption))
    | with_reducible apply Keeps.via (traceTiles_keeps _ _ _ _ _ _ _)
    | with_reducible apply Keeps.via (takeErrors_keeps _ _)
    | (with_reducible refine Keeps.ite (fun _ => ?_) (fun _ => ?_))
    | (with_reducible refine Keeps.foldl ?_ (fun _ _ => ?_))
    | split
    | (dsimp -proj only)

end Sys2Proof.Machine
end

