-- ==== Sys2Proof/Laws/FramesTally.lean ====
section
/-! SUPPORT. What each operation of Machine/Tally.lean changes: the parts of the state and the registers, and that it keeps the
invariant. -/
namespace Sys2Proof.Machine
open Sys2Proof

theorem modTally_keeps (l h : Nat) (f : Tally → Tally) (s : State) :
    Keeps [.halves] [] s (modTally l h f s) := by
  unfold modTally
  repeat' first
    | (with_reducible apply Within.of_all; decide)
    | (with_reducible apply Covers.of_all; decide)
    | with_reducible exact Keeps.refl _ _ _
    | with_reducible apply Keeps.via (modHalf_keeps _ _ _ _)

theorem setPhase_keeps (l h : Nat) (p : TallyPhase) (s : State) :
    Keeps [.trace, .halves] [] s (setPhase l h p s) := by
  unfold setPhase
  repeat' first
    | (with_reducible apply Within.of_all; decide)
    | (with_reducible apply Covers.of_all; decide)
    | with_reducible exact Keeps.refl _ _ _
    | with_reducible apply Keeps.via (traceEvent_keeps _ _ _ _)
    | with_reducible apply Keeps.via (modTally_keeps _ _ _ _)

theorem tallyCount_keeps (k : BlockId) (errs : Errs) (s0 : State) :
    Keeps ([Part.mem, Part.rlog, Part.mgmtNext, Part.note, Part.cadRefetch] ++ abortParts) ([Area.reg 0x8, Area.reg 0x20008, Area.reg 0x20080, Area.reg 0x20084, Area.reg 0x20088, Area.reg 0x30030, Area.reg 0x31038, Area.reg 0xA0008, Area.station] ++ noteAreas ++ abortAreas) s0 (tallyCount k errs s0) := by
  unfold tallyCount
  repeat' first
    | (with_reducible apply Within.of_all; decide)
    | (with_reducible apply Covers.of_all; decide)
    | with_reducible exact Keeps.refl _ _ _
    | with_reducible apply Keeps.via (traceTile_keeps _ _ _ _ _ _ _ _ _)
    | with_reducible apply Keeps.via (modBlock_keeps _ _ _)
    | with_reducible apply Keeps.via (takeErrors_keeps _ _)
    | with_reducible apply Keeps.via (modTally_keeps _ _ _ _)
    | with_reducible apply Keeps.via (setPhase_keeps _ _ _ _)
    | (with_reducible refine Keeps.ite (fun _ => ?_) (fun _ => ?_))
    | split
    | (dsimp -proj only)

theorem sendTally_keeps (dst type l h trip : Nat) (es : List Nat) (tie : Tie) (s : State) :
    Keeps [.out, .quarUndelivered, .halves, .fep] [] s (sendTally dst type l h trip es tie s) := by
  unfold sendTally
  repeat' first
    | (with_reducible apply Within.of_all; decide)
    | (with_reducible apply Covers.of_all; decide)
    | with_reducible exact Keeps.refl _ _ _
    | with_reducible apply Keeps.via (sendCounted_keeps _ _)
    | (with_reducible refine Keeps.foldl ?_ (fun _ _ => ?_))

theorem tallyScanEnd_keeps (l h : Nat) (errs : Errs) (s0 : State) :
    Keeps ([Part.mem, Part.rlog, Part.mgmtNext, Part.note, Part.quarUndelivered, Part.cadRefetch] ++ abortParts) ([Area.reg 0x8, Area.reg 0x20008, Area.reg 0x20080, Area.reg 0x20084, Area.reg 0x20088, Area.reg 0x30030, Area.reg 0x31038, Area.reg 0xA0008, Area.station] ++ noteAreas ++ abortAreas) s0 (tallyScanEnd l h errs s0) := by
  unfold tallyScanEnd
  repeat' first
    | (with_reducible apply Within.of_all; decide)
    | (with_reducible apply Covers.of_all; decide)
    | with_reducible exact Keeps.refl _ _ _
    | with_reducible apply Keeps.via (takeErrors_keeps _ _)
    | with_reducible apply Keeps.via (modTally_keeps _ _ _ _)
    | with_reducible apply Keeps.via (setPhase_keeps _ _ _ _)
    | with_reducible apply Keeps.via (sendTally_keeps _ _ _ _ _ _ _ _)
    | (with_reducible refine Keeps.ite (fun _ => ?_) (fun _ => ?_))
    | (with_reducible refine Keeps.foldl ?_ (fun _ _ => ?_))
    | split
    | (dsimp -proj only)

theorem tallyContribute_keeps (l h : Nat) (errs : Errs) (s0 : State) :
    Keeps ([Part.mem, Part.rlog, Part.mgmtNext, Part.note, Part.cadRefetch] ++ abortParts) ([Area.reg 0x8, Area.reg 0x20008, Area.reg 0x20080, Area.reg 0x20084, Area.reg 0x20088, Area.reg 0x30030, Area.reg 0x31038, Area.reg 0x41008, Area.reg 0xA0008, Area.station] ++ noteAreas ++ abortAreas) s0 (tallyContribute l h errs s0) := by
  unfold tallyContribute
  repeat' first
    | (with_reducible apply Within.of_all; decide)
    | (with_reducible apply Covers.of_all; decide)
    | with_reducible exact Keeps.refl _ _ _
    | with_reducible apply Keeps.via (contribute_keeps _ _ _ _ _)
    | with_reducible apply Keeps.via (raiseAborts_keeps _ _ _)
    | with_reducible apply Keeps.via (takeErrors_keeps _ _)
    | with_reducible apply Keeps.via (modTally_keeps _ _ _ _)
    | (with_reducible refine Keeps.ite (fun _ => ?_) (fun _ => ?_))
    | split
    | (dsimp -proj only)

theorem makeLoans_keeps (l h : Nat) (s : State) :
    Keeps [.trace, .pools, .halves] [] s (makeLoans l h s) := by
  unfold makeLoans
  repeat' first
    | (with_reducible apply Within.of_all; decide)
    | (with_reducible apply Covers.of_all; decide)
    | with_reducible exact Keeps.refl _ _ _
    | with_reducible apply Keeps.via (modHalf_keeps _ _ _ _)
    | with_reducible apply Keeps.via (allocMany_keeps_eq (by assumption))
    | (with_reducible refine Keeps.ite (fun _ => ?_) (fun _ => ?_))
    | split

theorem dropTiles_keeps (x0 : List Tile) (s : State) :
    Keeps abortParts ([Area.reg 0x20008] ++ abortAreas) s (dropTiles x0 s).2 := by
  induction x0 generalizing s with
  | nil => exact Keeps.refl _ _ _
  | cons y ys ih =>
    unfold dropTiles
    repeat' first
      | (with_reducible apply Within.of_all; decide)
      | (with_reducible apply Covers.of_all; decide)
      | with_reducible exact Keeps.refl _ _ _
      | with_reducible apply Keeps.via (releaseOpt_keeps _ _)
      | with_reducible apply Keeps.via (ih _)

theorem dropTiles_keeps_eq  {x0 : List Tile} {s : State} {s' : State} {r : List Tile}
    (hr : dropTiles x0 s = (r, s')) : Keeps abortParts ([Area.reg 0x20008] ++ abortAreas) s s' := by
  have := dropTiles_keeps x0 s
  rw [hr] at this
  exact this

theorem releaseTokens_keeps (l h : Nat) (s : State) :
    Keeps abortParts ([Area.reg 0x20008] ++ abortAreas) s (releaseTokens l h s) := by
  unfold releaseTokens
  repeat' first
    | (with_reducible apply Within.of_all; decide)
    | (with_reducible apply Covers.of_all; decide)
    | with_reducible exact Keeps.refl _ _ _
    | with_reducible apply Keeps.via (modHalf_keeps _ _ _ _)
    | with_reducible apply Keeps.via (dropTiles_keeps _ _)
    | (with_reducible refine Keeps.foldlSnd ?_ (fun _ _ => ?_))
    | split

theorem finishTally_keeps (l h : Nat) (s : State) :
    Keeps abortParts ([Area.reg 0x20008, Area.reg 0x41018] ++ abortAreas) s (finishTally l h s) := by
  unfold finishTally
  repeat' first
    | (with_reducible apply Within.of_all; decide)
    | (with_reducible apply Covers.of_all; decide)
    | with_reducible exact Keeps.refl _ _ _
    | with_reducible apply Keeps.via (modHalf_keeps _ _ _ _)
    | with_reducible apply Keeps.via (traceTile_keeps _ _ _ _ _ _ _ _ _)
    | with_reducible apply Keeps.via (bump_keeps _ _ _)
    | with_reducible apply Keeps.via (modRun_keeps _ _)
    | with_reducible apply Keeps.via (setPhase_keeps _ _ _ _)
    | with_reducible apply Keeps.via (releaseTokens_keeps _ _ _)
    | (with_reducible refine Keeps.ite (fun _ => ?_) (fun _ => ?_))
    | (with_reducible refine Keeps.foldl ?_ (fun _ _ => ?_))
    | split

theorem nextTrip_keeps (l h : Nat) (s : State) :
    Keeps [.trace, .halves] [] s (nextTrip l h s) := by
  unfold nextTrip
  repeat' first
    | (with_reducible apply Within.of_all; decide)
    | (with_reducible apply Covers.of_all; decide)
    | with_reducible exact Keeps.refl _ _ _
    | with_reducible apply Keeps.via (modHalf_keeps _ _ _ _)
    | with_reducible apply Keeps.via (setPhase_keeps _ _ _ _)

theorem afterFates_keeps (l h : Nat) (s : State) :
    Keeps abortParts ([Area.reg 0x20008, Area.reg 0x41018] ++ abortAreas) s (afterFates l h s) := by
  unfold afterFates
  repeat' first
    | (with_reducible apply Within.of_all; decide)
    | (with_reducible apply Covers.of_all; decide)
    | with_reducible exact Keeps.refl _ _ _
    | with_reducible apply Keeps.via (contribute_keeps _ _ _ _ _)
    | with_reducible apply Keeps.via (setPhase_keeps _ _ _ _)
    | with_reducible apply Keeps.via (finishTally_keeps _ _ _)
    | with_reducible apply Keeps.via (nextTrip_keeps _ _ _)
    | (with_reducible refine Keeps.ite (fun _ => ?_) (fun _ => ?_))
    | split

theorem writeFates_keeps (l h : Nat) (s : State) :
    Keeps abortParts ([Area.reg 0x20008, Area.reg 0x41010, Area.reg 0x41014, Area.reg 0x41018] ++ abortAreas) s (writeFates l h s) := by
  unfold writeFates
  repeat' first
    | (with_reducible apply Within.of_all; decide)
    | (with_reducible apply Covers.of_all; decide)
    | with_reducible exact Keeps.refl _ _ _
    | with_reducible apply Keeps.via (modHalf_keeps _ _ _ _)
    | with_reducible apply Keeps.via (bump_keeps _ _ _)
    | with_reducible apply Keeps.via (modRun_keeps _ _)
    | with_reducible apply Keeps.via (setPhase_keeps _ _ _ _)
    | with_reducible apply Keeps.via (makeLoans_keeps _ _ _)
    | with_reducible apply Keeps.via (afterFates_keeps _ _ _)
    | split

theorem tryFates_keeps (l h : Nat) (s : State) :
    Keeps abortParts ([Area.reg 0x20008, Area.reg 0x41010, Area.reg 0x41014, Area.reg 0x41018] ++ abortAreas) s (tryFates l h s) := by
  unfold tryFates
  repeat' first
    | (with_reducible apply Within.of_all; decide)
    | (with_reducible apply Covers.of_all; decide)
    | with_reducible exact Keeps.refl _ _ _
    | with_reducible apply Keeps.via (setPhase_keeps _ _ _ _)
    | with_reducible apply Keeps.via (finishTally_keeps _ _ _)
    | with_reducible apply Keeps.via (writeFates_keeps _ _ _)
    | (with_reducible refine Keeps.ite (fun _ => ?_) (fun _ => ?_))
    | split

theorem putHome_keeps (x : HomeTally) (s : State) :
    Keeps [.homes] [] s (putHome x s) := by
  unfold putHome
  repeat' first
    | (simp only [Keeps.toMk]; first | with_reducible apply KeepsMk.set_homes)
    | (with_reducible apply Within.of_all; decide)
    | with_reducible exact Keeps.refl _ _ _

theorem sendGrants_keeps (l h t : Nat) (origins : List Nat) (gs : List (Nat × Nat)) (s : State) :
    Keeps [.out, .quarUndelivered, .halves, .fep] [] s (sendGrants l h t origins gs s) := by
  unfold sendGrants
  repeat' first
    | (with_reducible apply Within.of_all; decide)
    | (with_reducible apply Covers.of_all; decide)
    | with_reducible exact Keeps.refl _ _ _
    | with_reducible apply Keeps.via (sendTally_keeps _ _ _ _ _ _ _ _)
    | (with_reducible refine Keeps.foldl ?_ (fun _ _ => ?_))

theorem sendNotices_keeps (l h t : Nat) (us : List (Nat × Nat × Nat)) (s : State) :
    Keeps [.out, .quarUndelivered, .halves, .fep] [] s (sendNotices l h t us s) := by
  unfold sendNotices
  repeat' first
    | (with_reducible apply Within.of_all; decide)
    | (with_reducible apply Covers.of_all; decide)
    | with_reducible exact Keeps.refl _ _ _
    | with_reducible apply Keeps.via (sendTally_keeps _ _ _ _ _ _ _ _)
    | (with_reducible refine Keeps.foldl ?_ (fun _ _ => ?_))

theorem addDemand_keeps (e n : Nat) (s : State) :
    Keeps [.demand] [] s (addDemand e n s) := by
  unfold addDemand
  repeat' first
    | (simp only [Keeps.toMk]; first | with_reducible apply KeepsMk.set_demand)
    | (with_reducible apply Within.of_all; decide)
    | with_reducible exact Keeps.refl _ _ _

theorem decideHome_keeps (l h t : Nat) (s : State) :
    Keeps [.out, .demand, .quarUndelivered, .halves, .homes, .fep] [] s (decideHome l h t s) := by
  unfold decideHome
  repeat' first
    | (with_reducible apply Within.of_all; decide)
    | (with_reducible apply Covers.of_all; decide)
    | with_reducible exact Keeps.refl _ _ _
    | with_reducible apply Keeps.via (putHome_keeps _ _)
    | with_reducible apply Keeps.via (sendGrants_keeps _ _ _ _ _ _)
    | with_reducible apply Keeps.via (sendNotices_keeps _ _ _ _ _)
    | with_reducible apply Keeps.via (addDemand_keeps _ _ _)
    | (with_reducible refine Keeps.ite (fun _ => ?_) (fun _ => ?_))
    | (with_reducible refine Keeps.foldl ?_ (fun _ _ => ?_))

theorem decideOrigin_keeps (l h t o : Nat) (s : State) :
    Keeps [.out, .quarUndelivered, .halves, .homes, .fep] [] s (decideOrigin l h t o s) := by
  unfold decideOrigin
  repeat' first
    | (with_reducible apply Within.of_all; decide)
    | (with_reducible apply Covers.of_all; decide)
    | with_reducible exact Keeps.refl _ _ _
    | with_reducible apply Keeps.via (putHome_keeps _ _)
    | with_reducible apply Keeps.via (sendGrants_keeps _ _ _ _ _ _)
    | split
    | (dsimp -proj only)

theorem notePeak_keeps (s : State) :
    Keeps [.latched] [] s (notePeak s) := by
  unfold notePeak
  repeat' first
    | (simp only [Keeps.toMk]; first | with_reducible apply KeepsMk.set_latched)
    | (with_reducible apply Within.of_all; decide)
    | with_reducible exact Keeps.refl _ _ _

theorem tallyReport_keeps (src : Nat) (m : Bytes) (errs : Errs) (s0 : State) :
    Keeps ([Part.mem, Part.latched, Part.rlog, Part.mgmtNext, Part.note, Part.quarUndelivered, Part.cadRefetch] ++ abortParts) ([Area.reg 0x8, Area.reg 0x20008, Area.reg 0x20080, Area.reg 0x20084, Area.reg 0x20088, Area.reg 0x30030, Area.reg 0x31038, Area.reg 0x41008, Area.reg 0xA0008, Area.station] ++ noteAreas ++ abortAreas) s0 (tallyReport src m errs s0) := by
  unfold tallyReport
  repeat' first
    | (with_reducible apply Within.of_all; decide)
    | (with_reducible apply Covers.of_all; decide)
    | with_reducible exact Keeps.refl _ _ _
    | with_reducible apply Keeps.via (raiseAborts_keeps _ _ _)
    | with_reducible apply Keeps.via (takeErrors_keeps _ _)
    | with_reducible apply Keeps.via (putHome_keeps _ _)
    | with_reducible apply Keeps.via (decideOrigin_keeps _ _ _ _ _)
    | with_reducible apply Keeps.via (notePeak_keeps _)
    | (with_reducible refine Keeps.ite (fun _ => ?_) (fun _ => ?_))

theorem decideWaiting_keeps (l : Nat) (s : State) :
    Keeps [.out, .quarUndelivered, .halves, .homes, .fep] [] s (decideWaiting l s) := by
  unfold decideWaiting
  repeat' first
    | (with_reducible apply Within.of_all; decide)
    | (with_reducible apply Covers.of_all; decide)
    | with_reducible exact Keeps.refl _ _ _
    | with_reducible apply Keeps.via (decideOrigin_keeps _ _ _ _ _)
    | (with_reducible refine Keeps.foldl ?_ (fun _ _ => ?_))

theorem tallyClose_keeps (l h : Nat) (errs : Errs) (s0 : State) :
    Keeps ([Part.mem, Part.rlog, Part.mgmtNext, Part.note, Part.demand, Part.quarUndelivered, Part.cadRefetch] ++ abortParts) ([Area.reg 0x8, Area.reg 0x20008, Area.reg 0x20080, Area.reg 0x20084, Area.reg 0x20088, Area.reg 0x30030, Area.reg 0x31038, Area.reg 0x41010, Area.reg 0x41014, Area.reg 0x41018, Area.reg 0xA0008, Area.station] ++ noteAreas ++ abortAreas) s0 (tallyClose l h errs s0) := by
  unfold tallyClose
  repeat' first
    | (with_reducible apply Within.of_all; decide)
    | (with_reducible apply Covers.of_all; decide)
    | with_reducible exact Keeps.refl _ _ _
    | with_reducible apply Keeps.via (traceEvent_keeps _ _ _ _)
    | with_reducible apply Keeps.via (takeErrors_keeps _ _)
    | with_reducible apply Keeps.via (modTally_keeps _ _ _ _)
    | with_reducible apply Keeps.via (tryFates_keeps _ _ _)
    | with_reducible apply Keeps.via (decideHome_keeps _ _ _ _)
    | with_reducible apply Keeps.via (decideWaiting_keeps _ _)
    | (with_reducible refine Keeps.ite (fun _ => ?_) (fun _ => ?_))
    | split
    | (dsimp -proj only)

theorem tallyGrant_keeps (src : Nat) (m : Bytes) (errs : Errs) (s0 : State) :
    Keeps ([Part.mem, Part.rlog, Part.mgmtNext, Part.note, Part.cadRefetch] ++ abortParts) ([Area.reg 0x8, Area.reg 0x20008, Area.reg 0x20080, Area.reg 0x20084, Area.reg 0x20088, Area.reg 0x30030, Area.reg 0x31038, Area.reg 0x41008, Area.reg 0x41010, Area.reg 0x41014, Area.reg 0x41018, Area.reg 0xA0008, Area.station] ++ noteAreas ++ abortAreas) s0 (tallyGrant src m errs s0) := by
  unfold tallyGrant
  repeat' first
    | (with_reducible apply Within.of_all; decide)
    | (with_reducible apply Covers.of_all; decide)
    | with_reducible exact Keeps.refl _ _ _
    | with_reducible apply Keeps.via (raiseAborts_keeps _ _ _)
    | with_reducible apply Keeps.via (takeErrors_keeps _ _)
    | with_reducible apply Keeps.via (modTally_keeps _ _ _ _)
    | with_reducible apply Keeps.via (tryFates_keeps _ _ _)
    | (with_reducible refine Keeps.ite (fun _ => ?_) (fun _ => ?_))

theorem tripAgreement_keeps (l h value : Nat) (s : State) :
    Keeps ([Part.latched] ++ abortParts) ([Area.reg 0x20008, Area.reg 0x41018] ++ abortAreas) s (tripAgreement l h value s) := by
  unfold tripAgreement
  repeat' first
    | (simp only [Keeps.toMk]; first | with_reducible apply KeepsMk.set_latched)
    | (with_reducible apply Within.of_all; decide)
    | (with_reducible apply Covers.of_all; decide)
    | with_reducible exact Keeps.refl _ _ _
    | with_reducible apply Keeps.via (traceEvent_keeps _ _ _ _)
    | with_reducible apply Keeps.via (modRun_keeps _ _)
    | with_reducible apply Keeps.via (modTally_keeps _ _ _ _)
    | with_reducible apply Keeps.via (finishTally_keeps _ _ _)
    | with_reducible apply Keeps.via (nextTrip_keeps _ _ _)
    | (with_reducible refine Keeps.ite (fun _ => ?_) (fun _ => ?_))
    | split

theorem tallyTimeout_keeps (s : State) :
    Keeps abortParts ([Area.reg 0x41008] ++ abortAreas) s (tallyTimeout s) := by
  unfold tallyTimeout
  repeat' first
    | (with_reducible apply Within.of_all; decide)
    | (with_reducible apply Covers.of_all; decide)
    | with_reducible exact Keeps.refl _ _ _
    | with_reducible apply Keeps.via (raiseAborts_keeps _ _ _)
    | (with_reducible refine Keeps.ite (fun _ => ?_) (fun _ => ?_))

end Sys2Proof.Machine
end

