-- ==== Sys2Proof/Laws/FramesSort.lean ====
section
/-! SUPPORT. What each operation of Machine/Sort.lean changes: the parts of the state and the registers, and that it keeps the
invariant. -/
namespace Sys2Proof.Machine
open Sys2Proof

theorem bucketMapBuild_keeps (l : Nat) (errs : Errs) (s0 : State) :
    Keeps ([Part.mem, Part.rlog, Part.mgmtNext, Part.note, Part.cadRefetch] ++ abortParts) ([Area.reg 0x8, Area.reg 0x20008, Area.reg 0x20080, Area.reg 0x20084, Area.reg 0x20088, Area.reg 0x30030, Area.reg 0x31038, Area.reg 0xA0008, Area.station] ++ noteAreas ++ abortAreas) s0 (bucketMapBuild l errs s0) := by
  unfold bucketMapBuild
  repeat' first
    | (simp only [Keeps.toMk]; first | with_reducible apply KeepsMk.set_bucketMaps_chipHist_sortCounters)
    | (with_reducible apply Within.of_all; decide)
    | (with_reducible apply Covers.of_all; decide)
    | with_reducible exact Keeps.refl _ _ _
    | with_reducible apply Keeps.via (takeErrors_keeps _ _)
    | (with_reducible refine Keeps.ite (fun _ => ?_) (fun _ => ?_))
    | split
    | (dsimp -proj only)

theorem sortStart_keeps (l h : Nat) (errs : Errs) (s0 : State) :
    Keeps ([Part.mem, Part.rlog, Part.mgmtNext, Part.note, Part.cadRefetch] ++ abortParts) ([Area.reg 0x8, Area.reg 0x20008, Area.reg 0x20080, Area.reg 0x20084, Area.reg 0x20088, Area.reg 0x30030, Area.reg 0x31038, Area.reg 0x50000, Area.reg 0xA0008, Area.station] ++ noteAreas ++ abortAreas) s0 (sortStart l h errs s0) := by
  unfold sortStart
  repeat' first
    | (simp only [Keeps.toMk]; first | with_reducible apply KeepsMk.set_sortCounters)
    | (with_reducible apply Within.of_all; decide)
    | (with_reducible apply Covers.of_all; decide)
    | with_reducible exact Keeps.refl _ _ _
    | with_reducible apply Keeps.via (modHalf_keeps _ _ _ _)
    | with_reducible apply Keeps.via (setField_keeps _ _ _ _ _)
    | with_reducible apply Keeps.via (takeErrors_keeps _ _)
    | (with_reducible refine Keeps.ite (fun _ => ?_) (fun _ => ?_))
    | split
    | (dsimp -proj only)

theorem sortPhaseEnd_keeps (l h : Nat) (errs : Errs) (s0 : State) :
    Keeps ([Part.mem, Part.rlog, Part.mgmtNext, Part.note, Part.cadRefetch] ++ abortParts) ([Area.reg 0x8, Area.reg 0x20008, Area.reg 0x20080, Area.reg 0x20084, Area.reg 0x20088, Area.reg 0x30030, Area.reg 0x31038, Area.reg 0x50010, Area.reg 0xA0008, Area.station] ++ noteAreas ++ abortAreas) s0 (sortPhaseEnd l h errs s0) := by
  unfold sortPhaseEnd
  repeat' first
    | (simp only [Keeps.toMk]; first | with_reducible apply KeepsMk.set_sortCounters)
    | (with_reducible apply Within.of_all; decide)
    | (with_reducible apply Covers.of_all; decide)
    | with_reducible exact Keeps.refl _ _ _
    | with_reducible apply Keeps.via (modHalf_keeps _ _ _ _)
    | with_reducible apply Keeps.via (bump_keeps _ _ _)
    | with_reducible apply Keeps.via (allocMany_keeps_eq (by assumption))
    | with_reducible apply Keeps.via (takeErrors_keeps _ _)
    | (with_reducible refine Keeps.ite (fun _ => ?_) (fun _ => ?_))
    | split
    | (dsimp -proj only)

theorem dropEntries_keeps (x0 : Nat) (x1 : List Segment) (s : State) :
    Keeps abortParts ([Area.reg 0x20008] ++ abortAreas) s (dropEntries x0 x1 s).2 := by
  induction x1 generalizing x0 s with
  | nil => exact Keeps.refl _ _ _
  | cons y ys ih =>
    unfold dropEntries
    repeat' first
      | (with_reducible apply Within.of_all; decide)
      | (with_reducible apply Covers.of_all; decide)
      | with_reducible exact Keeps.refl _ _ _
      | with_reducible apply Keeps.via (releaseOpt_keeps _ _)
      | with_reducible apply Keeps.via (ih _ _)
      | split

theorem dropEntries_keeps_eq  {x0 : Nat} {x1 : List Segment} {s : State} {s' : State} {r : List Segment}
    (hr : dropEntries x0 x1 s = (r, s')) : Keeps abortParts ([Area.reg 0x20008] ++ abortAreas) s s' := by
  have := dropEntries_keeps x0 x1 s
  rw [hr] at this
  exact this

theorem pushGroup_keeps (l h : Nat) (g : GroupPkt) (s : State) :
    Keeps [.halves] [] s (pushGroup l h g s) := by
  unfold pushGroup
  repeat' first
    | (with_reducible apply Within.of_all; decide)
    | (with_reducible apply Covers.of_all; decide)
    | with_reducible exact Keeps.refl _ _ _
    | with_reducible apply Keeps.via (modHalf_keeps _ _ _ _)

theorem takeEntries_keeps (l h n : Nat) (ended : Bool) (s : State) :
    Keeps abortParts ([Area.reg 0x20008] ++ abortAreas) s (takeEntries l h n ended s) := by
  unfold takeEntries
  repeat' first
    | (with_reducible apply Within.of_all; decide)
    | (with_reducible apply Covers.of_all; decide)
    | with_reducible exact Keeps.refl _ _ _
    | with_reducible apply Keeps.via (modHalf_keeps _ _ _ _)
    | with_reducible apply Keeps.via (dropEntries_keeps _ _ _)
    | with_reducible apply Keeps.via (releaseTokens_keeps _ _ _)
    | (with_reducible refine Keeps.ite (fun _ => ?_) (fun _ => ?_))
    | split

theorem writeGroup_keeps (l h : Nat) (x : Half) (b : Block) (ts : List Tile) (e : ListEntry) (rest : List ListEntry) (r : LayerRec) (s : State) :
    Keeps abortParts ([Area.reg 0x20008, Area.reg 0x50014, Area.reg 0x50018, Area.reg 0x5001C, Area.reg 0x50020] ++ abortAreas) s (writeGroup l h x b ts e rest r s) := by
  unfold writeGroup
  repeat' first
    | (with_reducible apply Within.of_all; decide)
    | (with_reducible apply Covers.of_all; decide)
    | with_reducible exact Keeps.refl _ _ _
    | with_reducible apply Keeps.via (raiseRefs_keeps _ _ _ _)
    | with_reducible apply Keeps.via (bump_keeps _ _ _)
    | with_reducible apply Keeps.via (alloc_keeps_eq (by assumption))
    | with_reducible apply Keeps.via (pushGroup_keeps _ _ _ _)
    | with_reducible apply Keeps.via (takeEntries_keeps _ _ _ _ _)
    | split
    | (dsimp -proj only)

theorem groupWrite_keeps (l h : Nat) (errs : Errs) (s0 : State) :
    Keeps ([Part.mem, Part.rlog, Part.mgmtNext, Part.note, Part.cadRefetch] ++ abortParts) ([Area.reg 0x8, Area.reg 0x20008, Area.reg 0x20080, Area.reg 0x20084, Area.reg 0x20088, Area.reg 0x30030, Area.reg 0x31038, Area.reg 0x50014, Area.reg 0x50018, Area.reg 0x5001C, Area.reg 0x50020, Area.reg 0xA0008, Area.station] ++ noteAreas ++ abortAreas) s0 (groupWrite l h errs s0) := by
  unfold groupWrite
  repeat' first
    | (with_reducible apply Within.of_all; decide)
    | (with_reducible apply Covers.of_all; decide)
    | with_reducible exact Keeps.refl _ _ _
    | with_reducible apply Keeps.via (pushGroup_keeps _ _ _ _)
    | with_reducible apply Keeps.via (takeEntries_keeps _ _ _ _ _)
    | with_reducible apply Keeps.via (writeGroup_keeps _ _ _ _ _ _ _ _ _)
    | with_reducible apply Keeps.via (takeErrors_keeps _ _)
    | (with_reducible refine Keeps.ite (fun _ => ?_) (fun _ => ?_))
    | split
    | (dsimp -proj only)

end Sys2Proof.Machine
end

