-- ==== Sys2Proof/Laws/FramesExchange.lean ====
section
/-! SUPPORT. What each operation of Machine/Exchange.lean changes: the parts of the state and the registers, and that it keeps the
invariant. -/
namespace Sys2Proof.Machine
open Sys2Proof

theorem modTPort_keeps (n : Nat) (f : TPort → TPort) (s : State) :
    Keeps [.tports] [] s (modTPort n f s) := by
  unfold modTPort
  repeat' first
    | (simp only [Keeps.toMk]; first | with_reducible apply KeepsMk.set_tports)
    | (with_reducible apply Within.of_all; decide)
    | with_reducible exact Keeps.refl _ _ _
    | exact fun h => (length_modifyAt _ _ _).trans h

theorem handRows_keeps (b : Bytes) (s : State) :
    Keeps [.handed] [.reg 0x80044] s (handRows b s) := by
  unfold handRows
  repeat' first
    | (simp only [Keeps.toMk]; first | with_reducible apply KeepsMk.set_handed)
    | (with_reducible apply Within.of_all; decide)
    | (with_reducible apply Covers.of_all; decide)
    | with_reducible exact Keeps.refl _ _ _
    | with_reducible apply Keeps.via (bump_keeps _ _ _)
    | (with_reducible refine Keeps.ite (fun _ => ?_) (fun _ => ?_))

theorem giveTile_keeps (n : Nat) (expertIn : Bool) (b : Bytes) (buf : Option (Nat × Nat)) (s : State) :
    Keeps [.out, .tports, .handed] [.reg 0x80044] s (giveTile n expertIn b buf s) := by
  unfold giveTile
  repeat' first
    | (with_reducible apply Within.of_all; decide)
    | (with_reducible apply Covers.of_all; decide)
    | with_reducible exact Keeps.refl _ _ _
    | with_reducible apply Keeps.via (modTPort_keeps _ _ _)
    | with_reducible apply Keeps.via (handRows_keeps _ _)
    | with_reducible apply Keeps.via (emitOut_keeps _ _)

theorem handTile_keeps (n : Nat) (expertIn : Bool) (b : Bytes) (buf : Option (Nat × Nat)) (s : State) :
    Keeps [.out, .tports, .handed] [.reg 0x80044] s (handTile n expertIn b buf s) := by
  unfold handTile
  repeat' first
    | (with_reducible apply Within.of_all; decide)
    | (with_reducible apply Covers.of_all; decide)
    | with_reducible exact Keeps.refl _ _ _
    | with_reducible apply Keeps.via (modTPort_keeps _ _ _)
    | with_reducible apply Keeps.via (giveTile_keeps _ _ _ _ _)
    | (with_reducible refine Keeps.ite (fun _ => ?_) (fun _ => ?_))

theorem portCredit_keeps (n : Nat) (s : State) :
    Keeps abortParts ([Area.reg 0x20008, Area.reg 0x80044] ++ abortAreas) s (portCredit n s) := by
  unfold portCredit
  repeat' first
    | (with_reducible apply Within.of_all; decide)
    | (with_reducible apply Covers.of_all; decide)
    | with_reducible exact Keeps.refl _ _ _
    | with_reducible apply Keeps.via (modTPort_keeps _ _ _)
    | with_reducible apply Keeps.via (giveTile_keeps _ _ _ _ _)
    | with_reducible apply Keeps.via (releaseOpt_keeps _ _)
    | split
    | (dsimp -proj only)

theorem sendReturn_keeps (origin : Nat) (b : Bytes) (tie : Tie) (s : State) :
    Keeps ([Part.quarUndelivered] ++ abortParts) ([Area.reg 0x20008] ++ abortAreas) s (sendReturn origin b tie s) := by
  unfold sendReturn
  repeat' first
    | (with_reducible apply Within.of_all; decide)
    | (with_reducible apply Covers.of_all; decide)
    | with_reducible exact Keeps.refl _ _ _
    | with_reducible apply Keeps.via (send_keeps _ _)

theorem sendNotice_keeps (kind e tag : Nat) (s : State) :
    Keeps [.out, .fep] [.reg 0x80038] s (sendNotice kind e tag s) := by
  unfold sendNotice
  repeat' first
    | (with_reducible apply Within.of_all; decide)
    | (with_reducible apply Covers.of_all; decide)
    | with_reducible exact Keeps.refl _ _ _
    | with_reducible apply Keeps.via (post_keeps _ _)
    | with_reducible apply Keeps.via (bump_keeps _ _ _)
    | (with_reducible refine Keeps.ite (fun _ => ?_) (fun _ => ?_))

theorem putLoan_keeps (l h slot krank : Nat) (v : Loan) (s : State) :
    Keeps [.halves] [] s (putLoan l h slot krank v s) := by
  unfold putLoan
  repeat' first
    | (with_reducible apply Within.of_all; decide)
    | (with_reducible apply Covers.of_all; decide)
    | with_reducible exact Keeps.refl _ _ _
    | with_reducible apply Keeps.via (modHalf_keeps _ _ _ _)

theorem loseMember_keeps (s : State) :
    Keeps abortParts abortAreas s (loseMember s) := by
  unfold loseMember
  repeat' first
    | (with_reducible apply Within.of_all; decide)
    | (with_reducible apply Covers.of_all; decide)
    | with_reducible exact Keeps.refl _ _ _
    | with_reducible apply Keeps.via (raiseAborts_keeps _ _ _)
    | with_reducible apply Keeps.via (modRun_keeps _ _)
    | (with_reducible refine Keeps.ite (fun _ => ?_) (fun _ => ?_))

theorem loseLoan_keeps (l h slot krank : Nat) (v : Loan) (s : State) :
    Keeps abortParts ([Area.reg 0x20008] ++ abortAreas) s (loseLoan l h slot krank v s) := by
  unfold loseLoan
  repeat' first
    | (with_reducible apply Within.of_all; decide)
    | (with_reducible apply Covers.of_all; decide)
    | with_reducible exact Keeps.refl _ _ _
    | with_reducible apply Keeps.via (putLoan_keeps _ _ _ _ _ _)
    | with_reducible apply Keeps.via (release_keeps _ _ _)
    | with_reducible apply Keeps.via (traceEvent_keeps _ _ _ _)

theorem popGroup_keeps (l h : Nat) (s : State) :
    Keeps [.halves] [] s (popGroup l h s) := by
  unfold popGroup
  repeat' first
    | (with_reducible apply Within.of_all; decide)
    | (with_reducible apply Covers.of_all; decide)
    | with_reducible exact Keeps.refl _ _ _
    | with_reducible apply Keeps.via (modHalf_keeps _ _ _ _)

theorem lendMember_keeps (l h : Nat) (g : GroupPkt) (buf : Nat × Nat) (m : Nat × Nat) (s : State) :
    Keeps abortParts ([Area.reg 0x20008] ++ abortAreas) s (lendMember l h g buf m s) := by
  unfold lendMember
  repeat' first
    | (with_reducible apply Within.of_all; decide)
    | (with_reducible apply Covers.of_all; decide)
    | with_reducible exact Keeps.refl _ _ _
    | with_reducible apply Keeps.via (putLoan_keeps _ _ _ _ _ _)
    | with_reducible apply Keeps.via (release_keeps _ _ _)
    | split
    | (dsimp -proj only)

theorem dropMember_keeps (l h : Nat) (g : GroupPkt) (buf : Nat × Nat) (m : Nat × Nat) (s : State) :
    Keeps abortParts ([Area.reg 0x20008, Area.reg 0x80038] ++ abortAreas) s (dropMember l h g buf m s) := by
  unfold dropMember
  repeat' first
    | (with_reducible apply Within.of_all; decide)
    | (with_reducible apply Covers.of_all; decide)
    | with_reducible exact Keeps.refl _ _ _
    | with_reducible apply Keeps.via (loseLoan_keeps _ _ _ _ _ _)
    | with_reducible apply Keeps.via (release_keeps _ _ _)
    | with_reducible apply Keeps.via (bump_keeps _ _ _)
    | (with_reducible refine Keeps.ite (fun _ => ?_) (fun _ => ?_))
    | split

theorem countAgain_keeps (g : GroupPkt) (s : State) :
    Keeps [.run] [.reg 0x60090] s (countAgain g s) := by
  unfold countAgain
  repeat' first
    | (with_reducible apply Within.of_all; decide)
    | (with_reducible apply Covers.of_all; decide)
    | with_reducible exact Keeps.refl _ _ _
    | with_reducible apply Keeps.via (bump_keeps _ _ _)
    | with_reducible apply Keeps.via (modRun_keeps _ _)
    | (with_reducible refine Keeps.ite (fun _ => ?_) (fun _ => ?_))

theorem sendGroup_keeps (l h : Nat) (errs : Errs) (s0 : State) :
    Keeps ([Part.mem, Part.rlog, Part.mgmtNext, Part.note, Part.cadRefetch] ++ abortParts) ([Area.reg 0x8, Area.reg 0x20008, Area.reg 0x20080, Area.reg 0x20084, Area.reg 0x20088, Area.reg 0x30030, Area.reg 0x31038, Area.reg 0x60090, Area.reg 0x80038, Area.reg 0xA0008, Area.station] ++ noteAreas ++ abortAreas) s0 (sendGroup l h errs s0) := by
  unfold sendGroup
  repeat' first
    | (with_reducible apply Within.of_all; decide)
    | (with_reducible apply Covers.of_all; decide)
    | with_reducible exact Keeps.refl _ _ _
    | with_reducible apply Keeps.via (loseMember_keeps _)
    | with_reducible apply Keeps.via (popGroup_keeps _ _ _)
    | with_reducible apply Keeps.via (lendMember_keeps _ _ _ _ _ _)
    | with_reducible apply Keeps.via (dropMember_keeps _ _ _ _ _ _)
    | with_reducible apply Keeps.via (countAgain_keeps _ _)
    | with_reducible apply Keeps.via (post_keeps _ _)
    | with_reducible apply Keeps.via (release_keeps _ _ _)
    | with_reducible apply Keeps.via (takeErrors_keeps _ _)
    | with_reducible apply Keeps.via (makeLoans_keeps _ _ _)
    | (with_reducible refine Keeps.ite (fun _ => ?_) (fun _ => ?_))
    | (with_reducible refine Keeps.foldl ?_ (fun _ _ => ?_))
    | split
    | (dsimp -proj only)

theorem modFeed_keeps (l h t e : Nat) (f : Feed → Feed) (s : State) :
    Keeps [.feeds] [] s (modFeed l h t e f s) := by
  unfold modFeed
  repeat' first
    | (simp only [Keeps.toMk]; first | with_reducible apply KeepsMk.set_feeds)
    | (with_reducible apply Within.of_all; decide)
    | with_reducible exact Keeps.refl _ _ _
    | (with_reducible refine Keeps.ite (fun _ => ?_) (fun _ => ?_))

theorem handTiles_keeps (n : Nat) (expertIn : Bool) (ts : List (Bytes × (Nat × Nat))) (s : State) :
    Keeps [.out, .tports, .handed] [.reg 0x80044] s (handTiles n expertIn ts s) := by
  unfold handTiles
  repeat' first
    | (with_reducible apply Within.of_all; decide)
    | (with_reducible apply Covers.of_all; decide)
    | with_reducible exact Keeps.refl _ _ _
    | with_reducible apply Keeps.via (handTile_keeps _ _ _ _ _)
    | (with_reducible refine Keeps.foldl ?_ (fun _ _ => ?_))

theorem feedTile_keeps (l h t e : Nat) (rows : List FeedRow) (lastBlock : Bool) (s : State) :
    Keeps abortParts ([Area.reg 0x20008, Area.reg 0x80044] ++ abortAreas) s (feedTile l h t e rows lastBlock s).2 := by
  unfold feedTile
  repeat' first
    | (with_reducible apply Within.of_all; decide)
    | (with_reducible apply Covers.of_all; decide)
    | with_reducible exact Keeps.refl _ _ _
    | with_reducible apply Keeps.via (handTiles_keeps _ _ _ _)
    | with_reducible apply Keeps.via (release_keeps _ _ _)
    | with_reducible apply Keeps.via (allocMany_keeps_eq (by assumption))
    | with_reducible apply Keeps.via (cancelRequests_keeps _ _)
    | (with_reducible refine Keeps.foldl ?_ (fun _ _ => ?_))
    | split
    | (dsimp -proj only)

theorem feedTile_keeps_eq {l h t e : Nat} {rows : List FeedRow} {lastBlock : Bool} {s : State} {s' : State} {r : Bool}
    (hr : feedTile l h t e rows lastBlock s = (r, s')) : Keeps abortParts ([Area.reg 0x20008, Area.reg 0x80044] ++ abortAreas) s s' := by
  have := feedTile_keeps l h t e rows lastBlock s
  rw [hr] at this
  exact this

theorem emptyTile_keeps (l h t e : Nat) (s : State) :
    Keeps [.out, .trace, .pools, .tports, .handed] [.reg 0x80044, .reg 0x80048] s (emptyTile l h t e s).2 := by
  unfold emptyTile
  repeat' first
    | (with_reducible apply Within.of_all; decide)
    | (with_reducible apply Covers.of_all; decide)
    | with_reducible exact Keeps.refl _ _ _
    | with_reducible apply Keeps.via (handTile_keeps _ _ _ _ _)
    | with_reducible apply Keeps.via (bump_keeps _ _ _)
    | with_reducible apply Keeps.via (alloc_keeps_eq (by assumption))
    | split
    | (dsimp -proj only)

theorem emptyTile_keeps_eq {l h t e : Nat} {s : State} {s' : State} {r : Bool}
    (hr : emptyTile l h t e s = (r, s')) : Keeps [.out, .trace, .pools, .tports, .handed] [.reg 0x80044, .reg 0x80048] s s' := by
  have := emptyTile_keeps l h t e s
  rw [hr] at this
  exact this

theorem writeRows_keeps (x0 : Nat) (x1 : Nat) (x2 : Nat) (x3 : Nat) (x4 : Nat) (x5 : Bool) (s : State) :
    Keeps abortParts ([Area.reg 0x20008, Area.reg 0x80044] ++ abortAreas) s (writeRows x0 x1 x2 x3 x4 x5 s) := by
  induction x0 generalizing x1 x2 x3 x4 x5 s with
  | zero => exact Keeps.refl _ _ _
  | succ n ih =>
    unfold writeRows
    repeat' first
      | (with_reducible apply Within.of_all; decide)
      | (with_reducible apply Covers.of_all; decide)
      | with_reducible exact Keeps.refl _ _ _
      | with_reducible apply Keeps.via (modFeed_keeps _ _ _ _ _ _)
      | with_reducible apply Keeps.via (feedTile_keeps_eq (by assumption))
      | with_reducible apply Keeps.via (ih _ _ _ _ _ _)
      | (with_reducible refine Keeps.ite (fun _ => ?_) (fun _ => ?_))
      | split
      | (dsimp -proj only)

theorem serveExpert_keeps (l h t e : Nat) (s : State) :
    Keeps abortParts ([Area.reg 0x20008, Area.reg 0x80044, Area.reg 0x80048] ++ abortAreas) s (serveExpert l h t e s) := by
  unfold serveExpert
  repeat' first
    | (with_reducible apply Within.of_all; decide)
    | (with_reducible apply Covers.of_all; decide)
    | with_reducible exact Keeps.refl _ _ _
    | with_reducible apply Keeps.via (modFeed_keeps _ _ _ _ _ _)
    | with_reducible apply Keeps.via (emptyTile_keeps_eq (by assumption))
    | with_reducible apply Keeps.via (writeRows_keeps _ _ _ _ _ _ _)
    | (with_reducible refine Keeps.ite (fun _ => ?_) (fun _ => ?_))
    | split

theorem takeMember_keeps (g : RxGroup) (m : Nat × Nat) (s : State) :
    Keeps abortParts ([Area.reg 0x8, Area.reg 0x20008, Area.reg 0x6008C, Area.reg 0x80038] ++ abortAreas) s (takeMember g m s) := by
  unfold takeMember
  repeat' first
    | (with_reducible apply Within.of_all; decide)
    | (with_reducible apply Covers.of_all; decide)
    | with_reducible exact Keeps.refl _ _ _
    | with_reducible apply Keeps.via (sendNotice_keeps _ _ _ _)
    | with_reducible apply Keeps.via (modFeed_keeps _ _ _ _ _ _)
    | with_reducible apply Keeps.via (raiseAborts_keeps _ _ _)
    | with_reducible apply Keeps.via (release_keeps _ _ _)
    | with_reducible apply Keeps.via (bump_keeps _ _ _)
    | (with_reducible refine Keeps.ite (fun _ => ?_) (fun _ => ?_))

theorem judgeAgain_keeps (g : RxGroup) (s : State) :
    Keeps abortParts ([Area.reg 0x8, Area.reg 0x20008, Area.reg 0x6008C, Area.reg 0x80038, Area.reg 0x80044] ++ abortAreas) s (judgeAgain g s) := by
  unfold judgeAgain
  repeat' first
    | (simp only [Keeps.toMk]; first | with_reducible apply KeepsMk.set_recv)
    | (with_reducible apply Within.of_all; decide)
    | (with_reducible apply Covers.of_all; decide)
    | with_reducible exact Keeps.refl _ _ _
    | with_reducible apply Keeps.via (sendNotice_keeps _ _ _ _)
    | with_reducible apply Keeps.via (modFeed_keeps _ _ _ _ _ _)
    | with_reducible apply Keeps.via (feedTile_keeps_eq (by assumption))
    | with_reducible apply Keeps.via (takeMember_keeps _ _ _)
    | with_reducible apply Keeps.via (release_keeps _ _ _)
    | (with_reducible refine Keeps.ite (fun _ => ?_) (fun _ => ?_))
    | split

theorem takeGroups_keeps (p : Nat × Nat × Nat) (s : State) :
    Keeps abortParts ([Area.reg 0x8, Area.reg 0x20008, Area.reg 0x6008C, Area.reg 0x80038] ++ abortAreas) s (takeGroups p s) := by
  unfold takeGroups
  repeat' first
    | (simp only [Keeps.toMk]; first | with_reducible apply KeepsMk.set_recv)
    | (with_reducible apply Within.of_all; decide)
    | (with_reducible apply Covers.of_all; decide)
    | with_reducible exact Keeps.refl _ _ _
    | with_reducible apply Keeps.via (takeMember_keeps _ _ _)
    | (with_reducible refine Keeps.ite (fun _ => ?_) (fun _ => ?_))
    | (with_reducible refine Keeps.foldl ?_ (fun _ _ => ?_))

theorem feedPump_keeps (x0 : Nat) (s : State) :
    Keeps abortParts ([Area.reg 0x8, Area.reg 0x20008, Area.reg 0x6008C, Area.reg 0x80038, Area.reg 0x80044, Area.reg 0x80048] ++ abortAreas) s (feedPump x0 s) := by
  induction x0 generalizing s with
  | zero => exact Keeps.refl _ _ _
  | succ n ih =>
    unfold feedPump
    repeat' first
      | (with_reducible apply Within.of_all; decide)
      | (with_reducible apply Covers.of_all; decide)
      | with_reducible exact Keeps.refl _ _ _
      | with_reducible apply Keeps.via (serveExpert_keeps _ _ _ _ _)
      | with_reducible apply Keeps.via (takeGroups_keeps _ _)
      | with_reducible apply Keeps.via (ih _)
      | (with_reducible refine Keeps.ite (fun _ => ?_) (fun _ => ?_))
      | (with_reducible refine Keeps.foldl ?_ (fun _ _ => ?_))
      | split

theorem runFeed_keeps (s : State) :
    Keeps abortParts ([Area.reg 0x8, Area.reg 0x20008, Area.reg 0x6008C, Area.reg 0x80038, Area.reg 0x80044, Area.reg 0x80048] ++ abortAreas) s (runFeed s) := by
  unfold runFeed
  repeat' first
    | (with_reducible apply Within.of_all; decide)
    | (with_reducible apply Covers.of_all; decide)
    | with_reducible exact Keeps.refl _ _ _
    | with_reducible apply Keeps.via (judgeAgain_keeps _ _)
    | with_reducible apply Keeps.via (feedPump_keeps _ _)
    | (with_reducible refine Keeps.ite (fun _ => ?_) (fun _ => ?_))
    | (with_reducible refine Keeps.foldl ?_ (fun _ _ => ?_))

theorem holdGroup_keeps (g : RxGroup) (s : State) :
    Keeps abortParts ([Area.reg 0x8, Area.reg 0x20008, Area.reg 0x6008C, Area.reg 0x80038, Area.reg 0x80044, Area.reg 0x80048] ++ abortAreas) s (holdGroup g s) := by
  unfold holdGroup
  repeat' first
    | (simp only [Keeps.toMk]; first | with_reducible apply KeepsMk.set_recv)
    | (with_reducible apply Within.of_all; decide)
    | (with_reducible apply Covers.of_all; decide)
    | with_reducible exact Keeps.refl _ _ _
    | with_reducible apply Keeps.via (sendNotice_keeps _ _ _ _)
    | with_reducible apply Keeps.via (modFeed_keeps _ _ _ _ _ _)
    | with_reducible apply Keeps.via (runFeed_keeps _)
    | with_reducible apply Keeps.via (release_keeps _ _ _)
    | with_reducible apply Keeps.via (bump_keeps _ _ _)
    | (with_reducible refine Keeps.ite (fun _ => ?_) (fun _ => ?_))
    | (with_reducible refine Keeps.foldl ?_ (fun _ _ => ?_))

theorem relayGroup_keeps (src : Nat) (b : Bytes) (buf : Nat × Nat) (s : State) :
    Keeps ([Part.quarUndelivered] ++ abortParts) ([Area.reg 0x20008, Area.reg 0x80038, Area.reg 0xC0008, Area.reg 0xC003C] ++ abortAreas) s (relayGroup src b buf s) := by
  unfold relayGroup
  repeat' first
    | (with_reducible apply Within.of_all; decide)
    | (with_reducible apply Covers.of_all; decide)
    | with_reducible exact Keeps.refl _ _ _
    | with_reducible apply Keeps.via (raiseAborts_keeps _ _ _)
    | with_reducible apply Keeps.via (release_keeps _ _ _)
    | with_reducible apply Keeps.via (send_keeps _ _)
    | with_reducible apply Keeps.via (bump_keeps _ _ _)
    | (with_reducible refine Keeps.ite (fun _ => ?_) (fun _ => ?_))

theorem takeGroup_keeps (src n : Nat) (b : Bytes) (buf : Nat × Nat) (s0 : State) :
    Keeps ([Part.quarUndelivered] ++ abortParts) ([Area.reg 0x8, Area.reg 0x20008, Area.reg 0x6008C, Area.reg 0x80038, Area.reg 0x80044, Area.reg 0x80048, Area.reg 0xC0008, Area.reg 0xC003C] ++ abortAreas) s0 (takeGroup src n b buf s0) := by
  unfold takeGroup
  repeat' first
    | (with_reducible apply Within.of_all; decide)
    | (with_reducible apply Covers.of_all; decide)
    | with_reducible exact Keeps.refl _ _ _
    | with_reducible apply Keeps.via (holdGroup_keeps _ _)
    | with_reducible apply Keeps.via (relayGroup_keeps _ _ _ _)
    | with_reducible apply Keeps.via (raiseAborts_keeps _ _ _)
    | with_reducible apply Keeps.via (release_keeps _ _ _)
    | with_reducible apply Keeps.via (raiseRefs_keeps _ _ _ _)
    | with_reducible apply Keeps.via (passLanded_keeps _ _ _)
    | (with_reducible refine Keeps.ite (fun _ => ?_) (fun _ => ?_))

theorem landGroup_keeps (src port step n : Nat) (b : Bytes) (s : State) :
    Keeps ([Part.quarUndelivered] ++ abortParts) ([Area.reg 0x8, Area.reg 0x20008, Area.reg 0x6008C, Area.reg 0x80038, Area.reg 0x80044, Area.reg 0x80048, Area.reg 0xC0008, Area.reg 0xC003C] ++ abortAreas) s (landGroup src port step n b s) := by
  unfold landGroup
  repeat' first
    | (with_reducible apply Within.of_all; decide)
    | (with_reducible apply Covers.of_all; decide)
    | with_reducible exact Keeps.refl _ _ _
    | with_reducible apply Keeps.via (takeGroup_keeps _ _ _ _ _)
    | with_reducible apply Keeps.via (raiseAborts_keeps _ _ _)
    | with_reducible apply Keeps.via (passLanded_keeps _ _ _)
    | with_reducible apply Keeps.via (bump_keeps _ _ _)
    | with_reducible apply Keeps.via (alloc_keeps_eq (by assumption))
    | (with_reducible refine Keeps.ite (fun _ => ?_) (fun _ => ?_))
    | split

theorem groupReceive_keeps (src port step : Nat) (m : Bytes) (errs : Errs) (s0 : State) :
    Keeps ([Part.mem, Part.rlog, Part.mgmtNext, Part.note, Part.quarUndelivered, Part.cadRefetch] ++ abortParts) ([Area.reg 0x8, Area.reg 0x20008, Area.reg 0x20080, Area.reg 0x20084, Area.reg 0x20088, Area.reg 0x30030, Area.reg 0x31038, Area.reg 0x6008C, Area.reg 0x80038, Area.reg 0x80044, Area.reg 0x80048, Area.reg 0xA0008, Area.reg 0xC0008, Area.reg 0xC003C, Area.station] ++ noteAreas ++ abortAreas) s0 (groupReceive src port step m errs s0) := by
  unfold groupReceive
  repeat' first
    | (with_reducible apply Within.of_all; decide)
    | (with_reducible apply Covers.of_all; decide)
    | with_reducible exact Keeps.refl _ _ _
    | with_reducible apply Keeps.via (landGroup_keeps _ _ _ _ _ _)
    | with_reducible apply Keeps.via (takeErrors_keeps _ _)

theorem replicaNotice_keeps (m : Bytes) (errs : Errs) (s0 : State) :
    Keeps ([Part.mem, Part.rlog, Part.mgmtNext, Part.note, Part.cadRefetch] ++ abortParts) ([Area.reg 0x8, Area.reg 0x20008, Area.reg 0x20080, Area.reg 0x20084, Area.reg 0x20088, Area.reg 0x30030, Area.reg 0x31038, Area.reg 0x41008, Area.reg 0x6008C, Area.reg 0x80038, Area.reg 0x80044, Area.reg 0x80048, Area.reg 0xA0008, Area.station] ++ noteAreas ++ abortAreas) s0 (replicaNotice m errs s0) := by
  unfold replicaNotice
  repeat' first
    | (with_reducible apply Within.of_all; decide)
    | (with_reducible apply Covers.of_all; decide)
    | with_reducible exact Keeps.refl _ _ _
    | with_reducible apply Keeps.via (modFeed_keeps _ _ _ _ _ _)
    | with_reducible apply Keeps.via (runFeed_keeps _)
    | with_reducible apply Keeps.via (raiseAborts_keeps _ _ _)
    | with_reducible apply Keeps.via (takeErrors_keeps _ _)
    | (with_reducible refine Keeps.ite (fun _ => ?_) (fun _ => ?_))
    | (with_reducible refine Keeps.foldl ?_ (fun _ _ => ?_))

theorem feedWait_keeps (port : Nat) (errs : Errs) (s0 : State) :
    Keeps ([Part.mem, Part.rlog, Part.mgmtNext, Part.note, Part.cadRefetch] ++ abortParts) ([Area.reg 0x8, Area.reg 0x20008, Area.reg 0x20080, Area.reg 0x20084, Area.reg 0x20088, Area.reg 0x30030, Area.reg 0x31038, Area.reg 0x6008C, Area.reg 0x80038, Area.reg 0x80044, Area.reg 0x80048, Area.reg 0xA0008, Area.station] ++ noteAreas ++ abortAreas) s0 (feedWait port errs s0) := by
  unfold feedWait
  repeat' first
    | (with_reducible apply Within.of_all; decide)
    | (with_reducible apply Covers.of_all; decide)
    | with_reducible exact Keeps.refl _ _ _
    | with_reducible apply Keeps.via (modFeed_keeps _ _ _ _ _ _)
    | with_reducible apply Keeps.via (feedTile_keeps_eq (by assumption))
    | with_reducible apply Keeps.via (runFeed_keeps _)
    | with_reducible apply Keeps.via (takeErrors_keeps _ _)
    | (with_reducible refine Keeps.ite (fun _ => ?_) (fun _ => ?_))
    | split
    | (dsimp -proj only)

theorem recallRow_keeps (e tag : Nat) (s : State) :
    Keeps [.out, .fep] [.reg 0x6008C, .reg 0x80038] s (recallRow e tag s) := by
  unfold recallRow
  repeat' first
    | (with_reducible apply Within.of_all; decide)
    | (with_reducible apply Covers.of_all; decide)
    | with_reducible exact Keeps.refl _ _ _
    | with_reducible apply Keeps.via (sendNotice_keeps _ _ _ _)
    | with_reducible apply Keeps.via (bump_keeps _ _ _)

theorem recallTiles_keeps (e : Nat) (s : State) :
    Keeps abortParts ([Area.reg 0x20008, Area.reg 0x6008C, Area.reg 0x80038] ++ abortAreas) s (recallTiles e s) := by
  unfold recallTiles
  repeat' first
    | (with_reducible apply Within.of_all; decide)
    | (with_reducible apply Covers.of_all; decide)
    | with_reducible exact Keeps.refl _ _ _
    | with_reducible apply Keeps.via (modTPort_keeps _ _ _)
    | with_reducible apply Keeps.via (recallRow_keeps _ _ _)
    | with_reducible apply Keeps.via (releaseOpt_keeps _ _)
    | (with_reducible refine Keeps.ite (fun _ => ?_) (fun _ => ?_))
    | (with_reducible refine Keeps.foldl ?_ (fun _ _ => ?_))

theorem recallHeld_keeps (e : Nat) (s0 : State) :
    Keeps abortParts ([Area.reg 0x20008, Area.reg 0x6008C, Area.reg 0x80038] ++ abortAreas) s0 (recallHeld e s0) := by
  unfold recallHeld
  repeat' first
    | (simp only [Keeps.toMk]; first | with_reducible apply KeepsMk.set_feeds | with_reducible apply KeepsMk.set_recv)
    | (with_reducible apply Within.of_all; decide)
    | (with_reducible apply Covers.of_all; decide)
    | with_reducible exact Keeps.refl _ _ _
    | with_reducible apply Keeps.via (recallRow_keeps _ _ _)
    | with_reducible apply Keeps.via (recallTiles_keeps _ _)
    | with_reducible apply Keeps.via (release_keeps _ _ _)
    | with_reducible apply Keeps.via (cancelRequests_keeps _ _)
    | (with_reducible refine Keeps.foldl ?_ (fun _ _ => ?_))

theorem applyQuarantine_keeps (q : Quarantine) (s : State) :
    Keeps [.mem, .note, .cad, .lst] noteAreas s (applyQuarantine q s) := by
  unfold applyQuarantine
  repeat' first
    | (with_reducible apply Within.of_all; decide)
    | (with_reducible apply Covers.of_all; decide)
    | with_reducible exact Keeps.refl _ _ _
    | with_reducible apply Keeps.via (quarantineSlot_keeps _ _ _)
    | with_reducible apply Keeps.via (notice_keeps _ _ _ _ _)

theorem keepQuarantine_keeps (q : Quarantine) (s : State) :
    Keeps [.mem, .note, .cad, .lst, .quarPending] noteAreas s (keepQuarantine q s) := by
  unfold keepQuarantine
  repeat' first
    | (simp only [Keeps.toMk]; first | with_reducible apply KeepsMk.set_quarPending)
    | (with_reducible apply Within.of_all; decide)
    | (with_reducible apply Covers.of_all; decide)
    | with_reducible exact Keeps.refl _ _ _
    | with_reducible apply Keeps.via (applyQuarantine_keeps _ _)
    | (with_reducible refine Keeps.ite (fun _ => ?_) (fun _ => ?_))

theorem cadQuarantine_keeps (value : Word32) (s : State) :
    Keeps ([Part.mem, Part.note, Part.cad, Part.lst, Part.quarPending, Part.quarUndelivered, Part.quarActing] ++ abortParts) ([Area.reg 0x8, Area.reg 0x20008, Area.reg 0x60008, Area.reg 0x6008C, Area.reg 0x80038, Area.reg 0x80044, Area.reg 0x80048] ++ noteAreas ++ abortAreas) s (cadQuarantine value s) := by
  unfold cadQuarantine
  repeat' first
    | (simp only [Keeps.toMk]; first | with_reducible apply KeepsMk.set_quarUndelivered | with_reducible apply KeepsMk.set_quarActing)
    | (with_reducible apply Within.of_all; decide)
    | (with_reducible apply Covers.of_all; decide)
    | with_reducible exact Keeps.refl _ _ _
    | with_reducible apply Keeps.via (runFeed_keeps _)
    | with_reducible apply Keeps.via (recallHeld_keeps _ _)
    | with_reducible apply Keeps.via (keepQuarantine_keeps _ _)
    | with_reducible apply Keeps.via (raiseAborts_keeps _ _ _)
    | with_reducible apply Keeps.via (sendAll_keeps _ _ _ _ _ _)
    | with_reducible apply Keeps.via (record_keeps _ _ _)
    | with_reducible apply Keeps.via (modRun_keeps _ _)
    | (with_reducible refine Keeps.ite (fun _ => ?_) (fun _ => ?_))

theorem quarantineNotice_keeps (src : Nat) (m : Bytes) (s : State) :
    Keeps [.mem, .note, .cad, .lst, .quarPending, .quarSeen] noteAreas s (quarantineNotice src m s) := by
  unfold quarantineNotice
  repeat' first
    | (simp only [Keeps.toMk]; first | with_reducible apply KeepsMk.set_quarSeen)
    | (with_reducible apply Within.of_all; decide)
    | (with_reducible apply Covers.of_all; decide)
    | with_reducible exact Keeps.refl _ _ _
    | with_reducible apply Keeps.via (keepQuarantine_keeps _ _)
    | (with_reducible refine Keeps.ite (fun _ => ?_) (fun _ => ?_))

end Sys2Proof.Machine
end

