-- ==== Sys2Proof/Laws/FramesCombine.lean ====
section
/-! SUPPORT. What each operation of Machine/Combine.lean changes: the parts of the state and the registers, and that it keeps the
invariant. -/
namespace Sys2Proof.Machine
open Sys2Proof

theorem staleRecord_keeps (tag : Nat) (buf : Nat × Nat) (s : State) :
    Keeps abortParts ([Area.reg 0x20008, Area.reg 0x8002C] ++ abortAreas) s (staleRecord tag buf s) := by
  unfold staleRecord
  repeat' first
    | (simp only [Keeps.toMk]; first | with_reducible apply KeepsMk.set_orphans)
    | (with_reducible apply Within.of_all; decide)
    | (with_reducible apply Covers.of_all; decide)
    | with_reducible exact Keeps.refl _ _ _
    | with_reducible apply Keeps.via (release_keeps _ _ _)
    | with_reducible apply Keeps.via (bump_keeps _ _ _)
    | with_reducible apply Keeps.via (traceEvent_keeps _ _ _ _)
    | with_reducible apply Keeps.via (freeAll_keeps _ _)
    | (with_reducible refine Keeps.ite (fun _ => ?_) (fun _ => ?_))
    | split
    | (dsimp -proj only)

theorem readmit_keeps (tag sender : Nat) (v : Loan) (en : SelEntry) (s : State) :
    Keeps abortParts ([Area.reg 0x20008, Area.reg 0x60094] ++ abortAreas) s (readmit tag sender v en s) := by
  unfold readmit
  repeat' first
    | (with_reducible apply Within.of_all; decide)
    | (with_reducible apply Covers.of_all; decide)
    | with_reducible exact Keeps.refl _ _ _
    | with_reducible apply Keeps.via (putLoan_keeps _ _ _ _ _ _)
    | with_reducible apply Keeps.via (loseLoan_keeps _ _ _ _ _ _)
    | with_reducible apply Keeps.via (bump_keeps _ _ _)
    | with_reducible apply Keeps.via (alloc_keeps_eq (by assumption))
    | with_reducible apply Keeps.via (pushGroup_keeps _ _ _ _)
    | split
    | (dsimp -proj only)

theorem takeOutput_keeps (tag : Nat) (v : Loan) (b : Bytes) (buf : Nat × Nat) (s : State) :
    Keeps abortParts ([Area.reg 0x8, Area.reg 0x20008, Area.reg 0x80028] ++ abortAreas) s (takeOutput tag v b buf s) := by
  unfold takeOutput
  repeat' first
    | (with_reducible apply Within.of_all; decide)
    | (with_reducible apply Covers.of_all; decide)
    | with_reducible exact Keeps.refl _ _ _
    | with_reducible apply Keeps.via (putLoan_keeps _ _ _ _ _ _)
    | with_reducible apply Keeps.via (modHalf_keeps _ _ _ _)
    | with_reducible apply Keeps.via (raiseAborts_keeps _ _ _)
    | with_reducible apply Keeps.via (release_keeps _ _ _)
    | with_reducible apply Keeps.via (bump_keeps _ _ _)
    | (with_reducible refine Keeps.ite (fun _ => ?_) (fun _ => ?_))

theorem invalidRecord_keeps (buf : Nat × Nat) (s : State) :
    Keeps abortParts ([Area.reg 0x20008, Area.reg 0x80030] ++ abortAreas) s (invalidRecord buf s) := by
  unfold invalidRecord
  repeat' first
    | (with_reducible apply Within.of_all; decide)
    | (with_reducible apply Covers.of_all; decide)
    | with_reducible exact Keeps.refl _ _ _
    | with_reducible apply Keeps.via (raiseAborts_keeps _ _ _)
    | with_reducible apply Keeps.via (release_keeps _ _ _)
    | with_reducible apply Keeps.via (bump16_keeps _ _ _)

theorem noteNotice_keeps (b : Bytes) (s : State) :
    Keeps [.trace] [.reg 0x8003C, .reg 0x80040] s (noteNotice b s) := by
  unfold noteNotice
  repeat' first
    | (with_reducible apply Within.of_all; decide)
    | (with_reducible apply Covers.of_all; decide)
    | with_reducible exact Keeps.refl _ _ _
    | with_reducible apply Keeps.via (bump_keeps _ _ _)
    | with_reducible apply Keeps.via (traceEvent_keeps _ _ _ _)
    | (with_reducible refine Keeps.ite (fun _ => ?_) (fun _ => ?_))

theorem classify_keeps (b : Bytes) (buf : Nat × Nat) (s0 : State) (s : State)
    (h : Keeps abortParts ([Area.reg 0x8, Area.reg 0x20008, Area.reg 0x60094, Area.reg 0x80028, Area.reg 0x8002C, Area.reg 0x80030, Area.reg 0x80034, Area.reg 0x8003C, Area.reg 0x80040] ++ abortAreas) s0 s) :
    Keeps abortParts ([Area.reg 0x8, Area.reg 0x20008, Area.reg 0x60094, Area.reg 0x80028, Area.reg 0x8002C, Area.reg 0x80030, Area.reg 0x80034, Area.reg 0x8003C, Area.reg 0x80040] ++ abortAreas) s0 (classify b buf s0 s) := by
  unfold classify
  repeat' first
    | (simp only [Keeps.toMk]; first | with_reducible apply KeepsMk.set_pools)
    | (with_reducible apply Within.of_all; decide)
    | (with_reducible apply Covers.of_all; decide)
    | with_reducible exact Keeps.refl _ _ _
    | with_reducible assumption
    | with_reducible apply Keeps.via (staleRecord_keeps _ _ _)
    | with_reducible apply Keeps.via (readmit_keeps _ _ _ _ _)
    | with_reducible apply Keeps.via (takeOutput_keeps _ _ _ _ _)
    | with_reducible apply Keeps.via (invalidRecord_keeps _ _)
    | with_reducible apply Keeps.via (noteNotice_keeps _ _)
    | with_reducible apply Keeps.via (raiseAborts_keeps _ _ _)
    | with_reducible apply Keeps.via (release_keeps _ _ _)
    | with_reducible apply Keeps.via (bump16_keeps _ _ _)
    | (with_reducible refine Keeps.ite (fun _ => ?_) (fun _ => ?_))
    | exact fun h => h
    | split

theorem relayReturn_keeps (src : Nat) (b : Bytes) (buf : Nat × Nat) (s : State) :
    Keeps ([Part.quarUndelivered] ++ abortParts) ([Area.reg 0x20008, Area.reg 0x80038, Area.reg 0xC0008, Area.reg 0xC003C] ++ abortAreas) s (relayReturn src b buf s) := by
  unfold relayReturn
  repeat' first
    | (with_reducible apply Within.of_all; decide)
    | (with_reducible apply Covers.of_all; decide)
    | with_reducible exact Keeps.refl _ _ _
    | with_reducible apply Keeps.via (raiseAborts_keeps _ _ _)
    | with_reducible apply Keeps.via (release_keeps _ _ _)
    | with_reducible apply Keeps.via (send_keeps _ _)
    | with_reducible apply Keeps.via (bump_keeps _ _ _)
    | (with_reducible refine Keeps.ite (fun _ => ?_) (fun _ => ?_))

theorem landReturn_keeps (src n : Nat) (b : Bytes) (s : State) :
    Keeps ([Part.quarUndelivered] ++ abortParts) ([Area.reg 0x8, Area.reg 0x20008, Area.reg 0x60094, Area.reg 0x80028, Area.reg 0x8002C, Area.reg 0x80030, Area.reg 0x80034, Area.reg 0x80038, Area.reg 0x8003C, Area.reg 0x80040, Area.reg 0xC0008, Area.reg 0xC003C] ++ abortAreas) s (landReturn src n b s) := by
  unfold landReturn
  repeat' first
    | (with_reducible apply Within.of_all; decide)
    | (with_reducible apply Covers.of_all; decide)
    | with_reducible exact Keeps.refl _ _ _
    | with_reducible refine (classify_keeps _ _ _ _ ?_).mono ?_ ?_
    | with_reducible apply Keeps.via (relayReturn_keeps _ _ _ _)
    | with_reducible apply Keeps.via (passLanded_keeps _ _ _)
    | with_reducible apply Keeps.via (alloc_keeps_eq (by assumption))
    | (with_reducible refine Keeps.ite (fun _ => ?_) (fun _ => ?_))
    | split

theorem returnArrive_keeps (src : Nat) (m : Bytes) (errs : Errs) (s0 : State) :
    Keeps ([Part.mem, Part.rlog, Part.mgmtNext, Part.note, Part.quarUndelivered, Part.cadRefetch] ++ abortParts) ([Area.reg 0x8, Area.reg 0x20008, Area.reg 0x20080, Area.reg 0x20084, Area.reg 0x20088, Area.reg 0x30030, Area.reg 0x31038, Area.reg 0x60094, Area.reg 0x80028, Area.reg 0x8002C, Area.reg 0x80030, Area.reg 0x80034, Area.reg 0x80038, Area.reg 0x8003C, Area.reg 0x80040, Area.reg 0xA0008, Area.reg 0xC0008, Area.reg 0xC003C, Area.station] ++ noteAreas ++ abortAreas) s0 (returnArrive src m errs s0) := by
  unfold returnArrive
  repeat' first
    | (with_reducible apply Within.of_all; decide)
    | (with_reducible apply Covers.of_all; decide)
    | with_reducible exact Keeps.refl _ _ _
    | with_reducible apply Keeps.via (landReturn_keeps _ _ _ _)
    | with_reducible apply Keeps.via (takeErrors_keeps _ _)

theorem countReturned_keeps (h : TileHdr) (tags : List Word64) (s : State) :
    Keeps [.handed] [] s (countReturned h tags s) := by
  unfold countReturned
  repeat' first
    | (simp only [Keeps.toMk]; first | with_reducible apply KeepsMk.set_handed)
    | (with_reducible apply Within.of_all; decide)
    | with_reducible exact Keeps.refl _ _ _

theorem leaveCollect_keeps (c : Collect) (i : Nat) (s : State) :
    Keeps ([Part.quarUndelivered] ++ abortParts) ([Area.reg 0x8, Area.reg 0x20008, Area.reg 0x6008C, Area.reg 0x60094, Area.reg 0x80028, Area.reg 0x8002C, Area.reg 0x80030, Area.reg 0x80034, Area.reg 0x80038, Area.reg 0x8003C, Area.reg 0x80040, Area.reg 0x8004C] ++ abortAreas) s (leaveCollect c i s) := by
  unfold leaveCollect
  repeat' first
    | (with_reducible apply Within.of_all; decide)
    | (with_reducible apply Covers.of_all; decide)
    | with_reducible exact Keeps.refl _ _ _
    | with_reducible apply Keeps.via (classify_keeps _ _ _ _ (Keeps.refl _ _ _))
    | with_reducible apply Keeps.via (sendReturn_keeps _ _ _ _)
    | with_reducible apply Keeps.via (recallRow_keeps _ _ _)
    | with_reducible apply Keeps.via (release_keeps _ _ _)
    | with_reducible apply Keeps.via (bump_keeps _ _ _)
    | (with_reducible refine Keeps.ite (fun _ => ?_) (fun _ => ?_))

theorem takeCollect_keeps (c : Collect) (t : HeldTile) (s0 : State) :
    Keeps ([Part.quarUndelivered] ++ abortParts) ([Area.reg 0x8, Area.reg 0x20008, Area.reg 0x6008C, Area.reg 0x60094, Area.reg 0x80028, Area.reg 0x8002C, Area.reg 0x80030, Area.reg 0x80034, Area.reg 0x80038, Area.reg 0x8003C, Area.reg 0x80040, Area.reg 0x8004C] ++ abortAreas) s0 (takeCollect c t s0) := by
  unfold takeCollect
  repeat' first
    | (simp only [Keeps.toMk]; first | with_reducible apply KeepsMk.set_collects)
    | (with_reducible apply Within.of_all; decide)
    | (with_reducible apply Covers.of_all; decide)
    | with_reducible exact Keeps.refl _ _ _
    | with_reducible apply Keeps.via (leaveCollect_keeps _ _ _)
    | with_reducible apply Keeps.via (release_keeps _ _ _)
    | with_reducible apply Keeps.via (traceTile_keeps _ _ _ _ _ _ _ _ _)
    | (with_reducible refine Keeps.ite (fun _ => ?_) (fun _ => ?_))
    | (with_reducible refine Keeps.foldl ?_ (fun _ _ => ?_))

theorem collectNow_keeps (t : HeldTile) (s : State) :
    Keeps ([Part.quarUndelivered] ++ abortParts) ([Area.reg 0x8, Area.reg 0x20008, Area.reg 0x6008C, Area.reg 0x60094, Area.reg 0x80028, Area.reg 0x8002C, Area.reg 0x80030, Area.reg 0x80034, Area.reg 0x80038, Area.reg 0x8003C, Area.reg 0x80040, Area.reg 0x8004C] ++ abortAreas) s (collectNow t s).2 := by
  unfold collectNow
  repeat' first
    | (with_reducible apply Within.of_all; decide)
    | (with_reducible apply Covers.of_all; decide)
    | with_reducible exact Keeps.refl _ _ _
    | with_reducible apply Keeps.via (countReturned_keeps _ _ _)
    | with_reducible apply Keeps.via (takeCollect_keeps _ _ _)
    | with_reducible apply Keeps.via (raiseAborts_keeps _ _ _)
    | with_reducible apply Keeps.via (release_keeps _ _ _)
    | with_reducible apply Keeps.via (allocMany_keeps_eq (by assumption))
    | split
    | (dsimp -proj only)

theorem collectNow_keeps_eq {t : HeldTile} {s : State} {s' : State} {r : Bool}
    (hr : collectNow t s = (r, s')) : Keeps ([Part.quarUndelivered] ++ abortParts) ([Area.reg 0x8, Area.reg 0x20008, Area.reg 0x6008C, Area.reg 0x60094, Area.reg 0x80028, Area.reg 0x8002C, Area.reg 0x80030, Area.reg 0x80034, Area.reg 0x80038, Area.reg 0x8003C, Area.reg 0x80040, Area.reg 0x8004C] ++ abortAreas) s s' := by
  have := collectNow_keeps t s
  rw [hr] at this
  exact this

theorem collectOn_keeps (x0 : Nat) (s : State) :
    Keeps ([Part.quarUndelivered] ++ abortParts) ([Area.reg 0x8, Area.reg 0x20008, Area.reg 0x6008C, Area.reg 0x60094, Area.reg 0x80028, Area.reg 0x8002C, Area.reg 0x80030, Area.reg 0x80034, Area.reg 0x80038, Area.reg 0x8003C, Area.reg 0x80040, Area.reg 0x8004C] ++ abortAreas) s (collectOn x0 s) := by
  induction x0 generalizing s with
  | zero => exact Keeps.refl _ _ _
  | succ n ih =>
    unfold collectOn
    repeat' first
      | (simp only [Keeps.toMk]; first | with_reducible apply KeepsMk.set_collectHeld)
      | (with_reducible apply Within.of_all; decide)
      | (with_reducible apply Covers.of_all; decide)
      | with_reducible exact Keeps.refl _ _ _
      | with_reducible apply Keeps.via (collectNow_keeps_eq (by assumption))
      | with_reducible apply Keeps.via (ih _)
      | (with_reducible refine Keeps.ite (fun _ => ?_) (fun _ => ?_))
      | split

theorem landCollect_keeps (t : HeldTile) (s : State) :
    Keeps ([Part.quarUndelivered] ++ abortParts) ([Area.reg 0x8, Area.reg 0x20008, Area.reg 0x6008C, Area.reg 0x60094, Area.reg 0x80028, Area.reg 0x8002C, Area.reg 0x80030, Area.reg 0x80034, Area.reg 0x80038, Area.reg 0x8003C, Area.reg 0x80040, Area.reg 0x8004C] ++ abortAreas) s (landCollect t s) := by
  unfold landCollect
  repeat' first
    | (simp only [Keeps.toMk]; first | with_reducible apply KeepsMk.set_collectHeld)
    | (with_reducible apply Within.of_all; decide)
    | (with_reducible apply Covers.of_all; decide)
    | with_reducible exact Keeps.refl _ _ _
    | with_reducible apply Keeps.via (collectOn_keeps _ _)
    | with_reducible apply Keeps.via (raiseAborts_keeps _ _ _)
    | with_reducible apply Keeps.via (release_keeps _ _ _)
    | with_reducible apply Keeps.via (bump_keeps _ _ _)
    | (with_reducible refine Keeps.ite (fun _ => ?_) (fun _ => ?_))

theorem collectTile_keeps (port : Nat) (b : Bytes) (errs : Errs) (s0 : State) :
    Keeps ([Part.mem, Part.rlog, Part.mgmtNext, Part.note, Part.quarUndelivered, Part.cadRefetch] ++ abortParts) ([Area.reg 0x8, Area.reg 0x20008, Area.reg 0x20080, Area.reg 0x20084, Area.reg 0x20088, Area.reg 0x30030, Area.reg 0x31038, Area.reg 0x6008C, Area.reg 0x60094, Area.reg 0x80028, Area.reg 0x8002C, Area.reg 0x80030, Area.reg 0x80034, Area.reg 0x80038, Area.reg 0x8003C, Area.reg 0x80040, Area.reg 0x8004C, Area.reg 0xA0008, Area.station] ++ noteAreas ++ abortAreas) s0 (collectTile port b errs s0) := by
  unfold collectTile
  repeat' first
    | (with_reducible apply Within.of_all; decide)
    | (with_reducible apply Covers.of_all; decide)
    | with_reducible exact Keeps.refl _ _ _
    | with_reducible apply Keeps.via (landCollect_keeps _ _)
    | with_reducible apply Keeps.via (alloc_keeps_eq (by assumption))
    | with_reducible apply Keeps.via (takeErrors_keeps _ _)
    | (with_reducible refine Keeps.ite (fun _ => ?_) (fun _ => ?_))
    | split

theorem combineSettled_keeps (x : Half) (b : Block) (slot : Nat) (row : List SelEntry) (s : State) :
    Keeps abortParts ([Area.reg 0x20008, Area.reg 0x81010, Area.reg 0x81014, Area.reg 0x81018, Area.reg 0x8101C, Area.reg 0x81020, Area.reg 0x81024] ++ abortAreas) s (combineSettled x b slot row s) := by
  unfold combineSettled
  repeat' first
    | (with_reducible apply Within.of_all; decide)
    | (with_reducible apply Covers.of_all; decide)
    | with_reducible exact Keeps.refl _ _ _
    | with_reducible apply Keeps.via (modHalf_keeps _ _ _ _)
    | with_reducible apply Keeps.via (release_keeps _ _ _)
    | with_reducible apply Keeps.via (modBlock_keeps _ _ _)
    | with_reducible apply Keeps.via (bump_keeps _ _ _)
    | (with_reducible refine Keeps.foldl ?_ (fun _ _ => ?_))

theorem combineRow_keeps (l h slot : Nat) (errs : Errs) (s0 : State) :
    Keeps ([Part.mem, Part.rlog, Part.mgmtNext, Part.note, Part.cadRefetch] ++ abortParts) ([Area.reg 0x8, Area.reg 0x20008, Area.reg 0x20080, Area.reg 0x20084, Area.reg 0x20088, Area.reg 0x30030, Area.reg 0x31038, Area.reg 0x81010, Area.reg 0x81014, Area.reg 0x81018, Area.reg 0x8101C, Area.reg 0x81020, Area.reg 0x81024, Area.reg 0xA0008, Area.station] ++ noteAreas ++ abortAreas) s0 (combineRow l h slot errs s0) := by
  unfold combineRow
  repeat' first
    | (with_reducible apply Within.of_all; decide)
    | (with_reducible apply Covers.of_all; decide)
    | with_reducible exact Keeps.refl _ _ _
    | with_reducible apply Keeps.via (combineSettled_keeps _ _ _ _ _)
    | with_reducible apply Keeps.via (raiseAborts_keeps _ _ _)
    | with_reducible apply Keeps.via (takeErrors_keeps _ _)
    | with_reducible apply Keeps.via (makeLoans_keeps _ _ _)
    | (with_reducible refine Keeps.ite (fun _ => ?_) (fun _ => ?_))
    | split
    | (dsimp -proj only)

theorem endBlock_keeps (x : Half) (b : Block) (s : State) :
    Keeps abortParts ([Area.reg 0x20008] ++ abortAreas) s (endBlock x b s) := by
  unfold endBlock
  repeat' first
    | (with_reducible apply Within.of_all; decide)
    | (with_reducible apply Covers.of_all; decide)
    | with_reducible exact Keeps.refl _ _ _
    | with_reducible apply Keeps.via (modHalf_keeps _ _ _ _)
    | with_reducible apply Keeps.via (releaseOpt_keeps _ _)
    | with_reducible apply Keeps.via (modBlock_keeps _ _ _)
    | with_reducible apply Keeps.via (cancelRequests_keeps _ _)
    | with_reducible apply Keeps.via (freeAll_keeps _ _)
    | with_reducible apply Keeps.via (dropTiles_keeps _ _)
    | (with_reducible refine Keeps.ite (fun _ => ?_) (fun _ => ?_))

theorem emitTile_keeps (l h : Nat) (errs : Errs) (s0 : State) :
    Keeps ([Part.mem, Part.rlog, Part.mgmtNext, Part.note, Part.cadRefetch] ++ abortParts) ([Area.reg 0x8, Area.reg 0x20008, Area.reg 0x20080, Area.reg 0x20084, Area.reg 0x20088, Area.reg 0x30030, Area.reg 0x31038, Area.reg 0x80044, Area.reg 0xA0008, Area.station] ++ noteAreas ++ abortAreas) s0 (emitTile l h errs s0) := by
  unfold emitTile
  repeat' first
    | (with_reducible apply Within.of_all; decide)
    | (with_reducible apply Covers.of_all; decide)
    | with_reducible exact Keeps.refl _ _ _
    | with_reducible apply Keeps.via (endBlock_keeps _ _ _)
    | with_reducible apply Keeps.via (handTile_keeps _ _ _ _ _)
    | with_reducible apply Keeps.via (traceTile_keeps _ _ _ _ _ _ _ _ _)
    | with_reducible apply Keeps.via (modBlock_keeps _ _ _)
    | with_reducible apply Keeps.via (alloc_keeps_eq (by assumption))
    | with_reducible apply Keeps.via (takeErrors_keeps _ _)
    | (with_reducible refine Keeps.ite (fun _ => ?_) (fun _ => ?_))
    | split
    | (dsimp -proj only)

end Sys2Proof.Machine
end

