-- ==== Sys2Proof/Laws/FramesRma.lean ====
section
/-! SUPPORT. What each operation of Machine/Rma.lean changes: the parts of the state and the registers, and that it keeps the
invariant. -/
namespace Sys2Proof.Machine
open Sys2Proof

theorem modQueue_keeps (q : Nat) (f : RmaQueue → RmaQueue) (s : State) :
    Keeps [.rma] [] s (modQueue q f s) := by
  unfold modQueue
  repeat' first
    | (simp only [Keeps.toMk]; first | with_reducible apply KeepsMk.set_rma)
    | (with_reducible apply Within.of_all; decide)
    | with_reducible exact Keeps.refl _ _ _
    | exact fun h => (length_modifyAt _ _ _).trans h

theorem writeStatus_keeps (q ix : Nat) (c : RmaCmd) (status result : Nat) (s : State) :
    Keeps [.mem, .beyond, .note, .trace] noteAreas s (writeStatus q ix c status result s) := by
  unfold writeStatus
  repeat' first
    | (with_reducible apply Within.of_all; decide)
    | (with_reducible apply Covers.of_all; decide)
    | with_reducible exact Keeps.refl _ _ _
    | with_reducible apply Keeps.via (memWrite_keeps _ _ _)
    | with_reducible apply Keeps.via (traceEvent_keeps _ _ _ _)
    | with_reducible apply Keeps.via (notice_keeps _ _ _ _ _)
    | (with_reducible refine Keeps.ite (fun _ => ?_) (fun _ => ?_))

theorem readControl_keeps (q : Nat) (s : State) :
    Keeps [.mem, .note, .rma] ([Area.queue, Area.reg 0xC0008] ++ noteAreas) s (readControl q s) := by
  unfold readControl
  repeat' first
    | (with_reducible apply Within.of_all; decide)
    | (with_reducible apply Covers.of_all; decide)
    | (with_reducible apply Covers.queue; decide)
    | with_reducible exact Keeps.refl _ _ _
    | with_reducible apply Keeps.via (setField_keeps _ _ _ _ _)
    | with_reducible apply Keeps.via (countFault_keeps _ _ _)
    | with_reducible apply Keeps.via (modQueue_keeps _ _ _)
    | (with_reducible refine Keeps.ite (fun _ => ?_) (fun _ => ?_))

theorem advanceHead_keeps (q : Nat) (s : State) :
    Keeps [.mem, .beyond, .note, .rma] ([Area.queue, Area.reg 0xC0008] ++ noteAreas) s (advanceHead q s) := by
  unfold advanceHead
  repeat' first
    | (with_reducible apply Within.of_all; decide)
    | (with_reducible apply Covers.of_all; decide)
    | with_reducible exact Keeps.refl _ _ _
    | with_reducible apply Keeps.via (memWrite_keeps _ _ _)
    | with_reducible apply Keeps.via (modQueue_keeps _ _ _)
    | with_reducible apply Keeps.via (readControl_keeps _ _)
    | (with_reducible refine Keeps.ite (fun _ => ?_) (fun _ => ?_))

theorem finishEntry_keeps (q ix : Nat) (c : RmaCmd) (status result : Nat) (s : State) :
    Keeps [.mem, .beyond, .note, .trace, .rma] ([Area.queue, Area.reg 0xC0008, Area.reg 0xC1424] ++ noteAreas) s (finishEntry q ix c status result s) := by
  unfold finishEntry
  repeat' first
    | (with_reducible apply Within.of_all; decide)
    | (with_reducible apply Covers.of_all; decide)
    | with_reducible exact Keeps.refl _ _ _
    | with_reducible apply Keeps.via (bump16_keeps _ _ _)
    | with_reducible apply Keeps.via (modQueue_keeps _ _ _)
    | with_reducible apply Keeps.via (writeStatus_keeps _ _ _ _ _ _)
    | with_reducible apply Keeps.via (advanceHead_keeps _ _)

theorem stepRead_keeps (q : Nat) (s : State) :
    Keeps [.rma] [] s (stepRead q s) := by
  unfold stepRead
  repeat' first
    | (with_reducible apply Within.of_all; decide)
    | (with_reducible apply Covers.of_all; decide)
    | with_reducible exact Keeps.refl _ _ _
    | with_reducible apply Keeps.via (modQueue_keeps _ _ _)

theorem skipIllegal_keeps (x0 : Nat) (x1 : Nat) (s : State) :
    Keeps [.mem, .beyond, .note, .trace, .rma] ([Area.queue, Area.reg 0xC0008, Area.reg 0xC1424] ++ noteAreas) s (skipIllegal x0 x1 s) := by
  induction x0 generalizing x1 s with
  | zero => exact Keeps.refl _ _ _
  | succ n ih =>
    unfold skipIllegal
    repeat' first
      | (with_reducible apply Within.of_all; decide)
      | (with_reducible apply Covers.of_all; decide)
      | with_reducible exact Keeps.refl _ _ _
      | with_reducible apply Keeps.via (finishEntry_keeps _ _ _ _ _ _)
      | with_reducible apply Keeps.via (stepRead_keeps _ _)
      | with_reducible apply Keeps.via (ih _ _)
      | (with_reducible refine Keeps.ite (fun _ => ?_) (fun _ => ?_))

theorem settleQueue_keeps (q : Nat) (s : State) :
    Keeps [.mem, .beyond, .note, .trace, .rma] ([Area.queue, Area.reg 0xC0008, Area.reg 0xC1424] ++ noteAreas) s (settleQueue q s) := by
  unfold settleQueue
  repeat' first
    | (with_reducible apply Within.of_all; decide)
    | (with_reducible apply Covers.of_all; decide)
    | with_reducible exact Keeps.refl _ _ _
    | with_reducible apply Keeps.via (finishEntry_keeps _ _ _ _ _ _)
    | with_reducible apply Keeps.via (skipIllegal_keeps _ _ _)
    | (with_reducible refine Keeps.ite (fun _ => ?_) (fun _ => ?_))
    | split

theorem rmaDoorbell_keeps (q : Nat) (value : Word32) (env : MemEnv) (s : State) :
    Keeps [.mem, .beyond, .note, .trace, .rma] ([Area.queue, Area.reg 0xC0008, Area.reg 0xC1424] ++ noteAreas) s (rmaDoorbell q value env s) := by
  unfold rmaDoorbell
  repeat' first
    | (with_reducible apply Within.of_all; decide)
    | (with_reducible apply Covers.of_all; decide)
    | with_reducible exact Keeps.refl _ _ _
    | with_reducible apply Keeps.via (withEnv_keeps _ _)
    | with_reducible apply Keeps.via (record_keeps _ _ _)
    | with_reducible apply Keeps.via (readControl_keeps _ _)
    | with_reducible apply Keeps.via (settleQueue_keeps _ _)
    | (with_reducible refine Keeps.ite (fun _ => ?_) (fun _ => ?_))

theorem rmaPoll_keeps (q : Nat) (env : MemEnv) (s : State) :
    Keeps [.mem, .beyond, .note, .trace, .rma] ([Area.queue, Area.reg 0xC0008, Area.reg 0xC1424] ++ noteAreas) s (rmaPoll q env s) := by
  unfold rmaPoll
  repeat' first
    | (with_reducible apply Within.of_all; decide)
    | (with_reducible apply Covers.of_all; decide)
    | with_reducible exact Keeps.refl _ _ _
    | with_reducible apply Keeps.via (withEnv_keeps _ _)
    | with_reducible apply Keeps.via (readControl_keeps _ _)
    | with_reducible apply Keeps.via (settleQueue_keeps _ _)
    | (with_reducible refine Keeps.ite (fun _ => ?_) (fun _ => ?_))

theorem noteSent_keeps (q target : Nat) (s : State) :
    Keeps [.rma] [] s (noteSent q target s) := by
  unfold noteSent
  repeat' first
    | (with_reducible apply Within.of_all; decide)
    | (with_reducible apply Covers.of_all; decide)
    | with_reducible exact Keeps.refl _ _ _
    | with_reducible apply Keeps.via (modQueue_keeps _ _ _)

theorem sendRequest_keeps (q target : Nat) (b : Bytes) (s : State) :
    Keeps [.out, .rma, .fep] [] s (sendRequest q target b s) := by
  unfold sendRequest
  repeat' first
    | (with_reducible apply Within.of_all; decide)
    | (with_reducible apply Covers.of_all; decide)
    | with_reducible exact Keeps.refl _ _ _
    | with_reducible apply Keeps.via (post_keeps _ _)
    | with_reducible apply Keeps.via (noteSent_keeps _ _ _)

theorem reserveFor_keeps (c : RmaCmd) (off : Nat) (s : State) :
    Keeps [.fep] [] s (reserveFor c off s) := by
  unfold reserveFor
  repeat' first
    | (with_reducible apply Within.of_all; decide)
    | (with_reducible apply Covers.of_all; decide)
    | with_reducible exact Keeps.refl _ _ _
    | with_reducible apply Keeps.via (reserveReply_keeps _ _)
    | (with_reducible refine Keeps.ite (fun _ => ?_) (fun _ => ?_))

theorem releaseFor_keeps (c : RmaCmd) (off : Nat) (s : State) :
    Keeps [.fep] [] s (releaseFor c off s) := by
  unfold releaseFor
  repeat' first
    | (with_reducible apply Within.of_all; decide)
    | (with_reducible apply Covers.of_all; decide)
    | with_reducible exact Keeps.refl _ _ _
    | with_reducible apply Keeps.via (releaseReply_keeps _ _)
    | (with_reducible refine Keeps.ite (fun _ => ?_) (fun _ => ?_))

theorem dropLines_keeps (target addr len : Nat) (s : State) :
    Keeps [.rma, .cache] [] s (dropLines target addr len s) := by
  unfold dropLines
  repeat' first
    | (simp only [Keeps.toMk]; first | with_reducible apply KeepsMk.set_rma_cache)
    | (with_reducible apply Within.of_all; decide)
    | with_reducible exact Keeps.refl _ _ _
    | exact fun h => (List.length_map _).trans h

theorem dropAll_keeps (s : State) :
    Keeps [.rma, .cache] [] s (dropAll s) := by
  unfold dropAll
  repeat' first
    | (simp only [Keeps.toMk]; first | with_reducible apply KeepsMk.set_rma_cache)
    | (with_reducible apply Within.of_all; decide)
    | with_reducible exact Keeps.refl _ _ _
    | exact fun h => (List.length_map _).trans h

theorem touchLine_keeps (c : CacheLine) (s : State) :
    Keeps [.cache] [] s (touchLine c s) := by
  unfold touchLine
  repeat' first
    | (simp only [Keeps.toMk]; first | with_reducible apply KeepsMk.set_cache)
    | (with_reducible apply Within.of_all; decide)
    | with_reducible exact Keeps.refl _ _ _

theorem fillLine_keeps (c : CacheLine) (s : State) :
    Keeps [.cache] [] s (fillLine c s) := by
  unfold fillLine
  repeat' first
    | (simp only [Keeps.toMk]; first | with_reducible apply KeepsMk.set_cache)
    | (with_reducible apply Within.of_all; decide)
    | with_reducible exact Keeps.refl _ _ _
    | (with_reducible refine Keeps.ite (fun _ => ?_) (fun _ => ?_))

theorem addOut_keeps (q : Nat) (o : RmaOut) (s : State) :
    Keeps [.rma] [] s (addOut q o s) := by
  unfold addOut
  repeat' first
    | (with_reducible apply Within.of_all; decide)
    | (with_reducible apply Covers.of_all; decide)
    | with_reducible exact Keeps.refl _ _ _
    | with_reducible apply Keeps.via (modQueue_keeps _ _ _)

theorem modOut_keeps (q ix : Nat) (f : RmaOut → RmaOut) (s : State) :
    Keeps [.rma] [] s (modOut q ix f s) := by
  unfold modOut
  repeat' first
    | (with_reducible apply Within.of_all; decide)
    | (with_reducible apply Covers.of_all; decide)
    | with_reducible exact Keeps.refl _ _ _
    | with_reducible apply Keeps.via (modQueue_keeps _ _ _)

theorem noteStart_keeps (q ix : Nat) (c : RmaCmd) (s : State) :
    Keeps [.trace, .rma] [.reg 0xC1400] s (noteStart q ix c s) := by
  unfold noteStart
  repeat' first
    | (with_reducible apply Within.of_all; decide)
    | (with_reducible apply Covers.of_all; decide)
    | with_reducible exact Keeps.refl _ _ _
    | with_reducible apply Keeps.via (bump_keeps _ _ _)
    | with_reducible apply Keeps.via (traceEvent_keeps _ _ _ _)
    | with_reducible apply Keeps.via (stepRead_keeps _ _)

theorem startLoad_keeps (q ix : Nat) (c : RmaCmd) (s : State) :
    Keeps [.out, .mem, .beyond, .note, .trace, .rma, .cache, .fep] ([Area.queue, Area.reg 0xC0008, Area.reg 0xC1400, Area.reg 0xC1408, Area.reg 0xC140C, Area.reg 0xC1424] ++ noteAreas) s (startLoad q ix c s) := by
  unfold startLoad
  repeat' first
    | (with_reducible apply Within.of_all; decide)
    | (with_reducible apply Covers.of_all; decide)
    | with_reducible exact Keeps.refl _ _ _
    | with_reducible apply Keeps.via (bump_keeps _ _ _)
    | with_reducible apply Keeps.via (finishEntry_keeps _ _ _ _ _ _)
    | with_reducible apply Keeps.via (sendRequest_keeps _ _ _ _)
    | with_reducible apply Keeps.via (reserveFor_keeps _ _ _)
    | with_reducible apply Keeps.via (touchLine_keeps _ _)
    | with_reducible apply Keeps.via (addOut_keeps _ _ _)
    | with_reducible apply Keeps.via (noteStart_keeps _ _ _ _)
    | (with_reducible refine Keeps.ite (fun _ => ?_) (fun _ => ?_))
    | split

theorem startWord_keeps (q ix : Nat) (c : RmaCmd) (s : State) :
    Keeps [.out, .mem, .beyond, .trace, .rma, .cache, .fep] [.reg 0xC1400] s (startWord q ix c s) := by
  unfold startWord
  repeat' first
    | (with_reducible apply Within.of_all; decide)
    | (with_reducible apply Covers.of_all; decide)
    | with_reducible exact Keeps.refl _ _ _
    | with_reducible apply Keeps.via (memWrite_keeps _ _ _)
    | with_reducible apply Keeps.via (modQueue_keeps _ _ _)
    | with_reducible apply Keeps.via (sendRequest_keeps _ _ _ _)
    | with_reducible apply Keeps.via (reserveFor_keeps _ _ _)
    | with_reducible apply Keeps.via (dropLines_keeps _ _ _ _)
    | with_reducible apply Keeps.via (addOut_keeps _ _ _)
    | with_reducible apply Keeps.via (noteStart_keeps _ _ _ _)
    | (with_reducible refine Keeps.ite (fun _ => ?_) (fun _ => ?_))

theorem pieceOut_keeps (q ix off : Nat) (buf : Option (Nat × Nat)) (s : State) :
    Keeps [.rma] [] s (pieceOut q ix off buf s) := by
  unfold pieceOut
  repeat' first
    | (with_reducible apply Within.of_all; decide)
    | (with_reducible apply Covers.of_all; decide)
    | with_reducible exact Keeps.refl _ _ _
    | with_reducible apply Keeps.via (modOut_keeps _ _ _ _)

theorem sendPiece_keeps (q : Nat) (o : RmaOut) (off : Nat) (env : MemEnv) (s : State) :
    Keeps [.out, .trace, .pools, .rma, .fep] [] s (sendPiece q o off env s) := by
  unfold sendPiece
  repeat' first
    | (with_reducible apply Within.of_all; decide)
    | (with_reducible apply Covers.of_all; decide)
    | with_reducible exact Keeps.refl _ _ _
    | with_reducible apply Keeps.via (alloc_keeps_eq (by assumption))
    | with_reducible apply Keeps.via (sendRequest_keeps _ _ _ _)
    | with_reducible apply Keeps.via (reserveFor_keeps _ _ _)
    | with_reducible apply Keeps.via (modOut_keeps _ _ _ _)
    | with_reducible apply Keeps.via (pieceOut_keeps _ _ _ _ _)
    | (with_reducible refine Keeps.ite (fun _ => ?_) (fun _ => ?_))
    | split

theorem endCopy_keeps (q : Nat) (o : RmaOut) (env : MemEnv) (s : State) :
    Keeps [.mem, .beyond, .note, .trace, .rma] ([Area.queue, Area.reg 0xC0008, Area.reg 0xC1424] ++ noteAreas) s (endCopy q o env s) := by
  unfold endCopy
  repeat' first
    | (with_reducible apply Within.of_all; decide)
    | (with_reducible apply Covers.of_all; decide)
    | with_reducible exact Keeps.refl _ _ _
    | with_reducible apply Keeps.via (memWrite_keeps _ _ _)
    | with_reducible apply Keeps.via (finishEntry_keeps _ _ _ _ _ _)
    | (with_reducible refine Keeps.ite (fun _ => ?_) (fun _ => ?_))

theorem pumpCopy_keeps (x0 : Nat) (x1 : Nat) (x2 : Nat) (x3 : MemEnv) (s : State) :
    Keeps [.out, .mem, .beyond, .note, .trace, .pools, .rma, .fep] ([Area.queue, Area.reg 0xC0008, Area.reg 0xC1424] ++ noteAreas) s (pumpCopy x0 x1 x2 x3 s) := by
  induction x0 generalizing x1 x2 x3 s with
  | zero => exact Keeps.refl _ _ _
  | succ n ih =>
    unfold pumpCopy
    repeat' first
      | (with_reducible apply Within.of_all; decide)
      | (with_reducible apply Covers.of_all; decide)
      | with_reducible exact Keeps.refl _ _ _
      | with_reducible apply Keeps.via (sendPiece_keeps _ _ _ _ _)
      | with_reducible apply Keeps.via (endCopy_keeps _ _ _ _)
      | with_reducible apply Keeps.via (ih _ _ _ _)
      | (with_reducible refine Keeps.ite (fun _ => ?_) (fun _ => ?_))
      | split

theorem pumpCopies_keeps (q op : Nat) (env : MemEnv) (s : State) :
    Keeps [.out, .mem, .beyond, .note, .trace, .pools, .rma, .fep] ([Area.queue, Area.reg 0xC0008, Area.reg 0xC1424] ++ noteAreas) s (pumpCopies q op env s) := by
  unfold pumpCopies
  repeat' first
    | (with_reducible apply Within.of_all; decide)
    | (with_reducible apply Covers.of_all; decide)
    | with_reducible exact Keeps.refl _ _ _
    | with_reducible apply Keeps.via (pumpCopy_keeps _ _ _ _ _)
    | (with_reducible refine Keeps.foldl ?_ (fun _ _ => ?_))

theorem startCopy_keeps (q ix : Nat) (c : RmaCmd) (env : MemEnv) (s : State) :
    Keeps [.out, .mem, .beyond, .note, .trace, .pools, .rma, .cache, .fep] ([Area.queue, Area.reg 0xC0008, Area.reg 0xC1400, Area.reg 0xC1424] ++ noteAreas) s (startCopy q ix c env s) := by
  unfold startCopy
  repeat' first
    | (with_reducible apply Within.of_all; decide)
    | (with_reducible apply Covers.of_all; decide)
    | with_reducible exact Keeps.refl _ _ _
    | with_reducible apply Keeps.via (dropLines_keeps _ _ _ _)
    | with_reducible apply Keeps.via (addOut_keeps _ _ _)
    | with_reducible apply Keeps.via (noteStart_keeps _ _ _ _)
    | with_reducible apply Keeps.via (pumpCopy_keeps _ _ _ _ _)
    | (with_reducible refine Keeps.ite (fun _ => ?_) (fun _ => ?_))

theorem tryWait_keeps (q : Nat) (o : RmaOut) (env : MemEnv) (s : State) :
    Keeps [.mem, .beyond, .note, .trace, .rma] ([Area.queue, Area.reg 0xC0008, Area.reg 0xC1424] ++ noteAreas) s (tryWait q o env s) := by
  unfold tryWait
  repeat' first
    | (with_reducible apply Within.of_all; decide)
    | (with_reducible apply Covers.of_all; decide)
    | with_reducible exact Keeps.refl _ _ _
    | with_reducible apply Keeps.via (finishEntry_keeps _ _ _ _ _ _)
    | (with_reducible refine Keeps.ite (fun _ => ?_) (fun _ => ?_))

theorem startLocal_keeps (q ix : Nat) (c : RmaCmd) (env : MemEnv) (s : State) :
    Keeps [.mem, .beyond, .note, .trace, .rma, .cache] ([Area.queue, Area.reg 0xC0008, Area.reg 0xC1400, Area.reg 0xC1424] ++ noteAreas) s (startLocal q ix c env s) := by
  unfold startLocal
  repeat' first
    | (with_reducible apply Within.of_all; decide)
    | (with_reducible apply Covers.of_all; decide)
    | with_reducible exact Keeps.refl _ _ _
    | with_reducible apply Keeps.via (finishEntry_keeps _ _ _ _ _ _)
    | with_reducible apply Keeps.via (dropLines_keeps _ _ _ _)
    | with_reducible apply Keeps.via (dropAll_keeps _)
    | with_reducible apply Keeps.via (addOut_keeps _ _ _)
    | with_reducible apply Keeps.via (noteStart_keeps _ _ _ _)
    | with_reducible apply Keeps.via (tryWait_keeps _ _ _ _)
    | (with_reducible refine Keeps.ite (fun _ => ?_) (fun _ => ?_))

theorem dropBadLine_keeps (q : Nat) (errs : Errs) (s : State) :
    Keeps [.cache] [] s (dropBadLine q errs s) := by
  unfold dropBadLine
  repeat' first
    | (simp only [Keeps.toMk]; first | with_reducible apply KeepsMk.set_cache)
    | (with_reducible apply Within.of_all; decide)
    | with_reducible exact Keeps.refl _ _ _
    | (with_reducible refine Keeps.ite (fun _ => ?_) (fun _ => ?_))

theorem startCommand_keeps (q ix : Nat) (c : RmaCmd) (env : MemEnv) (s : State) :
    Keeps [.out, .mem, .beyond, .note, .trace, .pools, .rma, .cache, .fep] ([Area.queue, Area.reg 0xC0008, Area.reg 0xC1400, Area.reg 0xC1408, Area.reg 0xC140C, Area.reg 0xC1424] ++ noteAreas) s (startCommand q ix c env s) := by
  unfold startCommand
  repeat' first
    | (with_reducible apply Within.of_all; decide)
    | (with_reducible apply Covers.of_all; decide)
    | with_reducible exact Keeps.refl _ _ _
    | with_reducible apply Keeps.via (startLoad_keeps _ _ _ _)
    | with_reducible apply Keeps.via (startWord_keeps _ _ _ _)
    | with_reducible apply Keeps.via (startCopy_keeps _ _ _ _ _)
    | with_reducible apply Keeps.via (startLocal_keeps _ _ _ _ _)
    | (with_reducible refine Keeps.ite (fun _ => ?_) (fun _ => ?_))

theorem rmaStart_keeps (op q : Nat) (env : MemEnv) (s0 : State) :
    Keeps [.out, .mem, .beyond, .note, .trace, .pools, .rma, .rmaTurn, .cache, .fep] ([Area.queue, Area.reg 0xC0008, Area.reg 0xC1400, Area.reg 0xC1408, Area.reg 0xC140C, Area.reg 0xC1424] ++ noteAreas) s0 (rmaStart op q env s0) := by
  unfold rmaStart
  repeat' first
    | (simp only [Keeps.toMk]; first | with_reducible apply KeepsMk.set_rmaTurn)
    | (with_reducible apply Within.of_all; decide)
    | (with_reducible apply Covers.of_all; decide)
    | with_reducible exact Keeps.refl _ _ _
    | with_reducible apply Keeps.via (withEnv_keeps _ _)
    | with_reducible apply Keeps.via (finishEntry_keeps _ _ _ _ _ _)
    | with_reducible apply Keeps.via (stepRead_keeps _ _)
    | with_reducible apply Keeps.via (settleQueue_keeps _ _)
    | with_reducible apply Keeps.via (pumpCopies_keeps _ _ _ _)
    | with_reducible apply Keeps.via (startCommand_keeps _ _ _ _ _)
    | (with_reducible refine Keeps.ite (fun _ => ?_) (fun _ => ?_))

theorem rmaLoad_keeps (q : Nat) (env : MemEnv) (errs : Errs) (s0 : State) :
    Keeps ([Part.mem, Part.beyond, Part.rlog, Part.mgmtNext, Part.note, Part.cadRefetch, Part.rma, Part.rmaTurn, Part.cache] ++ abortParts) ([Area.queue, Area.reg 0x8, Area.reg 0x20008, Area.reg 0x20080, Area.reg 0x20084, Area.reg 0x20088, Area.reg 0x30030, Area.reg 0x31038, Area.reg 0xA0008, Area.reg 0xC0008, Area.reg 0xC1400, Area.reg 0xC1408, Area.reg 0xC140C, Area.reg 0xC1424, Area.station] ++ noteAreas ++ abortAreas) s0 (rmaLoad q env errs s0) := by
  unfold rmaLoad
  repeat' first
    | (with_reducible apply Within.of_all; decide)
    | (with_reducible apply Covers.of_all; decide)
    | with_reducible exact Keeps.refl _ _ _
    | with_reducible apply Keeps.via (withEnv_keeps _ _)
    | with_reducible apply Keeps.via (dropBadLine_keeps _ _ _)
    | with_reducible apply Keeps.via (rmaStart_keeps _ _ _ _)
    | with_reducible apply Keeps.via (takeErrors_keeps _ _)

theorem dropPieces_keeps (q : Nat) (o : RmaOut) (s : State) :
    Keeps abortParts ([Area.reg 0x20008] ++ abortAreas) s (dropPieces q o s) := by
  unfold dropPieces
  repeat' first
    | (with_reducible apply Within.of_all; decide)
    | (with_reducible apply Covers.of_all; decide)
    | with_reducible exact Keeps.refl _ _ _
    | with_reducible apply Keeps.via (releaseOpt_keeps _ _)
    | with_reducible apply Keeps.via (cancelRequests_keeps _ _)
    | with_reducible apply Keeps.via (releaseFor_keeps _ _ _)
    | (with_reducible refine Keeps.foldl ?_ (fun _ _ => ?_))

theorem dropHeld_keeps (q : Nat) (o : RmaOut) (s : State) :
    Keeps abortParts ([Area.reg 0x20008] ++ abortAreas) s (dropHeld q o s) := by
  unfold dropHeld
  repeat' first
    | (with_reducible apply Within.of_all; decide)
    | (with_reducible apply Covers.of_all; decide)
    | with_reducible exact Keeps.refl _ _ _
    | with_reducible apply Keeps.via (releaseFor_keeps _ _ _)
    | with_reducible apply Keeps.via (dropPieces_keeps _ _ _)
    | (with_reducible refine Keeps.ite (fun _ => ?_) (fun _ => ?_))

theorem copyReply_keeps (q : Nat) (o : RmaOut) (off : Nat) (b : Bytes) (env : MemEnv) (s : State) :
    Keeps ([Part.mem, Part.beyond, Part.note, Part.rma] ++ abortParts) ([Area.queue, Area.reg 0x20008, Area.reg 0xC0008, Area.reg 0xC1424] ++ noteAreas ++ abortAreas) s (copyReply q o off b env s) := by
  unfold copyReply
  repeat' first
    | (with_reducible apply Within.of_all; decide)
    | (with_reducible apply Covers.of_all; decide)
    | with_reducible exact Keeps.refl _ _ _
    | with_reducible apply Keeps.via (releaseOpt_keeps _ _)
    | with_reducible apply Keeps.via (memWrite_keeps _ _ _)
    | with_reducible apply Keeps.via (releaseFor_keeps _ _ _)
    | with_reducible apply Keeps.via (modOut_keeps _ _ _ _)
    | with_reducible apply Keeps.via (pumpCopy_keeps _ _ _ _ _)
    | (with_reducible refine Keeps.ite (fun _ => ?_) (fun _ => ?_))

theorem wordReply_keeps (q : Nat) (o : RmaOut) (b : Bytes) (s : State) :
    Keeps [.mem, .beyond, .note, .trace, .rma, .cache, .fep] ([Area.queue, Area.reg 0xC0008, Area.reg 0xC1424] ++ noteAreas) s (wordReply q o b s) := by
  unfold wordReply
  repeat' first
    | (with_reducible apply Within.of_all; decide)
    | (with_reducible apply Covers.of_all; decide)
    | with_reducible exact Keeps.refl _ _ _
    | with_reducible apply Keeps.via (finishEntry_keeps _ _ _ _ _ _)
    | with_reducible apply Keeps.via (releaseFor_keeps _ _ _)
    | with_reducible apply Keeps.via (fillLine_keeps _ _)
    | (with_reducible refine Keeps.ite (fun _ => ?_) (fun _ => ?_))

theorem remoteReply_keeps (src q ix piece : Nat) (b : Bytes) (env : MemEnv) (s0 : State) :
    Keeps ([Part.mem, Part.beyond, Part.note, Part.rma, Part.cache] ++ abortParts) ([Area.queue, Area.reg 0x20008, Area.reg 0xC0008, Area.reg 0xC1414, Area.reg 0xC1424] ++ noteAreas ++ abortAreas) s0 (remoteReply src q ix piece b env s0) := by
  unfold remoteReply
  repeat' first
    | (with_reducible apply Within.of_all; decide)
    | (with_reducible apply Covers.of_all; decide)
    | with_reducible exact Keeps.refl _ _ _
    | with_reducible apply Keeps.via (withEnv_keeps _ _)
    | with_reducible apply Keeps.via (bump_keeps _ _ _)
    | with_reducible apply Keeps.via (settleQueue_keeps _ _)
    | with_reducible apply Keeps.via (copyReply_keeps _ _ _ _ _ _)
    | with_reducible apply Keeps.via (wordReply_keeps _ _ _ _)
    | (with_reducible refine Keeps.ite (fun _ => ?_) (fun _ => ?_))
    | split
    | (dsimp -proj only)

theorem remoteReply_keeps_env (src q ix piece : Nat) (b : Bytes) (env : MemEnv) (s0 : State) :
    Keeps ([Part.mem, Part.beyond, Part.note, Part.rma, Part.cache] ++ abortParts) ([Area.queue, Area.reg 0x20008, Area.reg 0xC0008, Area.reg 0xC1414, Area.reg 0xC1424] ++ noteAreas ++ abortAreas) (withEnv env s0) (remoteReply src q ix piece b env s0) := by
  unfold remoteReply
  repeat' first
    | (with_reducible apply Within.of_all; decide)
    | (with_reducible apply Covers.of_all; decide)
    | with_reducible exact Keeps.refl _ _ _
    | with_reducible apply Keeps.via (bump_keeps _ _ _)
    | with_reducible apply Keeps.via (settleQueue_keeps _ _)
    | with_reducible apply Keeps.via (copyReply_keeps _ _ _ _ _ _)
    | with_reducible apply Keeps.via (wordReply_keeps _ _ _ _)
    | (with_reducible refine Keeps.ite (fun _ => ?_) (fun _ => ?_))
    | split
    | (dsimp -proj only)

theorem atomicTimeout_keeps (q ix : Nat) (s : State) :
    Keeps [.out, .mem, .beyond, .note, .trace, .rma, .fep] ([Area.reg 0xC1410] ++ noteAreas) s (atomicTimeout q ix s) := by
  unfold atomicTimeout
  repeat' first
    | (with_reducible apply Within.of_all; decide)
    | (with_reducible apply Covers.of_all; decide)
    | with_reducible exact Keeps.refl _ _ _
    | with_reducible apply Keeps.via (bump_keeps _ _ _)
    | with_reducible apply Keeps.via (writeStatus_keeps _ _ _ _ _ _)
    | with_reducible apply Keeps.via (sendRequest_keeps _ _ _ _)
    | with_reducible apply Keeps.via (modOut_keeps _ _ _ _)
    | (with_reducible refine Keeps.ite (fun _ => ?_) (fun _ => ?_))
    | split

theorem commandTimeout_keeps (q ix : Nat) (s : State) :
    Keeps ([Part.mem, Part.beyond, Part.note, Part.rma] ++ abortParts) ([Area.queue, Area.reg 0x20008, Area.reg 0xC0008, Area.reg 0xC1424] ++ noteAreas ++ abortAreas) s (commandTimeout q ix s) := by
  unfold commandTimeout
  repeat' first
    | (with_reducible apply Within.of_all; decide)
    | (with_reducible apply Covers.of_all; decide)
    | with_reducible exact Keeps.refl _ _ _
    | with_reducible apply Keeps.via (finishEntry_keeps _ _ _ _ _ _)
    | with_reducible apply Keeps.via (settleQueue_keeps _ _)
    | with_reducible apply Keeps.via (dropHeld_keeps _ _ _)
    | (with_reducible refine Keeps.ite (fun _ => ?_) (fun _ => ?_))
    | split

theorem waitPoll_keeps (q ix : Nat) (env : MemEnv) (s0 : State) :
    Keeps [.mem, .beyond, .note, .trace, .rma] ([Area.queue, Area.reg 0xC0008, Area.reg 0xC1424] ++ noteAreas) s0 (waitPoll q ix env s0) := by
  unfold waitPoll
  repeat' first
    | (with_reducible apply Within.of_all; decide)
    | (with_reducible apply Covers.of_all; decide)
    | with_reducible exact Keeps.refl _ _ _
    | with_reducible apply Keeps.via (withEnv_keeps _ _)
    | with_reducible apply Keeps.via (settleQueue_keeps _ _)
    | with_reducible apply Keeps.via (modOut_keeps _ _ _ _)
    | with_reducible apply Keeps.via (tryWait_keeps _ _ _ _)
    | (with_reducible refine Keeps.ite (fun _ => ?_) (fun _ => ?_))
    | split
    | (dsimp -proj only)

theorem waitPoll_keeps_env (q ix : Nat) (env : MemEnv) (s0 : State) :
    Keeps [.mem, .beyond, .note, .trace, .rma] ([Area.queue, Area.reg 0xC0008, Area.reg 0xC1424] ++ noteAreas) (withEnv env s0) (waitPoll q ix env s0) := by
  unfold waitPoll
  repeat' first
    | (with_reducible apply Within.of_all; decide)
    | (with_reducible apply Covers.of_all; decide)
    | with_reducible exact Keeps.refl _ _ _
    | with_reducible apply Keeps.via (settleQueue_keeps _ _)
    | with_reducible apply Keeps.via (modOut_keeps _ _ _ _)
    | with_reducible apply Keeps.via (tryWait_keeps _ _ _ _)
    | (with_reducible refine Keeps.ite (fun _ => ?_) (fun _ => ?_))
    | split
    | (dsimp -proj only)

theorem releaseTimer_keeps (q target : Nat) (s : State) :
    Keeps [.out, .rma, .fep] [] s (releaseTimer q target s) := by
  unfold releaseTimer
  repeat' first
    | (with_reducible apply Within.of_all; decide)
    | (with_reducible apply Covers.of_all; decide)
    | with_reducible exact Keeps.refl _ _ _
    | with_reducible apply Keeps.via (sendRequest_keeps _ _ _ _)
    | (with_reducible refine Keeps.ite (fun _ => ?_) (fun _ => ?_))
    | split
    | (dsimp -proj only)

theorem endCommandsTo_keeps (f : Nat) (s : State) :
    Keeps ([Part.mem, Part.beyond, Part.note, Part.rma] ++ abortParts) ([Area.queue, Area.reg 0x20008, Area.reg 0xC0008, Area.reg 0xC1424] ++ noteAreas ++ abortAreas) s (endCommandsTo f s) := by
  unfold endCommandsTo
  repeat' first
    | (with_reducible apply Within.of_all; decide)
    | (with_reducible apply Covers.of_all; decide)
    | with_reducible exact Keeps.refl _ _ _
    | with_reducible apply Keeps.via (finishEntry_keeps _ _ _ _ _ _)
    | with_reducible apply Keeps.via (settleQueue_keeps _ _)
    | with_reducible apply Keeps.via (dropHeld_keeps _ _ _)
    | (with_reducible refine Keeps.foldl ?_ (fun _ _ => ?_))

theorem forgetRequesters_keeps (f : Nat) (s : State) :
    Keeps [.dedup] [] s (forgetRequesters f s) := by
  unfold forgetRequesters
  repeat' first
    | (simp only [Keeps.toMk]; first | with_reducible apply KeepsMk.set_dedup)
    | (with_reducible apply Within.of_all; decide)
    | with_reducible exact Keeps.refl _ _ _

theorem answer_keeps (src : Nat) (m : Bytes) (outcome code value : Nat) (data : Bytes) (s : State) :
    Keeps [.out, .fep] [.reg 0xC1404, .reg 0xC1418, .reg 0xC141C, .reg 0xC1420] s (answer src m outcome code value data s) := by
  unfold answer
  repeat' first
    | (with_reducible apply Within.of_all; decide)
    | (with_reducible apply Covers.of_all; decide)
    | with_reducible exact Keeps.refl _ _ _
    | with_reducible apply Keeps.via (post_keeps _ _)
    | with_reducible apply Keeps.via (bump_keeps _ _ _)

theorem denied_keeps (src : Nat) (m : Bytes) (s : State) :
    Keeps [.out, .fep] [.reg 0xC1404, .reg 0xC1418, .reg 0xC141C, .reg 0xC1420] s (denied src m s) := by
  unfold denied
  repeat' first
    | (with_reducible apply Within.of_all; decide)
    | (with_reducible apply Covers.of_all; decide)
    | with_reducible exact Keeps.refl _ _ _
    | with_reducible apply Keeps.via (answer_keeps _ _ _ _ _ _ _)

theorem failed_keeps (src : Nat) (m : Bytes) (s : State) :
    Keeps [.out, .fep] [.reg 0xC1404, .reg 0xC1418, .reg 0xC141C, .reg 0xC1420] s (failed src m s) := by
  unfold failed
  repeat' first
    | (with_reducible apply Within.of_all; decide)
    | (with_reducible apply Covers.of_all; decide)
    | with_reducible exact Keeps.refl _ _ _
    | with_reducible apply Keeps.via (answer_keeps _ _ _ _ _ _ _)

theorem takeFloor_keeps (r floor : Nat) (s : State) :
    Keeps [.dedup] [] s (takeFloor r floor s) := by
  unfold takeFloor
  repeat' first
    | (simp only [Keeps.toMk]; first | with_reducible apply KeepsMk.set_dedup)
    | (with_reducible apply Within.of_all; decide)
    | with_reducible exact Keeps.refl _ _ _
    | (with_reducible refine Keeps.ite (fun _ => ?_) (fun _ => ?_))

theorem withFloor_keeps (src : Nat) (m : Bytes) (s : State) :
    Keeps [.dedup] [] s (withFloor src m s) := by
  unfold withFloor
  repeat' first
    | (with_reducible apply Within.of_all; decide)
    | (with_reducible apply Covers.of_all; decide)
    | with_reducible exact Keeps.refl _ _ _
    | with_reducible apply Keeps.via (takeFloor_keeps _ _ _)

theorem reqLoad_keeps (src : Nat) (m : Bytes) (env : MemEnv) (s0 : State) :
    Keeps [.out, .mem, .beyond, .dedup, .fep] [.reg 0xC1404, .reg 0xC1418, .reg 0xC141C, .reg 0xC1420] s0 (reqLoad src m env s0) := by
  unfold reqLoad
  repeat' first
    | (with_reducible apply Within.of_all; decide)
    | (with_reducible apply Covers.of_all; decide)
    | with_reducible exact Keeps.refl _ _ _
    | with_reducible apply Keeps.via (withEnv_keeps _ _)
    | with_reducible apply Keeps.via (answer_keeps _ _ _ _ _ _ _)
    | with_reducible apply Keeps.via (denied_keeps _ _ _)
    | with_reducible apply Keeps.via (failed_keeps _ _ _)
    | with_reducible apply Keeps.via (withFloor_keeps _ _ _)
    | (with_reducible refine Keeps.ite (fun _ => ?_) (fun _ => ?_))

theorem reqLoad_keeps_env (src : Nat) (m : Bytes) (env : MemEnv) (s0 : State) :
    Keeps [.out, .dedup, .fep] [.reg 0xC1404, .reg 0xC1418, .reg 0xC141C, .reg 0xC1420] (withEnv env s0) (reqLoad src m env s0) := by
  unfold reqLoad
  repeat' first
    | (with_reducible apply Within.of_all; decide)
    | (with_reducible apply Covers.of_all; decide)
    | with_reducible exact Keeps.refl _ _ _
    | with_reducible apply Keeps.via (answer_keeps _ _ _ _ _ _ _)
    | with_reducible apply Keeps.via (denied_keeps _ _ _)
    | with_reducible apply Keeps.via (failed_keeps _ _ _)
    | with_reducible apply Keeps.via (withFloor_keeps _ _ _)
    | (with_reducible refine Keeps.ite (fun _ => ?_) (fun _ => ?_))

theorem reqLoadLine_keeps (src : Nat) (m : Bytes) (env : MemEnv) (s0 : State) :
    Keeps [.out, .mem, .beyond, .dedup, .fep] [.reg 0xC1404, .reg 0xC1418, .reg 0xC141C, .reg 0xC1420] s0 (reqLoadLine src m env s0) := by
  unfold reqLoadLine
  repeat' first
    | (with_reducible apply Within.of_all; decide)
    | (with_reducible apply Covers.of_all; decide)
    | with_reducible exact Keeps.refl _ _ _
    | with_reducible apply Keeps.via (withEnv_keeps _ _)
    | with_reducible apply Keeps.via (answer_keeps _ _ _ _ _ _ _)
    | with_reducible apply Keeps.via (denied_keeps _ _ _)
    | with_reducible apply Keeps.via (failed_keeps _ _ _)
    | with_reducible apply Keeps.via (withFloor_keeps _ _ _)
    | (with_reducible refine Keeps.ite (fun _ => ?_) (fun _ => ?_))

theorem reqLoadLine_keeps_env (src : Nat) (m : Bytes) (env : MemEnv) (s0 : State) :
    Keeps [.out, .dedup, .fep] [.reg 0xC1404, .reg 0xC1418, .reg 0xC141C, .reg 0xC1420] (withEnv env s0) (reqLoadLine src m env s0) := by
  unfold reqLoadLine
  repeat' first
    | (with_reducible apply Within.of_all; decide)
    | (with_reducible apply Covers.of_all; decide)
    | with_reducible exact Keeps.refl _ _ _
    | with_reducible apply Keeps.via (answer_keeps _ _ _ _ _ _ _)
    | with_reducible apply Keeps.via (denied_keeps _ _ _)
    | with_reducible apply Keeps.via (failed_keeps _ _ _)
    | with_reducible apply Keeps.via (withFloor_keeps _ _ _)
    | (with_reducible refine Keeps.ite (fun _ => ?_) (fun _ => ?_))

theorem reqStore_keeps (src : Nat) (m : Bytes) (env : MemEnv) (s0 : State) :
    Keeps [.out, .mem, .beyond, .dedup, .fep] [.reg 0xC1404, .reg 0xC1418, .reg 0xC141C, .reg 0xC1420] s0 (reqStore src m env s0) := by
  unfold reqStore
  repeat' first
    | (with_reducible apply Within.of_all; decide)
    | (with_reducible apply Covers.of_all; decide)
    | with_reducible exact Keeps.refl _ _ _
    | with_reducible apply Keeps.via (memWrite_keeps _ _ _)
    | with_reducible apply Keeps.via (withEnv_keeps _ _)
    | with_reducible apply Keeps.via (answer_keeps _ _ _ _ _ _ _)
    | with_reducible apply Keeps.via (denied_keeps _ _ _)
    | with_reducible apply Keeps.via (withFloor_keeps _ _ _)
    | (with_reducible refine Keeps.ite (fun _ => ?_) (fun _ => ?_))

theorem reqStore_keeps_env (src : Nat) (m : Bytes) (env : MemEnv) (s0 : State) :
    Keeps [.out, .mem, .beyond, .dedup, .fep] [.reg 0xC1404, .reg 0xC1418, .reg 0xC141C, .reg 0xC1420] (withEnv env s0) (reqStore src m env s0) := by
  unfold reqStore
  repeat' first
    | (with_reducible apply Within.of_all; decide)
    | (with_reducible apply Covers.of_all; decide)
    | with_reducible exact Keeps.refl _ _ _
    | with_reducible apply Keeps.via (memWrite_keeps _ _ _)
    | with_reducible apply Keeps.via (answer_keeps _ _ _ _ _ _ _)
    | with_reducible apply Keeps.via (denied_keeps _ _ _)
    | with_reducible apply Keeps.via (withFloor_keeps _ _ _)
    | (with_reducible refine Keeps.ite (fun _ => ?_) (fun _ => ?_))

theorem performAtomic_keeps (m : Bytes) (env : MemEnv) (s : State) :
    Keeps [.mem, .beyond] [] s (performAtomic m env s).2 := by
  unfold performAtomic
  repeat' first
    | (with_reducible apply Within.of_all; decide)
    | (with_reducible apply Covers.of_all; decide)
    | with_reducible exact Keeps.refl _ _ _
    | with_reducible apply Keeps.via (memWrite_keeps _ _ _)
    | split
    | (dsimp -proj only)

theorem performAtomic_keeps_eq {m : Bytes} {env : MemEnv} {s : State} {s' : State} {r : (Nat × Nat × Nat)}
    (hr : performAtomic m env s = (r, s')) : Keeps [.mem, .beyond] [] s s' := by
  have := performAtomic_keeps m env s
  rw [hr] at this
  exact this

theorem addEntry_keeps (e : DedupEntry) (s : State) :
    Keeps [.dedup] [.reg 0xC1014] s (addEntry e s) := by
  unfold addEntry
  repeat' first
    | (simp only [Keeps.toMk]; first | with_reducible apply KeepsMk.set_dedup)
    | (with_reducible apply Within.of_all; decide)
    | (with_reducible apply Covers.of_all; decide)
    | with_reducible exact Keeps.refl _ _ _
    | with_reducible apply Keeps.via (setField_keeps _ _ _ _ _)

theorem reqAtomic_keeps (src : Nat) (m : Bytes) (env : MemEnv) (lost : Bool) (errs : Errs) (s0 : State) :
    Keeps ([Part.mem, Part.beyond, Part.rlog, Part.mgmtNext, Part.note, Part.cadRefetch, Part.dedup] ++ abortParts) ([Area.reg 0x8, Area.reg 0x20008, Area.reg 0x20080, Area.reg 0x20084, Area.reg 0x20088, Area.reg 0x30030, Area.reg 0x31038, Area.reg 0xA0008, Area.reg 0xC0008, Area.reg 0xC1014, Area.reg 0xC1404, Area.reg 0xC1418, Area.reg 0xC141C, Area.reg 0xC1420, Area.station] ++ noteAreas ++ abortAreas) s0 (reqAtomic src m env lost errs s0) := by
  unfold reqAtomic
  repeat' first
    | (simp only [Keeps.toMk]; first | with_reducible apply KeepsMk.set_dedup)
    | (with_reducible apply Within.of_all; decide)
    | (with_reducible apply Covers.of_all; decide)
    | with_reducible exact Keeps.refl _ _ _
    | with_reducible apply Keeps.via (withEnv_keeps _ _)
    | with_reducible apply Keeps.via (countFault_keeps _ _ _)
    | with_reducible apply Keeps.via (answer_keeps _ _ _ _ _ _ _)
    | with_reducible apply Keeps.via (withFloor_keeps _ _ _)
    | with_reducible apply Keeps.via (performAtomic_keeps _ _ _)
    | with_reducible apply Keeps.via (addEntry_keeps _ _)
    | with_reducible apply Keeps.via (takeErrors_keeps _ _)
    | (with_reducible refine Keeps.ite (fun _ => ?_) (fun _ => ?_))
    | split

theorem reqWrite_keeps (src : Nat) (m : Bytes) (env : MemEnv) (s0 : State) :
    Keeps [.out, .mem, .beyond, .dedup, .fep] [.reg 0xC1404, .reg 0xC1418, .reg 0xC141C, .reg 0xC1420] s0 (reqWrite src m env s0) := by
  unfold reqWrite
  repeat' first
    | (with_reducible apply Within.of_all; decide)
    | (with_reducible apply Covers.of_all; decide)
    | with_reducible exact Keeps.refl _ _ _
    | with_reducible apply Keeps.via (memWrite_keeps _ _ _)
    | with_reducible apply Keeps.via (withEnv_keeps _ _)
    | with_reducible apply Keeps.via (answer_keeps _ _ _ _ _ _ _)
    | with_reducible apply Keeps.via (denied_keeps _ _ _)
    | with_reducible apply Keeps.via (failed_keeps _ _ _)
    | with_reducible apply Keeps.via (withFloor_keeps _ _ _)
    | (with_reducible refine Keeps.ite (fun _ => ?_) (fun _ => ?_))

theorem reqWrite_keeps_env (src : Nat) (m : Bytes) (env : MemEnv) (s0 : State) :
    Keeps [.out, .mem, .beyond, .dedup, .fep] [.reg 0xC1404, .reg 0xC1418, .reg 0xC141C, .reg 0xC1420] (withEnv env s0) (reqWrite src m env s0) := by
  unfold reqWrite
  repeat' first
    | (with_reducible apply Within.of_all; decide)
    | (with_reducible apply Covers.of_all; decide)
    | with_reducible exact Keeps.refl _ _ _
    | with_reducible apply Keeps.via (memWrite_keeps _ _ _)
    | with_reducible apply Keeps.via (answer_keeps _ _ _ _ _ _ _)
    | with_reducible apply Keeps.via (denied_keeps _ _ _)
    | with_reducible apply Keeps.via (failed_keeps _ _ _)
    | with_reducible apply Keeps.via (withFloor_keeps _ _ _)
    | (with_reducible refine Keeps.ite (fun _ => ?_) (fun _ => ?_))

theorem reqRead_keeps (src : Nat) (m : Bytes) (env : MemEnv) (s0 : State) :
    Keeps [.out, .mem, .beyond, .dedup, .fep] [.reg 0xC1404, .reg 0xC1418, .reg 0xC141C, .reg 0xC1420] s0 (reqRead src m env s0) := by
  unfold reqRead
  repeat' first
    | (with_reducible apply Within.of_all; decide)
    | (with_reducible apply Covers.of_all; decide)
    | with_reducible exact Keeps.refl _ _ _
    | with_reducible apply Keeps.via (withEnv_keeps _ _)
    | with_reducible apply Keeps.via (answer_keeps _ _ _ _ _ _ _)
    | with_reducible apply Keeps.via (denied_keeps _ _ _)
    | with_reducible apply Keeps.via (failed_keeps _ _ _)
    | with_reducible apply Keeps.via (withFloor_keeps _ _ _)
    | (with_reducible refine Keeps.ite (fun _ => ?_) (fun _ => ?_))

theorem reqRead_keeps_env (src : Nat) (m : Bytes) (env : MemEnv) (s0 : State) :
    Keeps [.out, .dedup, .fep] [.reg 0xC1404, .reg 0xC1418, .reg 0xC141C, .reg 0xC1420] (withEnv env s0) (reqRead src m env s0) := by
  unfold reqRead
  repeat' first
    | (with_reducible apply Within.of_all; decide)
    | (with_reducible apply Covers.of_all; decide)
    | with_reducible exact Keeps.refl _ _ _
    | with_reducible apply Keeps.via (answer_keeps _ _ _ _ _ _ _)
    | with_reducible apply Keeps.via (denied_keeps _ _ _)
    | with_reducible apply Keeps.via (failed_keeps _ _ _)
    | with_reducible apply Keeps.via (withFloor_keeps _ _ _)
    | (with_reducible refine Keeps.ite (fun _ => ?_) (fun _ => ?_))

end Sys2Proof.Machine
end

