-- ==== Sys2Proof/Laws/FramesFence.lean ====
section
/-! SUPPORT. What each operation of Machine/Fence.lean changes: the parts of the state and the registers, and that it keeps the
invariant. -/
namespace Sys2Proof.Machine
open Sys2Proof

theorem noteFence_keeps (chip cause : Nat) (s : State) :
    Keeps [.mem, .note, .trace] noteAreas s (noteFence chip cause s) := by
  unfold noteFence
  repeat' first
    | (with_reducible apply Within.of_all; decide)
    | (with_reducible apply Covers.of_all; decide)
    | with_reducible exact Keeps.refl _ _ _
    | with_reducible apply Keeps.via (traceEvent_keeps _ _ _ _)
    | with_reducible apply Keeps.via (notice_keeps _ _ _ _ _)

theorem endTie_keeps (t : Tie) (s : State) :
    Keeps ([Part.quarUndelivered] ++ abortParts) ([Area.reg 0x20008] ++ abortAreas) s (endTie t s) := by
  unfold endTie
  repeat' first
    | (with_reducible apply Within.of_all; decide)
    | (with_reducible apply Covers.of_all; decide)
    | with_reducible exact Keeps.refl _ _ _
    | with_reducible apply Keeps.via (settle_keeps _ _)
    | split

theorem dropWaiting_keeps (p : Message → Bool) (s : State) :
    Keeps ([Part.quarUndelivered] ++ abortParts) ([Area.reg 0x20008, Area.reg 0x80038] ++ abortAreas) s (dropWaiting p s) := by
  unfold dropWaiting
  repeat' first
    | (simp only [Keeps.toMk]; first | with_reducible apply KeepsMk.set_fep)
    | (with_reducible apply Within.of_all; decide)
    | (with_reducible apply Covers.of_all; decide)
    | with_reducible exact Keeps.refl _ _ _
    | with_reducible apply Keeps.via (endTie_keeps _ _)
    | with_reducible apply Keeps.via (bump_keeps _ _ _)
    | (with_reducible refine Keeps.foldl ?_ (fun _ _ => ?_))

theorem dropFlows_keeps (f : Nat) (s : State) :
    Keeps ([Part.quarUndelivered, Part.ports] ++ abortParts) ([Area.reg 0x20008, Area.reg 0x80038] ++ abortAreas) s (dropFlows f s) := by
  unfold dropFlows
  repeat' first
    | (simp only [Keeps.toMk]; first | with_reducible apply KeepsMk.set_fep_ports)
    | (with_reducible apply Within.of_all; decide)
    | (with_reducible apply Covers.of_all; decide)
    | with_reducible exact Keeps.refl _ _ _
    | with_reducible apply Keeps.via (endTie_keeps _ _)
    | with_reducible apply Keeps.via (bump_keeps _ _ _)
    | with_reducible apply Keeps.via (reserveGrants_keeps _)
    | (with_reducible refine Keeps.foldl ?_ (fun _ _ => ?_))
    | exact fun h => (List.length_map _).trans h

theorem dropRows_keeps (f : Nat) (s : State) :
    Keeps abortParts ([Area.reg 0x20008, Area.reg 0x80038] ++ abortAreas) s (dropRows f s) := by
  unfold dropRows
  repeat' first
    | (simp only [Keeps.toMk]; first | with_reducible apply KeepsMk.set_feeds)
    | (with_reducible apply Within.of_all; decide)
    | (with_reducible apply Covers.of_all; decide)
    | with_reducible exact Keeps.refl _ _ _
    | with_reducible apply Keeps.via (release_keeps _ _ _)
    | with_reducible apply Keeps.via (bump_keeps _ _ _)
    | (with_reducible refine Keeps.foldl ?_ (fun _ _ => ?_))

theorem loseLoans_keeps (f : Nat) (s : State) :
    Keeps abortParts ([Area.reg 0x20008, Area.reg 0x80038] ++ abortAreas) s (loseLoans f s) := by
  unfold loseLoans
  repeat' first
    | (with_reducible apply Within.of_all; decide)
    | (with_reducible apply Covers.of_all; decide)
    | with_reducible exact Keeps.refl _ _ _
    | with_reducible apply Keeps.via (loseLoan_keeps _ _ _ _ _ _)
    | with_reducible apply Keeps.via (bump_keeps _ _ _)
    | (with_reducible refine Keeps.foldl ?_ (fun _ _ => ?_))

theorem loseOrphans_keeps (f : Nat) (s : State) :
    Keeps abortParts ([Area.reg 0x20008, Area.reg 0x80038] ++ abortAreas) s (loseOrphans f s) := by
  unfold loseOrphans
  repeat' first
    | (simp only [Keeps.toMk]; first | with_reducible apply KeepsMk.set_orphans)
    | (with_reducible apply Within.of_all; decide)
    | (with_reducible apply Covers.of_all; decide)
    | with_reducible exact Keeps.refl _ _ _
    | with_reducible apply Keeps.via (release_keeps _ _ _)
    | with_reducible apply Keeps.via (bump_keeps _ _ _)
    | with_reducible apply Keeps.via (freeAll_keeps _ _)
    | (with_reducible refine Keeps.ite (fun _ => ?_) (fun _ => ?_))
    | (with_reducible refine Keeps.foldl ?_ (fun _ _ => ?_))

theorem sendBroadcastsAgain_keeps (f : Nat) (s : State) :
    Keeps [.out, .fep] [] s (sendBroadcastsAgain f s) := by
  unfold sendBroadcastsAgain
  repeat' first
    | (with_reducible apply Within.of_all; decide)
    | (with_reducible apply Covers.of_all; decide)
    | with_reducible exact Keeps.refl _ _ _
    | with_reducible apply Keeps.via (post_keeps _ _)
    | with_reducible apply Keeps.via (postAll_keeps _ _ _ _ _)
    | with_reducible apply Keeps.via (bcastFan_keeps _ _ _ _)
    | (with_reducible refine Keeps.ite (fun _ => ?_) (fun _ => ?_))
    | (with_reducible refine Keeps.foldl ?_ (fun _ _ => ?_))
    | split

theorem refetchElsewhere_keeps (f : Nat) (s : State) :
    Keeps [.out, .mgmtNext, .cadRefetch, .fep] [] s (refetchElsewhere f s) := by
  unfold refetchElsewhere
  repeat' first
    | (simp only [Keeps.toMk]; first | with_reducible apply KeepsMk.set_cadRefetch)
    | (with_reducible apply Within.of_all; decide)
    | (with_reducible apply Covers.of_all; decide)
    | with_reducible exact Keeps.refl _ _ _
    | with_reducible apply Keeps.via (askEntry_keeps _ _ _ _)
    | with_reducible apply Keeps.via (endRequest_keeps _ _ _)
    | (with_reducible refine Keeps.foldl ?_ (fun _ _ => ?_))

theorem endProbes_keeps (f : Nat) (s : State) :
    Keeps [.probes, .fep] [] s (endProbes f s) := by
  unfold endProbes
  repeat' first
    | (simp only [Keeps.toMk]; first | with_reducible apply KeepsMk.set_probes)
    | (with_reducible apply Within.of_all; decide)
    | (with_reducible apply Covers.of_all; decide)
    | with_reducible exact Keeps.refl _ _ _
    | with_reducible apply Keeps.via (endRequest_keeps _ _ _)
    | (with_reducible refine Keeps.foldl ?_ (fun _ _ => ?_))

theorem fenceStep_keeps (f : Nat) (open_ : Bool) (s : State) :
    Keeps abortParts ([Area.reg 0x8, Area.reg 0x20008, Area.reg 0x41008, Area.reg 0x6008C, Area.reg 0x80038, Area.reg 0x80044, Area.reg 0x80048, Area.reg 0xA0008] ++ abortAreas) s (fenceStep f open_ s) := by
  unfold fenceStep
  repeat' first
    | (with_reducible apply Within.of_all; decide)
    | (with_reducible apply Covers.of_all; decide)
    | with_reducible exact Keeps.refl _ _ _
    | with_reducible apply Keeps.via (collsFence_keeps _ _)
    | with_reducible apply Keeps.via (loseMember_keeps _)
    | with_reducible apply Keeps.via (runFeed_keeps _)
    | with_reducible apply Keeps.via (raiseAborts_keeps _ _ _)
    | with_reducible apply Keeps.via (dropRows_keeps _ _)
    | with_reducible apply Keeps.via (loseLoans_keeps _ _)
    | (with_reducible refine Keeps.ite (fun _ => ?_) (fun _ => ?_))

theorem applyFence_keeps (f cause : Nat) (s : State) :
    Keeps ([Part.mem, Part.beyond, Part.fences, Part.probes, Part.mgmtNext, Part.note, Part.quarUndelivered, Part.cadRefetch, Part.rma, Part.dedup, Part.ports] ++ abortParts) ([Area.queue, Area.reg 0x8, Area.reg 0x20008, Area.reg 0x41008, Area.reg 0x6008C, Area.reg 0x80038, Area.reg 0x80044, Area.reg 0x80048, Area.reg 0xA0008, Area.reg 0xC0008, Area.reg 0xC1424] ++ noteAreas ++ abortAreas) s (applyFence f cause s) := by
  unfold applyFence
  repeat' first
    | (simp only [Keeps.toMk]; first | with_reducible apply KeepsMk.set_fences)
    | (with_reducible apply Within.of_all; decide)
    | (with_reducible apply Covers.of_all; decide)
    | with_reducible exact Keeps.refl _ _ _
    | with_reducible apply Keeps.via (noteFence_keeps _ _ _)
    | with_reducible apply Keeps.via (dropWaiting_keeps _ _)
    | with_reducible apply Keeps.via (dropFlows_keeps _ _)
    | with_reducible apply Keeps.via (loseOrphans_keeps _ _)
    | with_reducible apply Keeps.via (sendBroadcastsAgain_keeps _ _)
    | with_reducible apply Keeps.via (refetchElsewhere_keeps _ _)
    | with_reducible apply Keeps.via (endProbes_keeps _ _)
    | with_reducible apply Keeps.via (fenceStep_keeps _ _ _)
    | with_reducible apply Keeps.via (endCommandsTo_keeps _ _)
    | with_reducible apply Keeps.via (forgetRequesters_keeps _ _)
    | with_reducible apply Keeps.via (roundsFence_keeps _ _)
    | (with_reducible refine Keeps.ite (fun _ => ?_) (fun _ => ?_))

theorem selfFence_keeps (cause unit code : Nat) (s : State) :
    Keeps ([Part.mem, Part.dat, Part.fences, Part.fenceSelf, Part.note, Part.quarUndelivered] ++ abortParts) [.reg 0x32C, .reg 0x334, .reg 0x338, .reg 0x20008, .reg 0x80008, .reg 0x80038, .reg 0x80050, .reg (unit + 8)] s (selfFence cause unit code s) := by
  unfold selfFence
  repeat' first
    | (simp only [Keeps.toMk]; first | with_reducible apply KeepsMk.set_dat_fences_fenceSelf)
    | (with_reducible apply Within.of_all; decide)
    | with_reducible exact Covers.nil _
    | (with_reducible apply Covers.cons; · first | decide | simp)
    | with_reducible exact Keeps.refl _ _ _
    | with_reducible apply Keeps.via (raiseAborts_keeps _ _ _)
    | with_reducible apply Keeps.via (noteFence_keeps _ _ _)
    | with_reducible apply Keeps.via (dropWaiting_keeps _ _)
    | (with_reducible refine Keeps.ite (fun _ => ?_) (fun _ => ?_))
    | unfold noteAreas
    | unfold abortAreas
    | simp only [List.cons_append, List.nil_append]

end Sys2Proof.Machine
end

