-- ==== Sys2Proof/Laws/FramesDatum.lean ====
section
/-! SUPPORT. What each operation of Machine/Datum.lean changes: the parts of the state and the registers, and that it keeps the
invariant. -/
namespace Sys2Proof.Machine
open Sys2Proof

theorem modDat_keeps (f : Dat → Dat) (s : State) :
    Keeps [.dat] [] s (modDat f s) := by
  unfold modDat
  repeat' first
    | (simp only [Keeps.toMk]; first | with_reducible apply KeepsMk.set_dat)
    | (with_reducible apply Within.of_all; decide)
    | with_reducible exact Keeps.refl _ _ _

theorem doGo_keeps (s : State) :
    Keeps [.dat] [.reg 0x8] s (doGo s) := by
  unfold doGo
  repeat' first
    | (with_reducible apply Within.of_all; decide)
    | (with_reducible apply Covers.of_all; decide)
    | with_reducible exact Keeps.refl _ _ _
    | with_reducible apply Keeps.via (modDat_keeps _ _)
    | with_reducible apply Keeps.via (record_keeps _ _ _)
    | (with_reducible refine Keeps.ite (fun _ => ?_) (fun _ => ?_))

theorem latchFields_keeps (s : State) :
    Keeps [.latched] [.reg 0x30034, .reg 0x41020, .reg 0x41024] s (latchFields s) := by
  unfold latchFields
  repeat' first
    | (simp only [Keeps.toMk]; first | with_reducible apply KeepsMk.set_latched)
    | (with_reducible apply Within.of_all; decide)
    | (with_reducible apply Covers.of_all; decide)
    | with_reducible exact Keeps.refl _ _ _
    | with_reducible apply Keeps.via (setWord_keeps _ _ _)

theorem applyQuarantines_keeps (s : State) :
    Keeps [.mem, .note, .cad, .lst, .quarPending] noteAreas s (applyQuarantines s) := by
  unfold applyQuarantines
  repeat' first
    | (simp only [Keeps.toMk]; first | with_reducible apply KeepsMk.set_quarPending)
    | (with_reducible apply Within.of_all; decide)
    | (with_reducible apply Covers.of_all; decide)
    | with_reducible exact Keeps.refl _ _ _
    | with_reducible apply Keeps.via (applyQuarantine_keeps _ _)
    | (with_reducible refine Keeps.foldl ?_ (fun _ _ => ?_))

theorem applyUnfences_keeps (s : State) :
    Keeps [.out, .fences, .unfences, .fep] [] s (applyUnfences s) := by
  unfold applyUnfences
  repeat' first
    | (simp only [Keeps.toMk]; first | with_reducible apply KeepsMk.set_fences_unfences_fep)
    | (with_reducible apply Within.of_all; decide)
    | (with_reducible apply Covers.of_all; decide)
    | with_reducible exact Keeps.refl _ _ _
    | with_reducible apply Keeps.via (releaseFallback_keeps _ _ _)
    | (with_reducible refine Keeps.foldl ?_ (fun _ _ => ?_))

theorem actionOne_keeps (s : State) :
    Keeps [.out, .mem, .beyond, .commits, .latched, .fences, .unfences, .note, .cad, .lst, .quarPending, .fep] [.all] s (actionOne s) := by
  unfold actionOne
  repeat' first
    | (with_reducible apply Within.of_all; decide)
    | (with_reducible apply Covers.of_all; decide)
    | (with_reducible apply Covers.all; decide)
    | with_reducible exact Keeps.refl _ _ _
    | with_reducible apply Keeps.via (latchFields_keeps _)
    | with_reducible apply Keeps.via (applyQuarantines_keeps _)
    | with_reducible apply Keeps.via (applyUnfences_keeps _)
    | with_reducible apply Keeps.via (applyPending_keeps _)

theorem refuseWith_keeps (codes : List Nat) (s : State) :
    Keeps [.mem, .dat, .note] ([Area.reg 0x10008] ++ noteAreas) s (refuseWith codes s) := by
  unfold refuseWith
  repeat' first
    | (with_reducible apply Within.of_all; decide)
    | (with_reducible apply Covers.of_all; decide)
    | with_reducible exact Keeps.refl _ _ _
    | with_reducible apply Keeps.via (modDat_keeps _ _)
    | with_reducible apply Keeps.via (platEvent_keeps _ _)
    | with_reducible apply Keeps.via (record_keeps _ _ _)
    | (with_reducible refine Keeps.foldl ?_ (fun _ _ => ?_))

theorem beginCheck_keeps (s : State) :
    Keeps [.mem, .dat, .note] ([Area.reg 0x10008] ++ noteAreas) s (beginCheck s) := by
  unfold beginCheck
  repeat' first
    | (with_reducible apply Within.of_all; decide)
    | (with_reducible apply Covers.of_all; decide)
    | with_reducible exact Keeps.refl _ _ _
    | with_reducible apply Keeps.via (modDat_keeps _ _)
    | with_reducible apply Keeps.via (refuseWith_keeps _ _)
    | (with_reducible refine Keeps.ite (fun _ => ?_) (fun _ => ?_))
    | split

theorem dropDatumRounds_keeps (s : State) :
    Keeps [.rounds] [] s (dropDatumRounds s) := by
  unfold dropDatumRounds
  repeat' first
    | (simp only [Keeps.toMk]; first | with_reducible apply KeepsMk.set_rounds)
    | (with_reducible apply Within.of_all; decide)
    | with_reducible exact Keeps.refl _ _ _

theorem tryAgreement_keeps (s : State) :
    Keeps [.out, .dat, .trace, .rounds, .rma, .cache, .fep] [.reg 0x300000, .reg 0x308000] s (tryAgreement s) := by
  unfold tryAgreement
  repeat' first
    | (with_reducible apply Within.of_all; decide)
    | (with_reducible apply Covers.of_all; decide)
    | with_reducible exact Keeps.refl _ _ _
    | with_reducible apply Keeps.via (modDat_keeps _ _)
    | with_reducible apply Keeps.via (contribute_keeps _ _ _ _ _)
    | (with_reducible refine Keeps.ite (fun _ => ?_) (fun _ => ?_))

theorem datumBegin_keeps (env : MemEnv) (s0 : State) :
    Keeps [.out, .mem, .beyond, .commits, .latched, .dat, .fences, .unfences, .note, .trace, .cad, .lst, .quarPending, .rounds, .rma, .cache, .fep] [.all] s0 (datumBegin env s0) := by
  unfold datumBegin
  repeat' first
    | (with_reducible apply Within.of_all; decide)
    | (with_reducible apply Covers.of_all; decide)
    | (with_reducible apply Covers.all; decide)
    | with_reducible exact Keeps.refl _ _ _
    | with_reducible apply Keeps.via (modDat_keeps _ _)
    | with_reducible apply Keeps.via (actionOne_keeps _)
    | with_reducible apply Keeps.via (beginCheck_keeps _)
    | with_reducible apply Keeps.via (tryAgreement_keeps _)
    | with_reducible apply Keeps.via (withEnv_keeps _ _)
    | (with_reducible refine Keeps.ite (fun _ => ?_) (fun _ => ?_))

theorem datumBegin_keeps_env (env : MemEnv) (s0 : State) :
    Keeps [.out, .mem, .beyond, .commits, .latched, .dat, .fences, .unfences, .note, .trace, .cad, .lst, .quarPending, .rounds, .rma, .cache, .fep] [.all] (withEnv env s0) (datumBegin env s0) := by
  unfold datumBegin
  repeat' first
    | (with_reducible apply Within.of_all; decide)
    | (with_reducible apply Covers.of_all; decide)
    | (with_reducible apply Covers.all; decide)
    | with_reducible exact Keeps.refl _ _ _
    | with_reducible apply Keeps.via (modDat_keeps _ _)
    | with_reducible apply Keeps.via (actionOne_keeps _)
    | with_reducible apply Keeps.via (beginCheck_keeps _)
    | with_reducible apply Keeps.via (tryAgreement_keeps _)
    | (with_reducible refine Keeps.ite (fun _ => ?_) (fun _ => ?_))

theorem cadastreCheckDone_keeps (env : MemEnv) (s0 : State) :
    Keeps [.out, .mem, .beyond, .dat, .note, .trace, .rounds, .rma, .cache, .fep] ([Area.reg 0x10008, Area.reg 0x300000, Area.reg 0x308000] ++ noteAreas) s0 (cadastreCheckDone env s0) := by
  unfold cadastreCheckDone
  repeat' first
    | (with_reducible apply Within.of_all; decide)
    | (with_reducible apply Covers.of_all; decide)
    | with_reducible exact Keeps.refl _ _ _
    | with_reducible apply Keeps.via (modDat_keeps _ _)
    | with_reducible apply Keeps.via (refuseWith_keeps _ _)
    | with_reducible apply Keeps.via (tryAgreement_keeps _)
    | with_reducible apply Keeps.via (withEnv_keeps _ _)
    | (with_reducible refine Keeps.ite (fun _ => ?_) (fun _ => ?_))
    | split
    | (dsimp -proj only)

theorem cadastreCheckDone_keeps_env (env : MemEnv) (s0 : State) :
    Keeps [.out, .mem, .dat, .note, .trace, .rounds, .rma, .cache, .fep] ([Area.reg 0x10008, Area.reg 0x300000, Area.reg 0x308000] ++ noteAreas) (withEnv env s0) (cadastreCheckDone env s0) := by
  unfold cadastreCheckDone
  repeat' first
    | (with_reducible apply Within.of_all; decide)
    | (with_reducible apply Covers.of_all; decide)
    | with_reducible exact Keeps.refl _ _ _
    | with_reducible apply Keeps.via (modDat_keeps _ _)
    | with_reducible apply Keeps.via (refuseWith_keeps _ _)
    | with_reducible apply Keeps.via (tryAgreement_keeps _)
    | (with_reducible refine Keeps.ite (fun _ => ?_) (fun _ => ?_))
    | split
    | (dsimp -proj only)

theorem endDatum_keeps (code : Nat) (s : State) :
    Keeps [.dat, .rounds] [] s (endDatum code s) := by
  unfold endDatum
  repeat' first
    | (with_reducible apply Within.of_all; decide)
    | (with_reducible apply Covers.of_all; decide)
    | with_reducible exact Keeps.refl _ _ _
    | with_reducible apply Keeps.via (modDat_keeps _ _)
    | with_reducible apply Keeps.via (dropDatumRounds_keeps _)

theorem refuseDatum_keeps (code : Nat) (s : State) :
    Keeps [.mem, .dat, .note, .rounds] ([Area.reg 0x8] ++ noteAreas) s (refuseDatum code s) := by
  unfold refuseDatum
  repeat' first
    | (with_reducible apply Within.of_all; decide)
    | (with_reducible apply Covers.of_all; decide)
    | with_reducible exact Keeps.refl _ _ _
    | with_reducible apply Keeps.via (endDatum_keeps _ _)
    | with_reducible apply Keeps.via (notice_keeps _ _ _ _ _)
    | with_reducible apply Keeps.via (record_keeps _ _ _)
    | (with_reducible refine Keeps.ite (fun _ => ?_) (fun _ => ?_))

theorem datumTimeout_keeps (s : State) :
    Keeps [.mem, .dat, .note, .rounds] ([Area.reg 0x8] ++ noteAreas) s (datumTimeout s) := by
  unfold datumTimeout
  repeat' first
    | (with_reducible apply Within.of_all; decide)
    | (with_reducible apply Covers.of_all; decide)
    | with_reducible exact Keeps.refl _ _ _
    | with_reducible apply Keeps.via (endDatum_keeps _ _)
    | with_reducible apply Keeps.via (notice_keeps _ _ _ _ _)
    | with_reducible apply Keeps.via (record_keeps _ _ _)
    | (with_reducible refine Keeps.ite (fun _ => ?_) (fun _ => ?_))

theorem writeProposal_keeps (s : State) :
    Keeps [.mem, .beyond, .dat, .note, .demand] ([Area.reg 0x60028] ++ noteAreas) s (writeProposal s) := by
  unfold writeProposal
  repeat' first
    | (simp only [Keeps.toMk]; first | with_reducible apply KeepsMk.set_demand)
    | (with_reducible apply Within.of_all; decide)
    | (with_reducible apply Covers.of_all; decide)
    | with_reducible exact Keeps.refl _ _ _
    | with_reducible apply Keeps.via (cadNotice_keeps _ _ _)
    | with_reducible apply Keeps.via (modDat_keeps _ _)
    | with_reducible apply Keeps.via (memWrite_keeps _ _ _)
    | with_reducible apply Keeps.via (setField_keeps _ _ _ _ _)
    | (with_reducible refine Keeps.ite (fun _ => ?_) (fun _ => ?_))

theorem startContribute_keeps (s : State) :
    Keeps [.out, .dat, .rounds, .fep] [] s (startContribute s) := by
  unfold startContribute
  repeat' first
    | (with_reducible apply Within.of_all; decide)
    | (with_reducible apply Covers.of_all; decide)
    | with_reducible exact Keeps.refl _ _ _
    | with_reducible apply Keeps.via (modDat_keeps _ _)
    | with_reducible apply Keeps.via (contribute_keeps _ _ _ _ _)

theorem afterActions_keeps (s : State) :
    Keeps [.out, .mem, .beyond, .dat, .note, .demand, .rounds, .fep] ([Area.reg 0x60028] ++ noteAreas) s (afterActions s) := by
  unfold afterActions
  repeat' first
    | (with_reducible apply Within.of_all; decide)
    | (with_reducible apply Covers.of_all; decide)
    | with_reducible exact Keeps.refl _ _ _
    | with_reducible apply Keeps.via (modDat_keeps _ _)
    | with_reducible apply Keeps.via (writeProposal_keeps _)
    | with_reducible apply Keeps.via (startContribute_keeps _)
    | (with_reducible refine Keeps.ite (fun _ => ?_) (fun _ => ?_))

theorem initLive_keeps (p : Plat) (s : State) :
    Keeps [.trace] [.all] s (initLive p s) := by
  unfold initLive
  repeat' first
    | (with_reducible apply Within.of_all; decide)
    | (with_reducible apply Covers.of_all; decide)
    | (with_reducible apply Covers.all; decide)
    | with_reducible exact Keeps.refl _ _ _
    | with_reducible apply Keeps.via (traceRestart_keeps _)
    | with_reducible apply Keeps.via (setWord_keeps _ _ _)
    | (with_reducible refine Keeps.ite (fun _ => ?_) (fun _ => ?_))
    | (with_reducible refine Keeps.foldl ?_ (fun _ _ => ?_))

theorem repartition_keeps (p : Plat) (s : State) :
    Keeps [.trace, .rma, .cache] [.reg 0x300000, .reg 0x308000] s (repartition p s) := by
  unfold repartition
  repeat' first
    | (simp only [Keeps.toMk]; first | with_reducible apply KeepsMk.set_trace)
    | (with_reducible apply Within.of_all; decide)
    | (with_reducible apply Covers.of_all; decide)
    | with_reducible exact Keeps.refl _ _ _
    | with_reducible apply Keeps.via (setField_keeps _ _ _ _ _)
    | with_reducible apply Keeps.via (dropAll_keeps _)
    | (with_reducible refine Keeps.ite (fun _ => ?_) (fun _ => ?_))
    | exact fun h => h
    | (intro h; first | done | (simpa using h; done) | (simp; done))

theorem activatePlat_keeps (p : Plat) (s : State) :
    Keeps [.out, .mem, .beyond, .ldr, .dat, .note, .trace, .lst, .quarPending, .rma, .cache, .fep] [.all] s (activatePlat p s) := by
  unfold activatePlat
  repeat' first
    | (simp only [Keeps.toMk]; first | with_reducible apply KeepsMk.set_ldr_quarPending)
    | (with_reducible apply Within.of_all; decide)
    | (with_reducible apply Covers.of_all; decide)
    | (with_reducible apply Covers.all; decide)
    | with_reducible exact Keeps.refl _ _ _
    | with_reducible apply Keeps.via (discardList_keeps _)
    | with_reducible apply Keeps.via (modDat_keeps _ _)
    | with_reducible apply Keeps.via (initLive_keeps _ _)
    | with_reducible apply Keeps.via (repartition_keeps _ _)
    | with_reducible apply Keeps.via (platEvent_keeps _ _)
    | with_reducible apply Keeps.via (divideLanding_keeps _)
    | (with_reducible refine Keeps.ite (fun _ => ?_) (fun _ => ?_))

theorem agreementResult_keeps (lanes : Bytes) (s : State) :
    Keeps [.out, .mem, .beyond, .boot, .ldr, .dat, .note, .trace, .lst, .demand, .quarPending, .rounds, .rma, .cache, .fep] [.all] s (agreementResult lanes s) := by
  unfold agreementResult
  repeat' first
    | (simp only [Keeps.toMk]; first | with_reducible apply KeepsMk.set_boot)
    | (with_reducible apply Within.of_all; decide)
    | (with_reducible apply Covers.of_all; decide)
    | (with_reducible apply Covers.all; decide)
    | with_reducible exact Keeps.refl _ _ _
    | with_reducible apply Keeps.via (modDat_keeps _ _)
    | with_reducible apply Keeps.via (refuseDatum_keeps _ _)
    | with_reducible apply Keeps.via (afterActions_keeps _)
    | with_reducible apply Keeps.via (activatePlat_keeps _ _)
    | (with_reducible refine Keeps.ite (fun _ => ?_) (fun _ => ?_))
    | split
    | (dsimp -proj only)

theorem poolsBuild_keeps (s : State) :
    Keeps [.out, .mem, .beyond, .dat, .note, .demand, .pools, .rounds, .fep] ([Area.reg 0x60028] ++ noteAreas) s (poolsBuild s) := by
  unfold poolsBuild
  repeat' first
    | (with_reducible apply Within.of_all; decide)
    | (with_reducible apply Covers.of_all; decide)
    | with_reducible exact Keeps.refl _ _ _
    | with_reducible apply Keeps.via (modDat_keeps _ _)
    | with_reducible apply Keeps.via (afterActions_keeps _)
    | with_reducible apply Keeps.via (buildPools_keeps _ _ _)
    | (with_reducible refine Keeps.ite (fun _ => ?_) (fun _ => ?_))
    | split

theorem cadastreReloadDone_keeps (env : MemEnv) (s0 : State) :
    Keeps ([Part.mem, Part.beyond, Part.dat, Part.fences, Part.fenceSelf, Part.note, Part.cad, Part.demand, Part.quarUndelivered] ++ abortParts) ([Area.reg 0x10008, Area.reg 0x20008, Area.reg 0x60028, Area.reg 0x80038] ++ noteAreas ++ abortAreas) s0 (cadastreReloadDone env s0) := by
  unfold cadastreReloadDone
  repeat' first
    | (simp only [Keeps.toMk]; first | with_reducible apply KeepsMk.set_cad)
    | (with_reducible apply Within.of_all; decide)
    | (with_reducible apply Covers.of_all; decide)
    | with_reducible exact Keeps.refl _ _ _
    | with_reducible apply Keeps.via (modDat_keeps _ _)
    | with_reducible apply Keeps.via (endDatum_keeps _ _)
    | with_reducible apply Keeps.via (afterActions_keeps _)
    | with_reducible apply Keeps.via (bcastSend_keeps _ _ _ _ _)
    | with_reducible apply Keeps.via (selfFence_keeps _ _ _ _)
    | with_reducible apply Keeps.via (withEnv_keeps _ _)
    | with_reducible apply Keeps.via (countFault_keeps _ _ _)
    | (with_reducible refine Keeps.ite (fun _ => ?_) (fun _ => ?_))
    | split
    | (dsimp -proj only)

theorem cadastreReloadDone_keeps_env (env : MemEnv) (s0 : State) :
    Keeps ([Part.mem, Part.beyond, Part.dat, Part.fences, Part.fenceSelf, Part.note, Part.cad, Part.demand, Part.quarUndelivered] ++ abortParts) ([Area.reg 0x10008, Area.reg 0x20008, Area.reg 0x60028, Area.reg 0x80038] ++ noteAreas ++ abortAreas) (withEnv env s0) (cadastreReloadDone env s0) := by
  unfold cadastreReloadDone
  repeat' first
    | (simp only [Keeps.toMk]; first | with_reducible apply KeepsMk.set_cad)
    | (with_reducible apply Within.of_all; decide)
    | (with_reducible apply Covers.of_all; decide)
    | with_reducible exact Keeps.refl _ _ _
    | with_reducible apply Keeps.via (modDat_keeps _ _)
    | with_reducible apply Keeps.via (endDatum_keeps _ _)
    | with_reducible apply Keeps.via (afterActions_keeps _)
    | with_reducible apply Keeps.via (bcastSend_keeps _ _ _ _ _)
    | with_reducible apply Keeps.via (selfFence_keeps _ _ _ _)
    | with_reducible apply Keeps.via (countFault_keeps _ _ _)
    | (with_reducible refine Keeps.ite (fun _ => ?_) (fun _ => ?_))
    | split
    | (dsimp -proj only)

theorem startChain_keeps (s : State) :
    Keeps [.rlog] [] s (startChain s) := by
  unfold startChain
  repeat' first
    | (simp only [Keeps.toMk]; first | with_reducible apply KeepsMk.set_rlog)
    | (with_reducible apply Within.of_all; decide)
    | with_reducible exact Keeps.refl _ _ _
    | (with_reducible refine Keeps.ite (fun _ => ?_) (fun _ => ?_))

theorem startStep_keeps (s : State) :
    Keeps ([Part.boot, Part.latched, Part.dat, Part.stepNum, Part.prevT, Part.rlog, Part.demand, Part.quarActing, Part.quarSeen] ++ abortParts) ([Area.reg 0x8, Area.reg 0x20008] ++ abortAreas) s (startStep s) := by
  unfold startStep
  repeat' first
    | (simp only [Keeps.toMk]; first | with_reducible apply KeepsMk.set_boot_latched_run_stepNum_prevT_broadcasts_quarActing_quarSeen_bucketMaps_rounds | with_reducible apply KeepsMk.set_dat_trace_demand)
    | (with_reducible apply Within.of_all; decide)
    | (with_reducible apply Covers.of_all; decide)
    | with_reducible exact Keeps.refl _ _ _
    | with_reducible apply Keeps.via (startChain_keeps _)
    | with_reducible apply Keeps.via (raiseAborts_keeps _ _ _)
    | with_reducible apply Keeps.via (ingestOn_keeps _)
    | (with_reducible refine Keeps.ite (fun _ => ?_) (fun _ => ?_))
    | exact fun h => h

theorem startLate_keeps (s : State) :
    Keeps ([Part.boot, Part.latched, Part.dat, Part.stepNum, Part.prevT, Part.rlog, Part.demand, Part.quarActing, Part.quarSeen] ++ abortParts) ([Area.reg 0x8, Area.reg 0x20008] ++ abortAreas) s (startLate s) := by
  unfold startLate
  repeat' first
    | (with_reducible apply Within.of_all; decide)
    | (with_reducible apply Covers.of_all; decide)
    | with_reducible exact Keeps.refl _ _ _
    | with_reducible apply Keeps.via (startStep_keeps _)
    | (with_reducible refine Keeps.ite (fun _ => ?_) (fun _ => ?_))

theorem switchNow_keeps (s : State) :
    Keeps [.mem, .dat, .note, .cad, .lst] ([Area.reg 0x60098] ++ noteAreas) s (switchNow s) := by
  unfold switchNow
  repeat' first
    | (with_reducible apply Within.of_all; decide)
    | (with_reducible apply Covers.of_all; decide)
    | with_reducible exact Keeps.refl _ _ _
    | with_reducible apply Keeps.via (switchList_keeps _ _)
    | with_reducible apply Keeps.via (modDat_keeps _ _)
    | split

theorem startRoundResult_keeps (latest refused : Nat) (s : State) :
    Keeps ([Part.mem, Part.beyond, Part.boot, Part.latched, Part.dat, Part.stepNum, Part.prevT, Part.rlog, Part.note, Part.cad, Part.lst, Part.demand, Part.quarActing, Part.quarSeen] ++ abortParts) ([Area.reg 0x8, Area.reg 0x20008, Area.reg 0x60028, Area.reg 0x60098] ++ noteAreas ++ abortAreas) s (startRoundResult latest refused s) := by
  unfold startRoundResult
  repeat' first
    | (with_reducible apply Within.of_all; decide)
    | (with_reducible apply Covers.of_all; decide)
    | with_reducible exact Keeps.refl _ _ _
    | with_reducible apply Keeps.via (modDat_keeps _ _)
    | with_reducible apply Keeps.via (refuseDatum_keeps _ _)
    | with_reducible apply Keeps.via (writeProposal_keeps _)
    | with_reducible apply Keeps.via (startLate_keeps _)
    | with_reducible apply Keeps.via (switchNow_keeps _)
    | (with_reducible refine Keeps.ite (fun _ => ?_) (fun _ => ?_))

theorem stepStart_keeps (s : State) :
    Keeps ([Part.boot, Part.latched, Part.dat, Part.stepNum, Part.prevT, Part.rlog, Part.demand, Part.quarActing, Part.quarSeen] ++ abortParts) ([Area.reg 0x8, Area.reg 0x20008] ++ abortAreas) s (stepStart s) := by
  unfold stepStart
  repeat' first
    | (with_reducible apply Within.of_all; decide)
    | (with_reducible apply Covers.of_all; decide)
    | with_reducible exact Keeps.refl _ _ _
    | with_reducible apply Keeps.via (startStep_keeps _)
    | (with_reducible refine Keeps.ite (fun _ => ?_) (fun _ => ?_))

theorem listSwitchReadDone_keeps (env : MemEnv) (s0 : State) :
    Keeps [.out, .mem, .beyond, .dat, .rounds, .fep] [.reg 0x60008] s0 (listSwitchReadDone env s0) := by
  unfold listSwitchReadDone
  repeat' first
    | (with_reducible apply Within.of_all; decide)
    | (with_reducible apply Covers.of_all; decide)
    | with_reducible exact Keeps.refl _ _ _
    | with_reducible apply Keeps.via (modDat_keeps _ _)
    | with_reducible apply Keeps.via (startContribute_keeps _)
    | with_reducible apply Keeps.via (withEnv_keeps _ _)
    | with_reducible apply Keeps.via (record_keeps _ _ _)
    | (with_reducible refine Keeps.ite (fun _ => ?_) (fun _ => ?_))

theorem listSwitchReadDone_keeps_env (env : MemEnv) (s0 : State) :
    Keeps [.out, .dat, .rounds, .fep] [.reg 0x60008] (withEnv env s0) (listSwitchReadDone env s0) := by
  unfold listSwitchReadDone
  repeat' first
    | (with_reducible apply Within.of_all; decide)
    | (with_reducible apply Covers.of_all; decide)
    | with_reducible exact Keeps.refl _ _ _
    | with_reducible apply Keeps.via (modDat_keeps _ _)
    | with_reducible apply Keeps.via (startContribute_keeps _)
    | with_reducible apply Keeps.via (record_keeps _ _ _)
    | (with_reducible refine Keeps.ite (fun _ => ?_) (fun _ => ?_))

theorem verdictContribute_keeps (s : State) :
    Keeps [.out, .run, .rounds, .fep] [] s (verdictContribute s) := by
  unfold verdictContribute
  repeat' first
    | (with_reducible apply Within.of_all; decide)
    | (with_reducible apply Covers.of_all; decide)
    | with_reducible exact Keeps.refl _ _ _
    | with_reducible apply Keeps.via (contribute_keeps _ _ _ _ _)
    | with_reducible apply Keeps.via (modRun_keeps _ _)
    | (with_reducible refine Keeps.ite (fun _ => ?_) (fun _ => ?_))
    | split

theorem stepTimeout_keeps (s : State) :
    Keeps abortParts abortAreas s (stepTimeout s) := by
  unfold stepTimeout
  repeat' first
    | (with_reducible apply Within.of_all; decide)
    | (with_reducible apply Covers.of_all; decide)
    | with_reducible exact Keeps.refl _ _ _
    | with_reducible apply Keeps.via (raiseAborts_keeps _ _ _)
    | (with_reducible refine Keeps.ite (fun _ => ?_) (fun _ => ?_))
    | split

theorem foldEntry_keeps (r : Run) (cls : Nat) (s : State) :
    Keeps [.rlog] [] s (foldEntry r cls s) := by
  unfold foldEntry
  repeat' first
    | (simp only [Keeps.toMk]; first | with_reducible apply KeepsMk.set_rlog)
    | (with_reducible apply Within.of_all; decide)
    | with_reducible exact Keeps.refl _ _ _
    | (with_reducible refine Keeps.ite (fun _ => ?_) (fun _ => ?_))
    | split

theorem checkpointDue_keeps (s : State) :
    Keeps [.rlog] [.reg 0x274] s (checkpointDue s) := by
  unfold checkpointDue
  repeat' first
    | (simp only [Keeps.toMk]; first | with_reducible apply KeepsMk.set_rlog)
    | (with_reducible apply Within.of_all; decide)
    | (with_reducible apply Covers.of_all; decide)
    | with_reducible exact Keeps.refl _ _ _
    | with_reducible apply Keeps.via (bumpField_keeps _ _ _ _ _)
    | (with_reducible refine Keeps.ite (fun _ => ?_) (fun _ => ?_))
    | split

theorem askCheckpoint_keeps (s : State) :
    Keeps [.rlog] [.reg 0x274] s (askCheckpoint s) := by
  unfold askCheckpoint
  repeat' first
    | (simp only [Keeps.toMk]; first | with_reducible apply KeepsMk.set_rlog)
    | (with_reducible apply Within.of_all; decide)
    | (with_reducible apply Covers.of_all; decide)
    | with_reducible exact Keeps.refl _ _ _
    | with_reducible apply Keeps.via (checkpointDue_keeps _)
    | (with_reducible refine Keeps.ite (fun _ => ?_) (fun _ => ?_))

theorem checkpointsAfter_keeps (s : State) :
    Keeps [.rlog] [.reg 0x274] s (checkpointsAfter s) := by
  unfold checkpointsAfter
  repeat' first
    | (simp only [Keeps.toMk]; first | with_reducible apply KeepsMk.set_rlog)
    | (with_reducible apply Within.of_all; decide)
    | (with_reducible apply Covers.of_all; decide)
    | with_reducible exact Keeps.refl _ _ _
    | with_reducible apply Keeps.via (checkpointDue_keeps _)
    | (with_reducible refine Keeps.ite (fun _ => ?_) (fun _ => ?_))

theorem checkpointSigned_keeps (errs : Errs) (s0 : State) :
    Keeps ([Part.mem, Part.beyond, Part.rlog, Part.mgmtNext, Part.note, Part.cadRefetch] ++ abortParts) ([Area.reg 0x8, Area.reg 0x20008, Area.reg 0x20080, Area.reg 0x20084, Area.reg 0x20088, Area.reg 0x30030, Area.reg 0x31038, Area.reg 0xA0008, Area.reg 0x200070, Area.station] ++ noteAreas ++ abortAreas) s0 (checkpointSigned errs s0) := by
  unfold checkpointSigned
  repeat' first
    | (simp only [Keeps.toMk]; first | with_reducible apply KeepsMk.set_rlog)
    | (with_reducible apply Within.of_all; decide)
    | (with_reducible apply Covers.of_all; decide)
    | with_reducible exact Keeps.refl _ _ _
    | with_reducible apply Keeps.via (memWrite_keeps _ _ _)
    | with_reducible apply Keeps.via (bump_keeps _ _ _)
    | with_reducible apply Keeps.via (notice_keeps _ _ _ _ _)
    | with_reducible apply Keeps.via (takeErrors_keeps _ _)
    | (with_reducible refine Keeps.ite (fun _ => ?_) (fun _ => ?_))
    | split
    | (dsimp -proj only)

theorem rlogStart_keeps (n : Nat) (value : Word32) (s : State) :
    Keeps [.mem, .rlog, .note] ([Area.reg 0x8] ++ noteAreas) s (rlogStart n value s) := by
  unfold rlogStart
  repeat' first
    | (simp only [Keeps.toMk]; first | with_reducible apply KeepsMk.set_rlog)
    | (with_reducible apply Within.of_all; decide)
    | (with_reducible apply Covers.of_all; decide)
    | with_reducible exact Keeps.refl _ _ _
    | with_reducible apply Keeps.via (securityCode_keeps _ _ _)
    | (with_reducible refine Keeps.ite (fun _ => ?_) (fun _ => ?_))

theorem stepLo_keeps (value : Word32) (s : State) :
    Keeps [.stepNum] [.reg 0x8] s (stepLo value s) := by
  unfold stepLo
  repeat' first
    | (simp only [Keeps.toMk]; first | with_reducible apply KeepsMk.set_stepNum)
    | (with_reducible apply Within.of_all; decide)
    | (with_reducible apply Covers.of_all; decide)
    | with_reducible exact Keeps.refl _ _ _
    | with_reducible apply Keeps.via (record_keeps _ _ _)
    | (with_reducible refine Keeps.ite (fun _ => ?_) (fun _ => ?_))

theorem writeRecord_keeps (r : Run) (v : VerdictRec) (s0 : State) :
    Keeps [.mem, .beyond, .freshCount] [.reg 0x24C] s0 (writeRecord r v s0) := by
  unfold writeRecord
  repeat' first
    | (with_reducible apply Within.of_all; decide)
    | (with_reducible apply Covers.of_all; decide)
    | with_reducible exact Keeps.refl _ _ _
    | with_reducible apply Keeps.via (memWrite_keeps _ _ _)
    | with_reducible apply Keeps.via (setField_keeps _ _ _ _ _)
    | with_reducible apply Keeps.via (fresh_keeps _)

theorem clearStep_keeps (s : State) :
    Keeps [.run, .pools, .halves, .homes, .feeds, .handed, .collects, .collectHeld] [] s (clearStep s) := by
  unfold clearStep
  repeat' first
    | (simp only [Keeps.toMk]; first | with_reducible apply KeepsMk.set_run_halves_homes_feeds_handed_collects_collectHeld)
    | (with_reducible apply Within.of_all; decide)
    | (with_reducible apply Covers.of_all; decide)
    | with_reducible exact Keeps.refl _ _ _
    | with_reducible apply Keeps.via (cancelRequests_keeps _ _)
    | with_reducible apply Keeps.via (freeAll_keeps _ _)

theorem verdict_keeps (code : Nat) (errs : Errs) (s0 : State) :
    Keeps ([Part.mem, Part.beyond, Part.freshCount, Part.verdict, Part.rlog, Part.mgmtNext, Part.note, Part.cadRefetch] ++ abortParts) ([Area.reg 0x8, Area.reg 0x24C, Area.reg 0x274, Area.reg 0x20008, Area.reg 0x20080, Area.reg 0x20084, Area.reg 0x20088, Area.reg 0x30030, Area.reg 0x31038, Area.reg 0xA0008, Area.reg 0xA0040, Area.reg 0xA0044, Area.station] ++ noteAreas ++ abortAreas) s0 (verdict code errs s0) := by
  unfold verdict
  repeat' first
    | (simp only [Keeps.toMk]; first | with_reducible apply KeepsMk.set_verdict)
    | (with_reducible apply Within.of_all; decide)
    | (with_reducible apply Covers.of_all; decide)
    | with_reducible exact Keeps.refl _ _ _
    | with_reducible apply Keeps.via (endColls_keeps _ _)
    | with_reducible apply Keeps.via (foldEntry_keeps _ _ _)
    | with_reducible apply Keeps.via (checkpointsAfter_keeps _)
    | with_reducible apply Keeps.via (writeRecord_keeps _ _ _)
    | with_reducible apply Keeps.via (clearStep_keeps _)
    | with_reducible apply Keeps.via (abortStep_keeps _ _ _)
    | with_reducible apply Keeps.via (traceEvent_keeps _ _ _ _)
    | with_reducible apply Keeps.via (notice_keeps _ _ _ _ _)
    | with_reducible apply Keeps.via (takeErrors_keeps _ _)
    | (with_reducible refine Keeps.ite (fun _ => ?_) (fun _ => ?_))
    | split
    | (dsimp -proj only)

end Sys2Proof.Machine
end

