-- ==== Sys2Proof/Laws/FramesManage.lean ====
section
/-! SUPPORT. What each operation of Machine/Manage.lean changes: the parts of the state and the registers, and that it keeps the
invariant. -/
namespace Sys2Proof.Machine
open Sys2Proof

theorem decideFence_keeps (chip cause : Nat) (s : State) :
    Keeps ([Part.mem, Part.beyond, Part.fences, Part.probes, Part.mgmtNext, Part.note, Part.quarUndelivered, Part.cadRefetch, Part.rma, Part.dedup, Part.ports] ++ abortParts) ([Area.queue, Area.reg 0x8, Area.reg 0x20008, Area.reg 0x41008, Area.reg 0x6008C, Area.reg 0x80038, Area.reg 0x80044, Area.reg 0x80048, Area.reg 0xA0008, Area.reg 0xC0008, Area.reg 0xC1424] ++ noteAreas ++ abortAreas) s (decideFence chip cause s) := by
  unfold decideFence
  repeat' first
    | (with_reducible apply Within.of_all; decide)
    | (with_reducible apply Covers.of_all; decide)
    | with_reducible exact Keeps.refl _ _ _
    | with_reducible apply Keeps.via (bcastSend_keeps _ _ _ _ _)
    | with_reducible apply Keeps.via (applyFence_keeps _ _ _)

theorem fenceWrite_keeps (chip : Nat) (s : State) :
    Keeps ([Part.mem, Part.beyond, Part.dat, Part.fences, Part.fenceSelf, Part.probes, Part.mgmtNext, Part.note, Part.quarUndelivered, Part.cadRefetch, Part.rma, Part.dedup, Part.ports] ++ abortParts) ([Area.queue, Area.reg 0x8, Area.reg 0x20008, Area.reg 0x41008, Area.reg 0x6008C, Area.reg 0x80038, Area.reg 0x80044, Area.reg 0x80048, Area.reg 0xA0008, Area.reg 0xC0008, Area.reg 0xC1424] ++ noteAreas ++ abortAreas) s (fenceWrite chip s) := by
  unfold fenceWrite
  repeat' first
    | (simp only [Keeps.toMk]; first | with_reducible apply KeepsMk.set_fences)
    | (with_reducible apply Within.of_all; decide)
    | (with_reducible apply Covers.of_all; decide)
    | with_reducible exact Keeps.refl _ _ _
    | with_reducible apply Keeps.via (bcastSend_keeps _ _ _ _ _)
    | with_reducible apply Keeps.via (selfFence_keeps _ _ _ _)
    | with_reducible apply Keeps.via (decideFence_keeps _ _ _)
    | with_reducible apply Keeps.via (record_keeps _ _ _)
    | (with_reducible refine Keeps.ite (fun _ => ?_) (fun _ => ?_))

theorem unfenceWrite_keeps (chip : Nat) (s : State) :
    Keeps [.unfences] [.reg 0x8] s (unfenceWrite chip s) := by
  unfold unfenceWrite
  repeat' first
    | (simp only [Keeps.toMk]; first | with_reducible apply KeepsMk.set_unfences)
    | (with_reducible apply Within.of_all; decide)
    | (with_reducible apply Covers.of_all; decide)
    | with_reducible exact Keeps.refl _ _ _
    | with_reducible apply Keeps.via (record_keeps _ _ _)
    | (with_reducible refine Keeps.ite (fun _ => ?_) (fun _ => ?_))

theorem fenceNotice_keeps (src : Nat) (m : Bytes) (s : State) :
    Keeps ([Part.mem, Part.beyond, Part.dat, Part.fences, Part.fenceSelf, Part.probes, Part.mgmtNext, Part.note, Part.quarUndelivered, Part.cadRefetch, Part.rma, Part.dedup, Part.ports] ++ abortParts) ([Area.queue, Area.reg 0x8, Area.reg 0x20008, Area.reg 0x41008, Area.reg 0x6008C, Area.reg 0x80038, Area.reg 0x80044, Area.reg 0x80048, Area.reg 0xA0008, Area.reg 0xC0008, Area.reg 0xC1424] ++ noteAreas ++ abortAreas) s (fenceNotice src m s) := by
  unfold fenceNotice
  repeat' first
    | (with_reducible apply Within.of_all; decide)
    | (with_reducible apply Covers.of_all; decide)
    | with_reducible exact Keeps.refl _ _ _
    | with_reducible apply Keeps.via (bcastPass_keeps _ _ _ _ _ _)
    | with_reducible apply Keeps.via (applyFence_keeps _ _ _)
    | with_reducible apply Keeps.via (selfFence_keeps _ _ _ _)
    | (with_reducible refine Keeps.ite (fun _ => ?_) (fun _ => ?_))

theorem isolation_keeps (s : State) :
    Keeps ([Part.mem, Part.dat, Part.fences, Part.fenceSelf, Part.note, Part.quarUndelivered] ++ abortParts) ([Area.reg 0x8, Area.reg 0x20008, Area.reg 0x80038] ++ noteAreas ++ abortAreas) s (isolation s) := by
  unfold isolation
  repeat' first
    | (with_reducible apply Within.of_all; decide)
    | (with_reducible apply Covers.of_all; decide)
    | with_reducible exact Keeps.refl _ _ _
    | with_reducible apply Keeps.via (selfFence_keeps _ _ _ _)
    | with_reducible apply Keeps.via (record_keeps _ _ _)
    | (with_reducible refine Keeps.ite (fun _ => ?_) (fun _ => ?_))
    | split

theorem probeOn_keeps (peer n : Nat) (s : State) :
    Keeps [.out, .probes, .mgmtNext, .fep, .ports] [] s (probeOn peer n s) := by
  unfold probeOn
  repeat' first
    | (simp only [Keeps.toMk]; first | with_reducible apply KeepsMk.set_probes_mgmtNext | with_reducible apply KeepsMk.set_fep)
    | (with_reducible apply Within.of_all; decide)
    | (with_reducible apply Covers.of_all; decide)
    | with_reducible exact Keeps.refl _ _ _
    | with_reducible apply Keeps.via (openFlow_keeps _ _ _)
    | with_reducible apply Keeps.via (cutMessage_keeps_eq (by assumption))
    | with_reducible apply Keeps.via (placeOn_keeps _ _ _ _)
    | split
    | (dsimp -proj only)

theorem peerWaitTimeout_keeps (peer : Nat) (s : State) :
    Keeps [.out, .probes, .mgmtNext, .fep, .ports] [] s (peerWaitTimeout peer s) := by
  unfold peerWaitTimeout
  repeat' first
    | (with_reducible apply Within.of_all; decide)
    | (with_reducible apply Covers.of_all; decide)
    | with_reducible exact Keeps.refl _ _ _
    | with_reducible apply Keeps.via (probeOn_keeps _ _ _)
    | (with_reducible refine Keeps.ite (fun _ => ?_) (fun _ => ?_))
    | (with_reducible refine Keeps.foldl ?_ (fun _ _ => ?_))

theorem probe_keeps (src : Nat) (m : Bytes) (s : State) :
    Keeps [.out, .fep] [] s (probe src m s) := by
  unfold probe
  repeat' first
    | (with_reducible apply Within.of_all; decide)
    | (with_reducible apply Covers.of_all; decide)
    | with_reducible exact Keeps.refl _ _ _
    | with_reducible apply Keeps.via (post_keeps _ _)

theorem probeAnswer_keeps (src : Nat) (m : Bytes) (s : State) :
    Keeps [.probes, .fep] [] s (probeAnswer src m s) := by
  unfold probeAnswer
  repeat' first
    | (simp only [Keeps.toMk]; first | with_reducible apply KeepsMk.set_probes)
    | (with_reducible apply Within.of_all; decide)
    | (with_reducible apply Covers.of_all; decide)
    | with_reducible exact Keeps.refl _ _ _
    | with_reducible apply Keeps.via (releaseReply_keeps _ _)
    | (with_reducible refine Keeps.ite (fun _ => ?_) (fun _ => ?_))

theorem probeTimeout_keeps (peer : Nat) (s : State) :
    Keeps ([Part.mem, Part.beyond, Part.fences, Part.probes, Part.mgmtNext, Part.note, Part.quarUndelivered, Part.cadRefetch, Part.rma, Part.dedup, Part.ports] ++ abortParts) ([Area.queue, Area.reg 0x8, Area.reg 0x310, Area.reg 0x20008, Area.reg 0x41008, Area.reg 0x6008C, Area.reg 0x80038, Area.reg 0x80044, Area.reg 0x80048, Area.reg 0xA0008, Area.reg 0xC0008, Area.reg 0xC1424] ++ noteAreas ++ abortAreas) s (probeTimeout peer s) := by
  unfold probeTimeout
  repeat' first
    | (with_reducible apply Within.of_all; decide)
    | (with_reducible apply Covers.of_all; decide)
    | with_reducible exact Keeps.refl _ _ _
    | with_reducible apply Keeps.via (endProbes_keeps _ _)
    | with_reducible apply Keeps.via (decideFence_keeps _ _ _)
    | with_reducible apply Keeps.via (bump16_keeps _ _ _)
    | (with_reducible refine Keeps.ite (fun _ => ?_) (fun _ => ?_))

theorem mgmtRead_keeps (src : Nat) (m : Bytes) (errs : Errs) (s0 : State) :
    Keeps ([Part.mem, Part.rlog, Part.mgmtNext, Part.note, Part.cadRefetch] ++ abortParts) ([Area.reg 0x8, Area.reg 0x20008, Area.reg 0x20080, Area.reg 0x20084, Area.reg 0x20088, Area.reg 0x30030, Area.reg 0x31038, Area.reg 0xA0008, Area.station] ++ noteAreas ++ abortAreas) s0 (mgmtRead src m errs s0) := by
  unfold mgmtRead
  repeat' first
    | (with_reducible apply Within.of_all; decide)
    | (with_reducible apply Covers.of_all; decide)
    | with_reducible exact Keeps.refl _ _ _
    | with_reducible apply Keeps.via (post_keeps _ _)
    | with_reducible apply Keeps.via (takeErrors_keeps _ _)
    | (with_reducible refine Keeps.ite (fun _ => ?_) (fun _ => ?_))

theorem mgmtReadAnswer_keeps (src : Nat) (m : Bytes) (s : State) :
    Keeps [.out, .mgmtNext, .cad, .cadRefetch, .fep] [.reg 0x60088] s (mgmtReadAnswer src m s) := by
  unfold mgmtReadAnswer
  repeat' first
    | (simp only [Keeps.toMk]; first | with_reducible apply KeepsMk.set_cadRefetch | with_reducible apply KeepsMk.set_cad)
    | (with_reducible apply Within.of_all; decide)
    | (with_reducible apply Covers.of_all; decide)
    | with_reducible exact Keeps.refl _ _ _
    | with_reducible apply Keeps.via (bump16_keeps _ _ _)
    | with_reducible apply Keeps.via (askEntry_keeps _ _ _ _)
    | with_reducible apply Keeps.via (releaseReply_keeps _ _)
    | (with_reducible refine Keeps.ite (fun _ => ?_) (fun _ => ?_))
    | split

theorem cadRefetchTimeout_keeps (s : State) :
    Keeps ([Part.cadRefetch] ++ abortParts) ([Area.reg 0x60008] ++ abortAreas) s (cadRefetchTimeout s) := by
  unfold cadRefetchTimeout
  repeat' first
    | (simp only [Keeps.toMk]; first | with_reducible apply KeepsMk.set_cadRefetch)
    | (with_reducible apply Within.of_all; decide)
    | (with_reducible apply Covers.of_all; decide)
    | with_reducible exact Keeps.refl _ _ _
    | with_reducible apply Keeps.via (raiseAborts_keeps _ _ _)
    | with_reducible apply Keeps.via (endRequest_keeps _ _ _)
    | (with_reducible refine Keeps.ite (fun _ => ?_) (fun _ => ?_))
    | (with_reducible refine Keeps.foldl ?_ (fun _ _ => ?_))

theorem abortMsg_keeps (src : Nat) (m : Bytes) (s : State) :
    Keeps abortParts abortAreas s (abortMsg src m s) := by
  unfold abortMsg
  repeat' first
    | (with_reducible apply Within.of_all; decide)
    | (with_reducible apply Covers.of_all; decide)
    | with_reducible exact Keeps.refl _ _ _
    | with_reducible apply Keeps.via (bcastPass_keeps _ _ _ _ _ _)
    | with_reducible apply Keeps.via (abortStep_keeps _ _ _)
    | (with_reducible refine Keeps.ite (fun _ => ?_) (fun _ => ?_))

theorem noteRdWrite_keeps (value : Word32) (s : State) :
    Keeps [.mem, .note] [.reg 0x8, .reg 0x32C, .reg 0x330, .reg 0x338] s (noteRdWrite value s) := by
  unfold noteRdWrite
  repeat' first
    | (with_reducible apply Within.of_all; decide)
    | (with_reducible apply Covers.of_all; decide)
    | with_reducible exact Keeps.refl _ _ _
    | with_reducible apply Keeps.via (setField_keeps _ _ _ _ _)
    | with_reducible apply Keeps.via (noteCairn_keeps _)
    | with_reducible apply Keeps.via (record_keeps _ _ _)
    | (with_reducible refine Keeps.ite (fun _ => ?_) (fun _ => ?_))

theorem noteSizeWrite_keeps (value : Word32) (s : State) :
    Keeps [.mem, .note] [.reg 0x8, .reg 0x328, .reg 0x32C, .reg 0x330, .reg 0x338] s (noteSizeWrite value s) := by
  unfold noteSizeWrite
  repeat' first
    | (with_reducible apply Within.of_all; decide)
    | (with_reducible apply Covers.of_all; decide)
    | with_reducible exact Keeps.refl _ _ _
    | with_reducible apply Keeps.via (setField_keeps _ _ _ _ _)
    | with_reducible apply Keeps.via (noteCairn_keeps _)
    | with_reducible apply Keeps.via (record_keeps _ _ _)
    | (with_reducible refine Keeps.ite (fun _ => ?_) (fun _ => ?_))

end Sys2Proof.Machine
end

