-- ==== Sys2Proof/Laws/FramesRegisters.lean ====
section
/-! SUPPORT. What each operation of Machine/Registers.lean changes: the parts of the state and the registers, and that it keeps the
invariant. -/
namespace Sys2Proof.Machine
open Sys2Proof

theorem clearRead_keeps (a : Nat) (s : State) :
    Keeps [] [.all] s (clearRead a s) := by
  unfold clearRead
  repeat' first
    | (with_reducible apply Within.of_all; decide)
    | (with_reducible apply Covers.all; decide)
    | with_reducible exact Keeps.refl _ _ _
    | with_reducible apply Keeps.via (setField_keeps _ _ _ _ _)
    | (with_reducible refine Keeps.foldl ?_ (fun _ _ => ?_))
    | split

theorem busReadAt_keeps (priv : Bool) (a : Nat) (s : State) :
    Keeps [] [.all] s (busReadAt priv a s).2 := by
  unfold busReadAt
  repeat' first
    | (with_reducible apply Within.of_all; decide)
    | (with_reducible apply Covers.of_all; decide)
    | (with_reducible apply Covers.all; decide)
    | with_reducible exact Keeps.refl _ _ _
    | with_reducible apply Keeps.via (tbLoRead_keeps _)
    | with_reducible apply Keeps.via (clearRead_keeps _ _)
    | split

theorem busReadAt_keeps_eq {priv : Bool} {a : Nat} {s : State} {s' : State} {r : Word32}
    (hr : busReadAt priv a s = (r, s')) : Keeps [] [.all] s s' := by
  have := busReadAt_keeps priv a s
  rw [hr] at this
  exact this

theorem readClear_keeps (priv : Bool) (a : Nat) (errs : Errs) (s0 : State) :
    Keeps ([Part.mem, Part.beyond, Part.rlog, Part.mgmtNext, Part.note, Part.cadRefetch] ++ abortParts) [.all] s0 (readClear priv a errs s0) := by
  unfold readClear
  repeat' first
    | (with_reducible apply Within.of_all; decide)
    | (with_reducible apply Covers.of_all; decide)
    | (with_reducible apply Covers.all; decide)
    | with_reducible exact Keeps.refl _ _ _
    | with_reducible apply Keeps.via (setField_keeps _ _ _ _ _)
    | with_reducible apply Keeps.via (emitOut_keeps _ _)
    | with_reducible apply Keeps.via (busReadAt_keeps _ _ _)
    | with_reducible apply Keeps.via (takeErrors_keeps _ _)
    | (with_reducible refine Keeps.ite (fun _ => ?_) (fun _ => ?_))

theorem traceWindowRead_keeps (a : Nat) (uncorr : Bool) (s : State) :
    Keeps [.out] [.reg 0x20080, .reg 0x20084, .reg 0x20088, .reg 0x300024] s (traceWindowRead a uncorr s) := by
  unfold traceWindowRead
  repeat' first
    | (with_reducible apply Within.of_all; decide)
    | (with_reducible apply Covers.of_all; decide)
    | with_reducible exact Keeps.refl _ _ _
    | with_reducible apply Keeps.via (setField_keeps _ _ _ _ _)
    | with_reducible apply Keeps.via (emitOut_keeps _ _)
    | with_reducible apply Keeps.via (countSram_keeps _ _ _)
    | (with_reducible refine Keeps.ite (fun _ => ?_) (fun _ => ?_))

theorem portCtrl_keeps (n v : Nat) (s : State) :
    Keeps [.mem, .freshCount, .sec, .note, .trace, .cce, .fep, .ports] ([Area.port] ++ noteAreas) s (portCtrl n v s) := by
  unfold portCtrl
  repeat' first
    | (with_reducible apply Within.of_all; decide)
    | (with_reducible apply Covers.of_all; decide)
    | with_reducible exact Keeps.refl _ _ _
    | with_reducible apply Keeps.via (disable_keeps _ _ _)
    | with_reducible apply Keeps.via (retrain_keeps _ _)
    | with_reducible apply Keeps.via (loopback_keeps _ _ _)
    | (with_reducible refine Keeps.ite (fun _ => ?_) (fun _ => ?_))

theorem actionWrite_keeps {a : Nat} {w : Word32} {f : State → State} (hf : actionWrite a w = some f) (s : State) :
    Keeps ([Part.mem, Part.beyond, Part.freshCount, Part.boot, Part.tb, Part.ldr, Part.commits, Part.sec, Part.dat, Part.stepNum, Part.rlog, Part.fences, Part.fenceSelf, Part.unfences, Part.probes, Part.mgmtNext, Part.note, Part.sfuVersion, Part.sfuCopying, Part.cad, Part.lst, Part.quarPending, Part.quarUndelivered, Part.quarActing, Part.cadRefetch, Part.rma, Part.dedup, Part.ports] ++ abortParts) [.all] s (f s) := by
  unfold actionWrite at hf
  dsimp only at hf
  repeat' first
    | (with_reducible apply Within.of_all; decide)
    | (with_reducible apply Covers.all; decide)
    | with_reducible exact Keeps.refl _ _ _
    | with_reducible apply Keeps.via (tbSetLo_keeps _ _)
    | with_reducible apply Keeps.via (sfuTableSel_keeps _ _)
    | with_reducible apply Keeps.via (bootLinks_keeps _)
    | with_reducible apply Keeps.via (bootCalibrate_keeps _)
    | with_reducible apply Keeps.via (listStage_keeps _)
    | with_reducible apply Keeps.via (listArm_keeps _)
    | with_reducible apply Keeps.via (listDisarm_keeps _)
    | with_reducible apply Keeps.via (cceDoorbell_keeps _ _ _)
    | with_reducible apply Keeps.via (doGo_keeps _)
    | with_reducible apply Keeps.via (askCheckpoint_keeps _)
    | with_reducible apply Keeps.via (rlogStart_keeps _ _ _)
    | with_reducible apply Keeps.via (stepLo_keeps _ _)
    | with_reducible apply Keeps.via (cadQuarantine_keeps _ _)
    | with_reducible apply Keeps.via (cancel_keeps _)
    | with_reducible apply Keeps.via (freeOrphans_keeps _)
    | with_reducible apply Keeps.via (ldrLoad_keeps _)
    | with_reducible apply Keeps.via (ldrAbandon_keeps _)
    | with_reducible apply Keeps.via (ldrActivate_keeps _)
    | with_reducible apply Keeps.via (ldrDisarm_keeps _)
    | with_reducible apply Keeps.via (doCommit_keeps _ _)
    | with_reducible apply Keeps.via (fenceWrite_keeps _ _)
    | with_reducible apply Keeps.via (unfenceWrite_keeps _ _)
    | with_reducible apply Keeps.via (noteRdWrite_keeps _ _)
    | with_reducible apply Keeps.via (noteSizeWrite_keeps _ _)
    | with_reducible apply Keeps.via (lowRearm_keeps _)
    | with_reducible apply Keeps.via (portCtrl_keeps _ _ _)
    | with_reducible apply Keeps.via (rmaDoorbell_keeps _ _ _ _)
    | with_reducible apply Keeps.via (certLoad_keeps _)
    | with_reducible apply Keeps.via (klLoad_keeps _)
    | with_reducible apply Keeps.via (drawChallenge_keeps _)
    | with_reducible apply Keeps.via (deliver_keeps _ _)
    | with_reducible apply Keeps.via (record_keeps _ _ _)
    | with_reducible exact Keeps.actNil
    | (with_reducible refine Keeps.actCons ?_ (fun _ => ?_))
    | split
    | (dsimp -proj only [oneAction])
    | split at hf
    | (cases hf; done)
    | cases hf

theorem legalWrite_keeps (a : Nat) (w : Word32) (s : State) :
    Keeps ([Part.mem, Part.beyond, Part.freshCount, Part.boot, Part.tb, Part.ldr, Part.commits, Part.sec, Part.dat, Part.stepNum, Part.rlog, Part.fences, Part.fenceSelf, Part.unfences, Part.probes, Part.mgmtNext, Part.note, Part.sfuVersion, Part.sfuCopying, Part.cad, Part.lst, Part.quarPending, Part.quarUndelivered, Part.quarActing, Part.cadRefetch, Part.rma, Part.dedup, Part.ports] ++ abortParts) [.all] s (legalWrite a w s) := by
  unfold legalWrite
  repeat' first
    | (with_reducible apply Within.of_all; decide)
    | (with_reducible apply Covers.all; decide)
    | with_reducible exact Keeps.refl _ _ _
    | with_reducible exact actionWrite_keeps (by assumption) _
    | with_reducible apply Keeps.via (setWord_keeps _ _ _)
    | with_reducible apply Keeps.via (record_keeps _ _ _)
    | split

theorem busWrite_keeps (priv : Bool) (a width : Nat) (w : Word32) (s : State) :
    Keeps ([Part.mem, Part.beyond, Part.freshCount, Part.boot, Part.tb, Part.ldr, Part.commits, Part.sec, Part.dat, Part.stepNum, Part.rlog, Part.fences, Part.fenceSelf, Part.unfences, Part.probes, Part.mgmtNext, Part.note, Part.sfuVersion, Part.sfuCopying, Part.cad, Part.lst, Part.quarPending, Part.quarUndelivered, Part.quarActing, Part.cadRefetch, Part.rma, Part.dedup, Part.ports] ++ abortParts) [.all] s (busWrite priv a width w s) := by
  unfold busWrite
  repeat' first
    | (with_reducible apply Within.of_all; decide)
    | (with_reducible apply Covers.of_all; decide)
    | (with_reducible apply Covers.all; decide)
    | with_reducible exact Keeps.refl _ _ _
    | with_reducible apply Keeps.via (record_keeps _ _ _)
    | with_reducible apply Keeps.via (legalWrite_keeps _ _ _)
    | (with_reducible refine Keeps.ite (fun _ => ?_) (fun _ => ?_))

theorem putRecord_keeps (bs : Bytes) (s : State) :
    Keeps [.trace] [] s (putRecord bs s) := by
  unfold putRecord
  repeat' first
    | (simp only [Keeps.toMk]; first | with_reducible apply KeepsMk.set_trace)
    | (with_reducible apply Within.of_all; decide)
    | with_reducible exact Keeps.refl _ _ _
    | (with_reducible refine Keeps.ite (fun _ => ?_) (fun _ => ?_))
    | exact fun h => h
    | exact memPut_wf

theorem writeItem_keeps (n : Nat) (i : LaneItem) (s : State) :
    Keeps [.trace] [.reg 0x30002C, .reg 0x300030] s (writeItem n i s) := by
  unfold writeItem
  repeat' first
    | (with_reducible apply Within.of_all; decide)
    | (with_reducible apply Covers.of_all; decide)
    | with_reducible exact Keeps.refl _ _ _
    | with_reducible apply Keeps.via (bump_keeps _ _ _)
    | with_reducible apply Keeps.via (putRecord_keeps _ _)
    | split

theorem delivered_keeps (n : Nat) (i : LaneItem) (errs : Errs) (s : State) :
    Keeps [.freshCount] [] s (delivered n i errs s).2 := by
  unfold delivered
  repeat' first
    | (with_reducible apply Within.of_all; decide)
    | (with_reducible apply Covers.of_all; decide)
    | with_reducible exact Keeps.refl _ _ _
    | with_reducible apply Keeps.via (fresh_keeps _)
    | split

theorem delivered_keeps_eq {n : Nat} {i : LaneItem} {errs : Errs} {s : State} {s' : State} {r : LaneItem}
    (hr : delivered n i errs s = (r, s')) : Keeps [.freshCount] [] s s' := by
  have := delivered_keeps n i errs s
  rw [hr] at this
  exact this

theorem traceWrite_keeps (errs : Errs) (s0 : State) :
    Keeps ([Part.mem, Part.freshCount, Part.rlog, Part.mgmtNext, Part.note, Part.cadRefetch] ++ abortParts) ([Area.reg 0x8, Area.reg 0x20008, Area.reg 0x20080, Area.reg 0x20084, Area.reg 0x20088, Area.reg 0x30030, Area.reg 0x31038, Area.reg 0xA0008, Area.reg 0x30002C, Area.reg 0x300030, Area.station] ++ noteAreas ++ abortAreas) s0 (traceWrite errs s0) := by
  unfold traceWrite
  repeat' first
    | (simp only [Keeps.toMk]; first | with_reducible apply KeepsMk.set_trace)
    | (with_reducible apply Within.of_all; decide)
    | (with_reducible apply Covers.of_all; decide)
    | with_reducible exact Keeps.refl _ _ _
    | with_reducible apply Keeps.via (putRecord_keeps _ _)
    | with_reducible apply Keeps.via (writeItem_keeps _ _ _)
    | with_reducible apply Keeps.via (delivered_keeps _ _ _ _)
    | with_reducible apply Keeps.via (takeErrors_keeps _ _)
    | (with_reducible refine Keeps.ite (fun _ => ?_) (fun _ => ?_))
    | exact fun h => h
    | exact fun h => (length_modifyAt _ _ _).trans h
    | split

end Sys2Proof.Machine
end

