-- ==== Sys2Proof/Laws/Record.lean ====
section
/-! SUPPORT. What recording a code leaves in an error status (R69), and the laws of fields of register words. -/
namespace Sys2Proof.Machine
open Sys2Proof

theorem bits_lt (x hi lo : Nat) : bits x hi lo < 2 ^ (hi + 1 - lo) := Nat.mod_lt _ (Nat.two_pow_pos _)

/-- The fields of a word put together from COUNT, FIRST and LAST. -/
theorem bits_status {c f l : Nat} (hc : c < 256) (hf : f < 256) (hl : l < 256) :
    bits (c * 2 ^ 16 + f * 2 ^ 8 + l) 23 16 = c ∧ bits (c * 2 ^ 16 + f * 2 ^ 8 + l) 15 8 = f ∧
      bits (c * 2 ^ 16 + f * 2 ^ 8 + l) 7 0 = l := by
  simp only [bits, Nat.shiftRight_eq_div_pow]
  omega

theorem satAdd_lt (w a b : Nat) : satAdd w a b < 2 ^ w := by
  have := Nat.two_pow_pos w
  unfold satAdd
  omega

/-- Recording a code of one byte raises COUNT, keeps or sets FIRST, and sets LAST. -/
theorem record_recorded {unit code : Nat} (h : code < 256) (s : State) : Recorded unit code s (record unit code s) := by
  have h1 : satAdd 8 (bits (s.word (unit + 8)).toNat 23 16) 1 < 256 := satAdd_lt 8 _ _
  have h2 : (if bits (s.word (unit + 8)).toNat 23 16 = 0 then code else bits (s.word (unit + 8)).toNat 15 8) < 256 := by
    split
    · exact h
    · exact bits_lt _ 15 8
  obtain ⟨e1, e2, e3⟩ := bits_status h1 h2 h
  have hw : ((record unit code s).word (unit + 8)).toNat =
      satAdd 8 (bits (s.word (unit + 8)).toNat 23 16) 1 * 2 ^ 16 +
        (if bits (s.word (unit + 8)).toNat 23 16 = 0 then code else bits (s.word (unit + 8)).toNat 15 8) * 2 ^ 8 + code := by
    simp only [record, word_setWord_self, BitVec.toNat_ofNat]
    exact Nat.mod_eq_of_lt (by omega)
  refine ⟨?_, ?_, ?_⟩
  · show bits ((record unit code s).word (unit + 8)).toNat 23 16 = _
    rw [hw, e1]; rfl
  · show bits ((record unit code s).word (unit + 8)).toNat 15 8 = _
    rw [hw, e2]; rfl
  · show bits ((record unit code s).word (unit + 8)).toNat 7 0 = _
    rw [hw, e3]

/-- The number a word holds after a value has been put into a field: the parts above and below the field stay. -/
theorem putBits_toNat {w : Word32} {hi lo v : Nat} (h : hi < 32) (hl : lo ≤ hi) :
    (putBits w hi lo v).toNat =
      w.toNat / 2 ^ (hi + 1) * 2 ^ (hi + 1) + v % 2 ^ (hi + 1 - lo) * 2 ^ lo + w.toNat % 2 ^ lo := by
  have e : 2 ^ (hi + 1) = 2 ^ lo * 2 ^ (hi + 1 - lo) := by rw [← Nat.pow_add]; congr 1; omega
  have e32 : 2 ^ 32 = 2 ^ (hi + 1) * 2 ^ (31 - hi) := by rw [← Nat.pow_add]; congr 1; omega
  have hv : v % 2 ^ (hi + 1 - lo) < 2 ^ (hi + 1 - lo) := Nat.mod_lt _ (Nat.two_pow_pos _)
  have hc : w.toNat % 2 ^ lo < 2 ^ lo := Nat.mod_lt _ (Nat.two_pow_pos _)
  have hw : w.toNat < 2 ^ 32 := w.isLt
  have ha : w.toNat / 2 ^ (hi + 1) < 2 ^ (31 - hi) := by
    rw [Nat.div_lt_iff_lt_mul (Nat.two_pow_pos _), Nat.mul_comm, ← e32]; exact hw
  have hs : w.toNat - bits w.toNat hi lo * 2 ^ lo = w.toNat / 2 ^ (hi + 1) * 2 ^ (hi + 1) + w.toNat % 2 ^ lo := by
    have h1 := Nat.div_add_mod w.toNat (2 ^ lo)
    have h2 := Nat.div_add_mod (w.toNat / 2 ^ lo) (2 ^ (hi + 1 - lo))
    have h3 : w.toNat / 2 ^ lo / 2 ^ (hi + 1 - lo) = w.toNat / 2 ^ (hi + 1) := by rw [Nat.div_div_eq_div_mul, ← e]
    rw [h3] at h2
    have h4 : w.toNat = w.toNat / 2 ^ (hi + 1) * 2 ^ (hi + 1) + bits w.toNat hi lo * 2 ^ lo + w.toNat % 2 ^ lo := by
      have : bits w.toNat hi lo = w.toNat / 2 ^ lo % 2 ^ (hi + 1 - lo) := by
        simp only [bits, Nat.shiftRight_eq_div_pow]
      rw [this, e]
      calc w.toNat = 2 ^ lo * (w.toNat / 2 ^ lo) + w.toNat % 2 ^ lo := h1.symm
        _ = 2 ^ lo * (2 ^ (hi + 1 - lo) * (w.toNat / 2 ^ (hi + 1)) + w.toNat / 2 ^ lo % 2 ^ (hi + 1 - lo)) +
              w.toNat % 2 ^ lo := by rw [h2]
        _ = _ := by rw [Nat.mul_add, ← Nat.mul_assoc, ← e]; simp only [Nat.mul_comm]
    omega
  have hb : w.toNat / 2 ^ (hi + 1) * 2 ^ (hi + 1) + v % 2 ^ (hi + 1 - lo) * 2 ^ lo + w.toNat % 2 ^ lo < 2 ^ 32 := by
    have h1 : v % 2 ^ (hi + 1 - lo) * 2 ^ lo + w.toNat % 2 ^ lo < 2 ^ (hi + 1) := by
      have : (v % 2 ^ (hi + 1 - lo) + 1) * 2 ^ lo ≤ 2 ^ (hi + 1 - lo) * 2 ^ lo := Nat.mul_le_mul_right _ hv
      rw [Nat.add_mul, Nat.one_mul, Nat.mul_comm (2 ^ (hi + 1 - lo)), ← e] at this
      omega
    have h2 : (w.toNat / 2 ^ (hi + 1) + 1) * 2 ^ (hi + 1) ≤ 2 ^ (31 - hi) * 2 ^ (hi + 1) := Nat.mul_le_mul_right _ ha
    rw [Nat.add_mul, Nat.one_mul, Nat.mul_comm (2 ^ (31 - hi)), ← e32] at h2
    omega
  simp only [putBits, BitVec.toNat_ofNat, hs]
  rw [Nat.mod_eq_of_lt (by omega)]
  omega

/-- A field of a word into which a value has been put. -/
theorem bits_putBits {w : Word32} {hi lo v : Nat} (h : hi < 32) (hl : lo ≤ hi) :
    bits (putBits w hi lo v).toNat hi lo = v % 2 ^ (hi + 1 - lo) := by
  have e : 2 ^ (hi + 1) = 2 ^ (hi + 1 - lo) * 2 ^ lo := by rw [← Nat.pow_add]; congr 1; omega
  have hc : w.toNat % 2 ^ lo < 2 ^ lo := Nat.mod_lt _ (Nat.two_pow_pos _)
  rw [putBits_toNat h hl]
  simp only [bits, Nat.shiftRight_eq_div_pow]
  rw [e, ← Nat.mul_assoc, ← Nat.add_mul, Nat.add_comm, Nat.add_mul_div_right _ _ (Nat.two_pow_pos _), Nat.div_eq_of_lt hc,
    Nat.zero_add, Nat.add_comm, Nat.add_mul_mod_self_right, Nat.mod_mod]

/-- A stored field after it has been set. -/
theorem field_setField (s : State) {a hi lo v : Nat} (h : hi < 32) (hl : lo ≤ hi) :
    (s.setField a hi lo v).field a hi lo = v % 2 ^ (hi + 1 - lo) := by
  simp only [State.field, State.setField, word_setWord_self]
  exact bits_putBits h hl

/-- A field of another register after a field has been set. -/
theorem field_setField_other (s : State) {a b hi lo v hi' lo' : Nat} (h : b ≠ a) :
    (s.setField a hi lo v).field b hi' lo' = s.field b hi' lo' := by
  simp only [State.field, State.setField, word_setWord_other _ h]

/-- A counter register after it has been raised. -/
theorem field_bump (s : State) (a n : Nat) : (s.bump a n).field a 31 0 = satAdd 32 (s.field a 31 0) n := by
  rw [State.bump, State.bumpField, field_setField _ (by decide) (by decide)]
  exact Nat.mod_eq_of_lt (satAdd_lt 32 _ _)

/-- A 16-bit counter after it has been raised. -/
theorem field_bump16 (s : State) (a n : Nat) : (s.bump16 a n).field a 15 0 = satAdd 16 (s.field a 15 0) n := by
  rw [State.bump16, State.bumpField, field_setField _ (by decide) (by decide)]
  exact Nat.mod_eq_of_lt (satAdd_lt 16 _ _)

end Sys2Proof.Machine
end

