-- ==== Sys2Proof/Laws/State.lean ====
section
/-! SUPPORT. One lemma for each field under each named update of State: the field that the update changes, and every other. -/
namespace Sys2Proof.Machine
open Sys2Proof

variable (s : State)

/-! ### setWord -/

@[simp] theorem setWord_pending (a : Nat) (w : Word32) : (s.setWord a w).pending = s.pending := rfl
@[simp] theorem setWord_out (a : Nat) (w : Word32) : (s.setWord a w).out = s.out := rfl
@[simp] theorem setWord_regs (a : Nat) (w : Word32) : (s.setWord a w).regs = storeSet (resetWord a) a w s.regs := rfl
@[simp] theorem setWord_mem (a : Nat) (w : Word32) : (s.setWord a w).mem = s.mem := rfl
@[simp] theorem setWord_freshCount (a : Nat) (w : Word32) : (s.setWord a w).freshCount = s.freshCount := rfl
@[simp] theorem setWord_boot (a : Nat) (w : Word32) : (s.setWord a w).boot = s.boot := rfl
@[simp] theorem setWord_fuses (a : Nat) (w : Word32) : (s.setWord a w).fuses = s.fuses := rfl
@[simp] theorem setWord_devKey (a : Nat) (w : Word32) : (s.setWord a w).devKey = s.devKey := rfl
@[simp] theorem setWord_clk (a : Nat) (w : Word32) : (s.setWord a w).clk = s.clk := rfl
@[simp] theorem setWord_tb (a : Nat) (w : Word32) : (s.setWord a w).tb = s.tb := rfl
@[simp] theorem setWord_tbRun (a : Nat) (w : Word32) : (s.setWord a w).tbRun = s.tbRun := rfl
@[simp] theorem setWord_tbExhausted (a : Nat) (w : Word32) : (s.setWord a w).tbExhausted = s.tbExhausted := rfl
@[simp] theorem setWord_tap (a : Nat) (w : Word32) : (s.setWord a w).tap = s.tap := rfl
@[simp] theorem setWord_ldr (a : Nat) (w : Word32) : (s.setWord a w).ldr = s.ldr := rfl
@[simp] theorem setWord_commits (a : Nat) (w : Word32) : (s.setWord a w).commits = s.commits := rfl
@[simp] theorem setWord_latched (a : Nat) (w : Word32) : (s.setWord a w).latched = s.latched := rfl
@[simp] theorem setWord_sec (a : Nat) (w : Word32) : (s.setWord a w).sec = s.sec := rfl
@[simp] theorem setWord_dat (a : Nat) (w : Word32) : (s.setWord a w).dat = s.dat := rfl
@[simp] theorem setWord_run (a : Nat) (w : Word32) : (s.setWord a w).run = s.run := rfl
@[simp] theorem setWord_stepNum (a : Nat) (w : Word32) : (s.setWord a w).stepNum = s.stepNum := rfl
@[simp] theorem setWord_prevT (a : Nat) (w : Word32) : (s.setWord a w).prevT = s.prevT := rfl
@[simp] theorem setWord_verdict (a : Nat) (w : Word32) : (s.setWord a w).verdict = s.verdict := rfl
@[simp] theorem setWord_rlog (a : Nat) (w : Word32) : (s.setWord a w).rlog = s.rlog := rfl
@[simp] theorem setWord_fences (a : Nat) (w : Word32) : (s.setWord a w).fences = s.fences := rfl
@[simp] theorem setWord_fenceSelf (a : Nat) (w : Word32) : (s.setWord a w).fenceSelf = s.fenceSelf := rfl
@[simp] theorem setWord_unfences (a : Nat) (w : Word32) : (s.setWord a w).unfences = s.unfences := rfl
@[simp] theorem setWord_probes (a : Nat) (w : Word32) : (s.setWord a w).probes = s.probes := rfl
@[simp] theorem setWord_broadcasts (a : Nat) (w : Word32) : (s.setWord a w).broadcasts = s.broadcasts := rfl
@[simp] theorem setWord_mgmtNext (a : Nat) (w : Word32) : (s.setWord a w).mgmtNext = s.mgmtNext := rfl
@[simp] theorem setWord_note (a : Nat) (w : Word32) : (s.setWord a w).note = s.note := rfl
@[simp] theorem setWord_trace (a : Nat) (w : Word32) : (s.setWord a w).trace = s.trace := rfl
@[simp] theorem setWord_sfuVersion (a : Nat) (w : Word32) : (s.setWord a w).sfuVersion = s.sfuVersion := rfl
@[simp] theorem setWord_sfuCopying (a : Nat) (w : Word32) : (s.setWord a w).sfuCopying = s.sfuCopying := rfl
@[simp] theorem setWord_sfuLocked (a : Nat) (w : Word32) : (s.setWord a w).sfuLocked = s.sfuLocked := rfl
@[simp] theorem setWord_cad (a : Nat) (w : Word32) : (s.setWord a w).cad = s.cad := rfl
@[simp] theorem setWord_lst (a : Nat) (w : Word32) : (s.setWord a w).lst = s.lst := rfl
@[simp] theorem setWord_demand (a : Nat) (w : Word32) : (s.setWord a w).demand = s.demand := rfl
@[simp] theorem setWord_quarPending (a : Nat) (w : Word32) : (s.setWord a w).quarPending = s.quarPending := rfl
@[simp] theorem setWord_quarUndelivered (a : Nat) (w : Word32) : (s.setWord a w).quarUndelivered = s.quarUndelivered := rfl
@[simp] theorem setWord_quarActing (a : Nat) (w : Word32) : (s.setWord a w).quarActing = s.quarActing := rfl
@[simp] theorem setWord_quarSeen (a : Nat) (w : Word32) : (s.setWord a w).quarSeen = s.quarSeen := rfl
@[simp] theorem setWord_cadRefetch (a : Nat) (w : Word32) : (s.setWord a w).cadRefetch = s.cadRefetch := rfl
@[simp] theorem setWord_pools (a : Nat) (w : Word32) : (s.setWord a w).pools = s.pools := rfl
@[simp] theorem setWord_tports (a : Nat) (w : Word32) : (s.setWord a w).tports = s.tports := rfl
@[simp] theorem setWord_tokenLast (a : Nat) (w : Word32) : (s.setWord a w).tokenLast = s.tokenLast := rfl
@[simp] theorem setWord_halves (a : Nat) (w : Word32) : (s.setWord a w).halves = s.halves := rfl
@[simp] theorem setWord_ingestHeld (a : Nat) (w : Word32) : (s.setWord a w).ingestHeld = s.ingestHeld := rfl
@[simp] theorem setWord_homes (a : Nat) (w : Word32) : (s.setWord a w).homes = s.homes := rfl
@[simp] theorem setWord_bucketMaps (a : Nat) (w : Word32) : (s.setWord a w).bucketMaps = s.bucketMaps := rfl
@[simp] theorem setWord_chipHist (a : Nat) (w : Word32) : (s.setWord a w).chipHist = s.chipHist := rfl
@[simp] theorem setWord_sortCounters (a : Nat) (w : Word32) : (s.setWord a w).sortCounters = s.sortCounters := rfl
@[simp] theorem setWord_recv (a : Nat) (w : Word32) : (s.setWord a w).recv = s.recv := rfl
@[simp] theorem setWord_feeds (a : Nat) (w : Word32) : (s.setWord a w).feeds = s.feeds := rfl
@[simp] theorem setWord_handed (a : Nat) (w : Word32) : (s.setWord a w).handed = s.handed := rfl
@[simp] theorem setWord_collects (a : Nat) (w : Word32) : (s.setWord a w).collects = s.collects := rfl
@[simp] theorem setWord_collectHeld (a : Nat) (w : Word32) : (s.setWord a w).collectHeld = s.collectHeld := rfl
@[simp] theorem setWord_gen (a : Nat) (w : Word32) : (s.setWord a w).gen = s.gen := rfl
@[simp] theorem setWord_raiseDue (a : Nat) (w : Word32) : (s.setWord a w).raiseDue = s.raiseDue := rfl
@[simp] theorem setWord_orphans (a : Nat) (w : Word32) : (s.setWord a w).orphans = s.orphans := rfl
@[simp] theorem setWord_rounds (a : Nat) (w : Word32) : (s.setWord a w).rounds = s.rounds := rfl
@[simp] theorem setWord_cce (a : Nat) (w : Word32) : (s.setWord a w).cce = s.cce := rfl
@[simp] theorem setWord_rma (a : Nat) (w : Word32) : (s.setWord a w).rma = s.rma := rfl
@[simp] theorem setWord_rmaTurn (a : Nat) (w : Word32) : (s.setWord a w).rmaTurn = s.rmaTurn := rfl
@[simp] theorem setWord_dedup (a : Nat) (w : Word32) : (s.setWord a w).dedup = s.dedup := rfl
@[simp] theorem setWord_cache (a : Nat) (w : Word32) : (s.setWord a w).cache = s.cache := rfl
@[simp] theorem setWord_fep (a : Nat) (w : Word32) : (s.setWord a w).fep = s.fep := rfl
@[simp] theorem setWord_ports (a : Nat) (w : Word32) : (s.setWord a w).ports = s.ports := rfl

/-! ### memWrite -/

@[simp] theorem memWrite_pending (a : Nat) (bs : Bytes) : (memWrite a bs s).pending = s.pending := rfl
@[simp] theorem memWrite_out (a : Nat) (bs : Bytes) : (memWrite a bs s).out = s.out := rfl
@[simp] theorem memWrite_regs (a : Nat) (bs : Bytes) : (memWrite a bs s).regs = s.regs := rfl
@[simp] theorem memWrite_mem (a : Nat) (bs : Bytes) : (memWrite a bs s).mem = memPut s.mem a bs := rfl
@[simp] theorem memWrite_freshCount (a : Nat) (bs : Bytes) : (memWrite a bs s).freshCount = s.freshCount := rfl
@[simp] theorem memWrite_boot (a : Nat) (bs : Bytes) : (memWrite a bs s).boot = s.boot := rfl
@[simp] theorem memWrite_fuses (a : Nat) (bs : Bytes) : (memWrite a bs s).fuses = s.fuses := rfl
@[simp] theorem memWrite_devKey (a : Nat) (bs : Bytes) : (memWrite a bs s).devKey = s.devKey := rfl
@[simp] theorem memWrite_clk (a : Nat) (bs : Bytes) : (memWrite a bs s).clk = s.clk := rfl
@[simp] theorem memWrite_tb (a : Nat) (bs : Bytes) : (memWrite a bs s).tb = s.tb := rfl
@[simp] theorem memWrite_tbRun (a : Nat) (bs : Bytes) : (memWrite a bs s).tbRun = s.tbRun := rfl
@[simp] theorem memWrite_tbExhausted (a : Nat) (bs : Bytes) : (memWrite a bs s).tbExhausted = s.tbExhausted := rfl
@[simp] theorem memWrite_tap (a : Nat) (bs : Bytes) : (memWrite a bs s).tap = s.tap := rfl
@[simp] theorem memWrite_ldr (a : Nat) (bs : Bytes) : (memWrite a bs s).ldr = s.ldr := rfl
@[simp] theorem memWrite_commits (a : Nat) (bs : Bytes) : (memWrite a bs s).commits = s.commits := rfl
@[simp] theorem memWrite_latched (a : Nat) (bs : Bytes) : (memWrite a bs s).latched = s.latched := rfl
@[simp] theorem memWrite_sec (a : Nat) (bs : Bytes) : (memWrite a bs s).sec = s.sec := rfl
@[simp] theorem memWrite_dat (a : Nat) (bs : Bytes) : (memWrite a bs s).dat = s.dat := rfl
@[simp] theorem memWrite_run (a : Nat) (bs : Bytes) : (memWrite a bs s).run = s.run := rfl
@[simp] theorem memWrite_stepNum (a : Nat) (bs : Bytes) : (memWrite a bs s).stepNum = s.stepNum := rfl
@[simp] theorem memWrite_prevT (a : Nat) (bs : Bytes) : (memWrite a bs s).prevT = s.prevT := rfl
@[simp] theorem memWrite_verdict (a : Nat) (bs : Bytes) : (memWrite a bs s).verdict = s.verdict := rfl
@[simp] theorem memWrite_rlog (a : Nat) (bs : Bytes) : (memWrite a bs s).rlog = s.rlog := rfl
@[simp] theorem memWrite_fences (a : Nat) (bs : Bytes) : (memWrite a bs s).fences = s.fences := rfl
@[simp] theorem memWrite_fenceSelf (a : Nat) (bs : Bytes) : (memWrite a bs s).fenceSelf = s.fenceSelf := rfl
@[simp] theorem memWrite_unfences (a : Nat) (bs : Bytes) : (memWrite a bs s).unfences = s.unfences := rfl
@[simp] theorem memWrite_probes (a : Nat) (bs : Bytes) : (memWrite a bs s).probes = s.probes := rfl
@[simp] theorem memWrite_broadcasts (a : Nat) (bs : Bytes) : (memWrite a bs s).broadcasts = s.broadcasts := rfl
@[simp] theorem memWrite_mgmtNext (a : Nat) (bs : Bytes) : (memWrite a bs s).mgmtNext = s.mgmtNext := rfl
@[simp] theorem memWrite_note (a : Nat) (bs : Bytes) : (memWrite a bs s).note = s.note := rfl
@[simp] theorem memWrite_trace (a : Nat) (bs : Bytes) : (memWrite a bs s).trace = s.trace := rfl
@[simp] theorem memWrite_sfuVersion (a : Nat) (bs : Bytes) : (memWrite a bs s).sfuVersion = s.sfuVersion := rfl
@[simp] theorem memWrite_sfuCopying (a : Nat) (bs : Bytes) : (memWrite a bs s).sfuCopying = s.sfuCopying := rfl
@[simp] theorem memWrite_sfuLocked (a : Nat) (bs : Bytes) : (memWrite a bs s).sfuLocked = s.sfuLocked := rfl
@[simp] theorem memWrite_cad (a : Nat) (bs : Bytes) : (memWrite a bs s).cad = s.cad := rfl
@[simp] theorem memWrite_lst (a : Nat) (bs : Bytes) : (memWrite a bs s).lst = s.lst := rfl
@[simp] theorem memWrite_demand (a : Nat) (bs : Bytes) : (memWrite a bs s).demand = s.demand := rfl
@[simp] theorem memWrite_quarPending (a : Nat) (bs : Bytes) : (memWrite a bs s).quarPending = s.quarPending := rfl
@[simp] theorem memWrite_quarUndelivered (a : Nat) (bs : Bytes) : (memWrite a bs s).quarUndelivered = s.quarUndelivered := rfl
@[simp] theorem memWrite_quarActing (a : Nat) (bs : Bytes) : (memWrite a bs s).quarActing = s.quarActing := rfl
@[simp] theorem memWrite_quarSeen (a : Nat) (bs : Bytes) : (memWrite a bs s).quarSeen = s.quarSeen := rfl
@[simp] theorem memWrite_cadRefetch (a : Nat) (bs : Bytes) : (memWrite a bs s).cadRefetch = s.cadRefetch := rfl
@[simp] theorem memWrite_pools (a : Nat) (bs : Bytes) : (memWrite a bs s).pools = s.pools := rfl
@[simp] theorem memWrite_tports (a : Nat) (bs : Bytes) : (memWrite a bs s).tports = s.tports := rfl
@[simp] theorem memWrite_tokenLast (a : Nat) (bs : Bytes) : (memWrite a bs s).tokenLast = s.tokenLast := rfl
@[simp] theorem memWrite_halves (a : Nat) (bs : Bytes) : (memWrite a bs s).halves = s.halves := rfl
@[simp] theorem memWrite_ingestHeld (a : Nat) (bs : Bytes) : (memWrite a bs s).ingestHeld = s.ingestHeld := rfl
@[simp] theorem memWrite_homes (a : Nat) (bs : Bytes) : (memWrite a bs s).homes = s.homes := rfl
@[simp] theorem memWrite_bucketMaps (a : Nat) (bs : Bytes) : (memWrite a bs s).bucketMaps = s.bucketMaps := rfl
@[simp] theorem memWrite_chipHist (a : Nat) (bs : Bytes) : (memWrite a bs s).chipHist = s.chipHist := rfl
@[simp] theorem memWrite_sortCounters (a : Nat) (bs : Bytes) : (memWrite a bs s).sortCounters = s.sortCounters := rfl
@[simp] theorem memWrite_recv (a : Nat) (bs : Bytes) : (memWrite a bs s).recv = s.recv := rfl
@[simp] theorem memWrite_feeds (a : Nat) (bs : Bytes) : (memWrite a bs s).feeds = s.feeds := rfl
@[simp] theorem memWrite_handed (a : Nat) (bs : Bytes) : (memWrite a bs s).handed = s.handed := rfl
@[simp] theorem memWrite_collects (a : Nat) (bs : Bytes) : (memWrite a bs s).collects = s.collects := rfl
@[simp] theorem memWrite_collectHeld (a : Nat) (bs : Bytes) : (memWrite a bs s).collectHeld = s.collectHeld := rfl
@[simp] theorem memWrite_gen (a : Nat) (bs : Bytes) : (memWrite a bs s).gen = s.gen := rfl
@[simp] theorem memWrite_raiseDue (a : Nat) (bs : Bytes) : (memWrite a bs s).raiseDue = s.raiseDue := rfl
@[simp] theorem memWrite_orphans (a : Nat) (bs : Bytes) : (memWrite a bs s).orphans = s.orphans := rfl
@[simp] theorem memWrite_rounds (a : Nat) (bs : Bytes) : (memWrite a bs s).rounds = s.rounds := rfl
@[simp] theorem memWrite_cce (a : Nat) (bs : Bytes) : (memWrite a bs s).cce = s.cce := rfl
@[simp] theorem memWrite_rma (a : Nat) (bs : Bytes) : (memWrite a bs s).rma = s.rma := rfl
@[simp] theorem memWrite_rmaTurn (a : Nat) (bs : Bytes) : (memWrite a bs s).rmaTurn = s.rmaTurn := rfl
@[simp] theorem memWrite_dedup (a : Nat) (bs : Bytes) : (memWrite a bs s).dedup = s.dedup := rfl
@[simp] theorem memWrite_cache (a : Nat) (bs : Bytes) : (memWrite a bs s).cache = s.cache := rfl
@[simp] theorem memWrite_fep (a : Nat) (bs : Bytes) : (memWrite a bs s).fep = s.fep := rfl
@[simp] theorem memWrite_ports (a : Nat) (bs : Bytes) : (memWrite a bs s).ports = s.ports := rfl

/-! ### withEnv -/

@[simp] theorem withEnv_pending (env : MemEnv) : (withEnv env s).pending = s.pending := rfl
@[simp] theorem withEnv_out (env : MemEnv) : (withEnv env s).out = s.out := rfl
@[simp] theorem withEnv_regs (env : MemEnv) : (withEnv env s).regs = s.regs := rfl
@[simp] theorem withEnv_mem (env : MemEnv) : (withEnv env s).mem = applyWrites env.writes s.mem := rfl
@[simp] theorem withEnv_freshCount (env : MemEnv) : (withEnv env s).freshCount = s.freshCount := rfl
@[simp] theorem withEnv_boot (env : MemEnv) : (withEnv env s).boot = s.boot := rfl
@[simp] theorem withEnv_fuses (env : MemEnv) : (withEnv env s).fuses = s.fuses := rfl
@[simp] theorem withEnv_devKey (env : MemEnv) : (withEnv env s).devKey = s.devKey := rfl
@[simp] theorem withEnv_clk (env : MemEnv) : (withEnv env s).clk = s.clk := rfl
@[simp] theorem withEnv_tb (env : MemEnv) : (withEnv env s).tb = s.tb := rfl
@[simp] theorem withEnv_tbRun (env : MemEnv) : (withEnv env s).tbRun = s.tbRun := rfl
@[simp] theorem withEnv_tbExhausted (env : MemEnv) : (withEnv env s).tbExhausted = s.tbExhausted := rfl
@[simp] theorem withEnv_tap (env : MemEnv) : (withEnv env s).tap = s.tap := rfl
@[simp] theorem withEnv_ldr (env : MemEnv) : (withEnv env s).ldr = s.ldr := rfl
@[simp] theorem withEnv_commits (env : MemEnv) : (withEnv env s).commits = s.commits := rfl
@[simp] theorem withEnv_latched (env : MemEnv) : (withEnv env s).latched = s.latched := rfl
@[simp] theorem withEnv_sec (env : MemEnv) : (withEnv env s).sec = s.sec := rfl
@[simp] theorem withEnv_dat (env : MemEnv) : (withEnv env s).dat = s.dat := rfl
@[simp] theorem withEnv_run (env : MemEnv) : (withEnv env s).run = s.run := rfl
@[simp] theorem withEnv_stepNum (env : MemEnv) : (withEnv env s).stepNum = s.stepNum := rfl
@[simp] theorem withEnv_prevT (env : MemEnv) : (withEnv env s).prevT = s.prevT := rfl
@[simp] theorem withEnv_verdict (env : MemEnv) : (withEnv env s).verdict = s.verdict := rfl
@[simp] theorem withEnv_rlog (env : MemEnv) : (withEnv env s).rlog = s.rlog := rfl
@[simp] theorem withEnv_fences (env : MemEnv) : (withEnv env s).fences = s.fences := rfl
@[simp] theorem withEnv_fenceSelf (env : MemEnv) : (withEnv env s).fenceSelf = s.fenceSelf := rfl
@[simp] theorem withEnv_unfences (env : MemEnv) : (withEnv env s).unfences = s.unfences := rfl
@[simp] theorem withEnv_probes (env : MemEnv) : (withEnv env s).probes = s.probes := rfl
@[simp] theorem withEnv_broadcasts (env : MemEnv) : (withEnv env s).broadcasts = s.broadcasts := rfl
@[simp] theorem withEnv_mgmtNext (env : MemEnv) : (withEnv env s).mgmtNext = s.mgmtNext := rfl
@[simp] theorem withEnv_note (env : MemEnv) : (withEnv env s).note = s.note := rfl
@[simp] theorem withEnv_trace (env : MemEnv) : (withEnv env s).trace = s.trace := rfl
@[simp] theorem withEnv_sfuVersion (env : MemEnv) : (withEnv env s).sfuVersion = s.sfuVersion := rfl
@[simp] theorem withEnv_sfuCopying (env : MemEnv) : (withEnv env s).sfuCopying = s.sfuCopying := rfl
@[simp] theorem withEnv_sfuLocked (env : MemEnv) : (withEnv env s).sfuLocked = s.sfuLocked := rfl
@[simp] theorem withEnv_cad (env : MemEnv) : (withEnv env s).cad = s.cad := rfl
@[simp] theorem withEnv_lst (env : MemEnv) : (withEnv env s).lst = s.lst := rfl
@[simp] theorem withEnv_demand (env : MemEnv) : (withEnv env s).demand = s.demand := rfl
@[simp] theorem withEnv_quarPending (env : MemEnv) : (withEnv env s).quarPending = s.quarPending := rfl
@[simp] theorem withEnv_quarUndelivered (env : MemEnv) : (withEnv env s).quarUndelivered = s.quarUndelivered := rfl
@[simp] theorem withEnv_quarActing (env : MemEnv) : (withEnv env s).quarActing = s.quarActing := rfl
@[simp] theorem withEnv_quarSeen (env : MemEnv) : (withEnv env s).quarSeen = s.quarSeen := rfl
@[simp] theorem withEnv_cadRefetch (env : MemEnv) : (withEnv env s).cadRefetch = s.cadRefetch := rfl
@[simp] theorem withEnv_pools (env : MemEnv) : (withEnv env s).pools = s.pools := rfl
@[simp] theorem withEnv_tports (env : MemEnv) : (withEnv env s).tports = s.tports := rfl
@[simp] theorem withEnv_tokenLast (env : MemEnv) : (withEnv env s).tokenLast = s.tokenLast := rfl
@[simp] theorem withEnv_halves (env : MemEnv) : (withEnv env s).halves = s.halves := rfl
@[simp] theorem withEnv_ingestHeld (env : MemEnv) : (withEnv env s).ingestHeld = s.ingestHeld := rfl
@[simp] theorem withEnv_homes (env : MemEnv) : (withEnv env s).homes = s.homes := rfl
@[simp] theorem withEnv_bucketMaps (env : MemEnv) : (withEnv env s).bucketMaps = s.bucketMaps := rfl
@[simp] theorem withEnv_chipHist (env : MemEnv) : (withEnv env s).chipHist = s.chipHist := rfl
@[simp] theorem withEnv_sortCounters (env : MemEnv) : (withEnv env s).sortCounters = s.sortCounters := rfl
@[simp] theorem withEnv_recv (env : MemEnv) : (withEnv env s).recv = s.recv := rfl
@[simp] theorem withEnv_feeds (env : MemEnv) : (withEnv env s).feeds = s.feeds := rfl
@[simp] theorem withEnv_handed (env : MemEnv) : (withEnv env s).handed = s.handed := rfl
@[simp] theorem withEnv_collects (env : MemEnv) : (withEnv env s).collects = s.collects := rfl
@[simp] theorem withEnv_collectHeld (env : MemEnv) : (withEnv env s).collectHeld = s.collectHeld := rfl
@[simp] theorem withEnv_gen (env : MemEnv) : (withEnv env s).gen = s.gen := rfl
@[simp] theorem withEnv_raiseDue (env : MemEnv) : (withEnv env s).raiseDue = s.raiseDue := rfl
@[simp] theorem withEnv_orphans (env : MemEnv) : (withEnv env s).orphans = s.orphans := rfl
@[simp] theorem withEnv_rounds (env : MemEnv) : (withEnv env s).rounds = s.rounds := rfl
@[simp] theorem withEnv_cce (env : MemEnv) : (withEnv env s).cce = s.cce := rfl
@[simp] theorem withEnv_rma (env : MemEnv) : (withEnv env s).rma = s.rma := rfl
@[simp] theorem withEnv_rmaTurn (env : MemEnv) : (withEnv env s).rmaTurn = s.rmaTurn := rfl
@[simp] theorem withEnv_dedup (env : MemEnv) : (withEnv env s).dedup = s.dedup := rfl
@[simp] theorem withEnv_cache (env : MemEnv) : (withEnv env s).cache = s.cache := rfl
@[simp] theorem withEnv_fep (env : MemEnv) : (withEnv env s).fep = s.fep := rfl
@[simp] theorem withEnv_ports (env : MemEnv) : (withEnv env s).ports = s.ports := rfl

/-! ### emitOut -/

@[simp] theorem emitOut_pending (o : Out) : (emitOut o s).pending = s.pending := rfl
@[simp] theorem emitOut_out (o : Out) : (emitOut o s).out = s.out ++ [o] := rfl
@[simp] theorem emitOut_regs (o : Out) : (emitOut o s).regs = s.regs := rfl
@[simp] theorem emitOut_mem (o : Out) : (emitOut o s).mem = s.mem := rfl
@[simp] theorem emitOut_freshCount (o : Out) : (emitOut o s).freshCount = s.freshCount := rfl
@[simp] theorem emitOut_boot (o : Out) : (emitOut o s).boot = s.boot := rfl
@[simp] theorem emitOut_fuses (o : Out) : (emitOut o s).fuses = s.fuses := rfl
@[simp] theorem emitOut_devKey (o : Out) : (emitOut o s).devKey = s.devKey := rfl
@[simp] theorem emitOut_clk (o : Out) : (emitOut o s).clk = s.clk := rfl
@[simp] theorem emitOut_tb (o : Out) : (emitOut o s).tb = s.tb := rfl
@[simp] theorem emitOut_tbRun (o : Out) : (emitOut o s).tbRun = s.tbRun := rfl
@[simp] theorem emitOut_tbExhausted (o : Out) : (emitOut o s).tbExhausted = s.tbExhausted := rfl
@[simp] theorem emitOut_tap (o : Out) : (emitOut o s).tap = s.tap := rfl
@[simp] theorem emitOut_ldr (o : Out) : (emitOut o s).ldr = s.ldr := rfl
@[simp] theorem emitOut_commits (o : Out) : (emitOut o s).commits = s.commits := rfl
@[simp] theorem emitOut_latched (o : Out) : (emitOut o s).latched = s.latched := rfl
@[simp] theorem emitOut_sec (o : Out) : (emitOut o s).sec = s.sec := rfl
@[simp] theorem emitOut_dat (o : Out) : (emitOut o s).dat = s.dat := rfl
@[simp] theorem emitOut_run (o : Out) : (emitOut o s).run = s.run := rfl
@[simp] theorem emitOut_stepNum (o : Out) : (emitOut o s).stepNum = s.stepNum := rfl
@[simp] theorem emitOut_prevT (o : Out) : (emitOut o s).prevT = s.prevT := rfl
@[simp] theorem emitOut_verdict (o : Out) : (emitOut o s).verdict = s.verdict := rfl
@[simp] theorem emitOut_rlog (o : Out) : (emitOut o s).rlog = s.rlog := rfl
@[simp] theorem emitOut_fences (o : Out) : (emitOut o s).fences = s.fences := rfl
@[simp] theorem emitOut_fenceSelf (o : Out) : (emitOut o s).fenceSelf = s.fenceSelf := rfl
@[simp] theorem emitOut_unfences (o : Out) : (emitOut o s).unfences = s.unfences := rfl
@[simp] theorem emitOut_probes (o : Out) : (emitOut o s).probes = s.probes := rfl
@[simp] theorem emitOut_broadcasts (o : Out) : (emitOut o s).broadcasts = s.broadcasts := rfl
@[simp] theorem emitOut_mgmtNext (o : Out) : (emitOut o s).mgmtNext = s.mgmtNext := rfl
@[simp] theorem emitOut_note (o : Out) : (emitOut o s).note = s.note := rfl
@[simp] theorem emitOut_trace (o : Out) : (emitOut o s).trace = s.trace := rfl
@[simp] theorem emitOut_sfuVersion (o : Out) : (emitOut o s).sfuVersion = s.sfuVersion := rfl
@[simp] theorem emitOut_sfuCopying (o : Out) : (emitOut o s).sfuCopying = s.sfuCopying := rfl
@[simp] theorem emitOut_sfuLocked (o : Out) : (emitOut o s).sfuLocked = s.sfuLocked := rfl
@[simp] theorem emitOut_cad (o : Out) : (emitOut o s).cad = s.cad := rfl
@[simp] theorem emitOut_lst (o : Out) : (emitOut o s).lst = s.lst := rfl
@[simp] theorem emitOut_demand (o : Out) : (emitOut o s).demand = s.demand := rfl
@[simp] theorem emitOut_quarPending (o : Out) : (emitOut o s).quarPending = s.quarPending := rfl
@[simp] theorem emitOut_quarUndelivered (o : Out) : (emitOut o s).quarUndelivered = s.quarUndelivered := rfl
@[simp] theorem emitOut_quarActing (o : Out) : (emitOut o s).quarActing = s.quarActing := rfl
@[simp] theorem emitOut_quarSeen (o : Out) : (emitOut o s).quarSeen = s.quarSeen := rfl
@[simp] theorem emitOut_cadRefetch (o : Out) : (emitOut o s).cadRefetch = s.cadRefetch := rfl
@[simp] theorem emitOut_pools (o : Out) : (emitOut o s).pools = s.pools := rfl
@[simp] theorem emitOut_tports (o : Out) : (emitOut o s).tports = s.tports := rfl
@[simp] theorem emitOut_tokenLast (o : Out) : (emitOut o s).tokenLast = s.tokenLast := rfl
@[simp] theorem emitOut_halves (o : Out) : (emitOut o s).halves = s.halves := rfl
@[simp] theorem emitOut_ingestHeld (o : Out) : (emitOut o s).ingestHeld = s.ingestHeld := rfl
@[simp] theorem emitOut_homes (o : Out) : (emitOut o s).homes = s.homes := rfl
@[simp] theorem emitOut_bucketMaps (o : Out) : (emitOut o s).bucketMaps = s.bucketMaps := rfl
@[simp] theorem emitOut_chipHist (o : Out) : (emitOut o s).chipHist = s.chipHist := rfl
@[simp] theorem emitOut_sortCounters (o : Out) : (emitOut o s).sortCounters = s.sortCounters := rfl
@[simp] theorem emitOut_recv (o : Out) : (emitOut o s).recv = s.recv := rfl
@[simp] theorem emitOut_feeds (o : Out) : (emitOut o s).feeds = s.feeds := rfl
@[simp] theorem emitOut_handed (o : Out) : (emitOut o s).handed = s.handed := rfl
@[simp] theorem emitOut_collects (o : Out) : (emitOut o s).collects = s.collects := rfl
@[simp] theorem emitOut_collectHeld (o : Out) : (emitOut o s).collectHeld = s.collectHeld := rfl
@[simp] theorem emitOut_gen (o : Out) : (emitOut o s).gen = s.gen := rfl
@[simp] theorem emitOut_raiseDue (o : Out) : (emitOut o s).raiseDue = s.raiseDue := rfl
@[simp] theorem emitOut_orphans (o : Out) : (emitOut o s).orphans = s.orphans := rfl
@[simp] theorem emitOut_rounds (o : Out) : (emitOut o s).rounds = s.rounds := rfl
@[simp] theorem emitOut_cce (o : Out) : (emitOut o s).cce = s.cce := rfl
@[simp] theorem emitOut_rma (o : Out) : (emitOut o s).rma = s.rma := rfl
@[simp] theorem emitOut_rmaTurn (o : Out) : (emitOut o s).rmaTurn = s.rmaTurn := rfl
@[simp] theorem emitOut_dedup (o : Out) : (emitOut o s).dedup = s.dedup := rfl
@[simp] theorem emitOut_cache (o : Out) : (emitOut o s).cache = s.cache := rfl
@[simp] theorem emitOut_fep (o : Out) : (emitOut o s).fep = s.fep := rfl
@[simp] theorem emitOut_ports (o : Out) : (emitOut o s).ports = s.ports := rfl

/-! ### modRun -/

@[simp] theorem modRun_pending (f : Run → Run) : (modRun f s).pending = s.pending := rfl
@[simp] theorem modRun_out (f : Run → Run) : (modRun f s).out = s.out := rfl
@[simp] theorem modRun_regs (f : Run → Run) : (modRun f s).regs = s.regs := rfl
@[simp] theorem modRun_mem (f : Run → Run) : (modRun f s).mem = s.mem := rfl
@[simp] theorem modRun_freshCount (f : Run → Run) : (modRun f s).freshCount = s.freshCount := rfl
@[simp] theorem modRun_boot (f : Run → Run) : (modRun f s).boot = s.boot := rfl
@[simp] theorem modRun_fuses (f : Run → Run) : (modRun f s).fuses = s.fuses := rfl
@[simp] theorem modRun_devKey (f : Run → Run) : (modRun f s).devKey = s.devKey := rfl
@[simp] theorem modRun_clk (f : Run → Run) : (modRun f s).clk = s.clk := rfl
@[simp] theorem modRun_tb (f : Run → Run) : (modRun f s).tb = s.tb := rfl
@[simp] theorem modRun_tbRun (f : Run → Run) : (modRun f s).tbRun = s.tbRun := rfl
@[simp] theorem modRun_tbExhausted (f : Run → Run) : (modRun f s).tbExhausted = s.tbExhausted := rfl
@[simp] theorem modRun_tap (f : Run → Run) : (modRun f s).tap = s.tap := rfl
@[simp] theorem modRun_ldr (f : Run → Run) : (modRun f s).ldr = s.ldr := rfl
@[simp] theorem modRun_commits (f : Run → Run) : (modRun f s).commits = s.commits := rfl
@[simp] theorem modRun_latched (f : Run → Run) : (modRun f s).latched = s.latched := rfl
@[simp] theorem modRun_sec (f : Run → Run) : (modRun f s).sec = s.sec := rfl
@[simp] theorem modRun_dat (f : Run → Run) : (modRun f s).dat = s.dat := rfl
@[simp] theorem modRun_run (f : Run → Run) : (modRun f s).run = s.run.map f := rfl
@[simp] theorem modRun_stepNum (f : Run → Run) : (modRun f s).stepNum = s.stepNum := rfl
@[simp] theorem modRun_prevT (f : Run → Run) : (modRun f s).prevT = s.prevT := rfl
@[simp] theorem modRun_verdict (f : Run → Run) : (modRun f s).verdict = s.verdict := rfl
@[simp] theorem modRun_rlog (f : Run → Run) : (modRun f s).rlog = s.rlog := rfl
@[simp] theorem modRun_fences (f : Run → Run) : (modRun f s).fences = s.fences := rfl
@[simp] theorem modRun_fenceSelf (f : Run → Run) : (modRun f s).fenceSelf = s.fenceSelf := rfl
@[simp] theorem modRun_unfences (f : Run → Run) : (modRun f s).unfences = s.unfences := rfl
@[simp] theorem modRun_probes (f : Run → Run) : (modRun f s).probes = s.probes := rfl
@[simp] theorem modRun_broadcasts (f : Run → Run) : (modRun f s).broadcasts = s.broadcasts := rfl
@[simp] theorem modRun_mgmtNext (f : Run → Run) : (modRun f s).mgmtNext = s.mgmtNext := rfl
@[simp] theorem modRun_note (f : Run → Run) : (modRun f s).note = s.note := rfl
@[simp] theorem modRun_trace (f : Run → Run) : (modRun f s).trace = s.trace := rfl
@[simp] theorem modRun_sfuVersion (f : Run → Run) : (modRun f s).sfuVersion = s.sfuVersion := rfl
@[simp] theorem modRun_sfuCopying (f : Run → Run) : (modRun f s).sfuCopying = s.sfuCopying := rfl
@[simp] theorem modRun_sfuLocked (f : Run → Run) : (modRun f s).sfuLocked = s.sfuLocked := rfl
@[simp] theorem modRun_cad (f : Run → Run) : (modRun f s).cad = s.cad := rfl
@[simp] theorem modRun_lst (f : Run → Run) : (modRun f s).lst = s.lst := rfl
@[simp] theorem modRun_demand (f : Run → Run) : (modRun f s).demand = s.demand := rfl
@[simp] theorem modRun_quarPending (f : Run → Run) : (modRun f s).quarPending = s.quarPending := rfl
@[simp] theorem modRun_quarUndelivered (f : Run → Run) : (modRun f s).quarUndelivered = s.quarUndelivered := rfl
@[simp] theorem modRun_quarActing (f : Run → Run) : (modRun f s).quarActing = s.quarActing := rfl
@[simp] theorem modRun_quarSeen (f : Run → Run) : (modRun f s).quarSeen = s.quarSeen := rfl
@[simp] theorem modRun_cadRefetch (f : Run → Run) : (modRun f s).cadRefetch = s.cadRefetch := rfl
@[simp] theorem modRun_pools (f : Run → Run) : (modRun f s).pools = s.pools := rfl
@[simp] theorem modRun_tports (f : Run → Run) : (modRun f s).tports = s.tports := rfl
@[simp] theorem modRun_tokenLast (f : Run → Run) : (modRun f s).tokenLast = s.tokenLast := rfl
@[simp] theorem modRun_halves (f : Run → Run) : (modRun f s).halves = s.halves := rfl
@[simp] theorem modRun_ingestHeld (f : Run → Run) : (modRun f s).ingestHeld = s.ingestHeld := rfl
@[simp] theorem modRun_homes (f : Run → Run) : (modRun f s).homes = s.homes := rfl
@[simp] theorem modRun_bucketMaps (f : Run → Run) : (modRun f s).bucketMaps = s.bucketMaps := rfl
@[simp] theorem modRun_chipHist (f : Run → Run) : (modRun f s).chipHist = s.chipHist := rfl
@[simp] theorem modRun_sortCounters (f : Run → Run) : (modRun f s).sortCounters = s.sortCounters := rfl
@[simp] theorem modRun_recv (f : Run → Run) : (modRun f s).recv = s.recv := rfl
@[simp] theorem modRun_feeds (f : Run → Run) : (modRun f s).feeds = s.feeds := rfl
@[simp] theorem modRun_handed (f : Run → Run) : (modRun f s).handed = s.handed := rfl
@[simp] theorem modRun_collects (f : Run → Run) : (modRun f s).collects = s.collects := rfl
@[simp] theorem modRun_collectHeld (f : Run → Run) : (modRun f s).collectHeld = s.collectHeld := rfl
@[simp] theorem modRun_gen (f : Run → Run) : (modRun f s).gen = s.gen := rfl
@[simp] theorem modRun_raiseDue (f : Run → Run) : (modRun f s).raiseDue = s.raiseDue := rfl
@[simp] theorem modRun_orphans (f : Run → Run) : (modRun f s).orphans = s.orphans := rfl
@[simp] theorem modRun_rounds (f : Run → Run) : (modRun f s).rounds = s.rounds := rfl
@[simp] theorem modRun_cce (f : Run → Run) : (modRun f s).cce = s.cce := rfl
@[simp] theorem modRun_rma (f : Run → Run) : (modRun f s).rma = s.rma := rfl
@[simp] theorem modRun_rmaTurn (f : Run → Run) : (modRun f s).rmaTurn = s.rmaTurn := rfl
@[simp] theorem modRun_dedup (f : Run → Run) : (modRun f s).dedup = s.dedup := rfl
@[simp] theorem modRun_cache (f : Run → Run) : (modRun f s).cache = s.cache := rfl
@[simp] theorem modRun_fep (f : Run → Run) : (modRun f s).fep = s.fep := rfl
@[simp] theorem modRun_ports (f : Run → Run) : (modRun f s).ports = s.ports := rfl

/-! ### modDat -/

@[simp] theorem modDat_pending (f : Dat → Dat) : (modDat f s).pending = s.pending := rfl
@[simp] theorem modDat_out (f : Dat → Dat) : (modDat f s).out = s.out := rfl
@[simp] theorem modDat_regs (f : Dat → Dat) : (modDat f s).regs = s.regs := rfl
@[simp] theorem modDat_mem (f : Dat → Dat) : (modDat f s).mem = s.mem := rfl
@[simp] theorem modDat_freshCount (f : Dat → Dat) : (modDat f s).freshCount = s.freshCount := rfl
@[simp] theorem modDat_boot (f : Dat → Dat) : (modDat f s).boot = s.boot := rfl
@[simp] theorem modDat_fuses (f : Dat → Dat) : (modDat f s).fuses = s.fuses := rfl
@[simp] theorem modDat_devKey (f : Dat → Dat) : (modDat f s).devKey = s.devKey := rfl
@[simp] theorem modDat_clk (f : Dat → Dat) : (modDat f s).clk = s.clk := rfl
@[simp] theorem modDat_tb (f : Dat → Dat) : (modDat f s).tb = s.tb := rfl
@[simp] theorem modDat_tbRun (f : Dat → Dat) : (modDat f s).tbRun = s.tbRun := rfl
@[simp] theorem modDat_tbExhausted (f : Dat → Dat) : (modDat f s).tbExhausted = s.tbExhausted := rfl
@[simp] theorem modDat_tap (f : Dat → Dat) : (modDat f s).tap = s.tap := rfl
@[simp] theorem modDat_ldr (f : Dat → Dat) : (modDat f s).ldr = s.ldr := rfl
@[simp] theorem modDat_commits (f : Dat → Dat) : (modDat f s).commits = s.commits := rfl
@[simp] theorem modDat_latched (f : Dat → Dat) : (modDat f s).latched = s.latched := rfl
@[simp] theorem modDat_sec (f : Dat → Dat) : (modDat f s).sec = s.sec := rfl
@[simp] theorem modDat_dat (f : Dat → Dat) : (modDat f s).dat = f s.dat := rfl
@[simp] theorem modDat_run (f : Dat → Dat) : (modDat f s).run = s.run := rfl
@[simp] theorem modDat_stepNum (f : Dat → Dat) : (modDat f s).stepNum = s.stepNum := rfl
@[simp] theorem modDat_prevT (f : Dat → Dat) : (modDat f s).prevT = s.prevT := rfl
@[simp] theorem modDat_verdict (f : Dat → Dat) : (modDat f s).verdict = s.verdict := rfl
@[simp] theorem modDat_rlog (f : Dat → Dat) : (modDat f s).rlog = s.rlog := rfl
@[simp] theorem modDat_fences (f : Dat → Dat) : (modDat f s).fences = s.fences := rfl
@[simp] theorem modDat_fenceSelf (f : Dat → Dat) : (modDat f s).fenceSelf = s.fenceSelf := rfl
@[simp] theorem modDat_unfences (f : Dat → Dat) : (modDat f s).unfences = s.unfences := rfl
@[simp] theorem modDat_probes (f : Dat → Dat) : (modDat f s).probes = s.probes := rfl
@[simp] theorem modDat_broadcasts (f : Dat → Dat) : (modDat f s).broadcasts = s.broadcasts := rfl
@[simp] theorem modDat_mgmtNext (f : Dat → Dat) : (modDat f s).mgmtNext = s.mgmtNext := rfl
@[simp] theorem modDat_note (f : Dat → Dat) : (modDat f s).note = s.note := rfl
@[simp] theorem modDat_trace (f : Dat → Dat) : (modDat f s).trace = s.trace := rfl
@[simp] theorem modDat_sfuVersion (f : Dat → Dat) : (modDat f s).sfuVersion = s.sfuVersion := rfl
@[simp] theorem modDat_sfuCopying (f : Dat → Dat) : (modDat f s).sfuCopying = s.sfuCopying := rfl
@[simp] theorem modDat_sfuLocked (f : Dat → Dat) : (modDat f s).sfuLocked = s.sfuLocked := rfl
@[simp] theorem modDat_cad (f : Dat → Dat) : (modDat f s).cad = s.cad := rfl
@[simp] theorem modDat_lst (f : Dat → Dat) : (modDat f s).lst = s.lst := rfl
@[simp] theorem modDat_demand (f : Dat → Dat) : (modDat f s).demand = s.demand := rfl
@[simp] theorem modDat_quarPending (f : Dat → Dat) : (modDat f s).quarPending = s.quarPending := rfl
@[simp] theorem modDat_quarUndelivered (f : Dat → Dat) : (modDat f s).quarUndelivered = s.quarUndelivered := rfl
@[simp] theorem modDat_quarActing (f : Dat → Dat) : (modDat f s).quarActing = s.quarActing := rfl
@[simp] theorem modDat_quarSeen (f : Dat → Dat) : (modDat f s).quarSeen = s.quarSeen := rfl
@[simp] theorem modDat_cadRefetch (f : Dat → Dat) : (modDat f s).cadRefetch = s.cadRefetch := rfl
@[simp] theorem modDat_pools (f : Dat → Dat) : (modDat f s).pools = s.pools := rfl
@[simp] theorem modDat_tports (f : Dat → Dat) : (modDat f s).tports = s.tports := rfl
@[simp] theorem modDat_tokenLast (f : Dat → Dat) : (modDat f s).tokenLast = s.tokenLast := rfl
@[simp] theorem modDat_halves (f : Dat → Dat) : (modDat f s).halves = s.halves := rfl
@[simp] theorem modDat_ingestHeld (f : Dat → Dat) : (modDat f s).ingestHeld = s.ingestHeld := rfl
@[simp] theorem modDat_homes (f : Dat → Dat) : (modDat f s).homes = s.homes := rfl
@[simp] theorem modDat_bucketMaps (f : Dat → Dat) : (modDat f s).bucketMaps = s.bucketMaps := rfl
@[simp] theorem modDat_chipHist (f : Dat → Dat) : (modDat f s).chipHist = s.chipHist := rfl
@[simp] theorem modDat_sortCounters (f : Dat → Dat) : (modDat f s).sortCounters = s.sortCounters := rfl
@[simp] theorem modDat_recv (f : Dat → Dat) : (modDat f s).recv = s.recv := rfl
@[simp] theorem modDat_feeds (f : Dat → Dat) : (modDat f s).feeds = s.feeds := rfl
@[simp] theorem modDat_handed (f : Dat → Dat) : (modDat f s).handed = s.handed := rfl
@[simp] theorem modDat_collects (f : Dat → Dat) : (modDat f s).collects = s.collects := rfl
@[simp] theorem modDat_collectHeld (f : Dat → Dat) : (modDat f s).collectHeld = s.collectHeld := rfl
@[simp] theorem modDat_gen (f : Dat → Dat) : (modDat f s).gen = s.gen := rfl
@[simp] theorem modDat_raiseDue (f : Dat → Dat) : (modDat f s).raiseDue = s.raiseDue := rfl
@[simp] theorem modDat_orphans (f : Dat → Dat) : (modDat f s).orphans = s.orphans := rfl
@[simp] theorem modDat_rounds (f : Dat → Dat) : (modDat f s).rounds = s.rounds := rfl
@[simp] theorem modDat_cce (f : Dat → Dat) : (modDat f s).cce = s.cce := rfl
@[simp] theorem modDat_rma (f : Dat → Dat) : (modDat f s).rma = s.rma := rfl
@[simp] theorem modDat_rmaTurn (f : Dat → Dat) : (modDat f s).rmaTurn = s.rmaTurn := rfl
@[simp] theorem modDat_dedup (f : Dat → Dat) : (modDat f s).dedup = s.dedup := rfl
@[simp] theorem modDat_cache (f : Dat → Dat) : (modDat f s).cache = s.cache := rfl
@[simp] theorem modDat_fep (f : Dat → Dat) : (modDat f s).fep = s.fep := rfl
@[simp] theorem modDat_ports (f : Dat → Dat) : (modDat f s).ports = s.ports := rfl

/-! ### modPool -/

@[simp] theorem modPool_pending (p : Nat) (f : Pool → Pool) : (modPool p f s).pending = s.pending := rfl
@[simp] theorem modPool_out (p : Nat) (f : Pool → Pool) : (modPool p f s).out = s.out := rfl
@[simp] theorem modPool_regs (p : Nat) (f : Pool → Pool) : (modPool p f s).regs = s.regs := rfl
@[simp] theorem modPool_mem (p : Nat) (f : Pool → Pool) : (modPool p f s).mem = s.mem := rfl
@[simp] theorem modPool_freshCount (p : Nat) (f : Pool → Pool) : (modPool p f s).freshCount = s.freshCount := rfl
@[simp] theorem modPool_boot (p : Nat) (f : Pool → Pool) : (modPool p f s).boot = s.boot := rfl
@[simp] theorem modPool_fuses (p : Nat) (f : Pool → Pool) : (modPool p f s).fuses = s.fuses := rfl
@[simp] theorem modPool_devKey (p : Nat) (f : Pool → Pool) : (modPool p f s).devKey = s.devKey := rfl
@[simp] theorem modPool_clk (p : Nat) (f : Pool → Pool) : (modPool p f s).clk = s.clk := rfl
@[simp] theorem modPool_tb (p : Nat) (f : Pool → Pool) : (modPool p f s).tb = s.tb := rfl
@[simp] theorem modPool_tbRun (p : Nat) (f : Pool → Pool) : (modPool p f s).tbRun = s.tbRun := rfl
@[simp] theorem modPool_tbExhausted (p : Nat) (f : Pool → Pool) : (modPool p f s).tbExhausted = s.tbExhausted := rfl
@[simp] theorem modPool_tap (p : Nat) (f : Pool → Pool) : (modPool p f s).tap = s.tap := rfl
@[simp] theorem modPool_ldr (p : Nat) (f : Pool → Pool) : (modPool p f s).ldr = s.ldr := rfl
@[simp] theorem modPool_commits (p : Nat) (f : Pool → Pool) : (modPool p f s).commits = s.commits := rfl
@[simp] theorem modPool_latched (p : Nat) (f : Pool → Pool) : (modPool p f s).latched = s.latched := rfl
@[simp] theorem modPool_sec (p : Nat) (f : Pool → Pool) : (modPool p f s).sec = s.sec := rfl
@[simp] theorem modPool_dat (p : Nat) (f : Pool → Pool) : (modPool p f s).dat = s.dat := rfl
@[simp] theorem modPool_run (p : Nat) (f : Pool → Pool) : (modPool p f s).run = s.run := rfl
@[simp] theorem modPool_stepNum (p : Nat) (f : Pool → Pool) : (modPool p f s).stepNum = s.stepNum := rfl
@[simp] theorem modPool_prevT (p : Nat) (f : Pool → Pool) : (modPool p f s).prevT = s.prevT := rfl
@[simp] theorem modPool_verdict (p : Nat) (f : Pool → Pool) : (modPool p f s).verdict = s.verdict := rfl
@[simp] theorem modPool_rlog (p : Nat) (f : Pool → Pool) : (modPool p f s).rlog = s.rlog := rfl
@[simp] theorem modPool_fences (p : Nat) (f : Pool → Pool) : (modPool p f s).fences = s.fences := rfl
@[simp] theorem modPool_fenceSelf (p : Nat) (f : Pool → Pool) : (modPool p f s).fenceSelf = s.fenceSelf := rfl
@[simp] theorem modPool_unfences (p : Nat) (f : Pool → Pool) : (modPool p f s).unfences = s.unfences := rfl
@[simp] theorem modPool_probes (p : Nat) (f : Pool → Pool) : (modPool p f s).probes = s.probes := rfl
@[simp] theorem modPool_broadcasts (p : Nat) (f : Pool → Pool) : (modPool p f s).broadcasts = s.broadcasts := rfl
@[simp] theorem modPool_mgmtNext (p : Nat) (f : Pool → Pool) : (modPool p f s).mgmtNext = s.mgmtNext := rfl
@[simp] theorem modPool_note (p : Nat) (f : Pool → Pool) : (modPool p f s).note = s.note := rfl
@[simp] theorem modPool_trace (p : Nat) (f : Pool → Pool) : (modPool p f s).trace = s.trace := rfl
@[simp] theorem modPool_sfuVersion (p : Nat) (f : Pool → Pool) : (modPool p f s).sfuVersion = s.sfuVersion := rfl
@[simp] theorem modPool_sfuCopying (p : Nat) (f : Pool → Pool) : (modPool p f s).sfuCopying = s.sfuCopying := rfl
@[simp] theorem modPool_sfuLocked (p : Nat) (f : Pool → Pool) : (modPool p f s).sfuLocked = s.sfuLocked := rfl
@[simp] theorem modPool_cad (p : Nat) (f : Pool → Pool) : (modPool p f s).cad = s.cad := rfl
@[simp] theorem modPool_lst (p : Nat) (f : Pool → Pool) : (modPool p f s).lst = s.lst := rfl
@[simp] theorem modPool_demand (p : Nat) (f : Pool → Pool) : (modPool p f s).demand = s.demand := rfl
@[simp] theorem modPool_quarPending (p : Nat) (f : Pool → Pool) : (modPool p f s).quarPending = s.quarPending := rfl
@[simp] theorem modPool_quarUndelivered (p : Nat) (f : Pool → Pool) : (modPool p f s).quarUndelivered = s.quarUndelivered := rfl
@[simp] theorem modPool_quarActing (p : Nat) (f : Pool → Pool) : (modPool p f s).quarActing = s.quarActing := rfl
@[simp] theorem modPool_quarSeen (p : Nat) (f : Pool → Pool) : (modPool p f s).quarSeen = s.quarSeen := rfl
@[simp] theorem modPool_cadRefetch (p : Nat) (f : Pool → Pool) : (modPool p f s).cadRefetch = s.cadRefetch := rfl
@[simp] theorem modPool_pools (p : Nat) (f : Pool → Pool) : (modPool p f s).pools = { s.pools with pools := modifyAt f p s.pools.pools } := rfl
@[simp] theorem modPool_tports (p : Nat) (f : Pool → Pool) : (modPool p f s).tports = s.tports := rfl
@[simp] theorem modPool_tokenLast (p : Nat) (f : Pool → Pool) : (modPool p f s).tokenLast = s.tokenLast := rfl
@[simp] theorem modPool_halves (p : Nat) (f : Pool → Pool) : (modPool p f s).halves = s.halves := rfl
@[simp] theorem modPool_ingestHeld (p : Nat) (f : Pool → Pool) : (modPool p f s).ingestHeld = s.ingestHeld := rfl
@[simp] theorem modPool_homes (p : Nat) (f : Pool → Pool) : (modPool p f s).homes = s.homes := rfl
@[simp] theorem modPool_bucketMaps (p : Nat) (f : Pool → Pool) : (modPool p f s).bucketMaps = s.bucketMaps := rfl
@[simp] theorem modPool_chipHist (p : Nat) (f : Pool → Pool) : (modPool p f s).chipHist = s.chipHist := rfl
@[simp] theorem modPool_sortCounters (p : Nat) (f : Pool → Pool) : (modPool p f s).sortCounters = s.sortCounters := rfl
@[simp] theorem modPool_recv (p : Nat) (f : Pool → Pool) : (modPool p f s).recv = s.recv := rfl
@[simp] theorem modPool_feeds (p : Nat) (f : Pool → Pool) : (modPool p f s).feeds = s.feeds := rfl
@[simp] theorem modPool_handed (p : Nat) (f : Pool → Pool) : (modPool p f s).handed = s.handed := rfl
@[simp] theorem modPool_collects (p : Nat) (f : Pool → Pool) : (modPool p f s).collects = s.collects := rfl
@[simp] theorem modPool_collectHeld (p : Nat) (f : Pool → Pool) : (modPool p f s).collectHeld = s.collectHeld := rfl
@[simp] theorem modPool_gen (p : Nat) (f : Pool → Pool) : (modPool p f s).gen = s.gen := rfl
@[simp] theorem modPool_raiseDue (p : Nat) (f : Pool → Pool) : (modPool p f s).raiseDue = s.raiseDue := rfl
@[simp] theorem modPool_orphans (p : Nat) (f : Pool → Pool) : (modPool p f s).orphans = s.orphans := rfl
@[simp] theorem modPool_rounds (p : Nat) (f : Pool → Pool) : (modPool p f s).rounds = s.rounds := rfl
@[simp] theorem modPool_cce (p : Nat) (f : Pool → Pool) : (modPool p f s).cce = s.cce := rfl
@[simp] theorem modPool_rma (p : Nat) (f : Pool → Pool) : (modPool p f s).rma = s.rma := rfl
@[simp] theorem modPool_rmaTurn (p : Nat) (f : Pool → Pool) : (modPool p f s).rmaTurn = s.rmaTurn := rfl
@[simp] theorem modPool_dedup (p : Nat) (f : Pool → Pool) : (modPool p f s).dedup = s.dedup := rfl
@[simp] theorem modPool_cache (p : Nat) (f : Pool → Pool) : (modPool p f s).cache = s.cache := rfl
@[simp] theorem modPool_fep (p : Nat) (f : Pool → Pool) : (modPool p f s).fep = s.fep := rfl
@[simp] theorem modPool_ports (p : Nat) (f : Pool → Pool) : (modPool p f s).ports = s.ports := rfl

/-! ### modHalf -/

@[simp] theorem modHalf_pending (l h : Nat) (f : Half → Half) : (modHalf l h f s).pending = s.pending := rfl
@[simp] theorem modHalf_out (l h : Nat) (f : Half → Half) : (modHalf l h f s).out = s.out := rfl
@[simp] theorem modHalf_regs (l h : Nat) (f : Half → Half) : (modHalf l h f s).regs = s.regs := rfl
@[simp] theorem modHalf_mem (l h : Nat) (f : Half → Half) : (modHalf l h f s).mem = s.mem := rfl
@[simp] theorem modHalf_freshCount (l h : Nat) (f : Half → Half) : (modHalf l h f s).freshCount = s.freshCount := rfl
@[simp] theorem modHalf_boot (l h : Nat) (f : Half → Half) : (modHalf l h f s).boot = s.boot := rfl
@[simp] theorem modHalf_fuses (l h : Nat) (f : Half → Half) : (modHalf l h f s).fuses = s.fuses := rfl
@[simp] theorem modHalf_devKey (l h : Nat) (f : Half → Half) : (modHalf l h f s).devKey = s.devKey := rfl
@[simp] theorem modHalf_clk (l h : Nat) (f : Half → Half) : (modHalf l h f s).clk = s.clk := rfl
@[simp] theorem modHalf_tb (l h : Nat) (f : Half → Half) : (modHalf l h f s).tb = s.tb := rfl
@[simp] theorem modHalf_tbRun (l h : Nat) (f : Half → Half) : (modHalf l h f s).tbRun = s.tbRun := rfl
@[simp] theorem modHalf_tbExhausted (l h : Nat) (f : Half → Half) : (modHalf l h f s).tbExhausted = s.tbExhausted := rfl
@[simp] theorem modHalf_tap (l h : Nat) (f : Half → Half) : (modHalf l h f s).tap = s.tap := rfl
@[simp] theorem modHalf_ldr (l h : Nat) (f : Half → Half) : (modHalf l h f s).ldr = s.ldr := rfl
@[simp] theorem modHalf_commits (l h : Nat) (f : Half → Half) : (modHalf l h f s).commits = s.commits := rfl
@[simp] theorem modHalf_latched (l h : Nat) (f : Half → Half) : (modHalf l h f s).latched = s.latched := rfl
@[simp] theorem modHalf_sec (l h : Nat) (f : Half → Half) : (modHalf l h f s).sec = s.sec := rfl
@[simp] theorem modHalf_dat (l h : Nat) (f : Half → Half) : (modHalf l h f s).dat = s.dat := rfl
@[simp] theorem modHalf_run (l h : Nat) (f : Half → Half) : (modHalf l h f s).run = s.run := rfl
@[simp] theorem modHalf_stepNum (l h : Nat) (f : Half → Half) : (modHalf l h f s).stepNum = s.stepNum := rfl
@[simp] theorem modHalf_prevT (l h : Nat) (f : Half → Half) : (modHalf l h f s).prevT = s.prevT := rfl
@[simp] theorem modHalf_verdict (l h : Nat) (f : Half → Half) : (modHalf l h f s).verdict = s.verdict := rfl
@[simp] theorem modHalf_rlog (l h : Nat) (f : Half → Half) : (modHalf l h f s).rlog = s.rlog := rfl
@[simp] theorem modHalf_fences (l h : Nat) (f : Half → Half) : (modHalf l h f s).fences = s.fences := rfl
@[simp] theorem modHalf_fenceSelf (l h : Nat) (f : Half → Half) : (modHalf l h f s).fenceSelf = s.fenceSelf := rfl
@[simp] theorem modHalf_unfences (l h : Nat) (f : Half → Half) : (modHalf l h f s).unfences = s.unfences := rfl
@[simp] theorem modHalf_probes (l h : Nat) (f : Half → Half) : (modHalf l h f s).probes = s.probes := rfl
@[simp] theorem modHalf_broadcasts (l h : Nat) (f : Half → Half) : (modHalf l h f s).broadcasts = s.broadcasts := rfl
@[simp] theorem modHalf_mgmtNext (l h : Nat) (f : Half → Half) : (modHalf l h f s).mgmtNext = s.mgmtNext := rfl
@[simp] theorem modHalf_note (l h : Nat) (f : Half → Half) : (modHalf l h f s).note = s.note := rfl
@[simp] theorem modHalf_trace (l h : Nat) (f : Half → Half) : (modHalf l h f s).trace = s.trace := rfl
@[simp] theorem modHalf_sfuVersion (l h : Nat) (f : Half → Half) : (modHalf l h f s).sfuVersion = s.sfuVersion := rfl
@[simp] theorem modHalf_sfuCopying (l h : Nat) (f : Half → Half) : (modHalf l h f s).sfuCopying = s.sfuCopying := rfl
@[simp] theorem modHalf_sfuLocked (l h : Nat) (f : Half → Half) : (modHalf l h f s).sfuLocked = s.sfuLocked := rfl
@[simp] theorem modHalf_cad (l h : Nat) (f : Half → Half) : (modHalf l h f s).cad = s.cad := rfl
@[simp] theorem modHalf_lst (l h : Nat) (f : Half → Half) : (modHalf l h f s).lst = s.lst := rfl
@[simp] theorem modHalf_demand (l h : Nat) (f : Half → Half) : (modHalf l h f s).demand = s.demand := rfl
@[simp] theorem modHalf_quarPending (l h : Nat) (f : Half → Half) : (modHalf l h f s).quarPending = s.quarPending := rfl
@[simp] theorem modHalf_quarUndelivered (l h : Nat) (f : Half → Half) : (modHalf l h f s).quarUndelivered = s.quarUndelivered := rfl
@[simp] theorem modHalf_quarActing (l h : Nat) (f : Half → Half) : (modHalf l h f s).quarActing = s.quarActing := rfl
@[simp] theorem modHalf_quarSeen (l h : Nat) (f : Half → Half) : (modHalf l h f s).quarSeen = s.quarSeen := rfl
@[simp] theorem modHalf_cadRefetch (l h : Nat) (f : Half → Half) : (modHalf l h f s).cadRefetch = s.cadRefetch := rfl
@[simp] theorem modHalf_pools (l h : Nat) (f : Half → Half) : (modHalf l h f s).pools = s.pools := rfl
@[simp] theorem modHalf_tports (l h : Nat) (f : Half → Half) : (modHalf l h f s).tports = s.tports := rfl
@[simp] theorem modHalf_tokenLast (l h : Nat) (f : Half → Half) : (modHalf l h f s).tokenLast = s.tokenLast := rfl
@[simp] theorem modHalf_halves (l h : Nat) (f : Half → Half) : (modHalf l h f s).halves = s.halves.map (fun x => if x.layer = l && x.half = h then f x else x) := rfl
@[simp] theorem modHalf_ingestHeld (l h : Nat) (f : Half → Half) : (modHalf l h f s).ingestHeld = s.ingestHeld := rfl
@[simp] theorem modHalf_homes (l h : Nat) (f : Half → Half) : (modHalf l h f s).homes = s.homes := rfl
@[simp] theorem modHalf_bucketMaps (l h : Nat) (f : Half → Half) : (modHalf l h f s).bucketMaps = s.bucketMaps := rfl
@[simp] theorem modHalf_chipHist (l h : Nat) (f : Half → Half) : (modHalf l h f s).chipHist = s.chipHist := rfl
@[simp] theorem modHalf_sortCounters (l h : Nat) (f : Half → Half) : (modHalf l h f s).sortCounters = s.sortCounters := rfl
@[simp] theorem modHalf_recv (l h : Nat) (f : Half → Half) : (modHalf l h f s).recv = s.recv := rfl
@[simp] theorem modHalf_feeds (l h : Nat) (f : Half → Half) : (modHalf l h f s).feeds = s.feeds := rfl
@[simp] theorem modHalf_handed (l h : Nat) (f : Half → Half) : (modHalf l h f s).handed = s.handed := rfl
@[simp] theorem modHalf_collects (l h : Nat) (f : Half → Half) : (modHalf l h f s).collects = s.collects := rfl
@[simp] theorem modHalf_collectHeld (l h : Nat) (f : Half → Half) : (modHalf l h f s).collectHeld = s.collectHeld := rfl
@[simp] theorem modHalf_gen (l h : Nat) (f : Half → Half) : (modHalf l h f s).gen = s.gen := rfl
@[simp] theorem modHalf_raiseDue (l h : Nat) (f : Half → Half) : (modHalf l h f s).raiseDue = s.raiseDue := rfl
@[simp] theorem modHalf_orphans (l h : Nat) (f : Half → Half) : (modHalf l h f s).orphans = s.orphans := rfl
@[simp] theorem modHalf_rounds (l h : Nat) (f : Half → Half) : (modHalf l h f s).rounds = s.rounds := rfl
@[simp] theorem modHalf_cce (l h : Nat) (f : Half → Half) : (modHalf l h f s).cce = s.cce := rfl
@[simp] theorem modHalf_rma (l h : Nat) (f : Half → Half) : (modHalf l h f s).rma = s.rma := rfl
@[simp] theorem modHalf_rmaTurn (l h : Nat) (f : Half → Half) : (modHalf l h f s).rmaTurn = s.rmaTurn := rfl
@[simp] theorem modHalf_dedup (l h : Nat) (f : Half → Half) : (modHalf l h f s).dedup = s.dedup := rfl
@[simp] theorem modHalf_cache (l h : Nat) (f : Half → Half) : (modHalf l h f s).cache = s.cache := rfl
@[simp] theorem modHalf_fep (l h : Nat) (f : Half → Half) : (modHalf l h f s).fep = s.fep := rfl
@[simp] theorem modHalf_ports (l h : Nat) (f : Half → Half) : (modHalf l h f s).ports = s.ports := rfl

/-! ### modTPort -/

@[simp] theorem modTPort_pending (n : Nat) (f : TPort → TPort) : (modTPort n f s).pending = s.pending := rfl
@[simp] theorem modTPort_out (n : Nat) (f : TPort → TPort) : (modTPort n f s).out = s.out := rfl
@[simp] theorem modTPort_regs (n : Nat) (f : TPort → TPort) : (modTPort n f s).regs = s.regs := rfl
@[simp] theorem modTPort_mem (n : Nat) (f : TPort → TPort) : (modTPort n f s).mem = s.mem := rfl
@[simp] theorem modTPort_freshCount (n : Nat) (f : TPort → TPort) : (modTPort n f s).freshCount = s.freshCount := rfl
@[simp] theorem modTPort_boot (n : Nat) (f : TPort → TPort) : (modTPort n f s).boot = s.boot := rfl
@[simp] theorem modTPort_fuses (n : Nat) (f : TPort → TPort) : (modTPort n f s).fuses = s.fuses := rfl
@[simp] theorem modTPort_devKey (n : Nat) (f : TPort → TPort) : (modTPort n f s).devKey = s.devKey := rfl
@[simp] theorem modTPort_clk (n : Nat) (f : TPort → TPort) : (modTPort n f s).clk = s.clk := rfl
@[simp] theorem modTPort_tb (n : Nat) (f : TPort → TPort) : (modTPort n f s).tb = s.tb := rfl
@[simp] theorem modTPort_tbRun (n : Nat) (f : TPort → TPort) : (modTPort n f s).tbRun = s.tbRun := rfl
@[simp] theorem modTPort_tbExhausted (n : Nat) (f : TPort → TPort) : (modTPort n f s).tbExhausted = s.tbExhausted := rfl
@[simp] theorem modTPort_tap (n : Nat) (f : TPort → TPort) : (modTPort n f s).tap = s.tap := rfl
@[simp] theorem modTPort_ldr (n : Nat) (f : TPort → TPort) : (modTPort n f s).ldr = s.ldr := rfl
@[simp] theorem modTPort_commits (n : Nat) (f : TPort → TPort) : (modTPort n f s).commits = s.commits := rfl
@[simp] theorem modTPort_latched (n : Nat) (f : TPort → TPort) : (modTPort n f s).latched = s.latched := rfl
@[simp] theorem modTPort_sec (n : Nat) (f : TPort → TPort) : (modTPort n f s).sec = s.sec := rfl
@[simp] theorem modTPort_dat (n : Nat) (f : TPort → TPort) : (modTPort n f s).dat = s.dat := rfl
@[simp] theorem modTPort_run (n : Nat) (f : TPort → TPort) : (modTPort n f s).run = s.run := rfl
@[simp] theorem modTPort_stepNum (n : Nat) (f : TPort → TPort) : (modTPort n f s).stepNum = s.stepNum := rfl
@[simp] theorem modTPort_prevT (n : Nat) (f : TPort → TPort) : (modTPort n f s).prevT = s.prevT := rfl
@[simp] theorem modTPort_verdict (n : Nat) (f : TPort → TPort) : (modTPort n f s).verdict = s.verdict := rfl
@[simp] theorem modTPort_rlog (n : Nat) (f : TPort → TPort) : (modTPort n f s).rlog = s.rlog := rfl
@[simp] theorem modTPort_fences (n : Nat) (f : TPort → TPort) : (modTPort n f s).fences = s.fences := rfl
@[simp] theorem modTPort_fenceSelf (n : Nat) (f : TPort → TPort) : (modTPort n f s).fenceSelf = s.fenceSelf := rfl
@[simp] theorem modTPort_unfences (n : Nat) (f : TPort → TPort) : (modTPort n f s).unfences = s.unfences := rfl
@[simp] theorem modTPort_probes (n : Nat) (f : TPort → TPort) : (modTPort n f s).probes = s.probes := rfl
@[simp] theorem modTPort_broadcasts (n : Nat) (f : TPort → TPort) : (modTPort n f s).broadcasts = s.broadcasts := rfl
@[simp] theorem modTPort_mgmtNext (n : Nat) (f : TPort → TPort) : (modTPort n f s).mgmtNext = s.mgmtNext := rfl
@[simp] theorem modTPort_note (n : Nat) (f : TPort → TPort) : (modTPort n f s).note = s.note := rfl
@[simp] theorem modTPort_trace (n : Nat) (f : TPort → TPort) : (modTPort n f s).trace = s.trace := rfl
@[simp] theorem modTPort_sfuVersion (n : Nat) (f : TPort → TPort) : (modTPort n f s).sfuVersion = s.sfuVersion := rfl
@[simp] theorem modTPort_sfuCopying (n : Nat) (f : TPort → TPort) : (modTPort n f s).sfuCopying = s.sfuCopying := rfl
@[simp] theorem modTPort_sfuLocked (n : Nat) (f : TPort → TPort) : (modTPort n f s).sfuLocked = s.sfuLocked := rfl
@[simp] theorem modTPort_cad (n : Nat) (f : TPort → TPort) : (modTPort n f s).cad = s.cad := rfl
@[simp] theorem modTPort_lst (n : Nat) (f : TPort → TPort) : (modTPort n f s).lst = s.lst := rfl
@[simp] theorem modTPort_demand (n : Nat) (f : TPort → TPort) : (modTPort n f s).demand = s.demand := rfl
@[simp] theorem modTPort_quarPending (n : Nat) (f : TPort → TPort) : (modTPort n f s).quarPending = s.quarPending := rfl
@[simp] theorem modTPort_quarUndelivered (n : Nat) (f : TPort → TPort) : (modTPort n f s).quarUndelivered = s.quarUndelivered := rfl
@[simp] theorem modTPort_quarActing (n : Nat) (f : TPort → TPort) : (modTPort n f s).quarActing = s.quarActing := rfl
@[simp] theorem modTPort_quarSeen (n : Nat) (f : TPort → TPort) : (modTPort n f s).quarSeen = s.quarSeen := rfl
@[simp] theorem modTPort_cadRefetch (n : Nat) (f : TPort → TPort) : (modTPort n f s).cadRefetch = s.cadRefetch := rfl
@[simp] theorem modTPort_pools (n : Nat) (f : TPort → TPort) : (modTPort n f s).pools = s.pools := rfl
@[simp] theorem modTPort_tports (n : Nat) (f : TPort → TPort) : (modTPort n f s).tports = modifyAt f n s.tports := rfl
@[simp] theorem modTPort_tokenLast (n : Nat) (f : TPort → TPort) : (modTPort n f s).tokenLast = s.tokenLast := rfl
@[simp] theorem modTPort_halves (n : Nat) (f : TPort → TPort) : (modTPort n f s).halves = s.halves := rfl
@[simp] theorem modTPort_ingestHeld (n : Nat) (f : TPort → TPort) : (modTPort n f s).ingestHeld = s.ingestHeld := rfl
@[simp] theorem modTPort_homes (n : Nat) (f : TPort → TPort) : (modTPort n f s).homes = s.homes := rfl
@[simp] theorem modTPort_bucketMaps (n : Nat) (f : TPort → TPort) : (modTPort n f s).bucketMaps = s.bucketMaps := rfl
@[simp] theorem modTPort_chipHist (n : Nat) (f : TPort → TPort) : (modTPort n f s).chipHist = s.chipHist := rfl
@[simp] theorem modTPort_sortCounters (n : Nat) (f : TPort → TPort) : (modTPort n f s).sortCounters = s.sortCounters := rfl
@[simp] theorem modTPort_recv (n : Nat) (f : TPort → TPort) : (modTPort n f s).recv = s.recv := rfl
@[simp] theorem modTPort_feeds (n : Nat) (f : TPort → TPort) : (modTPort n f s).feeds = s.feeds := rfl
@[simp] theorem modTPort_handed (n : Nat) (f : TPort → TPort) : (modTPort n f s).handed = s.handed := rfl
@[simp] theorem modTPort_collects (n : Nat) (f : TPort → TPort) : (modTPort n f s).collects = s.collects := rfl
@[simp] theorem modTPort_collectHeld (n : Nat) (f : TPort → TPort) : (modTPort n f s).collectHeld = s.collectHeld := rfl
@[simp] theorem modTPort_gen (n : Nat) (f : TPort → TPort) : (modTPort n f s).gen = s.gen := rfl
@[simp] theorem modTPort_raiseDue (n : Nat) (f : TPort → TPort) : (modTPort n f s).raiseDue = s.raiseDue := rfl
@[simp] theorem modTPort_orphans (n : Nat) (f : TPort → TPort) : (modTPort n f s).orphans = s.orphans := rfl
@[simp] theorem modTPort_rounds (n : Nat) (f : TPort → TPort) : (modTPort n f s).rounds = s.rounds := rfl
@[simp] theorem modTPort_cce (n : Nat) (f : TPort → TPort) : (modTPort n f s).cce = s.cce := rfl
@[simp] theorem modTPort_rma (n : Nat) (f : TPort → TPort) : (modTPort n f s).rma = s.rma := rfl
@[simp] theorem modTPort_rmaTurn (n : Nat) (f : TPort → TPort) : (modTPort n f s).rmaTurn = s.rmaTurn := rfl
@[simp] theorem modTPort_dedup (n : Nat) (f : TPort → TPort) : (modTPort n f s).dedup = s.dedup := rfl
@[simp] theorem modTPort_cache (n : Nat) (f : TPort → TPort) : (modTPort n f s).cache = s.cache := rfl
@[simp] theorem modTPort_fep (n : Nat) (f : TPort → TPort) : (modTPort n f s).fep = s.fep := rfl
@[simp] theorem modTPort_ports (n : Nat) (f : TPort → TPort) : (modTPort n f s).ports = s.ports := rfl

/-! ### modRound -/

@[simp] theorem modRound_pending (k : RoundKey) (f : Round → Round) : (modRound k f s).pending = s.pending := rfl
@[simp] theorem modRound_out (k : RoundKey) (f : Round → Round) : (modRound k f s).out = s.out := rfl
@[simp] theorem modRound_regs (k : RoundKey) (f : Round → Round) : (modRound k f s).regs = s.regs := rfl
@[simp] theorem modRound_mem (k : RoundKey) (f : Round → Round) : (modRound k f s).mem = s.mem := rfl
@[simp] theorem modRound_freshCount (k : RoundKey) (f : Round → Round) : (modRound k f s).freshCount = s.freshCount := rfl
@[simp] theorem modRound_boot (k : RoundKey) (f : Round → Round) : (modRound k f s).boot = s.boot := rfl
@[simp] theorem modRound_fuses (k : RoundKey) (f : Round → Round) : (modRound k f s).fuses = s.fuses := rfl
@[simp] theorem modRound_devKey (k : RoundKey) (f : Round → Round) : (modRound k f s).devKey = s.devKey := rfl
@[simp] theorem modRound_clk (k : RoundKey) (f : Round → Round) : (modRound k f s).clk = s.clk := rfl
@[simp] theorem modRound_tb (k : RoundKey) (f : Round → Round) : (modRound k f s).tb = s.tb := rfl
@[simp] theorem modRound_tbRun (k : RoundKey) (f : Round → Round) : (modRound k f s).tbRun = s.tbRun := rfl
@[simp] theorem modRound_tbExhausted (k : RoundKey) (f : Round → Round) : (modRound k f s).tbExhausted = s.tbExhausted := rfl
@[simp] theorem modRound_tap (k : RoundKey) (f : Round → Round) : (modRound k f s).tap = s.tap := rfl
@[simp] theorem modRound_ldr (k : RoundKey) (f : Round → Round) : (modRound k f s).ldr = s.ldr := rfl
@[simp] theorem modRound_commits (k : RoundKey) (f : Round → Round) : (modRound k f s).commits = s.commits := rfl
@[simp] theorem modRound_latched (k : RoundKey) (f : Round → Round) : (modRound k f s).latched = s.latched := rfl
@[simp] theorem modRound_sec (k : RoundKey) (f : Round → Round) : (modRound k f s).sec = s.sec := rfl
@[simp] theorem modRound_dat (k : RoundKey) (f : Round → Round) : (modRound k f s).dat = s.dat := rfl
@[simp] theorem modRound_run (k : RoundKey) (f : Round → Round) : (modRound k f s).run = s.run := rfl
@[simp] theorem modRound_stepNum (k : RoundKey) (f : Round → Round) : (modRound k f s).stepNum = s.stepNum := rfl
@[simp] theorem modRound_prevT (k : RoundKey) (f : Round → Round) : (modRound k f s).prevT = s.prevT := rfl
@[simp] theorem modRound_verdict (k : RoundKey) (f : Round → Round) : (modRound k f s).verdict = s.verdict := rfl
@[simp] theorem modRound_rlog (k : RoundKey) (f : Round → Round) : (modRound k f s).rlog = s.rlog := rfl
@[simp] theorem modRound_fences (k : RoundKey) (f : Round → Round) : (modRound k f s).fences = s.fences := rfl
@[simp] theorem modRound_fenceSelf (k : RoundKey) (f : Round → Round) : (modRound k f s).fenceSelf = s.fenceSelf := rfl
@[simp] theorem modRound_unfences (k : RoundKey) (f : Round → Round) : (modRound k f s).unfences = s.unfences := rfl
@[simp] theorem modRound_probes (k : RoundKey) (f : Round → Round) : (modRound k f s).probes = s.probes := rfl
@[simp] theorem modRound_broadcasts (k : RoundKey) (f : Round → Round) : (modRound k f s).broadcasts = s.broadcasts := rfl
@[simp] theorem modRound_mgmtNext (k : RoundKey) (f : Round → Round) : (modRound k f s).mgmtNext = s.mgmtNext := rfl
@[simp] theorem modRound_note (k : RoundKey) (f : Round → Round) : (modRound k f s).note = s.note := rfl
@[simp] theorem modRound_trace (k : RoundKey) (f : Round → Round) : (modRound k f s).trace = s.trace := rfl
@[simp] theorem modRound_sfuVersion (k : RoundKey) (f : Round → Round) : (modRound k f s).sfuVersion = s.sfuVersion := rfl
@[simp] theorem modRound_sfuCopying (k : RoundKey) (f : Round → Round) : (modRound k f s).sfuCopying = s.sfuCopying := rfl
@[simp] theorem modRound_sfuLocked (k : RoundKey) (f : Round → Round) : (modRound k f s).sfuLocked = s.sfuLocked := rfl
@[simp] theorem modRound_cad (k : RoundKey) (f : Round → Round) : (modRound k f s).cad = s.cad := rfl
@[simp] theorem modRound_lst (k : RoundKey) (f : Round → Round) : (modRound k f s).lst = s.lst := rfl
@[simp] theorem modRound_demand (k : RoundKey) (f : Round → Round) : (modRound k f s).demand = s.demand := rfl
@[simp] theorem modRound_quarPending (k : RoundKey) (f : Round → Round) : (modRound k f s).quarPending = s.quarPending := rfl
@[simp] theorem modRound_quarUndelivered (k : RoundKey) (f : Round → Round) : (modRound k f s).quarUndelivered = s.quarUndelivered := rfl
@[simp] theorem modRound_quarActing (k : RoundKey) (f : Round → Round) : (modRound k f s).quarActing = s.quarActing := rfl
@[simp] theorem modRound_quarSeen (k : RoundKey) (f : Round → Round) : (modRound k f s).quarSeen = s.quarSeen := rfl
@[simp] theorem modRound_cadRefetch (k : RoundKey) (f : Round → Round) : (modRound k f s).cadRefetch = s.cadRefetch := rfl
@[simp] theorem modRound_pools (k : RoundKey) (f : Round → Round) : (modRound k f s).pools = s.pools := rfl
@[simp] theorem modRound_tports (k : RoundKey) (f : Round → Round) : (modRound k f s).tports = s.tports := rfl
@[simp] theorem modRound_tokenLast (k : RoundKey) (f : Round → Round) : (modRound k f s).tokenLast = s.tokenLast := rfl
@[simp] theorem modRound_halves (k : RoundKey) (f : Round → Round) : (modRound k f s).halves = s.halves := rfl
@[simp] theorem modRound_ingestHeld (k : RoundKey) (f : Round → Round) : (modRound k f s).ingestHeld = s.ingestHeld := rfl
@[simp] theorem modRound_homes (k : RoundKey) (f : Round → Round) : (modRound k f s).homes = s.homes := rfl
@[simp] theorem modRound_bucketMaps (k : RoundKey) (f : Round → Round) : (modRound k f s).bucketMaps = s.bucketMaps := rfl
@[simp] theorem modRound_chipHist (k : RoundKey) (f : Round → Round) : (modRound k f s).chipHist = s.chipHist := rfl
@[simp] theorem modRound_sortCounters (k : RoundKey) (f : Round → Round) : (modRound k f s).sortCounters = s.sortCounters := rfl
@[simp] theorem modRound_recv (k : RoundKey) (f : Round → Round) : (modRound k f s).recv = s.recv := rfl
@[simp] theorem modRound_feeds (k : RoundKey) (f : Round → Round) : (modRound k f s).feeds = s.feeds := rfl
@[simp] theorem modRound_handed (k : RoundKey) (f : Round → Round) : (modRound k f s).handed = s.handed := rfl
@[simp] theorem modRound_collects (k : RoundKey) (f : Round → Round) : (modRound k f s).collects = s.collects := rfl
@[simp] theorem modRound_collectHeld (k : RoundKey) (f : Round → Round) : (modRound k f s).collectHeld = s.collectHeld := rfl
@[simp] theorem modRound_gen (k : RoundKey) (f : Round → Round) : (modRound k f s).gen = s.gen := rfl
@[simp] theorem modRound_raiseDue (k : RoundKey) (f : Round → Round) : (modRound k f s).raiseDue = s.raiseDue := rfl
@[simp] theorem modRound_orphans (k : RoundKey) (f : Round → Round) : (modRound k f s).orphans = s.orphans := rfl
@[simp] theorem modRound_rounds (k : RoundKey) (f : Round → Round) : (modRound k f s).rounds = s.rounds.map (fun r => if r.key == k then f r else r) := rfl
@[simp] theorem modRound_cce (k : RoundKey) (f : Round → Round) : (modRound k f s).cce = s.cce := rfl
@[simp] theorem modRound_rma (k : RoundKey) (f : Round → Round) : (modRound k f s).rma = s.rma := rfl
@[simp] theorem modRound_rmaTurn (k : RoundKey) (f : Round → Round) : (modRound k f s).rmaTurn = s.rmaTurn := rfl
@[simp] theorem modRound_dedup (k : RoundKey) (f : Round → Round) : (modRound k f s).dedup = s.dedup := rfl
@[simp] theorem modRound_cache (k : RoundKey) (f : Round → Round) : (modRound k f s).cache = s.cache := rfl
@[simp] theorem modRound_fep (k : RoundKey) (f : Round → Round) : (modRound k f s).fep = s.fep := rfl
@[simp] theorem modRound_ports (k : RoundKey) (f : Round → Round) : (modRound k f s).ports = s.ports := rfl

/-! ### modCce -/

@[simp] theorem modCce_pending (f : Cce → Cce) : (modCce f s).pending = s.pending := rfl
@[simp] theorem modCce_out (f : Cce → Cce) : (modCce f s).out = s.out := rfl
@[simp] theorem modCce_regs (f : Cce → Cce) : (modCce f s).regs = s.regs := rfl
@[simp] theorem modCce_mem (f : Cce → Cce) : (modCce f s).mem = s.mem := rfl
@[simp] theorem modCce_freshCount (f : Cce → Cce) : (modCce f s).freshCount = s.freshCount := rfl
@[simp] theorem modCce_boot (f : Cce → Cce) : (modCce f s).boot = s.boot := rfl
@[simp] theorem modCce_fuses (f : Cce → Cce) : (modCce f s).fuses = s.fuses := rfl
@[simp] theorem modCce_devKey (f : Cce → Cce) : (modCce f s).devKey = s.devKey := rfl
@[simp] theorem modCce_clk (f : Cce → Cce) : (modCce f s).clk = s.clk := rfl
@[simp] theorem modCce_tb (f : Cce → Cce) : (modCce f s).tb = s.tb := rfl
@[simp] theorem modCce_tbRun (f : Cce → Cce) : (modCce f s).tbRun = s.tbRun := rfl
@[simp] theorem modCce_tbExhausted (f : Cce → Cce) : (modCce f s).tbExhausted = s.tbExhausted := rfl
@[simp] theorem modCce_tap (f : Cce → Cce) : (modCce f s).tap = s.tap := rfl
@[simp] theorem modCce_ldr (f : Cce → Cce) : (modCce f s).ldr = s.ldr := rfl
@[simp] theorem modCce_commits (f : Cce → Cce) : (modCce f s).commits = s.commits := rfl
@[simp] theorem modCce_latched (f : Cce → Cce) : (modCce f s).latched = s.latched := rfl
@[simp] theorem modCce_sec (f : Cce → Cce) : (modCce f s).sec = s.sec := rfl
@[simp] theorem modCce_dat (f : Cce → Cce) : (modCce f s).dat = s.dat := rfl
@[simp] theorem modCce_run (f : Cce → Cce) : (modCce f s).run = s.run := rfl
@[simp] theorem modCce_stepNum (f : Cce → Cce) : (modCce f s).stepNum = s.stepNum := rfl
@[simp] theorem modCce_prevT (f : Cce → Cce) : (modCce f s).prevT = s.prevT := rfl
@[simp] theorem modCce_verdict (f : Cce → Cce) : (modCce f s).verdict = s.verdict := rfl
@[simp] theorem modCce_rlog (f : Cce → Cce) : (modCce f s).rlog = s.rlog := rfl
@[simp] theorem modCce_fences (f : Cce → Cce) : (modCce f s).fences = s.fences := rfl
@[simp] theorem modCce_fenceSelf (f : Cce → Cce) : (modCce f s).fenceSelf = s.fenceSelf := rfl
@[simp] theorem modCce_unfences (f : Cce → Cce) : (modCce f s).unfences = s.unfences := rfl
@[simp] theorem modCce_probes (f : Cce → Cce) : (modCce f s).probes = s.probes := rfl
@[simp] theorem modCce_broadcasts (f : Cce → Cce) : (modCce f s).broadcasts = s.broadcasts := rfl
@[simp] theorem modCce_mgmtNext (f : Cce → Cce) : (modCce f s).mgmtNext = s.mgmtNext := rfl
@[simp] theorem modCce_note (f : Cce → Cce) : (modCce f s).note = s.note := rfl
@[simp] theorem modCce_trace (f : Cce → Cce) : (modCce f s).trace = s.trace := rfl
@[simp] theorem modCce_sfuVersion (f : Cce → Cce) : (modCce f s).sfuVersion = s.sfuVersion := rfl
@[simp] theorem modCce_sfuCopying (f : Cce → Cce) : (modCce f s).sfuCopying = s.sfuCopying := rfl
@[simp] theorem modCce_sfuLocked (f : Cce → Cce) : (modCce f s).sfuLocked = s.sfuLocked := rfl
@[simp] theorem modCce_cad (f : Cce → Cce) : (modCce f s).cad = s.cad := rfl
@[simp] theorem modCce_lst (f : Cce → Cce) : (modCce f s).lst = s.lst := rfl
@[simp] theorem modCce_demand (f : Cce → Cce) : (modCce f s).demand = s.demand := rfl
@[simp] theorem modCce_quarPending (f : Cce → Cce) : (modCce f s).quarPending = s.quarPending := rfl
@[simp] theorem modCce_quarUndelivered (f : Cce → Cce) : (modCce f s).quarUndelivered = s.quarUndelivered := rfl
@[simp] theorem modCce_quarActing (f : Cce → Cce) : (modCce f s).quarActing = s.quarActing := rfl
@[simp] theorem modCce_quarSeen (f : Cce → Cce) : (modCce f s).quarSeen = s.quarSeen := rfl
@[simp] theorem modCce_cadRefetch (f : Cce → Cce) : (modCce f s).cadRefetch = s.cadRefetch := rfl
@[simp] theorem modCce_pools (f : Cce → Cce) : (modCce f s).pools = s.pools := rfl
@[simp] theorem modCce_tports (f : Cce → Cce) : (modCce f s).tports = s.tports := rfl
@[simp] theorem modCce_tokenLast (f : Cce → Cce) : (modCce f s).tokenLast = s.tokenLast := rfl
@[simp] theorem modCce_halves (f : Cce → Cce) : (modCce f s).halves = s.halves := rfl
@[simp] theorem modCce_ingestHeld (f : Cce → Cce) : (modCce f s).ingestHeld = s.ingestHeld := rfl
@[simp] theorem modCce_homes (f : Cce → Cce) : (modCce f s).homes = s.homes := rfl
@[simp] theorem modCce_bucketMaps (f : Cce → Cce) : (modCce f s).bucketMaps = s.bucketMaps := rfl
@[simp] theorem modCce_chipHist (f : Cce → Cce) : (modCce f s).chipHist = s.chipHist := rfl
@[simp] theorem modCce_sortCounters (f : Cce → Cce) : (modCce f s).sortCounters = s.sortCounters := rfl
@[simp] theorem modCce_recv (f : Cce → Cce) : (modCce f s).recv = s.recv := rfl
@[simp] theorem modCce_feeds (f : Cce → Cce) : (modCce f s).feeds = s.feeds := rfl
@[simp] theorem modCce_handed (f : Cce → Cce) : (modCce f s).handed = s.handed := rfl
@[simp] theorem modCce_collects (f : Cce → Cce) : (modCce f s).collects = s.collects := rfl
@[simp] theorem modCce_collectHeld (f : Cce → Cce) : (modCce f s).collectHeld = s.collectHeld := rfl
@[simp] theorem modCce_gen (f : Cce → Cce) : (modCce f s).gen = s.gen := rfl
@[simp] theorem modCce_raiseDue (f : Cce → Cce) : (modCce f s).raiseDue = s.raiseDue := rfl
@[simp] theorem modCce_orphans (f : Cce → Cce) : (modCce f s).orphans = s.orphans := rfl
@[simp] theorem modCce_rounds (f : Cce → Cce) : (modCce f s).rounds = s.rounds := rfl
@[simp] theorem modCce_cce (f : Cce → Cce) : (modCce f s).cce = f s.cce := rfl
@[simp] theorem modCce_rma (f : Cce → Cce) : (modCce f s).rma = s.rma := rfl
@[simp] theorem modCce_rmaTurn (f : Cce → Cce) : (modCce f s).rmaTurn = s.rmaTurn := rfl
@[simp] theorem modCce_dedup (f : Cce → Cce) : (modCce f s).dedup = s.dedup := rfl
@[simp] theorem modCce_cache (f : Cce → Cce) : (modCce f s).cache = s.cache := rfl
@[simp] theorem modCce_fep (f : Cce → Cce) : (modCce f s).fep = s.fep := rfl
@[simp] theorem modCce_ports (f : Cce → Cce) : (modCce f s).ports = s.ports := rfl

/-! ### modQueue -/

@[simp] theorem modQueue_pending (q : Nat) (f : RmaQueue → RmaQueue) : (modQueue q f s).pending = s.pending := rfl
@[simp] theorem modQueue_out (q : Nat) (f : RmaQueue → RmaQueue) : (modQueue q f s).out = s.out := rfl
@[simp] theorem modQueue_regs (q : Nat) (f : RmaQueue → RmaQueue) : (modQueue q f s).regs = s.regs := rfl
@[simp] theorem modQueue_mem (q : Nat) (f : RmaQueue → RmaQueue) : (modQueue q f s).mem = s.mem := rfl
@[simp] theorem modQueue_freshCount (q : Nat) (f : RmaQueue → RmaQueue) : (modQueue q f s).freshCount = s.freshCount := rfl
@[simp] theorem modQueue_boot (q : Nat) (f : RmaQueue → RmaQueue) : (modQueue q f s).boot = s.boot := rfl
@[simp] theorem modQueue_fuses (q : Nat) (f : RmaQueue → RmaQueue) : (modQueue q f s).fuses = s.fuses := rfl
@[simp] theorem modQueue_devKey (q : Nat) (f : RmaQueue → RmaQueue) : (modQueue q f s).devKey = s.devKey := rfl
@[simp] theorem modQueue_clk (q : Nat) (f : RmaQueue → RmaQueue) : (modQueue q f s).clk = s.clk := rfl
@[simp] theorem modQueue_tb (q : Nat) (f : RmaQueue → RmaQueue) : (modQueue q f s).tb = s.tb := rfl
@[simp] theorem modQueue_tbRun (q : Nat) (f : RmaQueue → RmaQueue) : (modQueue q f s).tbRun = s.tbRun := rfl
@[simp] theorem modQueue_tbExhausted (q : Nat) (f : RmaQueue → RmaQueue) : (modQueue q f s).tbExhausted = s.tbExhausted := rfl
@[simp] theorem modQueue_tap (q : Nat) (f : RmaQueue → RmaQueue) : (modQueue q f s).tap = s.tap := rfl
@[simp] theorem modQueue_ldr (q : Nat) (f : RmaQueue → RmaQueue) : (modQueue q f s).ldr = s.ldr := rfl
@[simp] theorem modQueue_commits (q : Nat) (f : RmaQueue → RmaQueue) : (modQueue q f s).commits = s.commits := rfl
@[simp] theorem modQueue_latched (q : Nat) (f : RmaQueue → RmaQueue) : (modQueue q f s).latched = s.latched := rfl
@[simp] theorem modQueue_sec (q : Nat) (f : RmaQueue → RmaQueue) : (modQueue q f s).sec = s.sec := rfl
@[simp] theorem modQueue_dat (q : Nat) (f : RmaQueue → RmaQueue) : (modQueue q f s).dat = s.dat := rfl
@[simp] theorem modQueue_run (q : Nat) (f : RmaQueue → RmaQueue) : (modQueue q f s).run = s.run := rfl
@[simp] theorem modQueue_stepNum (q : Nat) (f : RmaQueue → RmaQueue) : (modQueue q f s).stepNum = s.stepNum := rfl
@[simp] theorem modQueue_prevT (q : Nat) (f : RmaQueue → RmaQueue) : (modQueue q f s).prevT = s.prevT := rfl
@[simp] theorem modQueue_verdict (q : Nat) (f : RmaQueue → RmaQueue) : (modQueue q f s).verdict = s.verdict := rfl
@[simp] theorem modQueue_rlog (q : Nat) (f : RmaQueue → RmaQueue) : (modQueue q f s).rlog = s.rlog := rfl
@[simp] theorem modQueue_fences (q : Nat) (f : RmaQueue → RmaQueue) : (modQueue q f s).fences = s.fences := rfl
@[simp] theorem modQueue_fenceSelf (q : Nat) (f : RmaQueue → RmaQueue) : (modQueue q f s).fenceSelf = s.fenceSelf := rfl
@[simp] theorem modQueue_unfences (q : Nat) (f : RmaQueue → RmaQueue) : (modQueue q f s).unfences = s.unfences := rfl
@[simp] theorem modQueue_probes (q : Nat) (f : RmaQueue → RmaQueue) : (modQueue q f s).probes = s.probes := rfl
@[simp] theorem modQueue_broadcasts (q : Nat) (f : RmaQueue → RmaQueue) : (modQueue q f s).broadcasts = s.broadcasts := rfl
@[simp] theorem modQueue_mgmtNext (q : Nat) (f : RmaQueue → RmaQueue) : (modQueue q f s).mgmtNext = s.mgmtNext := rfl
@[simp] theorem modQueue_note (q : Nat) (f : RmaQueue → RmaQueue) : (modQueue q f s).note = s.note := rfl
@[simp] theorem modQueue_trace (q : Nat) (f : RmaQueue → RmaQueue) : (modQueue q f s).trace = s.trace := rfl
@[simp] theorem modQueue_sfuVersion (q : Nat) (f : RmaQueue → RmaQueue) : (modQueue q f s).sfuVersion = s.sfuVersion := rfl
@[simp] theorem modQueue_sfuCopying (q : Nat) (f : RmaQueue → RmaQueue) : (modQueue q f s).sfuCopying = s.sfuCopying := rfl
@[simp] theorem modQueue_sfuLocked (q : Nat) (f : RmaQueue → RmaQueue) : (modQueue q f s).sfuLocked = s.sfuLocked := rfl
@[simp] theorem modQueue_cad (q : Nat) (f : RmaQueue → RmaQueue) : (modQueue q f s).cad = s.cad := rfl
@[simp] theorem modQueue_lst (q : Nat) (f : RmaQueue → RmaQueue) : (modQueue q f s).lst = s.lst := rfl
@[simp] theorem modQueue_demand (q : Nat) (f : RmaQueue → RmaQueue) : (modQueue q f s).demand = s.demand := rfl
@[simp] theorem modQueue_quarPending (q : Nat) (f : RmaQueue → RmaQueue) : (modQueue q f s).quarPending = s.quarPending := rfl
@[simp] theorem modQueue_quarUndelivered (q : Nat) (f : RmaQueue → RmaQueue) : (modQueue q f s).quarUndelivered = s.quarUndelivered := rfl
@[simp] theorem modQueue_quarActing (q : Nat) (f : RmaQueue → RmaQueue) : (modQueue q f s).quarActing = s.quarActing := rfl
@[simp] theorem modQueue_quarSeen (q : Nat) (f : RmaQueue → RmaQueue) : (modQueue q f s).quarSeen = s.quarSeen := rfl
@[simp] theorem modQueue_cadRefetch (q : Nat) (f : RmaQueue → RmaQueue) : (modQueue q f s).cadRefetch = s.cadRefetch := rfl
@[simp] theorem modQueue_pools (q : Nat) (f : RmaQueue → RmaQueue) : (modQueue q f s).pools = s.pools := rfl
@[simp] theorem modQueue_tports (q : Nat) (f : RmaQueue → RmaQueue) : (modQueue q f s).tports = s.tports := rfl
@[simp] theorem modQueue_tokenLast (q : Nat) (f : RmaQueue → RmaQueue) : (modQueue q f s).tokenLast = s.tokenLast := rfl
@[simp] theorem modQueue_halves (q : Nat) (f : RmaQueue → RmaQueue) : (modQueue q f s).halves = s.halves := rfl
@[simp] theorem modQueue_ingestHeld (q : Nat) (f : RmaQueue → RmaQueue) : (modQueue q f s).ingestHeld = s.ingestHeld := rfl
@[simp] theorem modQueue_homes (q : Nat) (f : RmaQueue → RmaQueue) : (modQueue q f s).homes = s.homes := rfl
@[simp] theorem modQueue_bucketMaps (q : Nat) (f : RmaQueue → RmaQueue) : (modQueue q f s).bucketMaps = s.bucketMaps := rfl
@[simp] theorem modQueue_chipHist (q : Nat) (f : RmaQueue → RmaQueue) : (modQueue q f s).chipHist = s.chipHist := rfl
@[simp] theorem modQueue_sortCounters (q : Nat) (f : RmaQueue → RmaQueue) : (modQueue q f s).sortCounters = s.sortCounters := rfl
@[simp] theorem modQueue_recv (q : Nat) (f : RmaQueue → RmaQueue) : (modQueue q f s).recv = s.recv := rfl
@[simp] theorem modQueue_feeds (q : Nat) (f : RmaQueue → RmaQueue) : (modQueue q f s).feeds = s.feeds := rfl
@[simp] theorem modQueue_handed (q : Nat) (f : RmaQueue → RmaQueue) : (modQueue q f s).handed = s.handed := rfl
@[simp] theorem modQueue_collects (q : Nat) (f : RmaQueue → RmaQueue) : (modQueue q f s).collects = s.collects := rfl
@[simp] theorem modQueue_collectHeld (q : Nat) (f : RmaQueue → RmaQueue) : (modQueue q f s).collectHeld = s.collectHeld := rfl
@[simp] theorem modQueue_gen (q : Nat) (f : RmaQueue → RmaQueue) : (modQueue q f s).gen = s.gen := rfl
@[simp] theorem modQueue_raiseDue (q : Nat) (f : RmaQueue → RmaQueue) : (modQueue q f s).raiseDue = s.raiseDue := rfl
@[simp] theorem modQueue_orphans (q : Nat) (f : RmaQueue → RmaQueue) : (modQueue q f s).orphans = s.orphans := rfl
@[simp] theorem modQueue_rounds (q : Nat) (f : RmaQueue → RmaQueue) : (modQueue q f s).rounds = s.rounds := rfl
@[simp] theorem modQueue_cce (q : Nat) (f : RmaQueue → RmaQueue) : (modQueue q f s).cce = s.cce := rfl
@[simp] theorem modQueue_rma (q : Nat) (f : RmaQueue → RmaQueue) : (modQueue q f s).rma = modifyAt f q s.rma := rfl
@[simp] theorem modQueue_rmaTurn (q : Nat) (f : RmaQueue → RmaQueue) : (modQueue q f s).rmaTurn = s.rmaTurn := rfl
@[simp] theorem modQueue_dedup (q : Nat) (f : RmaQueue → RmaQueue) : (modQueue q f s).dedup = s.dedup := rfl
@[simp] theorem modQueue_cache (q : Nat) (f : RmaQueue → RmaQueue) : (modQueue q f s).cache = s.cache := rfl
@[simp] theorem modQueue_fep (q : Nat) (f : RmaQueue → RmaQueue) : (modQueue q f s).fep = s.fep := rfl
@[simp] theorem modQueue_ports (q : Nat) (f : RmaQueue → RmaQueue) : (modQueue q f s).ports = s.ports := rfl

/-! ### modPort -/

@[simp] theorem modPort_pending (n : Nat) (f : Port → Port) : (modPort n f s).pending = s.pending := rfl
@[simp] theorem modPort_out (n : Nat) (f : Port → Port) : (modPort n f s).out = s.out := rfl
@[simp] theorem modPort_regs (n : Nat) (f : Port → Port) : (modPort n f s).regs = s.regs := rfl
@[simp] theorem modPort_mem (n : Nat) (f : Port → Port) : (modPort n f s).mem = s.mem := rfl
@[simp] theorem modPort_freshCount (n : Nat) (f : Port → Port) : (modPort n f s).freshCount = s.freshCount := rfl
@[simp] theorem modPort_boot (n : Nat) (f : Port → Port) : (modPort n f s).boot = s.boot := rfl
@[simp] theorem modPort_fuses (n : Nat) (f : Port → Port) : (modPort n f s).fuses = s.fuses := rfl
@[simp] theorem modPort_devKey (n : Nat) (f : Port → Port) : (modPort n f s).devKey = s.devKey := rfl
@[simp] theorem modPort_clk (n : Nat) (f : Port → Port) : (modPort n f s).clk = s.clk := rfl
@[simp] theorem modPort_tb (n : Nat) (f : Port → Port) : (modPort n f s).tb = s.tb := rfl
@[simp] theorem modPort_tbRun (n : Nat) (f : Port → Port) : (modPort n f s).tbRun = s.tbRun := rfl
@[simp] theorem modPort_tbExhausted (n : Nat) (f : Port → Port) : (modPort n f s).tbExhausted = s.tbExhausted := rfl
@[simp] theorem modPort_tap (n : Nat) (f : Port → Port) : (modPort n f s).tap = s.tap := rfl
@[simp] theorem modPort_ldr (n : Nat) (f : Port → Port) : (modPort n f s).ldr = s.ldr := rfl
@[simp] theorem modPort_commits (n : Nat) (f : Port → Port) : (modPort n f s).commits = s.commits := rfl
@[simp] theorem modPort_latched (n : Nat) (f : Port → Port) : (modPort n f s).latched = s.latched := rfl
@[simp] theorem modPort_sec (n : Nat) (f : Port → Port) : (modPort n f s).sec = s.sec := rfl
@[simp] theorem modPort_dat (n : Nat) (f : Port → Port) : (modPort n f s).dat = s.dat := rfl
@[simp] theorem modPort_run (n : Nat) (f : Port → Port) : (modPort n f s).run = s.run := rfl
@[simp] theorem modPort_stepNum (n : Nat) (f : Port → Port) : (modPort n f s).stepNum = s.stepNum := rfl
@[simp] theorem modPort_prevT (n : Nat) (f : Port → Port) : (modPort n f s).prevT = s.prevT := rfl
@[simp] theorem modPort_verdict (n : Nat) (f : Port → Port) : (modPort n f s).verdict = s.verdict := rfl
@[simp] theorem modPort_rlog (n : Nat) (f : Port → Port) : (modPort n f s).rlog = s.rlog := rfl
@[simp] theorem modPort_fences (n : Nat) (f : Port → Port) : (modPort n f s).fences = s.fences := rfl
@[simp] theorem modPort_fenceSelf (n : Nat) (f : Port → Port) : (modPort n f s).fenceSelf = s.fenceSelf := rfl
@[simp] theorem modPort_unfences (n : Nat) (f : Port → Port) : (modPort n f s).unfences = s.unfences := rfl
@[simp] theorem modPort_probes (n : Nat) (f : Port → Port) : (modPort n f s).probes = s.probes := rfl
@[simp] theorem modPort_broadcasts (n : Nat) (f : Port → Port) : (modPort n f s).broadcasts = s.broadcasts := rfl
@[simp] theorem modPort_mgmtNext (n : Nat) (f : Port → Port) : (modPort n f s).mgmtNext = s.mgmtNext := rfl
@[simp] theorem modPort_note (n : Nat) (f : Port → Port) : (modPort n f s).note = s.note := rfl
@[simp] theorem modPort_trace (n : Nat) (f : Port → Port) : (modPort n f s).trace = s.trace := rfl
@[simp] theorem modPort_sfuVersion (n : Nat) (f : Port → Port) : (modPort n f s).sfuVersion = s.sfuVersion := rfl
@[simp] theorem modPort_sfuCopying (n : Nat) (f : Port → Port) : (modPort n f s).sfuCopying = s.sfuCopying := rfl
@[simp] theorem modPort_sfuLocked (n : Nat) (f : Port → Port) : (modPort n f s).sfuLocked = s.sfuLocked := rfl
@[simp] theorem modPort_cad (n : Nat) (f : Port → Port) : (modPort n f s).cad = s.cad := rfl
@[simp] theorem modPort_lst (n : Nat) (f : Port → Port) : (modPort n f s).lst = s.lst := rfl
@[simp] theorem modPort_demand (n : Nat) (f : Port → Port) : (modPort n f s).demand = s.demand := rfl
@[simp] theorem modPort_quarPending (n : Nat) (f : Port → Port) : (modPort n f s).quarPending = s.quarPending := rfl
@[simp] theorem modPort_quarUndelivered (n : Nat) (f : Port → Port) : (modPort n f s).quarUndelivered = s.quarUndelivered := rfl
@[simp] theorem modPort_quarActing (n : Nat) (f : Port → Port) : (modPort n f s).quarActing = s.quarActing := rfl
@[simp] theorem modPort_quarSeen (n : Nat) (f : Port → Port) : (modPort n f s).quarSeen = s.quarSeen := rfl
@[simp] theorem modPort_cadRefetch (n : Nat) (f : Port → Port) : (modPort n f s).cadRefetch = s.cadRefetch := rfl
@[simp] theorem modPort_pools (n : Nat) (f : Port → Port) : (modPort n f s).pools = s.pools := rfl
@[simp] theorem modPort_tports (n : Nat) (f : Port → Port) : (modPort n f s).tports = s.tports := rfl
@[simp] theorem modPort_tokenLast (n : Nat) (f : Port → Port) : (modPort n f s).tokenLast = s.tokenLast := rfl
@[simp] theorem modPort_halves (n : Nat) (f : Port → Port) : (modPort n f s).halves = s.halves := rfl
@[simp] theorem modPort_ingestHeld (n : Nat) (f : Port → Port) : (modPort n f s).ingestHeld = s.ingestHeld := rfl
@[simp] theorem modPort_homes (n : Nat) (f : Port → Port) : (modPort n f s).homes = s.homes := rfl
@[simp] theorem modPort_bucketMaps (n : Nat) (f : Port → Port) : (modPort n f s).bucketMaps = s.bucketMaps := rfl
@[simp] theorem modPort_chipHist (n : Nat) (f : Port → Port) : (modPort n f s).chipHist = s.chipHist := rfl
@[simp] theorem modPort_sortCounters (n : Nat) (f : Port → Port) : (modPort n f s).sortCounters = s.sortCounters := rfl
@[simp] theorem modPort_recv (n : Nat) (f : Port → Port) : (modPort n f s).recv = s.recv := rfl
@[simp] theorem modPort_feeds (n : Nat) (f : Port → Port) : (modPort n f s).feeds = s.feeds := rfl
@[simp] theorem modPort_handed (n : Nat) (f : Port → Port) : (modPort n f s).handed = s.handed := rfl
@[simp] theorem modPort_collects (n : Nat) (f : Port → Port) : (modPort n f s).collects = s.collects := rfl
@[simp] theorem modPort_collectHeld (n : Nat) (f : Port → Port) : (modPort n f s).collectHeld = s.collectHeld := rfl
@[simp] theorem modPort_gen (n : Nat) (f : Port → Port) : (modPort n f s).gen = s.gen := rfl
@[simp] theorem modPort_raiseDue (n : Nat) (f : Port → Port) : (modPort n f s).raiseDue = s.raiseDue := rfl
@[simp] theorem modPort_orphans (n : Nat) (f : Port → Port) : (modPort n f s).orphans = s.orphans := rfl
@[simp] theorem modPort_rounds (n : Nat) (f : Port → Port) : (modPort n f s).rounds = s.rounds := rfl
@[simp] theorem modPort_cce (n : Nat) (f : Port → Port) : (modPort n f s).cce = s.cce := rfl
@[simp] theorem modPort_rma (n : Nat) (f : Port → Port) : (modPort n f s).rma = s.rma := rfl
@[simp] theorem modPort_rmaTurn (n : Nat) (f : Port → Port) : (modPort n f s).rmaTurn = s.rmaTurn := rfl
@[simp] theorem modPort_dedup (n : Nat) (f : Port → Port) : (modPort n f s).dedup = s.dedup := rfl
@[simp] theorem modPort_cache (n : Nat) (f : Port → Port) : (modPort n f s).cache = s.cache := rfl
@[simp] theorem modPort_fep (n : Nat) (f : Port → Port) : (modPort n f s).fep = s.fep := rfl
@[simp] theorem modPort_ports (n : Nat) (f : Port → Port) : (modPort n f s).ports = modifyAt f n s.ports := rfl

/-! ### modTx -/

@[simp] theorem modTx_pending (d lc : Nat) (f : TxFlow → TxFlow) : (modTx d lc f s).pending = s.pending := rfl
@[simp] theorem modTx_out (d lc : Nat) (f : TxFlow → TxFlow) : (modTx d lc f s).out = s.out := rfl
@[simp] theorem modTx_regs (d lc : Nat) (f : TxFlow → TxFlow) : (modTx d lc f s).regs = s.regs := rfl
@[simp] theorem modTx_mem (d lc : Nat) (f : TxFlow → TxFlow) : (modTx d lc f s).mem = s.mem := rfl
@[simp] theorem modTx_freshCount (d lc : Nat) (f : TxFlow → TxFlow) : (modTx d lc f s).freshCount = s.freshCount := rfl
@[simp] theorem modTx_boot (d lc : Nat) (f : TxFlow → TxFlow) : (modTx d lc f s).boot = s.boot := rfl
@[simp] theorem modTx_fuses (d lc : Nat) (f : TxFlow → TxFlow) : (modTx d lc f s).fuses = s.fuses := rfl
@[simp] theorem modTx_devKey (d lc : Nat) (f : TxFlow → TxFlow) : (modTx d lc f s).devKey = s.devKey := rfl
@[simp] theorem modTx_clk (d lc : Nat) (f : TxFlow → TxFlow) : (modTx d lc f s).clk = s.clk := rfl
@[simp] theorem modTx_tb (d lc : Nat) (f : TxFlow → TxFlow) : (modTx d lc f s).tb = s.tb := rfl
@[simp] theorem modTx_tbRun (d lc : Nat) (f : TxFlow → TxFlow) : (modTx d lc f s).tbRun = s.tbRun := rfl
@[simp] theorem modTx_tbExhausted (d lc : Nat) (f : TxFlow → TxFlow) : (modTx d lc f s).tbExhausted = s.tbExhausted := rfl
@[simp] theorem modTx_tap (d lc : Nat) (f : TxFlow → TxFlow) : (modTx d lc f s).tap = s.tap := rfl
@[simp] theorem modTx_ldr (d lc : Nat) (f : TxFlow → TxFlow) : (modTx d lc f s).ldr = s.ldr := rfl
@[simp] theorem modTx_commits (d lc : Nat) (f : TxFlow → TxFlow) : (modTx d lc f s).commits = s.commits := rfl
@[simp] theorem modTx_latched (d lc : Nat) (f : TxFlow → TxFlow) : (modTx d lc f s).latched = s.latched := rfl
@[simp] theorem modTx_sec (d lc : Nat) (f : TxFlow → TxFlow) : (modTx d lc f s).sec = s.sec := rfl
@[simp] theorem modTx_dat (d lc : Nat) (f : TxFlow → TxFlow) : (modTx d lc f s).dat = s.dat := rfl
@[simp] theorem modTx_run (d lc : Nat) (f : TxFlow → TxFlow) : (modTx d lc f s).run = s.run := rfl
@[simp] theorem modTx_stepNum (d lc : Nat) (f : TxFlow → TxFlow) : (modTx d lc f s).stepNum = s.stepNum := rfl
@[simp] theorem modTx_prevT (d lc : Nat) (f : TxFlow → TxFlow) : (modTx d lc f s).prevT = s.prevT := rfl
@[simp] theorem modTx_verdict (d lc : Nat) (f : TxFlow → TxFlow) : (modTx d lc f s).verdict = s.verdict := rfl
@[simp] theorem modTx_rlog (d lc : Nat) (f : TxFlow → TxFlow) : (modTx d lc f s).rlog = s.rlog := rfl
@[simp] theorem modTx_fences (d lc : Nat) (f : TxFlow → TxFlow) : (modTx d lc f s).fences = s.fences := rfl
@[simp] theorem modTx_fenceSelf (d lc : Nat) (f : TxFlow → TxFlow) : (modTx d lc f s).fenceSelf = s.fenceSelf := rfl
@[simp] theorem modTx_unfences (d lc : Nat) (f : TxFlow → TxFlow) : (modTx d lc f s).unfences = s.unfences := rfl
@[simp] theorem modTx_probes (d lc : Nat) (f : TxFlow → TxFlow) : (modTx d lc f s).probes = s.probes := rfl
@[simp] theorem modTx_broadcasts (d lc : Nat) (f : TxFlow → TxFlow) : (modTx d lc f s).broadcasts = s.broadcasts := rfl
@[simp] theorem modTx_mgmtNext (d lc : Nat) (f : TxFlow → TxFlow) : (modTx d lc f s).mgmtNext = s.mgmtNext := rfl
@[simp] theorem modTx_note (d lc : Nat) (f : TxFlow → TxFlow) : (modTx d lc f s).note = s.note := rfl
@[simp] theorem modTx_trace (d lc : Nat) (f : TxFlow → TxFlow) : (modTx d lc f s).trace = s.trace := rfl
@[simp] theorem modTx_sfuVersion (d lc : Nat) (f : TxFlow → TxFlow) : (modTx d lc f s).sfuVersion = s.sfuVersion := rfl
@[simp] theorem modTx_sfuCopying (d lc : Nat) (f : TxFlow → TxFlow) : (modTx d lc f s).sfuCopying = s.sfuCopying := rfl
@[simp] theorem modTx_sfuLocked (d lc : Nat) (f : TxFlow → TxFlow) : (modTx d lc f s).sfuLocked = s.sfuLocked := rfl
@[simp] theorem modTx_cad (d lc : Nat) (f : TxFlow → TxFlow) : (modTx d lc f s).cad = s.cad := rfl
@[simp] theorem modTx_lst (d lc : Nat) (f : TxFlow → TxFlow) : (modTx d lc f s).lst = s.lst := rfl
@[simp] theorem modTx_demand (d lc : Nat) (f : TxFlow → TxFlow) : (modTx d lc f s).demand = s.demand := rfl
@[simp] theorem modTx_quarPending (d lc : Nat) (f : TxFlow → TxFlow) : (modTx d lc f s).quarPending = s.quarPending := rfl
@[simp] theorem modTx_quarUndelivered (d lc : Nat) (f : TxFlow → TxFlow) : (modTx d lc f s).quarUndelivered = s.quarUndelivered := rfl
@[simp] theorem modTx_quarActing (d lc : Nat) (f : TxFlow → TxFlow) : (modTx d lc f s).quarActing = s.quarActing := rfl
@[simp] theorem modTx_quarSeen (d lc : Nat) (f : TxFlow → TxFlow) : (modTx d lc f s).quarSeen = s.quarSeen := rfl
@[simp] theorem modTx_cadRefetch (d lc : Nat) (f : TxFlow → TxFlow) : (modTx d lc f s).cadRefetch = s.cadRefetch := rfl
@[simp] theorem modTx_pools (d lc : Nat) (f : TxFlow → TxFlow) : (modTx d lc f s).pools = s.pools := rfl
@[simp] theorem modTx_tports (d lc : Nat) (f : TxFlow → TxFlow) : (modTx d lc f s).tports = s.tports := rfl
@[simp] theorem modTx_tokenLast (d lc : Nat) (f : TxFlow → TxFlow) : (modTx d lc f s).tokenLast = s.tokenLast := rfl
@[simp] theorem modTx_halves (d lc : Nat) (f : TxFlow → TxFlow) : (modTx d lc f s).halves = s.halves := rfl
@[simp] theorem modTx_ingestHeld (d lc : Nat) (f : TxFlow → TxFlow) : (modTx d lc f s).ingestHeld = s.ingestHeld := rfl
@[simp] theorem modTx_homes (d lc : Nat) (f : TxFlow → TxFlow) : (modTx d lc f s).homes = s.homes := rfl
@[simp] theorem modTx_bucketMaps (d lc : Nat) (f : TxFlow → TxFlow) : (modTx d lc f s).bucketMaps = s.bucketMaps := rfl
@[simp] theorem modTx_chipHist (d lc : Nat) (f : TxFlow → TxFlow) : (modTx d lc f s).chipHist = s.chipHist := rfl
@[simp] theorem modTx_sortCounters (d lc : Nat) (f : TxFlow → TxFlow) : (modTx d lc f s).sortCounters = s.sortCounters := rfl
@[simp] theorem modTx_recv (d lc : Nat) (f : TxFlow → TxFlow) : (modTx d lc f s).recv = s.recv := rfl
@[simp] theorem modTx_feeds (d lc : Nat) (f : TxFlow → TxFlow) : (modTx d lc f s).feeds = s.feeds := rfl
@[simp] theorem modTx_handed (d lc : Nat) (f : TxFlow → TxFlow) : (modTx d lc f s).handed = s.handed := rfl
@[simp] theorem modTx_collects (d lc : Nat) (f : TxFlow → TxFlow) : (modTx d lc f s).collects = s.collects := rfl
@[simp] theorem modTx_collectHeld (d lc : Nat) (f : TxFlow → TxFlow) : (modTx d lc f s).collectHeld = s.collectHeld := rfl
@[simp] theorem modTx_gen (d lc : Nat) (f : TxFlow → TxFlow) : (modTx d lc f s).gen = s.gen := rfl
@[simp] theorem modTx_raiseDue (d lc : Nat) (f : TxFlow → TxFlow) : (modTx d lc f s).raiseDue = s.raiseDue := rfl
@[simp] theorem modTx_orphans (d lc : Nat) (f : TxFlow → TxFlow) : (modTx d lc f s).orphans = s.orphans := rfl
@[simp] theorem modTx_rounds (d lc : Nat) (f : TxFlow → TxFlow) : (modTx d lc f s).rounds = s.rounds := rfl
@[simp] theorem modTx_cce (d lc : Nat) (f : TxFlow → TxFlow) : (modTx d lc f s).cce = s.cce := rfl
@[simp] theorem modTx_rma (d lc : Nat) (f : TxFlow → TxFlow) : (modTx d lc f s).rma = s.rma := rfl
@[simp] theorem modTx_rmaTurn (d lc : Nat) (f : TxFlow → TxFlow) : (modTx d lc f s).rmaTurn = s.rmaTurn := rfl
@[simp] theorem modTx_dedup (d lc : Nat) (f : TxFlow → TxFlow) : (modTx d lc f s).dedup = s.dedup := rfl
@[simp] theorem modTx_cache (d lc : Nat) (f : TxFlow → TxFlow) : (modTx d lc f s).cache = s.cache := rfl
@[simp] theorem modTx_fep (d lc : Nat) (f : TxFlow → TxFlow) : (modTx d lc f s).fep = { s.fep with tx := s.fep.tx.map (fun x => if x.dst = d && x.lc = lc then f x else x) } := rfl
@[simp] theorem modTx_ports (d lc : Nat) (f : TxFlow → TxFlow) : (modTx d lc f s).ports = s.ports := rfl

end Sys2Proof.Machine
end

