-- ==== Sys2Proof/WellFormed.lean ====
section
/-! DEFINITION. Well-formed commands: the ranges that the manual gives the things a command names. -/
namespace Sys2Proof

/-- The 24 ports (R312). -/
def okPort24 (n : Nat) : Bool := n < 24
/-- The 16 token stream ports (R248). -/
def okPort16 (n : Nat) : Bool := n < 16
/-- The 16 command queues (R342). -/
def okQueue (q : Nat) : Bool := q < 16
/-- A chip identifier has 14 bits (R23). -/
def okChip (c : Nat) : Bool := c < 16384
/-- The register window has 16 MiB (R15). -/
def okReg (a : Nat) : Bool := a < 0x1000000
/-- The 384 MiB of SRAM (R75). -/
def okSram (a : Nat) : Bool := a < 402653184
/-- A memory address has 64 bits. -/
def okAddr (a : Nat) : Bool := a < 2 ^ 64
/-- The widths of a control-bus access (R458). -/
def okWidth (w : Nat) : Bool := w = 8 || w = 16 || w = 32
/-- A memory read: other agents' bytes at 64-bit addresses, and lines by number; R236 names a peer's copy of a line by the
two bits above the line number. -/
def okEnv (e : MemEnv) : Bool := e.writes.all (fun w => w.1 + w.2.length ≤ 2 ^ 64) && e.bad.all (fun l => l < 2 ^ 66)
/-- A layer (R54). -/
def okLayer (l : Nat) : Bool := l < 256
/-- A half (R37). -/
def okHalf (h : Nat) : Bool := h < 2
/-- A row block (R32). -/
def okBlock (b : BlockId) : Bool := okLayer b.layer && okHalf b.half && b.base < 65536
/-- The two scoring arrays (R103). -/
def okArray (a : Nat) : Bool := a < 2
/-- A column block of 256 experts (R216). -/
def okCol (c : Nat) : Bool := c < 4096
/-- The six pools (R80). -/
def okPool (p : Nat) : Bool := p < 6
/-- The link channels (R314). -/
def okLc (lc : Nat) : Bool := [0x0, 0x2, 0x4, 0x5, 0x6, 0x7, 0x8, 0xA, 0xC].contains lc
/-- A PSN has 24 bits (R322). -/
def okPsn (p : Nat) : Bool := p < 2 ^ 24
/-- A transport control entry has 16 bytes (R325). -/
def okEntry (e : Bytes) : Bool := e.length = 16
/-- An unlock token has 128 bytes (R410). -/
def okToken (t : Bytes) : Bool := t.length = 128
/-- The agreement round's result has eight lanes of 8 bytes (R370). -/
def okLanes (b : Bytes) : Bool := b.length = 64
/-- An advertisement names a share for each of the nine link channels (R312, R314). -/
def okAdvert (a : Advert) : Bool := a.shares.length = 9 && a.stage < 4
/-- A fuse image: each field at the size of R392, and three copies of each majority bit. -/
def okFuses (i : FuseImage) : Bool := i.revoke.length = 3 && i.kill.length = 3
/-- The 48 banks (R75). -/
def okBanks (bs : List Nat) : Bool := bs.all (· < 48)
/-- Where a word found in error can stand: a region of R51, a pool (R80), a station's queue (R50), a trace lane (R464). -/
def okPlace : ErrPlace → Bool
  | .region r _ => r < 8
  | .buffer p _ _ => p < 6
  | .queue c p _ => 1 ≤ c && c < 16 && p < 6
  | .path p _ => p < 6
  | .accumulator row => row < 256
  | .table _ => true
  | .stack p _ => p < 6
  | .lane n => n < 8
  | .log => true
/-- The words found in error while a command ran. -/
def okErrs (es : Errs) : Bool := es.all (fun e => okPlace e.place)
/-- The codewords of a frame that FEC corrected. -/
def okCount (n : Nat) : Bool := n < 2 ^ 32
/-- The port of a message: one of the 24, or 24 for a group of the chip's own. -/
def okPortSelf (n : Nat) : Bool := n ≤ 24
/-- A throttle step (R440). -/
def okThrottle (n : Nat) : Bool := n < 16
/-- A step number (R42). -/
def okStep (n : Nat) : Bool := n < 2 ^ 56
/-- A slot of a rack (R23). -/
def okSlot (n : Nat) : Bool := n < 64
/-- A token slot (R37). -/
def okRow (n : Nat) : Bool := n < 65536
/-- SDE_RLOG_START0 to SDE_RLOG_START11 (R385). -/
def okStartReg (n : Nat) : Bool := n < 12
/-- PORTn_DELAY has 16 bits (R341). -/
def okDelay (n : Nat) : Bool := n < 65536
/-- A tick of TB (R439). -/
def okTick (n : Nat) : Bool := n < 2 ^ 64
/-- A code, or a trip count, has 8 bits (R19, R188). -/
def okCode (n : Nat) : Bool := n < 256
/-- The value of a verdict or a completion round: a class and a byte (R269, R300). -/
def okOutcome (n : Nat) : Bool := n < 65536
/-- A ring index (R279, R343). -/
def okIndex (n : Nat) : Bool := n < 65536
/-- The offset of a piece of a PUT or GET (R353). -/
def okPiece (n : Nat) : Bool := n < 2 ^ 32
/-- A message is not empty (R320). -/
def okMsg (m : Bytes) : Bool := 0 < m.length
/-- A packet carries at least its header (R321). -/
def okPacket (p : Bytes) : Bool := 16 ≤ p.length

/-- A command is well formed: every operand lies in the range that the manual gives it. -/
def Instr.wellFormed : Instr → Bool
  | .load _ => true
  | .abandon _ => true
  | .activate _ => true
  | .disarm _ => true
  | .platLoadDone env => okEnv env
  | .commit _ _ => true
  | .sfuTableSel _ => true
  | .sfuTableCopyDone => true
  | .stage _ => true
  | .listCheckDone env => okEnv env
  | .arm _ => true
  | .listDisarm _ => true
  | .cadQuarantine _ => true
  | .lowRearm => true
  | .freeOrphans => true
  | .cancel => true
  | .cceDoorbell _ _ env => okEnv env
  | .rmaDoorbell _ q _ env => okQueue q && okEnv env
  | .retrain port => okPort24 port
  | .loopback port _ => okPort24 port
  | .disable port _ => okPort24 port
  | .go _ => true
  | .checkpoint _ => true
  | .rlogStart _ n _ => okStartReg n
  | .fence _ chip => okChip chip
  | .unfence _ chip => okChip chip
  | .links _ => true
  | .calibrate _ => true
  | .tbSetLo _ => true
  | .stepLo _ => true
  | .chalNew _ => true
  | .certLoad _ => true
  | .certCheckDone env => okEnv env
  | .klLoad _ => true
  | .keylistCheckDone env => okEnv env
  | .tokenLoad _ => true
  | .tokenCheckDone env => okEnv env
  | .noteRd _ => true
  | .noteSize _ => true
  | .readClear _ addr errs => okReg addr && okErrs errs
  | .tbLoRead => true
  | .registerWrite _ addr width _ => okReg addr && okWidth width
  | .extest _ => true
  | .idcode => true
  | .samplePreload _ => true
  | .bypass _ => true
  | .dbgChal => true
  | .dbgUnlock token => okToken token
  | .dbgReg addr => okReg addr
  | .dbgSram addr => okSram addr
  | .dbgHalt => true
  | .tapReset => true
  | .chipReset => true
  | .powerOnReset => true
  | .resetRelease strap => okSlot strap
  | .fuseReadDone image => okFuses image
  | .selftestDone fails _ => okBanks fails
  | .rclkLock => true
  | .timebaseTimeout => true
  | .calibrationDone _ => true
  | .holdover => true
  | .throttleRequest _ step => okThrottle step
  | .emergencyThrottle _ => true
  | .tbExhausted => true
  | .drbgReseed => true
  | .entropyFail => true
  | .datumBegin env => okEnv env
  | .cadastreCheckDone env => okEnv env
  | .agreementResult lanes => okLanes lanes
  | .poolsBuild => true
  | .cadastreReloadDone env => okEnv env
  | .listSwitchReadDone env => okEnv env
  | .startRoundResult latest refused => okTick latest && okCode refused
  | .stepStart => true
  | .datumTimeout => true
  | .genRaiseDue => true
  | .bucketMapBuild layer errs => okLayer layer && okErrs errs
  | .tokenTileArrive port _ errs => okPort16 port && okErrs errs
  | .normTile blk env errs => okBlock blk && okEnv env && okErrs errs
  | .anchorPrepassDone blk array col env errs => okBlock blk && okArray array && okCol col && okEnv env && okErrs errs
  | .scorePairDone blk array col env errs => okBlock blk && okArray array && okCol col && okEnv env && okErrs errs
  | .tierLineUncorr addr env => okAddr addr && okEnv env
  | .gateRowBlock blk errs => okBlock blk && okErrs errs
  | .selectRowBlock blk errs => okBlock blk && okErrs errs
  | .tallyCount blk errs => okBlock blk && okErrs errs
  | .tallyScanEnd layer half errs => okLayer layer && okHalf half && okErrs errs
  | .tallyCloseContribute layer half errs => okLayer layer && okHalf half && okErrs errs
  | .tallyReport src msg errs => okChip src && okMsg msg && okErrs errs
  | .tallyClose layer half errs => okLayer layer && okHalf half && okErrs errs
  | .tallyGrant src msg errs => okChip src && okMsg msg && okErrs errs
  | .tripAgreement layer half value => okLayer layer && okHalf half && okCode value
  | .tallyTimeout => true
  | .replicaNotice src msg errs => okChip src && okMsg msg && okErrs errs
  | .sortStart layer half errs => okLayer layer && okHalf half && okErrs errs
  | .sortPhaseEnd layer half errs => okLayer layer && okHalf half && okErrs errs
  | .groupWrite layer half errs => okLayer layer && okHalf half && okErrs errs
  | .sendGroup layer half errs => okLayer layer && okHalf half && okErrs errs
  | .groupReceive src port step msg errs => okChip src && okPortSelf port && okStep step && okMsg msg && okErrs errs
  | .feedWaitTimeout port errs => okPort16 port && okErrs errs
  | .collectTile port _ errs => okPort16 port && okErrs errs
  | .output src msg errs => okChip src && okMsg msg && okErrs errs
  | .recall src msg errs => okChip src && okMsg msg && okErrs errs
  | .refuse src msg errs => okChip src && okMsg msg && okErrs errs
  | .combineRow layer half row errs => okLayer layer && okHalf half && okRow row && okErrs errs
  | .emitTile layer half errs => okLayer layer && okHalf half && okErrs errs
  | .verdictContribute => true
  | .verdict code errs => okOutcome code && okErrs errs
  | .checkpointSigned errs => okErrs errs
  | .stepTimeout => true
  | .abort src msg => okChip src && okMsg msg
  | .quarantineNotice src msg => okChip src && okMsg msg
  | .fenceNotice src msg => okChip src && okMsg msg
  | .isolation => true
  | .peerWaitTimeout peer => okChip peer
  | .probe src msg => okChip src && okMsg msg
  | .probeAnswer src msg => okChip src && okMsg msg
  | .probeTimeout peer => okChip peer
  | .mgmtRead src msg errs => okChip src && okMsg msg && okErrs errs
  | .mgmtReadAnswer src msg => okChip src && okMsg msg
  | .cadRefetchTimeout => true
  | .time src msg => okChip src && okMsg msg
  | .timeAnswer src msg => okChip src && okMsg msg
  | .allocGrant pool errs => okPool pool && okErrs errs
  | .frameSend port => okPort24 port
  | .frameReceive port _ corrected => okPort24 port && okCount corrected
  | .replayTimeout port => okPort24 port
  | .packetReceive port packet => okPort24 port && okPacket packet
  | .ack src entry => okChip src && okEntry entry
  | .ackTimer peer lc => okChip peer && okLc lc
  | .retransmitTimeout peer lc psn => okChip peer && okLc lc && okPsn psn
  | .grantReq src entry => okChip src && okEntry entry
  | .grant src entry => okChip src && okEntry entry
  | .grantIdleTimeout peer lc => okChip peer && okLc lc
  | .pinnedFlowMove peer lc => okChip peer && okLc lc
  | .throttleStepFall => true
  | .lossOfSignal port => okPort24 port
  | .signalPresent port => okPort24 port
  | .lanesTrained port _ delay => okPort24 port && okDelay delay
  | .keyingEnter port => okPort24 port
  | .trainTimeout port => okPort24 port
  | .keyingTimeout port => okPort24 port
  | .hello port msg => okPort24 port && okMsg msg
  | .finish port msg advert => okPort24 port && okMsg msg && okAdvert advert
  | .rekeyStart port => okPort24 port
  | .rekeyIdleOnly port => okPort24 port
  | .rekeyTimeout port => okPort24 port
  | .allReduce env => okEnv env
  | .reduceScatter env => okEnv env
  | .allGather env => okEnv env
  | .broadcast env => okEnv env
  | .allToAll env => okEnv env
  | .allToAllV env => okEnv env
  | .barrier env => okEnv env
  | .registerGroup env => okEnv env
  | .unregisterGroup env => okEnv env
  | .contrib src msg => okChip src && okMsg msg
  | .partialMsg src msg => okChip src && okMsg msg
  | .partialAck src msg => okChip src && okMsg msg
  | .result src msg => okChip src && okMsg msg
  | .partialCopyRequest src msg => okChip src && okMsg msg
  | .collAbort src msg => okChip src && okMsg msg
  | .credit src msg => okChip src && okMsg msg
  | .nack src msg => okChip src && okMsg msg
  | .counts src msg => okChip src && okMsg msg
  | .slot src msg => okChip src && okMsg msg
  | .chainReceive src msg errs => okChip src && okMsg msg && okErrs errs
  | .collTile port _ errs => okPort16 port && okErrs errs
  | .completionRound coll code => okIndex coll && okOutcome code
  | .collTimeout coll => okIndex coll
  | .rmaPoll q env => okQueue q && okEnv env
  | .rmaLoad q env errs => okQueue q && okEnv env && okErrs errs
  | .rmaStore q env => okQueue q && okEnv env
  | .rmaSwap q env => okQueue q && okEnv env
  | .rmaCas q env => okQueue q && okEnv env
  | .rmaAdd q env => okQueue q && okEnv env
  | .rmaAnd q env => okQueue q && okEnv env
  | .rmaOr q env => okQueue q && okEnv env
  | .rmaXor q env => okQueue q && okEnv env
  | .rmaUmax q env => okQueue q && okEnv env
  | .rmaUmin q env => okQueue q && okEnv env
  | .rmaSmax q env => okQueue q && okEnv env
  | .rmaSmin q env => okQueue q && okEnv env
  | .rmaPut q env => okQueue q && okEnv env
  | .rmaGet q env => okQueue q && okEnv env
  | .rmaWait q env => okQueue q && okEnv env
  | .rmaInvalidate q env => okQueue q && okEnv env
  | .rmaFence q env => okQueue q && okEnv env
  | .reqLoad src msg env => okChip src && okMsg msg && okEnv env
  | .reqLoadLine src msg env => okChip src && okMsg msg && okEnv env
  | .reqStore src msg env => okChip src && okMsg msg && okEnv env
  | .reqAtomic src msg env _ errs => okChip src && okMsg msg && okEnv env && okErrs errs
  | .reqWrite src msg env => okChip src && okMsg msg && okEnv env
  | .reqRead src msg env => okChip src && okMsg msg && okEnv env
  | .reqRelease src msg => okChip src && okMsg msg
  | .remoteReply src q index piece msg env => okChip src && okQueue q && okIndex index && okPiece piece && okMsg msg && okEnv env
  | .atomicTimeout q index => okQueue q && okIndex index
  | .commandTimeout q index => okQueue q && okIndex index
  | .waitPoll q index env => okQueue q && okIndex index && okEnv env
  | .releaseTimer q target => okQueue q && okChip target
  | .traceWrite errs => okErrs errs
  | .tokenStreamPortCredit port errs => okPort16 port && okErrs errs
  | .linkSignatureDone port => okPort24 port
  | .traceWindowRead addr _ => okReg addr

end Sys2Proof
end

