-- ==== Sys2Proof/Tests/Slice0.lean ====
section
/-! SUPPORT. The model's own tests: ill-formed commands that WellFormed refuses, values that the published standards give, and for
every statement with hypotheses a state and operands that meet them. -/
namespace Sys2Proof.Tests
open Sys2Proof Sys2Proof.Machine

set_option Elab.async false

/-! ### Ill-formed commands -/

def noEnv : MemEnv := ⟨[], []⟩

theorem test_wellformed_port24 : (Instr.retrain 23).wellFormed = true ∧ (Instr.retrain 24).wellFormed = false := by decide +kernel

theorem test_wellformed_port16 :
    (Instr.feedWaitTimeout 15 []).wellFormed = true ∧ (Instr.feedWaitTimeout 16 []).wellFormed = false := by decide +kernel

theorem test_wellformed_queue :
    (Instr.rmaStore 15 noEnv).wellFormed = true ∧ (Instr.rmaStore 16 noEnv).wellFormed = false := by decide +kernel

theorem test_wellformed_chip :
    (Instr.unfence true 16383).wellFormed = true ∧ (Instr.unfence true 16384).wellFormed = false := by decide +kernel

theorem test_wellformed_register :
    (Instr.dbgReg 0xFFFFFF).wellFormed = true ∧ (Instr.dbgReg 0x1000000).wellFormed = false := by decide +kernel

theorem test_wellformed_sram :
    (Instr.dbgSram 402653183).wellFormed = true ∧ (Instr.dbgSram 402653184).wellFormed = false := by decide +kernel

theorem test_wellformed_address :
    (Instr.tierLineUncorr (2 ^ 64 - 1) noEnv).wellFormed = true ∧ (Instr.tierLineUncorr (2 ^ 64) noEnv).wellFormed = false := by decide +kernel

theorem test_wellformed_width :
    (Instr.registerWrite true 0 16 0).wellFormed = true ∧ (Instr.registerWrite true 0 64 0).wellFormed = false := by decide +kernel

theorem test_wellformed_env :
    (Instr.datumBegin ⟨[(2 ^ 64 - 1, [0])], [2 ^ 66 - 1]⟩).wellFormed = true ∧
    (Instr.datumBegin ⟨[(2 ^ 64, [0])], []⟩).wellFormed = false ∧ (Instr.datumBegin ⟨[], [2 ^ 66]⟩).wellFormed = false := by decide +kernel

theorem test_wellformed_layer :
    (Instr.bucketMapBuild 255 []).wellFormed = true ∧ (Instr.bucketMapBuild 256 []).wellFormed = false := by decide +kernel

theorem test_wellformed_half :
    (Instr.sortStart 0 1 []).wellFormed = true ∧ (Instr.sortStart 0 2 []).wellFormed = false := by decide +kernel

theorem test_wellformed_block :
    (Instr.tallyCount ⟨255, 1, 65535⟩ []).wellFormed = true ∧ (Instr.tallyCount ⟨0, 0, 65536⟩ []).wellFormed = false ∧
    (Instr.tallyCount ⟨256, 0, 0⟩ []).wellFormed = false ∧ (Instr.tallyCount ⟨0, 2, 0⟩ []).wellFormed = false := by decide +kernel

theorem test_wellformed_array :
    (Instr.scorePairDone ⟨0, 0, 0⟩ 1 4095 noEnv []).wellFormed = true ∧
    (Instr.scorePairDone ⟨0, 0, 0⟩ 2 0 noEnv []).wellFormed = false ∧ (Instr.scorePairDone ⟨0, 0, 0⟩ 0 4096 noEnv []).wellFormed = false := by
  decide +kernel

theorem test_wellformed_pool :
    (Instr.allocGrant 5 []).wellFormed = true ∧ (Instr.allocGrant 6 []).wellFormed = false := by decide +kernel

theorem test_wellformed_channel :
    (Instr.ackTimer 0 0xC).wellFormed = true ∧ (Instr.ackTimer 0 0x1).wellFormed = false := by decide +kernel

theorem test_wellformed_psn :
    (Instr.retransmitTimeout 0 0 (2 ^ 24 - 1)).wellFormed = true ∧ (Instr.retransmitTimeout 0 0 (2 ^ 24)).wellFormed = false := by decide +kernel

theorem test_wellformed_entry :
    (Instr.grant 0 (List.replicate 16 0)).wellFormed = true ∧ (Instr.grant 0 (List.replicate 15 0)).wellFormed = false := by decide +kernel

theorem test_wellformed_token :
    (Instr.dbgUnlock (List.replicate 128 0)).wellFormed = true ∧ (Instr.dbgUnlock (List.replicate 127 0)).wellFormed = false := by decide +kernel

theorem test_wellformed_lanes :
    (Instr.agreementResult (List.replicate 64 0)).wellFormed = true ∧ (Instr.agreementResult []).wellFormed = false := by decide +kernel

theorem test_wellformed_advert :
    (Instr.finish 0 [0] ⟨List.replicate 9 0, 0, 3⟩).wellFormed = true ∧ (Instr.finish 0 [0] ⟨[], 0, 0⟩).wellFormed = false ∧
    (Instr.finish 0 [0] ⟨List.replicate 9 0, 0, 4⟩).wellFormed = false := by decide +kernel

theorem test_wellformed_banks :
    (Instr.selftestDone [47] true).wellFormed = true ∧ (Instr.selftestDone [48] true).wellFormed = false := by decide +kernel

theorem test_wellformed_message :
    (Instr.abort 0 [0]).wellFormed = true ∧ (Instr.abort 0 []).wellFormed = false := by decide +kernel

theorem test_wellformed_packet :
    (Instr.packetReceive 0 (List.replicate 16 0)).wellFormed = true ∧ (Instr.packetReceive 0 (List.replicate 15 0)).wellFormed = false := by
  decide +kernel

theorem test_wellformed_self_port :
    (Instr.groupReceive 0 24 0 [0] []).wellFormed = true ∧ (Instr.groupReceive 0 25 0 [0] []).wellFormed = false := by decide +kernel

theorem test_wellformed_step :
    (Instr.groupReceive 0 0 (2 ^ 56 - 1) [0] []).wellFormed = true ∧ (Instr.groupReceive 0 0 (2 ^ 56) [0] []).wellFormed = false := by decide +kernel

theorem test_wellformed_throttle :
    (Instr.throttleRequest true 15).wellFormed = true ∧ (Instr.throttleRequest true 16).wellFormed = false := by decide +kernel

theorem test_wellformed_slot : (Instr.resetRelease 63).wellFormed = true ∧ (Instr.resetRelease 64).wellFormed = false := by decide +kernel

theorem test_wellformed_row :
    (Instr.combineRow 0 0 65535 []).wellFormed = true ∧ (Instr.combineRow 0 0 65536 []).wellFormed = false := by decide +kernel

theorem test_wellformed_start :
    (Instr.rlogStart true 11 0).wellFormed = true ∧ (Instr.rlogStart true 12 0).wellFormed = false := by decide +kernel

theorem test_wellformed_delay :
    (Instr.lanesTrained 0 8 65535).wellFormed = true ∧ (Instr.lanesTrained 0 8 65536).wellFormed = false := by decide +kernel

theorem test_wellformed_tick :
    (Instr.startRoundResult (2 ^ 64 - 1) 255).wellFormed = true ∧ (Instr.startRoundResult (2 ^ 64) 0).wellFormed = false ∧
    (Instr.startRoundResult 0 256).wellFormed = false := by decide +kernel

theorem test_wellformed_outcome :
    (Instr.verdict 65535 []).wellFormed = true ∧ (Instr.verdict 65536 []).wellFormed = false := by decide +kernel

theorem test_wellformed_index :
    (Instr.collTimeout 65535).wellFormed = true ∧ (Instr.collTimeout 65536).wellFormed = false := by decide +kernel

theorem test_wellformed_piece :
    (Instr.remoteReply 0 0 0 (2 ^ 32 - 1) [0] noEnv).wellFormed = true ∧
    (Instr.remoteReply 0 0 0 (2 ^ 32) [0] noEnv).wellFormed = false := by decide +kernel

theorem test_wellformed_corrected :
    (Instr.frameReceive 0 [] (2 ^ 32 - 1)).wellFormed = true ∧ (Instr.frameReceive 0 [] (2 ^ 32)).wellFormed = false := by decide +kernel

theorem test_wellformed_error_places :
    (Instr.checkpointSigned [⟨.region 8 0, true⟩]).wellFormed = false ∧ (Instr.checkpointSigned [⟨.buffer 6 0 0, true⟩]).wellFormed = false ∧
    (Instr.checkpointSigned [⟨.queue 0 0 0, true⟩]).wellFormed = false ∧ (Instr.checkpointSigned [⟨.queue 1 6 0, true⟩]).wellFormed = false ∧
    (Instr.checkpointSigned [⟨.path 6 0, true⟩]).wellFormed = false ∧ (Instr.checkpointSigned [⟨.accumulator 256, true⟩]).wellFormed = false ∧
    (Instr.checkpointSigned [⟨.stack 6 0, true⟩]).wellFormed = false ∧ (Instr.checkpointSigned [⟨.lane 8, true⟩]).wellFormed = false ∧
    (Instr.checkpointSigned [⟨.region 7 0, true⟩, ⟨.queue 15 5 0, false⟩, ⟨.table 0, true⟩, ⟨.log, true⟩]).wellFormed = true := by decide +kernel

/-- A fuse field with its CRC-32C; that of nine ASCII digits is the published check value 0xE3069283. -/
def fuse (n : Nat) (b : Byte) : FuseField := ⟨List.replicate n b, BitVec.ofNat 32 (crc32c (List.replicate n b))⟩
def fuseImage : FuseImage :=
  ⟨fuse 48 0, fuse 48 0, fuse 48 7, fuse 8 1, fuse 1 2, [0, 0, 0], [false, false, false], true⟩

theorem test_wellformed_fuses :
    (Instr.fuseReadDone fuseImage).wellFormed = true ∧ (Instr.fuseReadDone { fuseImage with revoke := [0] }).wellFormed = false ∧
    (Instr.fuseReadDone { fuseImage with kill := [] }).wellFormed = false := by decide +kernel

theorem test_crc32c : crc32c ([0x31, 0x32, 0x33, 0x34, 0x35, 0x36, 0x37, 0x38, 0x39]) = 0xE3069283 := by decide +kernel

/-! ### States -/

def at_ (st : Stage) : State := { State.reset with boot := { Boot.reset with stage := st } }

/-- A chip at a state of the plat loader. -/
def loader (st : LdrStage) : State := { at_ .ready with ldr := { State.reset.ldr with stage := st } }

/-- A chip whose owner is known. -/
def owned (s : State) : State := { s with fuses := { s.fuses with read := true, ownerRoot := List.replicate 48 1 } }
def put (a v : Nat) (s : State) : State := s.setWord a (BitVec.ofNat 32 v)

/-- One port in a state. -/
def port (n : Nat) (st : PortState) (s : State) : State := modPort n (fun q => { q with state := st }) s
def run0 : Run :=
  ⟨0, false, false, true, true, 0, false, false, false, false, 0, [], 0, 0, 0, 0, 0, 0, 0, 0, 0, 0, 0, 0, 0, 0, false, false⟩
def running : State := { at_ .running with run := some run0, stepNum := 1 }

theorem witness_IdleStepTicks :
    ({ running with tbRun := true, tb := 2 ^ 64 - 2 }).pending = [] ∧ ({ running with tbRun := true, tb := 2 ^ 64 - 2 }).tb < 2 ^ 64 - 1 := by
  decide +kernel

theorem witness_QueueKept : exec .tapReset State.reset = .next { State.reset with tap := { State.reset.tap with ir := 0x01 } } := rfl

/-- Debug is fully open on a chip without an owner whose fuses have been read. -/
def unowned (s : State) : State := { s with fuses := { s.fuses with read := true } }

theorem witness_OnlySramReadStops :
    bit (debugScope (unowned State.reset)) 1 = true ∧ bit (debugScope State.reset) 1 = false ∧ (384 * 2 ^ 20 : Nat) ≤ 402653184 := by
  decide +kernel

theorem witness_InvStep : Inv State.reset :=
  ⟨by decide, by decide, by decide, ⟨by decide, by decide, by decide, by decide, by decide⟩⟩

theorem witness_UnprivilegedWrites : exec (.load false) State.reset = .next (record uPlat 0x02 State.reset) := by rfl

theorem witness_LoaderControl :
    (∀ st ∈ [LdrStage.empty, .staged, .loading, .armed], debugOpen (owned (loader st)) = false ∧
      (owned (loader st)).boot.stage ≠ .reset ∧ (owned (loader st)).boot.stage ≠ .fuse ∧ (owned (loader st)).ldr.stage = st) ∧
    (3#32).toNat < 16 ∧ 2 ≤ ((List.range 4).filter (bit (3#32).toNat)).length := by decide +kernel

def certified (s : State) : State := put 0x40C 2 { s with sec := { s.sec with cert := some [] } }

theorem witness_BringUpAdvances :
    fusesOk fuseImage = true ∧ (at_ .selftest).boot.tested = false ∧ (at_ .selftest).sfuCopying = true ∧
    racks (certified (at_ .identify)) = 2 ∧ (certified (at_ .identify)).field 0x408 15 8 < 2 ∧
    (certified (at_ .identify)).sec.cert.isSome = true ∧ (certified (at_ .identify)).ports.length = 24 ∧
    portsUp (port 23 .up (at_ .links)) ≠ [] := by decide +kernel

/-- A chip that is not the time master of its installation. -/
def slave (s : State) : State := certified { s with boot := { s.boot with slot := 1 } }

theorem witness_calibration :
    timeMaster (slave (at_ .calibrate)) ≠ chipId (slave (at_ .calibrate)) ∧ timeMaster (slave (at_ .calibrate)) = 0 ∧
    ((⟨5, 16, -1⟩ : Calibration).residual.natAbs ≤ 16 ∧ (⟨5, 16, -1⟩ : Calibration).drift.natAbs ≤ 1) ∧
    timeMaster (certified (at_ .calibrate)) = chipId (certified (at_ .calibrate)) := by decide +kernel

theorem witness_BringUpHolds :
    fusesOk { fuseImage with kill := [true, false, true] } = false ∧
    16 < (⟨0, -17, 0⟩ : Calibration).residual.natAbs ∧ 1 < (⟨0, 0, 2⟩ : Calibration).drift.natAbs ∧
    (toHeld (fun b => { b with rclkFail := true }) (at_ .timebase)).boot.stage = .held ∧
    (∀ n, n < 24 → (portAt (at_ .timebase) n).bonded = 0) := by decide +kernel

theorem witness_held : exec .timebaseTimeout (at_ .timebase) = .next (toHeld (fun b => { b with rclkFail := true }) (at_ .timebase)) := rfl

theorem witness_TimeBaseAndClocks :
    ((at_ .links).word 0x41C).toNat * 2 ^ 32 + (5#32).toNat ≤ 2 ^ 64 - 1 - 2 ^ 62 ∧
    2 ^ 64 - 1 - 2 ^ 62 < ((put 0x41C 0xC0000000 (at_ .identify)).word 0x41C).toNat * 2 ^ 32 + (0#32).toNat ∧
    ({ State.reset with tb := 2 ^ 64 - 1 }).tbExhausted = false ∧
    Config.sfuVersions.contains (0x0400#32).toNat = true ∧ ({ State.reset with sfuCopying := false }).sfuLocked = false ∧
    (∀ k, ({ State.reset with tb := 10001, clk := { State.reset.clk with lastSclk := some 1 } }).clk.lastSclk = some k → k + 10000 ≤ 10001) ∧
    ({ State.reset with clk := { State.reset.clk with rclkLock := true } }).clk.rclkLock = true ∧
    (5 : Nat) ≠ chipId State.reset ∧ fenced State.reset 5 = false ∧ State.reset.fenceSelf = false := by
  refine ⟨by decide, by decide, by decide, by decide, by decide, ?_, by decide, by decide, by decide, by decide⟩
  intro k h; cases h; decide

theorem witness_TestAccessPort :
    ((0xFF : Byte).toNat ∉ tapOpcodes ∧ (0x03 : Byte).toNat ∉ tapOpcodes) ∧
    ({ State.reset with sec := { State.reset.sec with drbgOn := true } }).sec.drbgOn = true ∧ State.reset.sec.tokenLoad = none ∧
    bit (debugScope (unowned State.reset)) 0 = true ∧ bit (debugScope State.reset) 0 = false ∧
    bit (debugScope (unowned State.reset)) 2 = true ∧ bit (debugScope State.reset) 2 = false := by decide +kernel

/-! ### Signed objects -/

/-- The public key of the private key 1. -/
def key1 : Bytes := pointBytes (g384.x, g384.y)

/-- A signature with the private key 1 and the nonce 1. -/
def sign1 (body : Bytes) : Bytes :=
  beBytes 48 (g384.x % n384) ++ beBytes 48 ((beNat (sha384 body) + g384.x) % n384)
def zeros (n : Nat) : Bytes := List.replicate n 0
def padded (b : Bytes) : Bytes := b ++ zeros (pad64 b.length - b.length)

/-- A plat's sections (R50 to R55): one layer of one expert, K = 1, one slot and 32 model columns. -/
def graphSect : Bytes :=
  leBytes 2 0xFFFA ++ (List.range 15).flatMap (fun i => leBytes 4 (if i = 1 then 0 else if i = 2 ∨ i = 3 then 0x102 else 2))
def poolsSect : Bytes :=
  [256, 64, 64, 32, 8, 4].flatMap (leBytes 4) ++ 10 :: zeros 7 ++
    [1, 3, 4, 5, 6, 7, 8, 9, 0xC, 0xF].flatMap (fun id => leBytes 1 1 ++ leBytes 1 id ++ zeros 2 ++ leBytes 4 2 ++ zeros 24)
def layerSect : Bytes := [0, 1, 0, 0] ++ zeros 4 ++ leBytes 2 1 ++ zeros 22 ++ 1 :: zeros 31
def cadSect : Bytes := leBytes 4 0x40000001 ++ zeros 28
def platBody : Bytes :=
  let ss : List (Nat × Bytes) := [(1, graphSect), (2, [76, 8, 4, 2, 2, 2, 1, 1]), (3, poolsSect), (4, [8, 8, 16, 12, 12, 4, 4]),
    (5, layerSect), (6, cadSect)]
  let dir := (ss.foldl (fun (x : Nat × Bytes) e =>
    (x.1 + pad64 e.2.length, x.2 ++ leBytes 2 e.1 ++ zeros 2 ++ leBytes 4 x.1 ++ leBytes 4 e.2.length ++ zeros 4)) (0x500, [])).2
  leBytes 4 0x54414C50 ++ leBytes 2 3 ++ leBytes 2 0x400 ++ leBytes 4 1 ++ leBytes 4 2240 ++ leBytes 2 6 ++ leBytes 2 0 ++ leBytes 2 64 ++
    leBytes 2 1 ++ leBytes 4 1 ++ leBytes 2 32 ++ leBytes 2 0x400 ++ zeros 224 ++ dir ++ zeros (16 * 58) ++ ss.flatMap (fun e => padded e.2)

/-- The plat, signed with the owner root key (R48). -/
def platImage : Bytes := platBody ++ leBytes 4 0 ++ key1 ++ zeros 3 ++ sign1 platBody ++ zeros 56

/-- A chip of an installation of one rack whose owner root is `key1`. -/
def rooted (s : State) : State :=
  put 0x40C 1 { s with sfuVersion := 0x400, fuses := { s.fuses with read := true, ownerRoot := sha384 key1, mfgRoot := sha384 key1 } }
def loading (n : Nat) : State := rooted { loader .loading with ldr := { (loader .loading).ldr with len := n } }

/-- What an agent has written is what a read of it gives. -/
theorem agent_bytes (s : State) (a n : Nat) (b : Bytes) (h : n ≤ b.length) :
    memBytes (withEnv ⟨[(a, b)], []⟩ s).mem a n = b.take n := memBytes_memPut h

/-- A plat's bytes pass the checks of R60, whatever the state's memory. -/
theorem plat_accepted (s : State) (a n : Nat) (b : Bytes) (h : n = b.length) (h1 : check1 n (b.take 16) = true) (h16 : 16 ≤ n)
    (h3 : check3Reason s b = 0) (h4 : laterChecks s b = 0) :
    let m := withEnv ⟨[(a, b)], []⟩ s
    check1 n (memBytes m.mem a 16) = true ∧ check3Reason m (memBytes m.mem a n) = 0 ∧ laterChecks m (memBytes m.mem a n) = 0 := by
  subst h
  simp only [agent_bytes _ _ _ _ (Nat.le_refl _), agent_bytes _ _ _ _ h16, List.take_length]
  exact ⟨h1, h3, h4⟩

theorem witness_PlatVerification :
    let s := loading 2240
    let env : MemEnv := ⟨[(0, platImage)], []⟩
    let m := withEnv env s
    s.ldr.stage = .loading ∧ check1 s.ldr.len (memBytes m.mem s.ldr.src 16) = true ∧ badLine env s.ldr.src s.ldr.len = false ∧
      check3Reason m (memBytes m.mem s.ldr.src s.ldr.len) = 0 ∧ laterChecks m (memBytes m.mem s.ldr.src s.ldr.len) = 0 := by
  have h := plat_accepted (loading 2240) 0 2240 platImage (by decide +kernel) (by decide +kernel) (by decide) (by decide +kernel)
    (by decide +kernel)
  exact ⟨by decide, h.1, by decide, h.2.1, h.2.2⟩

theorem witness_PlatRejections :
    check1 64 (memBytes (loading 64).mem 0 16) = false ∧ badLine ⟨[(0, platImage)], [3]⟩ 0 2240 = true ∧
    check3Reason (loader .loading) platImage = 4 ∧ laterChecks (put 0x40C 0 (loading 2240)) platImage = 7 := by
  decide +kernel

theorem witness_CommitSets :
    (0 < (0x1F#32).toNat ∧ (0x1F#32).toNat < 32 ∧ repartitioning State.reset = false ∧ failingSet State.reset (0x1F#32).toNat = none) ∧
    failingSet (put 0x14 0 State.reset) 4 = some 2 ∧
    (bit (0x10#32).toNat 4 = true ∧
      repartitioning { State.reset with dat := { State.reset.dat with repartition := true, phase := .agreement } } = true) := by
  decide +kernel

/-- A certificate of the device key 1, issued with the key 1 (R402). -/
def certBody : Bytes :=
  leBytes 4 0x54524344 ++ leBytes 2 1 ++ [1, 0] ++ leBytes 8 7 ++ key1 ++ zeros 7 ++ key1 ++ zeros 7
def certImage : Bytes := certBody ++ sign1 certBody

/-- A key list of one debug key, the public key 1 in compressed form (R398). -/
def klBody : Bytes :=
  leBytes 4 0x54534C4B ++ leBytes 2 1 ++ [1, 0] ++ leBytes 4 5 ++ zeros 4 ++ [3, 2] ++ zeros 13 ++ 3 :: beBytes 48 g384.x ++ key1 ++ zeros 7
def klImage : Bytes := klBody ++ sign1 klBody

/-- A debug token (R410). -/
def tokenBody : Bytes := leBytes 4 0x54474244 ++ leBytes 2 1 ++ [2, 5] ++ leBytes 8 7 ++ List.replicate 16 9
def tokenImage : Bytes := tokenBody ++ sign1 tokenBody

/-- The chip with the device number 7 and the device key 1 while it checks objects. -/
def checking : State :=
  let s := rooted (at_ .ready)
  { s with devKey := some ⟨1, g384.x, g384.y⟩, fuses := { s.fuses with device := 7 }
           sec := { s.sec with certLoad := some 0, klLoad := some (0, 280), tokenChallenge := some (List.replicate 16 9)
                               tokenLoad := some (.memory 0), keyList := some ⟨5, klEntries klImage⟩ } }

theorem witness_certificate :
    checking.sec.certLoad = some 0 ∧ certReason checking (memBytes (withEnv ⟨[(0, certImage)], []⟩ checking).mem 0 320) = 0 ∧
    certReason checking (zeros 320) = 1 := by
  rw [agent_bytes _ _ _ _ (by decide +kernel)]
  decide +kernel

theorem witness_keyList :
    checking.sec.klLoad = some (0, 280) ∧ klReason checking (memBytes (withEnv ⟨[(0, klImage)], []⟩ checking).mem 0 280) = 0 ∧
    klReason checking (zeros 280) = 1 := by
  rw [agent_bytes _ _ _ _ (by decide +kernel)]
  decide +kernel

theorem witness_token :
    checking.sec.tokenLoad = some (.memory 0) ∧ tokenAllowed checking = true ∧ tokenAllowed (at_ .ready) = false ∧
    tokenReason checking (memBytes (withEnv ⟨[(0, tokenImage)], []⟩ checking).mem 0 128) = 0 ∧ tokenReason checking (zeros 128) = 1 := by
  rw [agent_bytes _ _ _ _ (by decide +kernel)]
  decide +kernel

theorem witness_SecurityLoads :
    (∀ p ∈ State.reset.ports, p.state ≠ .keying ∧ p.state ≠ .retrain) ∧
    (∃ p ∈ (modPort 23 (fun q => { q with state := .keying }) State.reset).ports, p.state = .keying ∨ p.state = .retrain) ∧
    State.reset.sec.klLoad = none ∧ State.reset.sec.certLoad = none ∧ checking.sec.klLoad ≠ none ∧ State.reset.sec.tokenLoad = none ∧
    checking.sec.tokenLoad ≠ none ∧ badLine ⟨[], [4]⟩ 0 320 = true := by decide +kernel

/-- The private key, message and signature of RFC 6979, A.2.6 (SHA-384 of "sample"). -/
theorem test_ecdsa_rfc6979 :
    let d := 0x6B9D3DAD2E1B8C1C05B19875B6659F4DE23C3B667BF297BA9AA47740787137D896D5724E4C70A825F872C9EA60D2EDF5
    ecdsaSign d (sha384 ([0x73, 0x61, 0x6D, 0x70, 0x6C, 0x65])) =
      beBytes 48 0x94EDBB92A5ECB8AAD4736E56C691916B3F88140666CE9FA73D64C4EA95AD133C81A648152E44ACF96E36DD1E80FABE46 ++
      beBytes 48 0x99EF4AEB15F178CEA1FE40DB2603138F130E740A19624526203B6351D0A3A94FA329C145786E679E7B82C71A38628AC8 := by decide +kernel

/-- SHA-384 of "abc" (FIPS 180-4). -/
theorem test_sha384 : beNat (sha384 ([0x61, 0x62, 0x63])) =
    0xcb00753f45a35e8bb5a03d699ac65007272c32ab0eded1631a8b605a43ff5bed8086072ba1e7cc2358baeca134c825a7 := by decide +kernel

/-- A chip whose notice ring is enabled, with lost notices pending. -/
def ringOn (pending : Nat) : State :=
  let s := put 0x328 6 State.reset
  { s with note := { s.note with pending := pending }, sec := { s.sec with drbgOn := true, drbgRequests := 2 ^ 20 } }

theorem witness_RandomnessAndNotices :
    (ringOn 0).sec.drbgOn = true ∧ 2 ^ 20 ≤ (ringOn 0).sec.drbgRequests ∧ noteLog2 (ringOn 0) ≠ 0 ∧ 2 ≤ noteFree (ringOn 0) ∧
    (ringOn 0).note.pending = 0 ∧ noteLog2 State.reset = 0 ∧ noteFree (put 0x32C 63 (ringOn 0)) < 2 := by decide +kernel

theorem witness_RegisterWrites :
    (¬ (16 = 32 ∧ 0x328 % 4 = 0 ∧ fieldsAt 0x328 ≠ [])) ∧ fieldsAt 0x0 ≠ [] ∧ writable 0x0 = false ∧
    privileged 0x100 = true ∧ (writable 0x208 = true ∧ ¬ (valueOk State.reset 0x208 5 = true)) ∧
    (writable 0x408 = true ∧ 0x100 &&& fieldMask 0x408 = 0x100 ∧ valueOk (at_ .ready) 0x408 0x100 = true ∧
      writeRefusal (at_ .ready) 0x408 0x100 = some 0x1B ∧ writeRefusal (at_ .identify) 0x408 0x100 = none ∧ (actionWrite 0x408 0x100).isNone = true) := by
  decide +kernel

theorem test_writtenFields :
    (∃ f ∈ fieldsAt 0x338, f.acc = .w1c) ∧ (∃ f ∈ fieldsAt 0x14, f.acc = .sh) ∧ (∃ f ∈ fieldsAt 0x408, f.acc = .rw) ∧
    writtenWord (put 0x338 0x30 State.reset) 0x338 0x10 = 0x20 := by decide +kernel

/-- A trace writer that is enabled. -/
def tracing : State :=
  let s := put 0x308000 1 (put 0x308014 0x800 State.reset)
  { s with trace := { s.trace with lanes := [.event 5 0 0] :: List.replicate 7 [] } }

theorem witness_RegisterReads :
    readWaits State.reset 0x328 = false ∧ isSecReg 0x200000 = true ∧ (∃ f ∈ fieldsAt 0x3102C, f.acc = .rc) ∧
    (∀ f ∈ fieldsAt 0x328, f.acc ≠ .rc) ∧
    readWaits { State.reset with cadRefetch := [⟨0, 1, [], 0, 0⟩] } 0x400000 = true ∧
    traceOn tracing = true ∧ tracing.trace.full = false ∧ tracing.trace.marker = none ∧ nextLane tracing.trace = some 0 := by decide +kernel

theorem witness_ChangeListStaging :
    State.reset.lst.stage = .empty ∧
    listCode { State.reset with lst := { State.reset.lst with stage := .checking, newCount := 1 } } (zeros 8) ≠ 0 ∧
    badLine ⟨[], [0]⟩ 0 8 = true := by decide +kernel

/-- A plat of two layers of two experts each, K = 2, two slots and 32 model columns. -/
def layer0 : LayerRec := ⟨0, 2, 0, 0, 0, 2, 0, 0, [0, 0, 0], 0, 1⟩
def layer1 : LayerRec := { layer0 with layer := 1, base := 2 }
def plat : Plat :=
  { format := 3, contract := 0x400, compiler := 0, requireStrict := false, chips := 128, slots := 2, dModel := 32, sfuTable := 0x400
    seed := 0, norm := false, stations := List.replicate 15 (4, 0), partition := [76, 8, 4, 2, 2, 2, 1, 1]
    counts := [256, 64, 64, 32, 8, 4], owners := [⟨1, 0xE, [16, 16, 8, 8, 2, 2]⟩], channels := [8, 8, 16, 12, 12, 4, 4], layers := [layer0, layer1], loops := []
    init := none, poolBytes := [], hash := zeros 48, cadDigest := sha384 (zeros 128), cadAddr := 0, cadLen := 128 }

/-- This chip is chip 0; experts 0 and 1 live on it, expert 2 on chip 5, expert 3 on both. -/
def world (s : State) : State :=
  certified { s with
    ldr := { s.ldr with active := some plat }
    cad := (List.range 4).map (fun e => (e, [[0x40000008, 0, 0, 0, 0, 0, 0, 0], [0x40000008, 0, 0, 0, 0, 0, 0, 0],
      [0x40050008, 0, 0, 0, 0, 0, 0, 0], [0x40050001, 0x40000001, 0, 0, 0, 0, 0, 0]].getD e []))
    pools := { s.pools with owners := plat.owners, pools := [256, 64, 64, 32, 8, 4].map (fun n => ⟨n, 0, [], 0, n, 64⟩) } }

theorem witness_QuarantineOrders :
    (∀ s ∈ [world (at_ .running), world running],
      (3#32).toNat < 2 ^ 20 ∧ ownLive s (3#32).toNat = true ∧ (∀ q ∈ s.quarPending, ¬ (q.expert = 3 ∧ q.chip = chipId s)) ∧ s.fenceSelf = false) ∧
    stepLive (world (at_ .running)) = false ∧ stepLive (world running) = true ∧ strictLive (put 0x8010 1 (world running)) = true ∧
    strictLive (put 0x8010 0 (world running)) = false ∧ ownLive (world (at_ .running)) 2 = false ∧
    leAt (leBytes 4 1 ++ leBytes 4 3 ++ leBytes 8 2 ++ zeros 16) 0 1 = 1 := by decide +kernel

theorem witness_BufferPoolCommands :
    (world running).pools.pools.length = 6 ∧ nextWaiter (world running) 0 = none ∧
    nextWaiter { world running with pools := { (world running).pools with waiters := [⟨5, 3, [3]⟩, ⟨5, 1, [1]⟩] } } 5 = some ⟨5, 1, [1]⟩ ∧
    freeCount (world running) 5 ≠ 0 ∧ pastPoison (world running) (0, 0) = false ∧ (world running).rlog.fault = false ∧
    (world running).cce.active = [] := by decide +kernel

theorem witness_NoticeRingRegisters :
    serialSub 16 3 (noteRdIx (put 0x32C 5 (put 0x328 6 State.reset))) ≤ 5 ∧ noteWr (put 0x32C 5 (put 0x328 6 State.reset)) = 5 ∧
    serialSub 16 5 0 < serialSub 16 6 0 ∧
    ((6#32).toNat = 0 ∨ (6 ≤ (6#32).toNat ∧ (6#32).toNat ≤ 15)) ∧ ((5#32).toNat ≠ 0 ∧ ((5#32).toNat < 6 ∨ 15 < (5#32).toNat)) := by
  decide +kernel

def up (s : State) : State := modPort 3 (fun q => { q with state := .up }) s

/-- A chip that has asked chip 5 for entry 2 of the cadastre. -/
def fetching : State := { world (at_ .running) with cadRefetch := [⟨2, 5, [6], 9, 0⟩], tb := 2 ^ 40 }

theorem witness_ManagementMessages :
    (5 ≠ chipId (world running) ∧ fenced (world running) 5 = false ∧ (world running).fenceSelf = false ∧ switchOpen (world running) = false) ∧
    waitsOn (up fetching) 5 = true ∧ (min 4 (linksUp (up fetching)).length) = 1 ∧ answersRoom (up fetching) 1 = true ∧
    (∃ p ∈ ({ fetching with probes := [⟨5, 0, 9, false⟩] }).probes, p.peer = 5 ∧ p.id = leAt (zeros 4 ++ leBytes 4 9 ++ zeros 8) 4 4) ∧
    (∀ p ∈ ({ fetching with probes := [⟨5, 0, 9, false⟩] }).probes, p.peer = 5 → p.tick + 5000 ≤ fetching.tb ∧ p.answered = false) ∧
    readAllowed 0x400000 16 = true ∧ readEntries 0x400000 16 = [0, 1] ∧ readAllowed 0xBFFFFC 2 = false ∧
    fetching.cadRefetch.find? (fun r => r.peer = 5 && r.id = leAt (zeros 4 ++ leBytes 4 9 ++ zeros 40) 4 4) = some ⟨2, 5, [6], 9, 0⟩ ∧
    (zeros 4 ++ leBytes 4 9 ++ zeros 40).length = 48 ∧
    (∃ r ∈ fetching.cadRefetch, r.tick + fetching.live 0x41030 31 0 ≤ fetching.tb) ∧
    stepLive ({ fetching with run := some run0 }) = true := by decide +kernel

theorem witness_Fencing :
    chipCount (world running) = 128 ∧ fenced (world running) 5 = false ∧ 5 < chipCount (world running) ∧ 5 ≠ chipId (world running) ∧
    chipId (world running) = 0 ∧ (world running).boot.calibrateWritten = false ∧ (world running).fep.waiting = [] ∧
    fenced { world running with fences := [5] } 5 = true ∧
    bcastSeen (world running) 0x0A 1 5 = false ∧ bcastSeen { world running with broadcasts := [⟨0x0A, 1, 5, [], false⟩] } 0x0A 1 5 = true ∧
    ({ world running with tb := 2 ^ 40, fep := { (world running).fep with noPortSince := some 0 } }).fep.noPortSince = some 0 ∧
    0 + rto (world running) ≤ 2 ^ 40 := by decide +kernel

/-- A chip that has been told to begin a datum. -/
def going : State := { world (at_ .running) with dat := { Dat.idle with go := true }, sfuCopying := false }

/-- The same with an armed plat, whose CADASTRE of 128 bytes of zeros it reads again. -/
def goingArmed : State :=
  { going with ldr := { going.ldr with stage := .armed, staged := some plat }, dat := { going.dat with checking := some plat.hash } }

theorem witness_DatumBegins :
    going.dat.go = true ∧ going.dat.phase = .idle ∧ going.run = none ∧ going.fenceSelf = false ∧ going.sfuCopying = false ∧
    going.quarUndelivered = 0 ∧ armedPlat going = none ∧ going.dat.began = false ∧
    ({ going with commits := { going.commits with values := [(0x10, 1)] } }).commits.values = [(0x10, 1)] ∧ 0x10 ∈ setRegs 0 ∧
    armedPlat goingArmed = some plat ∧ goingArmed.dat.checking = some plat.hash ∧
    sha384 (memBytes (withEnv noEnv goingArmed).mem 0 128) = plat.cadDigest ∧
    sha384 (memBytes (withEnv ⟨[(5, [1])], []⟩ goingArmed).mem 0 128) ≠ plat.cadDigest ∧ badLine ⟨[], [1]⟩ 0 128 = true ∧
    ((at_ .ready).field 0x214 23 0 * 2 ^ 32 + (7#32).toNat ≤ 2 ^ 56 - 2 ^ 48) := by decide +kernel

/-- A chip in the agreement round, and one in the actions of its datum. -/
def agreeing (s : State) : State := { s with dat := { s.dat with phase := .agreement } }
def duringActions : State := { world (at_ .running) with dat := { Dat.idle with phase := .actions, needPools := true, needReload := true } }

theorem witness_DatumAgrees :
    (agreementCode (agreementBytes going) = 0 ∧ agreementCode (List.replicate 64 255) ≠ 0 ∧ agreementCode (List.replicate 64 255) < 256) ∧
    armedPlat (agreeing going) = none ∧ maySwitch (agreeing going) = false ∧ (agreeing going).dat.needPools = false ∧
    armedPlat (agreeing goingArmed) = some plat ∧ duringActions.ldr.active = some plat ∧ allFree duringActions = true ∧ duringActions.run = none ∧
    sha384 (memBytes (withEnv noEnv duringActions).mem 0 128) = plat.cadDigest ∧
    (agreeing going).dat.contribTick + (agreeing going).live 0x14 31 0 ≤ ({ agreeing going with tb := 2 ^ 33 }).tb := by decide +kernel

/-- A change list of no record, read again; and a chip at its start round. -/
def switching : State :=
  { world (at_ .running) with
    lst := { State.reset.lst with stage := .armed, count := 1, digest := sha384 (zeros 8) }
    dat := { Dat.idle with phase := .startRound, needList := true, listImage := some (zeros 8) } }

/-- A chip at its start round, at a step that is no boundary of the resurvey. -/
def starting : State := { going with stepNum := 1, dat := { going.dat with phase := .startRound } }

theorem witness_StepStarts :
    starting.dat.phase = .startRound ∧ stepBoundary starting = false ∧ epochBoundary (2 ^ 50) starting = false ∧
    switching.dat.phase = .startRound ∧ stepBoundary switching = true ∧ switching.dat.listImage = some (zeros 8) ∧
    ({ going with dat := { going.dat with phase := .awaitT } }).dat.start ≤ going.tb ∧ going.ingestHeld = [] ∧ going.dat.late = false ∧
    switching.dat.needList = true ∧ sha384 (memBytes (withEnv noEnv switching).mem 0 8) = switching.lst.digest ∧
    sha384 (memBytes (withEnv ⟨[(0, [1])], []⟩ switching).mem 0 8) ≠ switching.lst.digest := by decide +kernel

theorem witness_StepAborts :
    stepLive (world running) = true ∧ run0.abortCode = 0 ∧ run0.start + (world running).live 0x14 31 0 ≤ 2 ^ 40 ∧
    abortOk ([2, 0x48, 0, 0, 0, 0, 0, 0] ++ leBytes 7 1 ++ zeros 17) = true ∧ leAt ([2, 0x48, 0, 0, 0, 0, 0, 0] ++ leBytes 7 1 ++ zeros 17) 8 7 = 1 ∧
    (world running).stepNum = 1 ∧ bcastSeen (world running) 0x06 1 2 = false ∧
    bcastSeen { world running with broadcasts := [⟨0x06, 1, 2, [], false⟩] } 0x06 1 2 = true ∧
    genSpan (world running) + 1 < 512 ∧
    512 ≤ genSpan { world running with orphans := [⟨0, 0, 500, 2, [], [(0, ⟨.out, 0, 0, 0, 5, []⟩)]⟩], gen := 1012 } + 1 ∧
    tallyWaits { Half.start 0 0 with tally := { (Half.start 0 0).tally with phase := .awaitClose } } = true := by decide +kernel

/-- A chip that may sign checkpoints. -/
def unlocked (s : State) : State := { s with fuses := { s.fuses with read := true } }
def logged : State :=
  { world (at_ .running) with
    rlog := { State.reset.rlog with chain := some (zeros 48) }, devKey := some ⟨1, g384.x, g384.y⟩ }

theorem witness_VerdictAndLog :
    run0.contributed = false ∧ (world running).fenceSelf = false ∧
    (world running).cce.active.any (fun c => c.step = (world running).stepNum) = false ∧
    lastEmitted { world running with halves := [Half.start 0 0] } = false ∧ ({ run0 with abortCode := 0x48 }).abortCode ≠ 0 ∧
    logged.rlog.chain = some (zeros 48) ∧ logged.rlog.fault = false ∧ logged.run = none ∧ debugOpen (unlocked logged) = true ∧
    debugOpen logged = false ∧ logged.rlog.waiting = none ∧ logged.rlog.signing = none ∧ noteLog2 logged = 0 ∧
    logged.boot.firstDatumDone = false ∧ (world running).run ≠ none := by decide +kernel

/-- The state a command leads to. -/
def after (i : Instr) (s : State) : State := match exec i s with
  | .next t => t
  | _ => s

/-- Step 1 of the plat above. -/
def stepped : State := { world running with boot := { (world running).boot with stepStarted := true } }

/-- A TOKEN tile of one row and 32 columns of zeros, the whole of a half. -/
def hd : TileHdr := ⟨1, 1, 5, 0, 0, 1, 32, 0, 0, 0, 0, 0, false, true, true, 0x400⟩
def tokenTile : Bytes := hd.bytes ++ zeros 64
def tokenNext : Bytes := ({ hd with step := 2 }).bytes ++ zeros 64
def tokenBad : Bytes := ({ hd with contract := 1 }).bytes ++ zeros 64
def tokened : State := after (.tokenTileArrive 0 tokenTile) stepped
def mapped : State := after (.bucketMapBuild 0 []) tokened
def anchored0 : State := after (.anchorPrepassDone ⟨0, 0, 0⟩ 0 0 noEnv) mapped
def scored0 : State := after (.scorePairDone ⟨0, 0, 0⟩ 0 0 noEnv) anchored0

/-- GATE has given the scores of a block gate values 0.5 and 0.25. -/
def gated : State := modBlock ⟨0, 0, 0⟩ (fun b => { b with
  gate := some (b.score.map (fun t => { t with elems := [[0x3F000000, 0x3E800000]] })), score := b.score.map (fun t => { t with buf := none }) }) scored0
def selected : State := after (.selectRowBlock ⟨0, 0, 0⟩) gated
def counted : State := after (.tallyCount ⟨0, 0, 0⟩) selected
def scanned : State := after (.tallyScanEnd 0 0) counted

/-- The first message of a kind that the chip has delivered to itself and that begins with a byte. -/
def mail (kind first : Nat) (s : State) : Bytes :=
  (s.out.findSome? (fun o => match o with
    | .delivered _ _ k _ p => if k = kind ∧ leAt p 0 1 = first then some p else none
    | _ => none)).getD []

/-- The first message of a kind that the chip has delivered to itself. -/
def mailKind (kind : Nat) (s : State) : Bytes :=
  (s.out.findSome? (fun o => match o with
    | .delivered _ _ k _ p => if k = kind then some p else none
    | _ => none)).getD []
def reported : State := after (.tallyReport 0 (mail 4 1 scanned)) scanned
def contributed : State := after (.tallyCloseContribute 0 0) reported
def closed : State := after (.tallyClose 0 0) contributed
def granted : State := after (.tallyGrant 0 (mail 4 2 closed)) closed
def sorting : State := after (.sortStart 0 0) granted
def sorted1 : State := after (.sortPhaseEnd 0 0) sorting
def sorted2 : State := after (.sortPhaseEnd 0 0) sorted1
def sorted : State := after (.sortPhaseEnd 0 0) sorted2

/-- The same half after its fates stand, as a state written out: its two entries are out in one group, whose buffer is 4. -/
def hdT : Tile := ⟨hd, [List.replicate 32 0], [[]], some (0, 0)⟩
def blk : Block := { newBlock 0 hd with token := [hdT], complete := true, counted := true, sel := some ⟨{ hd with kind := 4, fmt := 0 },
  [[⟨0x3F000000, 0, 0, 1, 0, 0, 0⟩, ⟨0x3E800000, 1, 0, 1, 0, 0, 0⟩]], some (0, 2)⟩ }
def half0 : Half :=
  { Half.start 0 0 with
    blocks := [blk], closed := true, fated := 1, sortTrip := 1, packTrip := 1
    tally := { Tally.start with phase := .finished, contributed := true, closed := true }
    loans := some ⟨0, 0, 0, 2, [(0, 1)], [(0, ⟨.out, 0, 4, 0, 0, []⟩), (1, ⟨.out, 0, 4, 1, 0, []⟩)]⟩ }
def late : State :=
  { stepped with
    halves := [half0]
    feeds := [⟨0, 0, 0, 0, some 1, 0, [], false, 0⟩, ⟨0, 0, 0, 1, some 1, 0, [], false, 0⟩]
    pools := { stepped.pools with
      pools := ⟨256, 5, [], 0, 251, 64⟩ :: stepped.pools.pools.drop 1
      bufs := [⟨0, 4, 64, 2⟩, ⟨0, 2, 64, 1⟩, ⟨0, 1, 0, 1⟩, ⟨0, 0, 64, 1⟩, ⟨0, 3, 64, 1⟩] } }

/-- The half with the first entry's group still in SEND's queue, and its notice and the group that PACK has written. -/
def group0 : Bytes :=
  [0, 1].flatMap (fun k => leBytes 8 (tagOf 0 0 0 0 0 k) ++ leBytes 8 (routeWord k 0 0 0 2 0 false 1)) ++ zeros 33
def sending : State := { late with halves := [{ half0 with
  sendQ := [⟨some (0, 4), group0, 0, 0, true, false⟩], loans := some ⟨0, 0, 0, 2, [(0, 1)], []⟩ }] }
def notice0 : Bytes := tallyPacket 3 0 0 0 0 1 true [noticeEntry 0 0 1, noticeEntry 1 0 1]

/-- The first expert's row has been handed to the cores at port 0, in buffer 3. -/
def handedOut : State :=
  { late with handed := [⟨0, 0, 0, 1, 0, [0]⟩], tports := ⟨[(true, some (0, 3))], []⟩ :: late.tports.drop 1
              feeds := [⟨0, 0, 0, 0, some 1, 1, [], true, 0⟩, ⟨0, 0, 0, 1, some 1, 1, [], true, 0⟩] }
def rowTile : Bytes := ({ hd with kind := 6, fmt := 6 }).bytes ++ zeros 64 ++ zeros 128

theorem mayAlloc_of {s : State} {size o : Nat} (key : List Nat) (hg : s.pools.granted = []) (hw : s.pools.waiters = [])
    (h : grantable s (poolFor size) o = true) : MayAlloc s size o key := by
  refine ⟨?_, ?_, h⟩ <;> simp [hg, hw]

theorem witness_TilesArrive :
    layerRec tokened 0 = some layer0 ∧ mapBuilding tokened = some 0 ∧ awaitingLayer tokened 0 = false ∧
    awaitingLayer { tokened with cadRefetch := [⟨1, 5, [], 0, 0⟩] } 0 = true ∧ firstEntry tokened layer0 = 0 ∧
    stallsPort stepped (hdrOf tokenTile) = false ∧ grantable stepped (poolFor 128) (stationOwner stepped 1) = true ∧
    stepped.pools.granted = [] ∧ stepped.pools.waiters = [] ∧
    headerLegal stepped 1 tokenBad = false ∧ headerLegal stepped 1 tokenTile = true ∧ (hdrOf tokenTile).step = stepped.stepNum ∧
    stepLive stepped = true ∧ stepLive { stepped with run := some { run0 with abortCode := 0x48 } } = false ∧
    deliveryOk stepped 0 (hdrOf tokenTile) = true ∧ ingestAt stepped = some (0, 0) ∧ halfAt stepped 0 0 = none ∧ stepBlocks stepped = [] ∧
    headerLegal stepped 1 tokenNext = true ∧ (hdrOf tokenNext).step = nextStep stepped ∧ (hdrOf tokenNext).step ≠ stepped.stepNum ∧
    stepped.ingestHeld = [] ∧ stallsPort { stepped with ingestHeld := List.replicate 4 ⟨0, [], (0, 0), false⟩ } (hdrOf tokenTile) = true := by
  decide +kernel

/-- The same step under a plat with NORM. -/
def normed : State :=
  { mapped with ldr := { mapped.ldr with active := some { plat with norm := true, layers := [{ layer0 with normForm := 1 }, layer1] } } }

theorem witness_norm :
    (blockAt normed ⟨0, 0, 0⟩).isSome = true ∧ (layerRec normed 0).isSome = true ∧ stepLive normed = true ∧ normPresent normed = true ∧
    earlierBlocks normed ⟨0, 0, 0⟩ (·.norm.isSome) = true ∧ blocksBefore normed ⟨0, 0, 0⟩ (·.norm.isSome) = true ∧
    (∀ b ∈ blockAt normed ⟨0, 0, 0⟩, b.complete = true ∧ b.norm = none ∧ b.rows = 1) ∧
    (∀ r ∈ layerRec normed 0, normParamsOk normed r = false ∧
      normParamsOk (withEnv ⟨[(normAddr normed r, leBytes 4 0x3F800000)], []⟩ normed) r = true) ∧
    (allocMany [128] (stationOwner normed 3) (blockKey 3 ⟨0, 0, 0⟩) normed).1 = some [(0, 1)] := by decide +kernel

theorem witness_NormAndScore :
    (blockAt mapped ⟨0, 0, 0⟩).isSome = true ∧ layerRec mapped 0 = some layer0 ∧
    (∀ b ∈ blockAt mapped ⟨0, 0, 0⟩, b.rows ≠ 0 ∧ (∀ ts ∈ b.input mapped, poisoned ts = false ∧ ts.length = 1 ∧
      needsPrepass layer0 (tilesFmt b.fmt ts) = true)) ∧
    nextPair mapped 0 ⟨0, 0, 0⟩ 0 (fun b c => scored b c || anchored b c) = true ∧ prepassesAhead mapped 0 ≤ 1 ∧
    prepassBad mapped layer0 5 0 noEnv = false ∧ prepassBad mapped layer0 5 0 ⟨[], List.range 4096⟩ = true ∧
    nextPair anchored0 0 ⟨0, 0, 0⟩ 0 scored = true ∧ (∀ b ∈ blockAt anchored0 ⟨0, 0, 0⟩, anchored b 0 = true) ∧
    (alloc 128 (stationOwner anchored0 4) (blockKey 4 ⟨0, 0, 0⟩ ++ [0]) anchored0).1 = some (0, 1) ∧
    hbmClean noEnv mapped 3 = true ∧ hbmClean ⟨[], [3]⟩ mapped 3 = false ∧ (refetchPeers mapped).any (fun x => peerClean ⟨[], [3]⟩ 3 x.1) = true ∧
    routerLine mapped 3 = true := by decide +kernel

theorem witness_onlyBlock : OnlyBlock anchored0 ⟨0, 0, 0⟩ (·.gate.isSome) ∧ OnlyBlock scored0 ⟨0, 0, 0⟩ (·.sel.isSome) ∧
    OnlyBlock gated ⟨0, 0, 0⟩ (·.counted) := by unfold OnlyBlock; decide +kernel

theorem witness_GateAndSelect :
    (∀ b ∈ blockAt scored0 ⟨0, 0, 0⟩, b.gate = none ∧ b.score.length = colBlocks layer0 b) ∧ (blockAt scored0 ⟨0, 0, 0⟩).isSome = true ∧
    earlierBlocks scored0 ⟨0, 0, 0⟩ (·.gate.isSome) = true ∧ blocksBefore scored0 ⟨0, 0, 0⟩ (·.gate.isSome) = true ∧ normFirst scored0 = false ∧
    (allocMany [128] (stationOwner scored0 5) (blockKey 5 ⟨0, 0, 0⟩) scored0).1 = some [(0, 2)] ∧
    (∀ b ∈ blockAt gated ⟨0, 0, 0⟩, b.sel = none ∧ b.gate.isSome = true) ∧ (blockAt gated ⟨0, 0, 0⟩).isSome = true ∧
    earlierBlocks gated ⟨0, 0, 0⟩ (·.sel.isSome) = true ∧ blocksBefore gated ⟨0, 0, 0⟩ (·.sel.isSome) = true ∧
    (alloc 128 (stationOwner gated 6) (blockKey 6 ⟨0, 0, 0⟩) gated).1 = some (0, 2) := by decide +kernel

theorem witness_TallyAtTheOrigin :
    (∀ b ∈ blockAt selected ⟨0, 0, 0⟩, b.sel.isSome = true ∧ b.counted = false) ∧ (blockAt selected ⟨0, 0, 0⟩).isSome = true ∧
    (∀ h ∈ halfAt selected 0 0, h.tally.phase = .idle) ∧ earlier selected 0 0 tallyDone = true ∧
    (∀ h ∈ halfAt counted 0 0, h.tally.phase = .scanning) ∧ awaitingLayer counted 0 = false ∧
    (∀ h ∈ halfAt reported 0 0, h.tally.phase = .awaitClose ∧ h.tally.contributed = false ∧ h.tally.undelivered = 0) ∧
    memberFenced reported = false ∧ memberFenced { reported with fences := [5] } = true ∧
    (∀ h ∈ halfAt contributed 0 0, h.tally.contributed = true ∧ h.tally.closed = false ∧ h.packTrip ≤ h.fated ∧ h.fated ≤ h.tally.trip ∧
      grantsIn h.tally = false) ∧
    packetShape closed 2 (mail 4 2 closed) = true ∧ grantLegal closed 0 (mail 4 2 closed) = true ∧
    grantLegal closed 5 (mail 4 2 closed) = false ∧ packetShape closed 2 (zeros 64) = false ∧
    (∀ h ∈ halfAt closed 0 0, h.tally.closed = true ∧ h.fated ≤ h.tally.trip ∧
      grantsIn { h.tally with grants := addPacket 0 (mail 4 2 closed) h.tally.grants } = true) ∧
    loopOf closed 0 = none ∧ loopOf { closed with ldr := { closed.ldr with active := some { plat with loops := [⟨6, 0xD, 1, 3, 0⟩] } } } 0 =
      some ⟨6, 0xD, 1, 3, 0⟩ := by decide +kernel

theorem witness_ReportsAtTheHome :
    tpLayer (mail 4 1 scanned) = 0 ∧ awaitingLayer scanned 0 = false ∧ reportLegal scanned (mail 4 1 scanned) = true ∧
    tallyNear scanned 0 0 0 = true ∧ reportLegal scanned (zeros 64) = false ∧
    landingUsed scanned + (packetEntries (mail 4 1 scanned)).length ≤ landingSize scanned ∧ landingSize scanned < 2 ^ 40 := by decide +kernel

theorem witness_SortAndPack :
    (∀ h ∈ halfAt granted 0 0, h.sort = .idle ∧ h.sortTrip < h.fated) ∧ (∃ m ∈ granted.bucketMaps, m.1 = 0) ∧
    earlier granted 0 0 (sortDone granted) = true ∧ (∀ h ∈ halfAt sorting 0 0, h.sort = .passOne) ∧ (∀ h ∈ halfAt sorted1 0 0, h.sort = .prefix_) ∧
    (allocMany [16] (stationOwner sorted1 8) [7, 0, 0, 0] sorted1).1 = some [(0, 3)] ∧ (∀ h ∈ halfAt sorted2 0 0, h.sort = .passTwo) ∧
    (∀ h ∈ halfAt sorted 0 0, h.packTrip < h.sortTrip ∧ (h.packSegs.flatMap (·.words)).length = 2) ∧
    earlier sorted 0 0 (packDone sorted) = true ∧ sendRoom sorted = true ∧ grantable sorted 0 (stationOwner sorted 9) = true := by decide +kernel

theorem witness_send :
    (halfAt sending 0 0).isSome = true ∧ earlier sending 0 0 (sendDone sending) = true ∧ routeBroken sending 0 = false ∧
    mayLend sending 2 = true ∧ (imageMembers (dModel sending) group0).map (fun m => tagKrank m.1) = [0, 1] := by decide +kernel

/-- A group of one member of layer 1, expert 3, sent by chip 5; the same for a chip of this rack from the other one; and a row of
the token that chip 0 itself sent. -/
def group5 : Bytes := leBytes 8 (tagOf 5 0 1 0 0 0) ++ leBytes 8 (routeWord 3 0 1 0 1 0 false 1) ++ zeros 33
def groupHop : Bytes := leBytes 8 (tagOf 70 0 1 0 0 0) ++ leBytes 8 (routeWord 3 9 1 0 1 0 false 1) ++ zeros 33

theorem witness_GroupsAndRows :
    groupAwaits late group5 = false ∧ rwDest (leAt group5 8 8) = chipId late ∧ groupOk late group5 = true ∧
    groupOk late (zeros 49) = false ∧ isAgain late group5 = false ∧
    (∀ m ∈ imageMembers (dModel late) group5, (tagLayer m.1, tagHalf m.1, rwTrip m.2) ≠ (0, 0, 0) ∧
      quarantinedHere late (rwExpert m.2) = false ∧ acting late (rwExpert m.2) = false) ∧
    rwDest (leAt groupHop 8 8) ≠ chipId late ∧ mayForward late 70 (rwDest (leAt groupHop 8 8)) (rwHop (leAt groupHop 8 8)) = true ∧
    mayForward late 5 (rwDest (leAt groupHop 8 8)) (rwHop (leAt groupHop 8 8)) = false ∧ fenced late 9 = false ∧
    grantable late 0 (recvOwner late 3) = true ∧
    noticeLegal sending notice0 = true ∧ noticeNear sending 0 0 0 = true ∧ noticeLegal sending (zeros 64) = false ∧
    (packetEntries notice0).all (fun w => (feedAt late 0 0 0 (teExpert w)).all (fun f => f.received ≤ bits w.toNat 40 24)) = true ∧ (packetEntries notice0).length = 2 ∧
    (tportAt handedOut 0).held = [(true, some (0, 3))] ∧ (tportAt handedOut 0).queue = [] ∧ handedOut.tports.length = 16 ∧
    refsOf handedOut 0 3 ≠ 0 ∧ feedPos handedOut = some (0, 1, 0) ∧ handedOut.recv = [] ∧ (fedExperts handedOut 0).all (fun e => (feedAt handedOut 0 1 0 e).isNone) = true ∧
    headerLegal handedOut 6 rowTile = true ∧ (hdrOf rowTile).step = handedOut.stepNum ∧
    handedOut.collectHeld.length < depthOf handedOut 0xC ∧ collectReached handedOut 0 0 = true ∧
    collectOk handedOut 0 (hdrOf rowTile) = true ∧ handedOut.collects = [] ∧ rowsDue handedOut 0 0 0 = 1 ∧
    (tileTags rowTile).all (tagRoutes handedOut) = true ∧ tileTags rowTile = [0] ∧ tagOrigin 0 = chipId handedOut := by
  decide +kernel

theorem witness_feedStill : FeedStill late (0, 0, 0) := by
  refine ⟨by decide +kernel, by decide +kernel, ?_⟩
  have h : ∀ e ∈ fedExperts late 0, ∀ f ∈ feedAt late 0 0 0 e, f.closed = true ∨ (f.notice ≠ some f.received ∧ f.rows.length < 256) := by
    decide +kernel
  exact fun e he f hf => h e he f hf

/-- A record of the token's first entry, from the registrar of chip 5. -/
def record_ (kind : Nat) (tag : Nat) : Bytes :=
  leBytes 8 tag ++ leBytes 8 (returnWord kind 0 5 0 2 false (if kind = 1 then 1 else 0)) ++ (if kind = 1 then zeros 128 else [])

/-- Row 0 has come back, and row 0 with its result. -/
def combining : State := { late with halves := [{ half0 with
  loans := some ⟨0, 0, 0, 2, [(0, 1)], [(0, ⟨.back, 0, 4, 0, 0, []⟩), (1, ⟨.lost, 0, 3, 1, 0, []⟩)]⟩
  outputs := [⟨0, 0, 0, 4, 2, List.replicate 32 0, []⟩] }] }
def emitting : State := { late with halves := [{ half0 with
  loans := some ⟨0, 0, 0, 2, [(0, 1)], []⟩, blocks := [{ blk with combined := [(0, List.replicate 32 0)] }] }] }

theorem witness_RecordsAndResults :
    tagOrigin (leAt (record_ 1 0) 0 8) = chipId late ∧ returnAwaits late (record_ 1 0) = false ∧ recordValid late (record_ 1 0) = true ∧
    recordValid late (record_ 2 0) = true ∧ recordValid late (record_ 3 0) = true ∧ recordValid late (zeros 16) = false ∧
    retKind (leAt (record_ 2 0) 8 8) = 2 ∧ retPoison (leAt (record_ 1 0) 8 8) = false ∧
    (matchOf late 0).isSome = true ∧ (∀ v ∈ matchOf late 0, ∀ e ∈ tagEntry late 0, e.expert = retExpert (leAt (record_ 1 0) 8 8) ∧
      refsOf late v.pool v.ptr ≠ 0 ∧ (v.pool, v.ptr) ≠ (0, 5) ∧ nextReplica late v.expert 5 (v.refused ++ [5]) = none) ∧
    (tagEntry late 0).isSome = true ∧ grantable late 0 (stationOwner late 0xE) = true ∧ late.pools.granted = [] ∧ late.pools.waiters = [] ∧
    matchOf late (tagOf 0 0 1 0 0 0) = none ∧ tagAge late (tagOf 0 0 1 0 0 0) = 0 ∧ orphanOf late (tagOf 0 0 1 0 0 0) = none ∧
    0 < tagAge { late with gen := 1 } (tagOf 0 0 0 0 0 0) ∧ mayForward late 70 9 false = true ∧ mayForward late 5 9 false = false ∧
    (nextReplica late 3 0 [0]).map (·.1) = some 0 := by decide +kernel

theorem witness_combineAndEmit :
    (∀ x ∈ halfAt combining 0 0, x.loans ≠ none ∧ fatesStand combining x = true ∧ combinedRows x = 0 ∧ (blockOfSlot x 0).isSome = true) ∧
    (halfAt combining 0 0).isSome = true ∧ earlier combining 0 0 (combineDone combining) = true ∧ (blockAt combining ⟨0, 0, 0⟩).isSome = true ∧
    (∀ b ∈ blockAt combining ⟨0, 0, 0⟩, ∀ t ∈ b.sel, t.poison = false ∧ poisoned b.token = false ∧
      (ranked (t.rows.getD 0 [])).all (fun p => entrySettled combining 0 0 0 p.1 p.2) = true) ∧ refsOf combining 0 4 ≠ 0 ∧
    (∀ x ∈ halfAt emitting 0 0, fatesStand emitting x = true ∧ (emitBlock x).isSome = true) ∧ earlier emitting 0 0 emitDone = true ∧
    (∀ b ∈ blockAt emitting ⟨0, 0, 0⟩, b.combined.length = b.rows ∧ b.results + 1 = (resultCols emitting b).length) ∧
    (tportAt emitting 0).queue = [] ∧ portFree emitting 0 = true ∧ (alloc 128 (stationOwner emitting 0xF) [0xF, 0, 0, 0, 0] emitting).1 = some (0, 5) := by
  decide +kernel

/-- A chip that may train its ports, with one of them in a given state. -/
def linking : State :=
  rooted { at_ .links with tb := 20000000, sec := { State.reset.sec with drbgOn := true } }
def port0 (q : Port) : State := modPort 0 (fun _ => q) linking
def upPort : Port := { Port.reset with state := .up, tx := some ⟨zeros 32, zeros 8, 0⟩, rx := some ⟨zeros 32, zeros 8, 0⟩ }
def trainPort : Port := { Port.reset with state := .train, trained := true }

theorem witness_PortStates :
    linking.ports.length = 24 ∧
    (portAt (port0 { Port.reset with state := .failed }) 0).state = .failed ∧
    ((portAt (port0 upPort) 0).state = .up ∧ (portAt (port0 upPort) (leadOf (port0 upPort) 0)).state ≠ .loopback) ∧
    ((portAt linking 23).state = .down ∧ portDisabled linking 23 = false ∧ linking.boot.stage ≠ .held ∧ linking.sec.drbgOn = true ∧
      mayTrain { linking with fuses := { linking.fuses with ownerRoot := zeros 48 } } 23 = false) ∧
    (portAt (port0 { Port.reset with state := .loopback }) 0).state = .loopback ∧
    ((portAt (port0 { Port.reset with state := .retrain }) 0).state = .retrain ∧
      (placesOf (port0 { Port.reset with state := .retrain }) 0) = [0]) ∧
    ((List.range 24).find? (fun p => leadOf (port0 trainPort) p = p && linkTrained (port0 trainPort) p .train) = some 0 ∧
      ((List.range 24).filter (fun p => (portAt (port0 trainPort) p).state == .keying)).length < 4) ∧
    ((portAt (port0 trainPort) 0).since + 10000000 ≤ (port0 trainPort).tb) ∧
    ((portAt (port0 { Port.reset with state := .keying }) 0).keyed + 1000000 ≤ (port0 { Port.reset with state := .keying }).tb) := by
  decide +kernel

/-- A chip whose port may leave DOWN once its owner root is there. -/
theorem witness_PortStates_train : (portAt linking 0).state = .down ∧ mayTrain linking 0 = true := by decide +kernel

/-! ### Keying -/

/-- The certificate of a switch, of kind 2. -/
def switchBody : Bytes :=
  leBytes 4 0x54524344 ++ leBytes 2 1 ++ [2, 0] ++ leBytes 8 7 ++ key1 ++ zeros 7 ++ key1 ++ zeros 7
def helloGood : Bytes := 1 :: (switchBody ++ sign1 switchBody ++ key1 ++ zeros 32)
def helloRekey : Bytes := 1 :: (key1 ++ zeros 32)
def keying0 : Keying := ⟨1, zeros 450, none, false, false, false, false, true⟩
def keying1 : Keying := { keying0 with peer := some helloGood, ownDone := true }
def keyingPort (k : Keying) : Port := { Port.reset with state := .keying, keying := some k, peerKey := some (g384.x, g384.y) }
def finishGood (q : Port) (k : Keying) : Bytes :=
  2 :: (beBytes 48 (g384.x % n384) ++ beBytes 48 ((beNat (finishDigest (handshakeHash q k)) + g384.x) % n384))

theorem witness_hello :
    let s := port0 (keyingPort keying0)
    leadOf s 0 = 0 ∧ inKeying (portAt s 0) = true ∧ (portAt s 0).keying = some keying0 ∧ keying0.peer = none ∧
    helloGood.length = 450 ∧ leAt helloGood 0 1 = 1 ∧ (pointOfBytes (helloPub false helloGood)).isSome = true ∧
    switchReason s (bytesAt helloGood 1 320) = 0 ∧ switchReason s (zeros 320) ≠ 0 ∧ (zeros 1).length ≠ 450 := by
  decide +kernel

theorem witness_rekeyHello :
    helloRekey.length = 130 ∧ leAt helloRekey 0 1 = 1 ∧ (pointOfBytes (helloPub true helloRekey)).isSome = true ∧
    (portAt (port0 upPort) 0).keying = none ∧ (port0 upPort).sec.drbgOn = true := by
  decide +kernel

theorem witness_finish :
    let q := keyingPort keying1
    let m := finishGood q keying1
    (q.keying = some keying1 ∧ keying1.peer.isSome = true ∧ keying1.peerDone = false ∧ q.peerKey = some (g384.x, g384.y)) ∧
    (m.length = 97 ∧ leAt m 0 1 = 2 ∧ ecdsaVerify (g384.x, g384.y) (finishDigest (handshakeHash q keying1)) (m.drop 1) = true) ∧
    keying1.ownDone = true ∧ q.rekeyOut = [] ∧ q.kept = [] ∧ keying1.rekey = false ∧
    pointOfBytes (helloPub false (keying1.peer.getD [])) = some (g384.x, g384.y) := by
  decide +kernel

theorem witness_rekey :
    let q : Port := { upPort with tx := some ⟨zeros 32, zeros 8, 2 ^ 32⟩ }
    q.state = .up ∧ q.keying = none ∧ 2 ^ 31 ≤ txCounter q ∧ 2 ^ 32 - 2 ^ 20 ≤ txCounter q ∧ 2 ^ 32 ≤ txCounter q := by
  decide +kernel

/-! ### Frames -/

def keptFrame : KeptFrame := ⟨0, 1, 0xA, true, true, zeros 48⟩
def dataFrame : Bytes := sealFrame ⟨zeros 32, zeros 8, 0⟩ (nextHeader upPort keptFrame).bytes (zeros 232)

theorem witness_FramesOnALink :
    let s := port0 upPort
    let q := portAt s 0
    let k : LinkKey := ⟨zeros 32, zeros 8, 0⟩
    (leadOf s 0 = 0 ∧ dealt s 0 = true ∧ q.state = .up ∧ q.tx = some k ∧ k.counter < 2 ^ 32 ∧
      s.fep.waiting = [] ∧ s.fep.tx = [] ∧ replayNext q = none ∧ q.rekeyOut = [] ∧ q.packets = [] ∧ q.sending = []) ∧
    replayNext { q with kept := [keptFrame], replay := [0] } = some keptFrame ∧
    (holdsCredit { q with shares := List.replicate 9 16 } 0xA = true ∧ q.idleOnly = false) ∧
    (inKeying (keyingPort keying0) = true ∧ (keyingPort keying0).rekeyOut = [] ∧ (keyingPort keying0).tx = none ∧
      dealt (port0 (keyingPort keying0)) 0 = true) ∧
    (let s := modPort 1 (fun _ => { upPort with bonded := 1 }) (port0 { upPort with bonded := 1 }); leadOf s 1 = 0 ∧ dealt s 1 = false) := by
  decide +kernel

theorem witness_frame :
    let k : LinkKey := ⟨zeros 32, zeros 8, 0⟩
    let h := headerOf (dataFrame.take 8)
    dataFrame.length = 256 ∧ h.kph = upPort.rxKph ∧ openFrame k dataFrame = some (zeros 232) ∧ headerOk (dataFrame.take 8) = true ∧
    h.ftype = 1 ∧ h.fseq = upPort.rxSeq ∧ h.nak = false ∧ h.sop = true ∧ h.eop = true ∧
    openFrame k (dataFrame.take 255 ++ [(dataFrame.getD 255 0) + 1]) = none := by
  decide +kernel

/-! ### Packets and flows -/

/-- A chip with port 0 UP and a flow to chip 5. -/
def flowing : State :=
  let s := stepped
  modPort 0 (fun _ => upPort) { s with tb := 20000, fep := { s.fep with dynFree := 512, throttle := 1
                                                                        tx := [⟨5, 0xA, 2, [⟨1, zeros 48, some 0, none, some 0, 1, 0⟩], [], 0, 0, 0, 0, 0, none⟩,
                                                                               ⟨5, 0, 0, [], [], 0, 0, 4, 0, 0, none⟩]
                                                                        rx := [⟨7, 0xA, 3, 3, [(4, zeros 16)], 0, 1, some 0⟩] } }
def packet0 (psn : Nat) : Bytes := packetBytes 7 0 0xA 5 psn 2 0 0 1 (zeros 16)
def packetHeld : Bytes := packetBytes 7 0 0xA 5 4 2 0 0 1 (zeros 16)
def moving : State := modTx 5 0xA (fun f => { f with port := some 3 }) flowing

theorem witness_PacketsAndFlows :
    packetOk flowing (zeros 32) = false ∧
    (packetOk flowing (packet0 0 ++ []) = true ∧ leAt (packet0 0) 0x18 4 = crc32c ((packet0 0).drop 32)) ∧
    (packetOk flowing ((packet0 0).take 47 ++ [1]) = true ∧
      leAt ((packet0 0).take 47 ++ [1]) 0x18 4 ≠ crc32c (((packet0 0).take 47 ++ [1]).drop 32)) ∧
    (let f := rxFlow stepped 7 0xA; pktPsn (packet0 0) = f.next ∧ f.base = f.next ∧ f.held = [] ∧ pktLast (packet0 0) = true ∧
      f.due + 1 < 16 ∧ pktSrc (packet0 0) = 7 ∧ pktLc (packet0 0) = 0xA ∧ packetOk stepped (packet0 0) = true) ∧
    (∃ x ∈ (rxFlow flowing (pktSrc packetHeld) (pktLc packetHeld)).held, x.1 = pktPsn packetHeld) ∧
    ((txFlow flowing 5 (bits (leAt (controlEntry 1 0xA (2 * 2 ^ 96)) 0 16) 123 120)).isSome = true) ∧
    ((rxFlow flowing 7 0xA).dueTick = some 0 ∧ 0 + 160 ≤ flowing.tb ∧ 7 ≠ chipId flowing ∧ fenced flowing 7 = false ∧ flowing.fenceSelf = false) ∧
    (∃ f, txFlow flowing 5 0xA = some f ∧ ∃ p, f.packets.find? (fun p => p.psn = 1) = some p ∧ expired flowing p = true ∧ p.sends < 4) ∧
    (∃ f, txFlow (modTx 5 0xA (fun f => { f with packets := f.packets.map (fun p => { p with sends := 4 }) }) flowing) 5 0xA = some f ∧
      ∃ p, f.packets.find? (fun p => p.psn = 1) = some p ∧ 4 ≤ p.sends ∧ f.ties = [] ∧ stepLive flowing = true) := by
  refine ⟨by decide +kernel, by decide +kernel, by decide +kernel, by decide +kernel, by decide +kernel, by decide +kernel,
    by decide +kernel, ⟨_, rfl, _, rfl, by decide +kernel⟩, ⟨_, rfl, _, rfl, by decide +kernel⟩⟩

theorem witness_flowMoves :
    (∃ f, txFlow moving 5 0xA = some f ∧ f.port = some 3 ∧ (portAt moving 3).state ≠ .up ∧ sprayed 0xA = false ∧
      (∀ p ∈ f.packets, p.tick = none ∨ expired moving p = true) ∧ nextUp moving ((3 + 1) % 24) = some 0) ∧
    (let e := controlEntry 3 0 (4 * 2 ^ 104);
      flowing.fep.wanted = [] ∧ 0 < bits (leAt e 0 16) 119 104 ∧ bits (leAt e 0 16) 119 104 ≤ 512 - givenTo flowing 5 ∧
      bits (leAt e 0 16) 119 104 ≤ flowing.fep.dynFree ∧ (txFlow flowing 5 (bits (leAt e 0 16) 123 120)).isSome = true) ∧
    bits (leAt (controlEntry 2 0 0) 0 16) 119 104 = 0 ∧
    (∃ f, txFlow flowing 5 0 = some f ∧ f.granted ≠ 0 ∧ f.lastTick + 10000 ≤ flowing.tb ∧ f.packets = []) ∧
    (0 < flowing.fep.throttle ∧ throttleD flowing < (thresholds flowing).getD (flowing.fep.throttle - 1) 0) := by
  refine ⟨⟨_, rfl, by decide +kernel⟩, by decide +kernel, by decide +kernel, ⟨_, rfl, by decide +kernel⟩, by decide +kernel⟩

/-! ### Express rounds -/

def roundKey : RoundKey := ⟨1, 2, 3, 1⟩
def round0 : Round := ⟨roundKey, 0x18, [0, 1], some [5], [], [], false, [], [], none, false⟩
def withRound (r : Round) : State := { stepped with rounds := [r] }
def xp (type sender : Nat) (payload : Bytes) : Bytes := expressBytes type 0x18 1 2 sender 3 1 payload

theorem witness_ExpressRounds :
    let m := xp 0x20 1 (zeros 8)
    (xpPayload m ≠ [] ∧ roundAt (withRound round0) (xpKey m) = some round0) ∧
    (round0.result = none ∧ isCollector (withRound round0) round0 = true ∧ round0.partialOf (rackOf (chipId stepped)) = none ∧
      ∀ c ∈ ((({ round0 with contribs := [(0, zeros 8)] }).left stepped).filter (fun c => rackOf c = rackOf (chipId stepped))),
        ∃ x ∈ [(0, zeros 8), (1, xpPayload m)], x.1 = c) ∧
    ((1 : Nat) ≠ chipId stepped ∧ fenced stepped 1 = false ∧ stepped.fenceSelf = false ∧ xpPayload (xp 0x20 1 []) = []) ∧
    (xpSender (xp 0x21 64 []) = 64 ∧ answersAsk (withRound round0) (xpKey m) 64 64 = false) ∧
    (let r := { round0 with asked := [(64, 5)] };
      roundAt (withRound r) (xpKey m) = some r ∧ (xpSender (xp 0x21 64 [1]), 5) ∈ r.asked ∧ r.partialOf (rackOf 64) = none) := by
  decide +kernel

/-! ### Collectives -/

def descBytes (op mode fmt group count src dst : Nat) : Bytes :=
  let h := leBytes 1 op ++ leBytes 1 mode ++ leBytes 1 fmt ++ zeros 1 ++ leBytes 2 group ++ leBytes 2 7 ++ leBytes 4 count ++ zeros 4 ++
    leBytes 8 src ++ leBytes 8 dst ++ zeros 24
  h ++ zeros 4 ++ leBytes 4 (crc32c h)
def descEnv (b : Bytes) : MemEnv := ⟨[(0, b)], []⟩

/-- A ring of 16 descriptors at address 0, of which the first has been appended. -/
def ringed (s : State) : State := put 0xA0018 4 { s with cce := { s.cce with tail := 1 } }

/-- The members are chips 0 and 1 of a node. -/
def pairGroup : Bytes := [1, 0, 0, 0, 0x10, 0, 0, 0]
def grouped (s : State) : State := { s with cce := { s.cce with groups := [⟨0, pairGroup⟩] } }
def opBytes (p : Nat) : Bytes := descBytes p 0 0 0 0 0 0

theorem witness_CollectiveGroups :
    let b := descBytes 0x10 0 0 0 0 (leNat pairGroup) 0
    let e := withEnv (descEnv b) (ringed stepped)
    (RingFits e ∧ nextDesc e 0x10 = some b ∧ descOk e b = true ∧ groupOkRec e (bytesAt b 0x10 8) = true ∧ groupAt e 0 = none) ∧
    (let b := descBytes 0x11 0 0 0 0 0 0;
      let e := withEnv (descEnv b) (ringed (grouped stepped))
      nextDesc e 0x11 = some b ∧ descOk e b = true ∧ groupAt e (bits (leAt b 4 2) 11 0) ≠ none ∧ e.cce.active = [] ∧
      serialSub 16 e.cce.tail e.cce.next = 1) ∧
    (groupAt (withEnv (descEnv (descBytes 0x11 0 0 0 0 0 0)) (ringed stepped)) 0 = none) := by
  unfold RingFits
  decide +kernel

theorem witness_doorbell :
    let s := ringed stepped
    (65536 ≤ (0x10000#32).toNat) ∧ ((40#32).toNat < 65536 ∧ 2 ^ ringLog2 s < serialSub 16 (40#32).toNat s.cce.head) ∧
    ((1#32).toNat < 65536 ∧ serialSub 16 (1#32).toNat s.cce.head ≤ 2 ^ ringLog2 s ∧ s.cce.next ≠ (1#32).toNat) ∧
    opLegal (leNat (memBytes (withEnv (descEnv (opBytes 7)) s).mem (descAddr s s.cce.next) 1)) := by
  unfold opLegal
  decide +kernel

/-- A legal REDUCE_SCATTER in FMT 6, ORDERED, WIRE 6, of 20 elements. -/
def orderedDesc : Bytes :=
  let h := [2, 1, 6, 6] ++ leBytes 2 0 ++ leBytes 2 7 ++ leBytes 4 20 ++ zeros 4 ++ leBytes 8 0x1000 ++ leBytes 8 0x2000 ++ zeros 24
  h ++ zeros 4 ++ leBytes 4 (crc32c h)

/-- Two members' collective, once the engine has started it. -/
def coll0 : Coll :=
  { index := 0, desc := descOf orderedDesc, group := pairGroup, members := [0, 1], rank := 0, start := 0, step := 1, phase := .data
    digestMax := none, digestMin := none, msg := 0, gathered := [], exact := [], sendCounts := [], recvCounts := [], recvAt := [0, 0]
    data := List.replicate 20 0, have_ := [(0, 20)], outQ := [⟨1, 1, 1, zeros 32, false, none, true, false⟩], credits := []
    bufs := [], inbox := [], failed := [], done := [], reported := false, abortCode := 0, sentAbort := false, contributed := false }
def withColl (c : Coll) : State := let s := ringed (grouped stepped); { s with cce := { s.cce with active := [c] }, tb := 2 ^ 32 }
def streaming : Coll :=
  { coll0 with desc := { coll0.desc with stream := true, stride := 32, count := 64 }, data := List.replicate 64 0, have_ := [], outQ := [] }

/-- A COLL tile of the first row of the stream. -/
def collHd : TileHdr := { hd with kind := 9, fmt := 6, cols := 32, lastCol := false, lastBlock := false }
def collBytes (h : TileHdr) : Bytes := h.bytes ++ zeros 128

theorem witness_CollectiveStarts :
    let s := ringed (grouped stepped)
    (∀ p ∈ [1, 2, 3, 4, 5, 6, 7], nextDesc (withEnv (descEnv (opBytes p)) s) p = some (opBytes p)) ∧
    (let e := withEnv (descEnv (opBytes 7)) s;
      RingFits e ∧ collCode e (opBytes 7) = 0 ∧ s.cce.active = [] ∧ groupAt e 0 = some ⟨0, pairGroup⟩ ∧
      reserveSizes (newColl e 0 (descOf (opBytes 7)) pairGroup) 0 = [] ∧ stepLive s = true) ∧
    (let e := withEnv (descEnv orderedDesc) s;
      collCode e orderedDesc = 0 ∧ badLine ⟨[(0, orderedDesc)], [64]⟩ 0x1000 80 = true ∧
      (∃ c ∈ (withColl coll0).cce.active, c.desc.group = (descOf orderedDesc).group)) ∧
    collCode (withEnv (descEnv (opBytes 7)) (ringed stepped)) (opBytes 7) ≠ 0 ∧
    (collAt (withColl coll0) 0).isSome = true := by
  unfold RingFits
  refine ⟨by decide +kernel, by decide +kernel, ⟨by decide +kernel, by decide +kernel, _, .head _, rfl⟩, by decide +kernel, by decide +kernel⟩

theorem witness_collTile :
    let s := withColl streaming
    let h := hdrOf (collBytes collHd)
    (headerLegal s 9 (collBytes collHd) = true ∧ h.step = s.stepNum ∧ tileFits streaming h = true ∧ streaming.abortCode = 0 ∧
      streaming.inbox = [] ∧ streaming.data.length = streaming.desc.count ∧ stepLive s = true) ∧
    s.cce.active.find? (fun c => c.desc.stream && c.desc.port = 0) = some streaming ∧ collAt s streaming.index = some streaming ∧
    tileFits streaming { h with fmt := 5 } = false ∧
    (∀ c ∈ (withColl coll0).cce.active, ¬ (c.desc.stream = true ∧ c.desc.port = 0)) := by
  decide +kernel

theorem witness_collTile_alloc :
    MayAlloc (withColl streaming) (hdrImage (hdrOf (collBytes collHd)) false) (collOwner (withColl streaming) 0) [0x10, 65536, 0, 0, 0] :=
  mayAlloc_of _ rfl rfl (by decide +kernel)

theorem witness_CollectiveEnds :
    let s := withColl coll0
    let m := expressBytes 0x23 0 0 7 1 0 1 [0x41]
    (collOf s (leAt m 2 2) (leAt m 4 2) (leAt m 0xA 6) = some coll0 ∧ coll0.abortCode = 0) ∧
    collOf s 5 7 1 = none ∧
    coll0.start + descTimeout s coll0.desc ≤ s.tb ∧ stepped.tb < coll0.start + descTimeout stepped coll0.desc ∧
    (let c := { coll0 with contributed := true }; collAt (withColl c) c.index = some c ∧ c.reported = false ∧
      (0x1FF : Nat) / 256 ≠ 2 ∧ (0x2BE : Nat) / 256 = 2 ∧ 0xFF - (0x2BE : Nat) % 256 ≠ 0) := by
  decide +kernel

/-! ### Messages of the collective engine -/

def collRound (c : Coll) (seq : Nat) : State :=
  { withColl c with rounds := [⟨⟨0, 7, seq, 1⟩, 0x18, [0, 1], some [5], [], [], false, [], [], none, false⟩] }
def chain (type ix : Nat) : Bytes := chainImage { coll0 with rank := 1 } type 0 ix (zeros 40)

theorem witness_CollectiveMessages :
    let m := expressBytes 0x22 0x18 0 7 1 2 1 (zeros 8)
    (∃ r, roundAt (collRound coll0 2) (xpKey m) = some r ∧ r.taken = false ∧ r.own ≠ none ∧ (xpKey m).group ≠ 0xFFFF ∧
      collOf (collRound coll0 2) 0 7 1 = some coll0 ∧ coll0.phase = .data ∧ (xpKey m).seq = msgSeq coll0.msg ∧ isSmall coll0 = false) ∧
    (let c := { coll0 with phase := .handshake, digestMin := some (zeros 8) };
      collOf (collRound c 0) 0 7 1 = some c ∧ c.digestMax = none) ∧
    (let c := { coll0 with desc := { coll0.desc with op := 3, mode := 0, count := 8 } };
      isSmall c = true ∧ c.msg + 1 < smallCount c) ∧
    (let s := withColl coll0;
      chainColl s (chain 1 0) = some coll0 ∧ chType (chain 1 0) = 1 ∧ mustHold coll0 (chain 1 0) = false ∧
      (chPayload (chain 1 0)).length = leAt (chain 1 0) 0x10 4 ∧ leAt (chain 1 0) 0x14 4 = crc32c (chPayload (chain 1 0)) ∧
      ((orderedChains coll0.desc coll0.p).getD 0 (0, 0, 0)).1 = coll0.rank ∧
      ((orderedChains coll0.desc coll0.p).getD 1 (0, 0, 0)).1 ≠ coll0.rank) ∧
    mustHold { coll0 with desc := { coll0.desc with stream := true }, have_ := [] } (chain 1 0) = true ∧
    (let bad := (chain 1 0).take 71 ++ [1];
      leAt bad 0x14 4 ≠ crc32c (chPayload bad) ∧ chainColl (withColl coll0) bad = some coll0) ∧
    (let lost := (chain 1 0).take 0x1C ++ zeros 44;
      leAt lost 0x1C 4 ≠ crc32c (lost.take 0x1C) ∧ lostColl (withColl coll0) lost = some coll0) ∧
    (stepped.cce.active = [] ∧ expressColl stepped m = none) ∧
    (let p := expressBytes 0x25 0 0 7 1 0 1 (leBytes 1 1 ++ leBytes 4 1);
      expressColl (withColl coll0) p = some coll0 ∧
        (coll0.outQ.find? (fun o => o.dst = 1 && o.type = leAt (xpPayload p) 0 1 && o.ix = leAt (xpPayload p) 1 4 && o.sent && !o.again)).isSome = true) ∧
    (∃ r, roundAt { withColl coll0 with rounds := [⟨xpKey m, 0x18, [0, 1], none, [], [], false, [], [], none, true⟩] } (xpKey m) = some r ∧
      r.taken = true) := by
  refine ⟨⟨_, rfl, by decide +kernel⟩, by decide +kernel, by decide +kernel, by decide +kernel, by decide +kernel, by decide +kernel,
    by decide +kernel, by decide +kernel, by decide +kernel, ⟨_, rfl, rfl⟩⟩

/-- A direct exchange and an EXACT reduction take their chains. -/
theorem witness_chainModes :
    (let c := { coll0 with desc := { coll0.desc with op := 5, mode := 0 } };
      chainColl (withColl c) (chain 3 0) = some c ∧ c.desc.mode = 0 ∧ c.abortCode = 0) ∧
    (let c := { coll0 with desc := { coll0.desc with mode := 2 } };
      chainColl (withColl c) (chain 4 0) = some c ∧ chType (chain 4 0) ≠ 5) ∧
    (let c := { coll0 with desc := { coll0.desc with op := 6, cnt := 0x3000 }, phase := .counts };
      collOf (withColl c) 0 7 1 = some c ∧ 1 ∈ c.members ∧ (∀ r ∈ c.recvCounts, r.1 ≠ c.members.idxOf 1) ∧
        (¬ ∀ i, i < c.p → ∃ r ∈ c.recvCounts ++ [(c.members.idxOf 1, 4)], r.1 = i)) := by
  decide +kernel

/-! ### Remote access -/

def cmdBytes (op flags target len addr laddr opnd : Nat) : Bytes :=
  leBytes 1 op ++ leBytes 1 flags ++ leBytes 2 target ++ leBytes 4 len ++ leBytes 8 addr ++ leBytes 8 laddr ++ leBytes 8 opnd ++ zeros 32

/-- Queue 0 of 16 entries at address 0 is enabled; its control line names one entry. -/
def queued (s : State) : State :=
  put 0x320 0x100000 <| put 0xC1108 0x401 { s with tb := 2 ^ 32, fep := { s.fep with dynFree := 512 }, rma := ⟨1, 0, 0, 0, 0, [], [], [], []⟩ :: s.rma.drop 1 }
def lineEnv (b : Bytes) : MemEnv := ⟨[(0, leBytes 2 1 ++ zeros 62 ++ b)], []⟩
def startsAt (op q : Nat) (env : MemEnv) (s : State) : Bool :=
  let e := beforeStart op q env s
  (cmdAt e q (queueAt e q).read).op = op && canStart e q && cmdCode e (cmdAt e q (queueAt e q).read) = 0 &&
    (List.range ((q + 16 - e.rmaTurn % 16) % 16)).all (fun k => !canStart e ((e.rmaTurn + k) % 16))

theorem witness_RemoteQueues :
    stepped.rma.length = 16 ∧ 2 ≤ (2#32).toNat ∧ (qEnabled stepped 0 = false ∧ (1#32).toNat < 2) ∧
    (let e := withEnv (lineEnv []) (queued stepped);
      qEnabled (queued stepped) 0 = true ∧
      serialSub 16 (leNat (memBytes e.mem (qBase e 0) 2)) (queueAt (queued stepped) 0).head ≤ 2 ^ qLog2 (queued stepped) 0) ∧
    2 ^ qLog2 (queued stepped) 0 < serialSub 16 (leNat (memBytes (withEnv ⟨[(0, [17, 0])], []⟩ (queued stepped)).mem 0 2))
      (queueAt (queued stepped) 0).head := by
  decide +kernel

/-- Every operation of R345 starts in some state. -/
theorem witness_remoteStarts :
    (∀ op ∈ [0x01, 0x02, 0x10, 0x11, 0x12, 0x13, 0x14, 0x15, 0x16, 0x17, 0x18, 0x19],
      startsAt op 0 (lineEnv (cmdBytes op 0 5 0 0x1000 0 0)) (queued stepped) = true) ∧
    startsAt 0x20 0 (lineEnv (cmdBytes 0x20 0 5 64 0x1000 0x2000 0)) (queued stepped) = true ∧
    startsAt 0x21 0 (lineEnv (cmdBytes 0x21 0 5 64 0x1000 0x2000 0)) (queued stepped) = true ∧
    startsAt 0x30 0 (lineEnv (cmdBytes 0x30 0 0 0 0 0x2000 1)) (queued stepped) = true ∧
    startsAt 0x31 0 (lineEnv (cmdBytes 0x31 0 5 64 0x1000 0 0)) (queued stepped) = true ∧
    startsAt 0x32 0 (lineEnv (cmdBytes 0x32 0 0 0 0 0 0)) (queued stepped) = true ∧
    (let e := withEnv (lineEnv (cmdBytes 0x01 0 128 0 0x1000 0 0)) (queued stepped); cmdCode e (cmdAt e 0 0) ≠ 0) := by
  decide +kernel

theorem witness_entryClear (b : Bytes) : EntryClear (withEnv (lineEnv b) (queued stepped)) 0 0 := by
  intro k hk h
  have h1 : (withEnv (lineEnv b) (queued stepped)).addr64 0x320 0x324 = 0x100000 := by
    show (queued stepped).addr64 0x320 0x324 = 0x100000
    decide +kernel
  have h2 : entryAddr (withEnv (lineEnv b) (queued stepped)) 0 0 = 64 := by
    show entryAddr (queued stepped) 0 0 = 64
    decide +kernel
  have h3 := h.1
  omega

theorem witness_pieces :
    let e := beforeStart 0x20 0 (lineEnv (cmdBytes 0x20 0 5 64 0x1000 0x2000 0)) (queued stepped)
    let c := cmdAt e 0 0
    c.len ≤ 3968 ∧ roomFor e c 0 = true ∧ (queueAt e 0).outs = [] ∧ badLine (lineEnv []) c.laddr c.len = false ∧
    grantable e (poolFor c.len) unreserved = true ∧ e.pools.granted = [] ∧ e.pools.waiters = [] := by
  decide +kernel

/-- One command of an operation outstanding at queue 0. -/
def outOf (op sends : Nat) : RmaOut := ⟨0, ⟨op, 0, 5, 0x1000, 1, 0, 0x2000, 0, 0⟩, 0, 0, sends, [], [(0, none)], false, false, 0⟩
def outstanding (op sends : Nat) : State :=
  let s := queued stepped
  { s with rma := ⟨1, 0, 1, 1, 0, [outOf op sends], [], [(5, 0)], [(5, 0)]⟩ :: s.rma.drop 1 }
def reply (type outcome : Nat) : Bytes := leBytes 1 type ++ leBytes 1 outcome ++ leBytes 2 0 ++ zeros 12 ++ zeros 64

theorem witness_RemoteReplies :
    outAt (outstanding 1 1) 1 0 = none ∧
    (∀ op ∈ [0x12, 0x20, 0x21], outAt (outstanding op 1) 0 0 = some (outOf op 1) ∧ answers 5 0 (reply op 0) (outOf op 1) = true) ∧
    (answers 5 0 (reply 1 0) (outOf 1 1) = true ∧ leAt (reply 1 0) 1 1 ≠ 5 ∧ isCopy 1 = false) ∧
    (leAt (reply 0x12 5) 1 1 = 5 ∧ answers 5 0 (reply 0x12 5) (outOf 0x12 1) = true) ∧
    ((outOf 0x20 1).toSend = [] ∧ (∀ p ∈ (outOf 0x20 1).waiting, p.1 = 0)) ∧
    ((outOf 1 1).tick + (outstanding 1 1).field 0xC1004 23 0 ≤ (outstanding 1 1).tb) ∧
    ¬ ((outOf 1 1).tick + stepped.field 0xC1004 23 0 ≤ stepped.tb) ∧
    ((outOf 0x30 1).tick + (outOf 0x30 1).sends * (outstanding 0x30 1).field 0xC100C 15 0 ≤ (outstanding 0x30 1).tb) ∧
    (let x := queueAt (outstanding 1 1) 0;
      x.lastSent.find? (fun y => y.1 = 5) = some (5, 0) ∧ x.floorSent.find? (fun y => y.1 = 5) = some (5, 0) ∧
      0 + 2000 ≤ (outstanding 1 1).tb ∧ 0 ≠ floorOf x ∧ fenced (outstanding 1 1) 5 = false) ∧
    (1 : Nat) ≤ leNat (memBytes (withEnv ⟨[(0x2000, [1])], []⟩ (outstanding 0x30 1)).mem 0x2000 8) := by
  decide +kernel

/-- Window 0 holds the first 64 KiB and grants everything. -/
def windowed : State := put 0xC1310 0xF (put 0xC1308 0x10000 stepped)
def inWin (s : State) (addr n attr w : Nat) : Bool :=
  s.field (0xC1310 + 0x20 * w) 0 0 = 1 && s.field (0xC1310 + 0x20 * w) attr attr = 1 &&
    s.addr64 (0xC1300 + 0x20 * w) (0xC1304 + 0x20 * w) ≤ addr && addr + n ≤ s.addr64 (0xC1308 + 0x20 * w) (0xC130C + 0x20 * w)
def addReq (seq : Nat) : Bytes := requestBytes 0x12 0 false 0 seq 0x100 1 0 0 0 0 []
def writeReq : Bytes := requestBytes 0x20 0 true 0 0 0x100 1 0 0 8 0x200 (zeros 8)

theorem witness_AtomicRequests :
    windowed.dedup.lost = false ∧
    (let f := floorAt windowed 80;
      65536 ≤ serialSub 32 (leAt (addReq 65536) 4 4) f ∧ serialSub 32 (leAt (addReq 65535) 4 4) f < 65536) ∧
    ((∀ attr ∈ [1, 2, 3], inWin windowed (leAt (addReq 0) 8 8) 8 attr 0 = true) ∧ badLine ⟨[], [4]⟩ 0x100 8 = true ∧ badLine noEnv 0x100 8 = false) ∧
    (leAt writeReq 0x24 4 = 8 ∧ bit (leAt writeReq 1 1) 2 = true ∧ leAt writeReq 0x28 8 ≠ 0 ∧
      inWin windowed (leAt writeReq 8 8) 8 2 0 = true ∧ inWin windowed (leAt writeReq 0x28 8) 8 3 0 = true) ∧
    ([0, 1, 2, 3].all (fun w => !inWin stepped 0x100 8 3 w) = true) ∧
    (let s := { windowed with dedup := ⟨[⟨80, 7, 0, 0, 9⟩], [], false⟩ };
      (s.dedup.entries.find? (fun x => decide (x.requester = 80) && decide (x.seq = leAt (addReq 7) 4 4))).isSome = true) := by
  decide +kernel

theorem witness_fullTable :
    (List.replicate 65536 (DedupEntry.mk 81 0 0 0 0)).find? (fun x => decide (x.requester = 80) && decide (x.seq = 0)) = none ∧
    65536 ≤ (List.replicate 65536 (DedupEntry.mk 81 0 0 0 0)).length := by
  refine ⟨List.find?_eq_none.2 fun x h => ?_, Nat.le_of_eq (List.length_replicate ..).symm⟩
  rw [List.eq_of_mem_replicate h]
  decide

/-! ### Frames -/

/-- Every command but DBG_SRAM answers a next state from every state; DBG_SRAM does within the 384 MiB. -/
theorem witness_next (i : Instr) (s : State) (h : ∀ a, i ≠ .dbgSram a) : ∃ t, exec i s = .next t := by
  cases i with
  | dbgSram a => exact absurd rfl (h a)
  | _ => exact ⟨_, rfl⟩

end Sys2Proof.Tests
end

section
/-! PROOFS. What a command keeps, whatever it is: one frame for all commands, cut from the frame of each one's operation; the
queue of waiting commands (O3) and the step that takes its front (O1). -/
namespace Sys2Proof.Machine
open Sys2Proof

variable {ps qs : List Part} {as bs : List Area} {s t u x : State}

/-! ### Frames of commands -/

/-- The frame of a command whose next state is known, from the state that its operation starts from. -/
theorem Keeps.frameOf {c : Instr} (e : exec c s = .next u) (k : Keeps qs bs x u) (h : exec c s = .next t)
    (hp : qs.all (ps.contains ·) = true := by decide) (ha : bs.all (as.contains ·) = true := by decide)
    (hr : ringFixed as = true ∨ .beyond ∈ ps ∨ .mem ∉ ps := by decide) : Frame ps as x t := by
  cases e.symm.trans h
  exact (k.mono (.of_all hp) (.of_all ha)).frame hr

/-- An operation behind the privilege check (R68): the code of a refusal goes to the unit's error status. -/
theorem privGate_keeps {unit : Nat} {priv : Bool} {f : State → State} (k : ∀ y, Keeps ps as y (f y)) :
    Keeps ps (.reg (unit + 8) :: as) s (privGate unit priv f s) := by
  unfold privGate
  split
  · exact (k s).mono (fun _ h => h) (.of_within fun _ h => List.mem_cons_of_mem _ h)
  · exact (record_keeps unit 2 s).mono (.nil _) (.cons List.mem_cons_self (.nil _))

/-- The test access port's state is set beside what an operation changes. -/
theorem Keeps.setTap {tap : Tap} (h : Keeps ps as s x) (hp : .tap ∈ ps) : Keeps ps as s { x with tap := tap } := by
  refine ⟨fun p hq hb => ?_, h.beyond, h.regs, fun i => ?_⟩
  · have := h.parts p hq hb
    cases p <;> first | exact this | exact absurd hp hq
  · obtain ⟨regs, mem, ring, shape⟩ := h.inv i
    exact ⟨regs, mem, ring, shape⟩

theorem setTap_keeps (tap : Tap) : Keeps [.tap] [] s { s with tap := tap } :=
  .setTap (.refl _ _ s) List.mem_cons_self

/-- Every part of the state but the queue of waiting commands. -/
def commandParts : List Part :=
  [.out, .mem, .beyond, .freshCount] ++ resetParts

/-- The frame of a command without regard to which parts and registers it changes, the queue apart. -/
theorem Keeps.whole (k : Keeps qs bs s u) (hp : qs.all (commandParts.contains ·) = true := by decide) :
    Keeps commandParts [.all] s u :=
  k.mono (.of_all hp) (.all List.mem_cons_self)

/-- The same for a command whose next state is known. -/
theorem Keeps.ofExec {c : Instr} (e : exec c s = .next u) (k : Keeps qs bs s u) (h : exec c s = .next t)
    (hp : qs.all (commandParts.contains ·) = true := by decide) : Keeps commandParts [.all] s t := by
  cases e.symm.trans h
  exact k.whole hp

/-- DBG_SRAM, where it answers a next state. -/
theorem dbgSram_keeps {a : Nat} (h : exec (.dbgSram a) s = .next t) : Keeps [.out, .freshCount, .tap] [] s t := by
  change execDbgSram a s = _ at h
  unfold execDbgSram at h
  split at h
  · split at h
    · cases h
    · cases h
      exact (emitOut_keeps _ _).via (((fresh_keeps s).mono (.of_all (by decide)) (.nil _)).setTap (by decide))
        (.of_all (by decide)) (.nil _)
  · cases h
    exact (tapBypass_keeps _ _).mono (.of_all (by decide)) (.nil _)

/-- The fields of a read that are cleared are the register's own (R16). -/
theorem clearRead_keeps_reg (a : Nat) (s : State) : Keeps [] [.reg a] s (clearRead a s) := by
  refine Keeps.foldl (.refl _ _ _) fun y f => ?_
  split
  · exact setField_keeps y a _ _ _
  · exact .refl _ _ _

/-- A read of the control bus changes at most the register read, and TB's latch where it reads TB_LO (R439). -/
theorem busReadAt_keeps_reg (priv : Bool) (a : Nat) (s : State) :
    Keeps [] [.reg a, .reg 0x414] s (busReadAt priv a s).2 := by
  unfold busReadAt
  split
  · exact .refl _ _ _
  · split
    · exact (tbLoRead_keeps s).mono (.nil _) (.of_within (by simp [Within]))
    · exact (clearRead_keeps_reg a s).mono (.nil _) (.of_within (by simp [Within]))

/-- DBG_REG. -/
theorem dbgReg_keeps {a : Nat} (h : exec (.dbgReg a) s = .next t) : Keeps [.out, .tap] [.reg a, .reg 0x414] s t := by
  cases (show execDbgReg a s = .next t from h)
  split
  · exact (emitOut_keeps _ _).via (((busReadAt_keeps_reg true a s).mono (.nil _) (.of_within fun _ h => h)).setTap (by decide))
      (.of_all (by decide)) (.nil _)
  · exact (tapBypass_keeps _ _).mono (.of_all (by decide)) (.nil _)

/-- An output is made after an operation. -/
theorem emit_after (o : Out) (k : Keeps ps as s x) : Keeps (.out :: ps) as s (emitOut o x) :=
  (k.mono (fun _ h => List.mem_cons_of_mem _ h) (.of_within fun _ h => h)).trans
    ((emitOut_keeps o x).mono (by simp [Within]) (.nil _))

/-- An instruction of the test access port that makes an output. -/
theorem emitTap_keeps (o : Out) (tap : Tap) : Keeps [.out, .tap] [] s (emitOut o { s with tap := tap }) :=
  emit_after o (setTap_keeps tap)

/-- An instruction of the test access port that is followed by an operation of the security unit. -/
theorem setTap_then {tap : Tap} {f : State → State} (k : ∀ y, Keeps ps as y (f y)) :
    Keeps (.tap :: ps) as s (f { s with tap := tap }) :=
  ((setTap_keeps tap).mono (by simp [Within]) (.nil _)).trans
    ((k _).mono (fun _ h => List.mem_cons_of_mem _ h) (.of_within fun _ h => h))

/-- BYPASS. -/
theorem bypass_keeps {o : Byte} (h : exec (.bypass o) s = .next t) : Keeps [.out, .tap] [] s t := by
  cases (show execBypass o s = .next t from h)
  split
  · exact .refl _ _ _
  · exact tapBypass_keeps _ _

/-- DBG_HALT. -/
theorem dbgHalt_keeps (h : exec .dbgHalt s = .next t) : Keeps [.out, .tap] [] s t := by
  cases (show execDbgHalt s = .next t from h)
  split
  · exact (setTap_keeps _).mono (.of_all (by decide)) (.nil _)
  · exact tapBypass_keeps _ _

/-- Whatever command runs: the queue of waiting commands keeps its content, and the invariant is kept. One line for each
command, with the frame of its operation. -/
theorem exec_keeps {c : Instr} (h : exec c s = .next t) : Keeps commandParts [.all] s t := by
  cases c with
  | load _ => exact .ofExec rfl (privGate_keeps fun _ => ldrLoad_keeps _) h
  | abandon _ => exact .ofExec rfl (privGate_keeps fun _ => ldrAbandon_keeps _) h
  | activate _ => exact .ofExec rfl (privGate_keeps fun _ => ldrActivate_keeps _) h
  | disarm _ => exact .ofExec rfl (privGate_keeps fun _ => ldrDisarm_keeps _) h
  | platLoadDone _ => exact .ofExec rfl (platLoadDone_keeps _ _) h
  | commit _ _ => exact .ofExec rfl (privGate_keeps fun _ => doCommit_keeps _ _) h
  | sfuTableSel _ => exact .ofExec rfl (sfuTableSel_keeps _ _) h
  | sfuTableCopyDone => exact .ofExec rfl (sfuCopyDone_keeps _) h
  | stage _ => exact .ofExec rfl (privGate_keeps fun _ => listStage_keeps _) h
  | listCheckDone _ => exact .ofExec rfl (listCheckDone_keeps _ _) h
  | arm _ => exact .ofExec rfl (privGate_keeps fun _ => listArm_keeps _) h
  | listDisarm _ => exact .ofExec rfl (privGate_keeps fun _ => listDisarm_keeps _) h
  | cadQuarantine _ => exact .ofExec rfl (cadQuarantine_keeps _ _) h
  | lowRearm => exact .ofExec rfl (lowRearm_keeps _) h
  | freeOrphans => exact .ofExec rfl (freeOrphans_keeps _) h
  | cancel => exact .ofExec rfl (cancel_keeps _) h
  | cceDoorbell _ _ _ => exact .ofExec rfl (privGate_keeps fun _ => cceDoorbell_keeps _ _ _) h
  | rmaDoorbell _ _ _ _ => exact .ofExec rfl (privGate_keeps fun _ => rmaDoorbell_keeps _ _ _ _) h
  | retrain _ => exact .ofExec rfl (retrain_keeps _ _) h
  | loopback _ _ => exact .ofExec rfl (loopback_keeps _ _ _) h
  | disable _ _ => exact .ofExec rfl (disable_keeps _ _ _) h
  | go _ => exact .ofExec rfl (privGate_keeps fun _ => doGo_keeps _) h
  | checkpoint _ => exact .ofExec rfl (privGate_keeps fun _ => askCheckpoint_keeps _) h
  | rlogStart _ _ _ => exact .ofExec rfl (privGate_keeps fun _ => rlogStart_keeps _ _ _) h
  | fence _ _ => exact .ofExec rfl (privGate_keeps fun _ => fenceWrite_keeps _ _) h
  | unfence _ _ => exact .ofExec rfl (privGate_keeps fun _ => unfenceWrite_keeps _ _) h
  | links _ => exact .ofExec rfl (privGate_keeps fun _ => bootLinks_keeps _) h
  | calibrate _ => exact .ofExec rfl (privGate_keeps fun _ => bootCalibrate_keeps _) h
  | tbSetLo _ => exact .ofExec rfl (tbSetLo_keeps _ _) h
  | stepLo _ => exact .ofExec rfl (stepLo_keeps _ _) h
  | chalNew _ => exact .ofExec rfl (privGate_keeps fun _ => drawChallenge_keeps _) h
  | certLoad _ => exact .ofExec rfl (privGate_keeps fun _ => certLoad_keeps _) h
  | certCheckDone _ => exact .ofExec rfl (certCheckDone_keeps _ _) h
  | klLoad _ => exact .ofExec rfl (privGate_keeps fun _ => klLoad_keeps _) h
  | keylistCheckDone _ => exact .ofExec rfl (keylistCheckDone_keeps _ _) h
  | tokenLoad _ => exact .ofExec rfl (privGate_keeps fun _ => deliver_keeps _ _) h
  | tokenCheckDone _ => exact .ofExec rfl (tokenCheckDone_keeps _ _) h
  | noteRd _ => exact .ofExec rfl (noteRdWrite_keeps _ _) h
  | noteSize _ => exact .ofExec rfl (noteSizeWrite_keeps _ _) h
  | readClear _ _ _ => exact .ofExec rfl (readClear_keeps _ _ _ _) h
  | tbLoRead => exact .ofExec rfl (emit_after _ (tbLoRead_keeps _)) h
  | registerWrite _ _ _ _ => exact .ofExec rfl (busWrite_keeps _ _ _ _ _) h
  | extest _ => exact .ofExec rfl (setTap_keeps _) h
  | idcode => exact .ofExec rfl (emitTap_keeps _ _) h
  | samplePreload _ => exact .ofExec rfl (emitTap_keeps _ _) h
  | bypass _ => exact (bypass_keeps h).whole
  | dbgChal => exact .ofExec rfl (setTap_then fun _ => drawChallenge_keeps _) h
  | dbgUnlock _ => exact .ofExec rfl (setTap_then fun _ => deliver_keeps _ _) h
  | dbgReg _ => exact (dbgReg_keeps h).whole
  | dbgSram _ => exact (dbgSram_keeps h).whole
  | dbgHalt => exact (dbgHalt_keeps h).whole
  | tapReset => exact .ofExec rfl (setTap_keeps _) h
  | chipReset => exact .ofExec rfl (chipReset_keeps _) h
  | powerOnReset => exact .ofExec rfl (chipReset_keeps _) h
  | resetRelease _ => exact .ofExec rfl (resetRelease_keeps _ _) h
  | fuseReadDone _ => exact .ofExec rfl (fuseReadDone_keeps _ _) h
  | selftestDone _ _ => exact .ofExec rfl (selftestDone_keeps _ _ _) h
  | rclkLock => exact .ofExec rfl (rclkLock_keeps _) h
  | timebaseTimeout => exact .ofExec rfl (timebaseTimeout_keeps _) h
  | calibrationDone _ => exact .ofExec rfl (calibrationDone_keeps _ _) h
  | holdover => exact .ofExec rfl (holdover_keeps _) h
  | throttleRequest _ _ => exact .ofExec rfl (throttleRequest_keeps _ _ _) h
  | emergencyThrottle _ => exact .ofExec rfl (clockStep_keeps _ _ _) h
  | tbExhausted => exact .ofExec rfl (tbExhausted_keeps _) h
  | drbgReseed => exact .ofExec rfl (drbgReseed_keeps _) h
  | entropyFail => exact .ofExec rfl (entropyFail_keeps _) h
  | datumBegin _ => exact .ofExec rfl (datumBegin_keeps _ _) h
  | cadastreCheckDone _ => exact .ofExec rfl (cadastreCheckDone_keeps _ _) h
  | agreementResult _ => exact .ofExec rfl (agreementResult_keeps _ _) h
  | poolsBuild => exact .ofExec rfl (poolsBuild_keeps _) h
  | cadastreReloadDone _ => exact .ofExec rfl (cadastreReloadDone_keeps _ _) h
  | listSwitchReadDone _ => exact .ofExec rfl (listSwitchReadDone_keeps _ _) h
  | startRoundResult _ _ => exact .ofExec rfl (startRoundResult_keeps _ _ _) h
  | stepStart => exact .ofExec rfl (stepStart_keeps _) h
  | datumTimeout => exact .ofExec rfl (datumTimeout_keeps _) h
  | genRaiseDue => exact .ofExec rfl (genRaiseDue_keeps _) h
  | bucketMapBuild _ _ => exact .ofExec rfl (bucketMapBuild_keeps _ _ _) h
  | tokenTileArrive _ _ _ => exact .ofExec rfl (tokenTileArrive_keeps _ _ _ _) h
  | normTile _ _ _ => exact .ofExec rfl (normTile_keeps _ _ _ _) h
  | anchorPrepassDone _ _ _ _ _ => exact .ofExec rfl (anchorPrepass_keeps _ _ _ _ _ _) h
  | scorePairDone _ _ _ _ _ => exact .ofExec rfl (scorePair_keeps _ _ _ _ _ _) h
  | tierLineUncorr _ _ => exact .ofExec rfl (tierLine_keeps _ _ _) h
  | gateRowBlock _ _ => exact .ofExec rfl (gateBlock_keeps _ _ _) h
  | selectRowBlock _ _ => exact .ofExec rfl (selectBlock_keeps _ _ _) h
  | tallyCount _ _ => exact .ofExec rfl (tallyCount_keeps _ _ _) h
  | tallyScanEnd _ _ _ => exact .ofExec rfl (tallyScanEnd_keeps _ _ _ _) h
  | tallyCloseContribute _ _ _ => exact .ofExec rfl (tallyContribute_keeps _ _ _ _) h
  | tallyReport _ _ _ => exact .ofExec rfl (tallyReport_keeps _ _ _ _) h
  | tallyClose _ _ _ => exact .ofExec rfl (tallyClose_keeps _ _ _ _) h
  | tallyGrant _ _ _ => exact .ofExec rfl (tallyGrant_keeps _ _ _ _) h
  | tripAgreement _ _ _ => exact .ofExec rfl (tripAgreement_keeps _ _ _ _) h
  | tallyTimeout => exact .ofExec rfl (tallyTimeout_keeps _) h
  | replicaNotice _ _ _ => exact .ofExec rfl (replicaNotice_keeps _ _ _) h
  | sortStart _ _ _ => exact .ofExec rfl (sortStart_keeps _ _ _ _) h
  | sortPhaseEnd _ _ _ => exact .ofExec rfl (sortPhaseEnd_keeps _ _ _ _) h
  | groupWrite _ _ _ => exact .ofExec rfl (groupWrite_keeps _ _ _ _) h
  | sendGroup _ _ _ => exact .ofExec rfl (sendGroup_keeps _ _ _ _) h
  | groupReceive _ _ _ _ _ => exact .ofExec rfl (groupReceive_keeps _ _ _ _ _ _) h
  | feedWaitTimeout _ _ => exact .ofExec rfl (feedWait_keeps _ _ _) h
  | collectTile _ _ _ => exact .ofExec rfl (collectTile_keeps _ _ _ _) h
  | combineRow _ _ _ _ => exact .ofExec rfl (combineRow_keeps _ _ _ _ _) h
  | emitTile _ _ _ => exact .ofExec rfl (emitTile_keeps _ _ _ _) h
  | verdictContribute => exact .ofExec rfl (verdictContribute_keeps _) h
  | verdict _ _ => exact .ofExec rfl (verdict_keeps _ _ _) h
  | checkpointSigned _ => exact .ofExec rfl (checkpointSigned_keeps _ _) h
  | stepTimeout => exact .ofExec rfl (stepTimeout_keeps _) h
  | abort _ _ => exact .ofExec rfl (abortMsg_keeps _ _ _) h
  | quarantineNotice _ _ => exact .ofExec rfl (quarantineNotice_keeps _ _ _) h
  | fenceNotice _ _ => exact .ofExec rfl (fenceNotice_keeps _ _ _) h
  | isolation => exact .ofExec rfl (isolation_keeps _) h
  | peerWaitTimeout _ => exact .ofExec rfl (peerWaitTimeout_keeps _ _) h
  | probe _ _ => exact .ofExec rfl (probe_keeps _ _ _) h
  | probeAnswer _ _ => exact .ofExec rfl (probeAnswer_keeps _ _ _) h
  | probeTimeout _ => exact .ofExec rfl (probeTimeout_keeps _ _) h
  | mgmtRead _ _ _ => exact .ofExec rfl (mgmtRead_keeps _ _ _ _) h
  | mgmtReadAnswer _ _ => exact .ofExec rfl (mgmtReadAnswer_keeps _ _ _) h
  | cadRefetchTimeout => exact .ofExec rfl (cadRefetchTimeout_keeps _) h
  | time _ _ => exact .ofExec rfl (mgmtTime_keeps _ _ _) h
  | timeAnswer _ _ => exact .ofExec rfl (timeAnswer_keeps _ _) h
  | allocGrant _ _ =>
    exact .ofExec rfl (((takeErrors_keeps _ _).whole.trans (allocGrant_keeps _ _).whole).trans
      ((runFeed_keeps _).whole.trans (collectOn_keeps _ _).whole)) h
  | frameSend _ => exact .ofExec rfl (frameSend_keeps _ _) h
  | frameReceive _ _ _ => exact .ofExec rfl (frameReceive_keeps _ _ _ _) h
  | replayTimeout _ => exact .ofExec rfl (replayTimeout_keeps _ _) h
  | packetReceive _ _ => exact .ofExec rfl (packetReceive_keeps _ _ _) h
  | ack _ _ => exact .ofExec rfl (takeAckEntry_keeps _ _ _) h
  | ackTimer _ _ => exact .ofExec rfl (ackTimer_keeps _ _ _) h
  | retransmitTimeout _ _ _ => exact .ofExec rfl (retransmitTimeout_keeps _ _ _ _) h
  | grantReq _ _ => exact .ofExec rfl (grantReq_keeps _ _ _) h
  | grant _ _ => exact .ofExec rfl (takeGrant_keeps _ _ _) h
  | grantIdleTimeout _ _ => exact .ofExec rfl (grantIdleTimeout_keeps _ _ _) h
  | pinnedFlowMove _ _ => exact .ofExec rfl (pinnedFlowMove_keeps _ _ _) h
  | throttleStepFall => exact .ofExec rfl (throttleFall_keeps _) h
  | lossOfSignal _ => exact .ofExec rfl (lossOfSignal_keeps _ _) h
  | signalPresent _ => exact .ofExec rfl (enterTrain_keeps _ _) h
  | lanesTrained _ _ _ => exact .ofExec rfl (lanesTrained_keeps _ _ _ _) h
  | keyingEnter _ => exact .ofExec rfl (keyingEnter_keeps _ _) h
  | trainTimeout _ => exact .ofExec rfl (trainTimeout_keeps _ _) h
  | keyingTimeout _ => exact .ofExec rfl (keyingTimeout_keeps _ _) h
  | hello _ _ => exact .ofExec rfl (hello_keeps _ _ _) h
  | finish _ _ _ => exact .ofExec rfl (finish_keeps _ _ _ _) h
  | rekeyStart _ => exact .ofExec rfl (rekeyStart_keeps _ _) h
  | rekeyIdleOnly _ => exact .ofExec rfl (rekeyIdleOnly_keeps _ _) h
  | rekeyTimeout _ => exact .ofExec rfl (rekeyTimeout_keeps _ _) h
  | allReduce _ => exact .ofExec rfl (startColl_keeps _ _ _) h
  | reduceScatter _ => exact .ofExec rfl (startColl_keeps _ _ _) h
  | allGather _ => exact .ofExec rfl (startColl_keeps _ _ _) h
  | broadcast _ => exact .ofExec rfl (startColl_keeps _ _ _) h
  | allToAll _ => exact .ofExec rfl (startColl_keeps _ _ _) h
  | allToAllV _ => exact .ofExec rfl (startColl_keeps _ _ _) h
  | barrier _ => exact .ofExec rfl (startColl_keeps _ _ _) h
  | registerGroup _ => exact .ofExec rfl (registerGroup_keeps _ _) h
  | unregisterGroup _ => exact .ofExec rfl (unregisterGroup_keeps _ _) h
  | contrib _ _ => exact .ofExec rfl (contribArrive_keeps _ _ _) h
  | partialMsg _ _ => exact .ofExec rfl (partialArrive_keeps _ _ _) h
  | partialAck _ _ => exact .ofExec rfl (partialAck_keeps _ _ _) h
  | result _ _ => exact .ofExec rfl (resultArrive_keeps _ _ _) h
  | partialCopyRequest _ _ => exact .ofExec rfl (partialCopyRequest_keeps _ _ _) h
  | collAbort _ _ => exact .ofExec rfl (collAbort_keeps _ _) h
  | credit _ _ => exact .ofExec rfl (creditArrive_keeps _ _ _) h
  | nack _ _ => exact .ofExec rfl (nackArrive_keeps _ _ _) h
  | counts _ _ => exact .ofExec rfl (countsArrive_keeps _ _ _) h
  | slot _ _ => exact .ofExec rfl (slotArrive_keeps _ _) h
  | chainReceive _ _ _ => exact .ofExec rfl (chainReceive_keeps _ _ _ _) h
  | collTile _ _ _ => exact .ofExec rfl (collTile_keeps _ _ _ _) h
  | completionRound _ _ => exact .ofExec rfl (completionRound_keeps _ _ _) h
  | collTimeout _ => exact .ofExec rfl (collTimeout_keeps _ _) h
  | rmaPoll _ _ => exact .ofExec rfl (rmaPoll_keeps _ _ _) h
  | rmaLoad _ _ _ => exact .ofExec rfl (rmaLoad_keeps _ _ _ _) h
  | rmaStore _ _ => exact .ofExec rfl (rmaStart_keeps _ _ _ _) h
  | rmaSwap _ _ => exact .ofExec rfl (rmaStart_keeps _ _ _ _) h
  | rmaCas _ _ => exact .ofExec rfl (rmaStart_keeps _ _ _ _) h
  | rmaAdd _ _ => exact .ofExec rfl (rmaStart_keeps _ _ _ _) h
  | rmaAnd _ _ => exact .ofExec rfl (rmaStart_keeps _ _ _ _) h
  | rmaOr _ _ => exact .ofExec rfl (rmaStart_keeps _ _ _ _) h
  | rmaXor _ _ => exact .ofExec rfl (rmaStart_keeps _ _ _ _) h
  | rmaUmax _ _ => exact .ofExec rfl (rmaStart_keeps _ _ _ _) h
  | rmaUmin _ _ => exact .ofExec rfl (rmaStart_keeps _ _ _ _) h
  | rmaSmax _ _ => exact .ofExec rfl (rmaStart_keeps _ _ _ _) h
  | rmaSmin _ _ => exact .ofExec rfl (rmaStart_keeps _ _ _ _) h
  | rmaPut _ _ => exact .ofExec rfl (rmaStart_keeps _ _ _ _) h
  | rmaGet _ _ => exact .ofExec rfl (rmaStart_keeps _ _ _ _) h
  | rmaWait _ _ => exact .ofExec rfl (rmaStart_keeps _ _ _ _) h
  | rmaInvalidate _ _ => exact .ofExec rfl (rmaStart_keeps _ _ _ _) h
  | rmaFence _ _ => exact .ofExec rfl (rmaStart_keeps _ _ _ _) h
  | reqLoad _ _ _ => exact .ofExec rfl (reqLoad_keeps _ _ _ _) h
  | reqLoadLine _ _ _ => exact .ofExec rfl (reqLoadLine_keeps _ _ _ _) h
  | reqStore _ _ _ => exact .ofExec rfl (reqStore_keeps _ _ _ _) h
  | reqAtomic _ _ _ _ _ => exact .ofExec rfl (reqAtomic_keeps _ _ _ _ _ _) h
  | reqWrite _ _ _ => exact .ofExec rfl (reqWrite_keeps _ _ _ _) h
  | reqRead _ _ _ => exact .ofExec rfl (reqRead_keeps _ _ _ _) h
  | reqRelease _ _ => exact .ofExec rfl (withFloor_keeps _ _ _) h
  | remoteReply _ _ _ _ _ _ => exact .ofExec rfl (remoteReply_keeps _ _ _ _ _ _ _) h
  | atomicTimeout _ _ => exact .ofExec rfl (atomicTimeout_keeps _ _ _) h
  | commandTimeout _ _ => exact .ofExec rfl (commandTimeout_keeps _ _ _) h
  | waitPoll _ _ _ => exact .ofExec rfl (waitPoll_keeps _ _ _ _) h
  | releaseTimer _ _ => exact .ofExec rfl (releaseTimer_keeps _ _ _) h
  | traceWrite _ => exact .ofExec rfl (traceWrite_keeps _ _) h
  | tokenStreamPortCredit _ _ =>
    exact .ofExec rfl (((takeErrors_keeps _ _).whole.trans (portCredit_keeps _ _).whole).trans (runFeed_keeps _).whole) h
  | linkSignatureDone _ => exact .ofExec rfl (linkSignatureDone_keeps _ _) h
  | traceWindowRead _ _ => exact .ofExec rfl (traceWindowRead_keeps _ _ _) h
  -- OUTPUT, RECALL and REFUSE: the records that return
  | _ => exact .ofExec rfl (returnArrive_keeps _ _ _ _) h

/-- Settles O3: the queue lies outside what any command changes. -/
theorem queueKept : Obligations.QueueKept := by
  intro c s t h
  exact (exec_keeps h).parts .pending (by decide) (by decide)

/-- Settles O1: with a command at the front, that is what the step runs. -/
theorem stepRunsFront : Obligations.StepRunsFront := by
  intro c cs s
  rfl

end Sys2Proof.Machine
end

section
/-! PROOFS. The fields of a register (R16): no two of one register share a bit, so that an update which goes field by field
leaves in each what it does to that field alone; the word that a write leaves (O20). -/
namespace Sys2Proof.Machine
open Sys2Proof

/-! ### The fields of one register lie apart -/

/-- Two fields share no bit of a word. -/
def RegField.Apart (f g : RegField) : Prop := f.hi < g.lo ∨ g.hi < f.lo

/-- The offsets of the registers that have a field. -/
def RegField.offsets (f : RegField) : List Nat := (List.range f.count).map (fun i => f.base + i * f.stride)

/-- Two fields share a bit of a register. -/
def RegField.clash (f g : RegField) : Bool := f.offsets.any g.at_ && decide (f.lo ≤ g.hi ∧ g.lo ≤ f.hi)

/-- A field shares a bit with none of a list that rises by offset; those beyond its last register need no look. -/
def RegField.clear (f : RegField) : List RegField → Bool
  | [] => true
  | g :: gs => if f.base + f.count * f.stride < g.base then true else !f.clash g && f.clear gs

/-- No two fields of a list that rises by offset share a bit. -/
def allClear : List RegField → Bool
  | [] => true
  | f :: fs => f.clear fs && allClear fs

/-- The first registers of a list's fields rise, from an address on. -/
def risesFrom (a : Nat) : List RegField → Bool
  | [] => true
  | f :: fs => decide (a ≤ f.base) && risesFrom f.base fs

theorem le_base_of_risesFrom : ∀ {fs : List RegField} {a : Nat}, risesFrom a fs = true → ∀ f ∈ fs, a ≤ f.base
  | f :: fs, a, h, g, hg => by
    simp only [risesFrom, Bool.and_eq_true, decide_eq_true_eq] at h
    obtain ⟨hf, hfs⟩ := h
    rcases List.mem_cons.mp hg with rfl | hg
    · exact hf
    · exact Nat.le_trans hf (le_base_of_risesFrom hfs g hg)

theorem pairwise_base_of_risesFrom : ∀ {fs : List RegField} {a : Nat}, risesFrom a fs = true →
    fs.Pairwise (fun f g => f.base ≤ g.base)
  | [], _, _ => .nil
  | f :: fs, a, h => by
    simp only [risesFrom, Bool.and_eq_true, decide_eq_true_eq] at h
    exact .cons (le_base_of_risesFrom h.2) (pairwise_base_of_risesFrom h.2)

theorem regFields_inWord : ∀ f ∈ regFields, 0 < f.count ∧ f.lo ≤ f.hi ∧ f.hi < 32 := by decide +kernel

theorem regFields_rise : risesFrom 0 regFields = true := by decide +kernel

theorem regFields_allClear : allClear regFields = true := by decide +kernel

theorem RegField.exists_of_at {f : RegField} {a : Nat} (hc : 0 < f.count) (h : f.at_ a = true) :
    ∃ i < f.count, a = f.base + i * f.stride := by
  unfold RegField.at_ at h
  split at h
  · next h0 => exact ⟨0, hc, by simpa using h⟩
  · simp only [Bool.and_eq_true, decide_eq_true_eq] at h
    obtain ⟨⟨hb, hm⟩, hn⟩ := h
    refine ⟨_, hn, ?_⟩
    rw [Nat.div_mul_cancel (Nat.dvd_of_mod_eq_zero hm)]
    omega

theorem RegField.apart_of_not_clash {f g : RegField} {a : Nat} (hc : 0 < f.count) (h : f.clash g = false)
    (hf : f.at_ a = true) (hg : g.at_ a = true) : f.Apart g := by
  obtain ⟨i, hi, e⟩ := f.exists_of_at hc hf
  have hm : f.offsets.any g.at_ = true :=
    List.any_eq_true.mpr ⟨a, List.mem_map.mpr ⟨i, List.mem_range.mpr hi, e.symm⟩, hg⟩
  simp only [RegField.clash, hm, Bool.true_and, decide_eq_false_iff_not] at h
  unfold RegField.Apart
  omega

theorem RegField.apart_of_clear {f g : RegField} {gs : List RegField} {a : Nat} (hc : 0 < f.count)
    (hr : gs.Pairwise (fun x y => x.base ≤ y.base)) (hn : ∀ x ∈ gs, 0 < x.count) (h : f.clear gs = true) (hg : g ∈ gs)
    (hfa : f.at_ a = true) (hga : g.at_ a = true) : f.Apart g := by
  induction gs with
  | nil => cases hg
  | cons x xs ih =>
    obtain ⟨hx, hxs⟩ := List.pairwise_cons.mp hr
    unfold RegField.clear at h
    split at h
    case isTrue hlt =>
      have hle : x.base ≤ g.base := by
        rcases List.mem_cons.mp hg with rfl | hg
        · exact Nat.le_refl _
        · exact hx g hg
      obtain ⟨i, hi, ef⟩ := f.exists_of_at hc hfa
      obtain ⟨j, _, eg⟩ := g.exists_of_at (hn g hg) hga
      have := Nat.mul_le_mul_right f.stride (Nat.le_of_lt hi)
      omega
    case isFalse =>
      simp only [Bool.and_eq_true, Bool.not_eq_true'] at h
      rcases List.mem_cons.mp hg with rfl | hg
      · exact RegField.apart_of_not_clash hc h.1 hfa hga
      · exact ih hxs (fun y hy => hn y (List.mem_cons_of_mem _ hy)) h.2 hg

theorem pairwise_apart_of_allClear {fs : List RegField} (hr : fs.Pairwise (fun x y => x.base ≤ y.base))
    (hn : ∀ x ∈ fs, 0 < x.count) (h : allClear fs = true) :
    fs.Pairwise (fun f g => ∀ a, f.at_ a = true → g.at_ a = true → f.Apart g) := by
  induction fs with
  | nil => exact List.Pairwise.nil
  | cons f fs ih =>
    obtain ⟨_, hrs⟩ := List.pairwise_cons.mp hr
    simp only [allClear, Bool.and_eq_true] at h
    have hns : ∀ x ∈ fs, 0 < x.count := fun x hx => hn x (List.mem_cons_of_mem _ hx)
    exact List.pairwise_cons.mpr ⟨fun g hg a hf hg' =>
      RegField.apart_of_clear (hn f List.mem_cons_self) hrs hns h.1 hg hf hg', ih hrs hns h.2⟩

theorem mem_fieldsAt {f : RegField} {a : Nat} : f ∈ fieldsAt a ↔ f ∈ regFields ∧ f.at_ a = true := List.mem_filter

theorem fieldsAt_inWord {f : RegField} {a : Nat} (h : f ∈ fieldsAt a) : f.lo ≤ f.hi ∧ f.hi < 32 :=
  (regFields_inWord f (mem_fieldsAt.mp h).1).2

/-- No two fields of one register share a bit. -/
theorem fieldsAt_apart (a : Nat) : (fieldsAt a).Pairwise RegField.Apart := by
  have h := pairwise_apart_of_allClear (pairwise_base_of_risesFrom regFields_rise) (fun x hx => (regFields_inWord x hx).1) regFields_allClear
  exact (h.filter _).imp_of_mem fun hf hg k => k a (mem_fieldsAt.mp hf).2 (mem_fieldsAt.mp hg).2

/-! ### Bits of a field -/

/-- Two numbers with the same bits in a field. -/
theorem bits_congr {x y hi lo : Nat} (h : ∀ i, lo ≤ i → i ≤ hi → x.testBit i = y.testBit i) : bits x hi lo = bits y hi lo := by
  refine Nat.eq_of_testBit_eq fun j => ?_
  simp only [bits, Nat.testBit_mod_two_pow, Nat.testBit_shiftRight]
  by_cases hj : j < hi + 1 - lo
  · rw [h (lo + j) (by omega) (by omega)]
  · simp [hj]

theorem testBit_bits (x hi lo j : Nat) : (bits x hi lo).testBit j = (decide (j < hi + 1 - lo) && x.testBit (lo + j)) := by
  simp only [bits, Nat.testBit_mod_two_pow, Nat.testBit_shiftRight]

/-- A bit outside the field that a value is put into. -/
theorem testBit_putBits_outside {w : Word32} {hi lo v i : Nat} (hh : hi < 32) (hl : lo ≤ hi) (h : i < lo ∨ hi < i) :
    (putBits w hi lo v).toNat.testBit i = w.toNat.testBit i := by
  have e : 2 ^ (hi + 1) = 2 ^ lo * 2 ^ (hi + 1 - lo) := by rw [← Nat.pow_add]; congr 1; omega
  have hv : v % 2 ^ (hi + 1 - lo) < 2 ^ (hi + 1 - lo) := Nat.mod_lt _ (Nat.two_pow_pos _)
  have hr : w.toNat % 2 ^ lo < 2 ^ lo := Nat.mod_lt _ (Nat.two_pow_pos _)
  rw [putBits_toNat hh hl]
  rcases h with h | h
  · have k : ∀ x : Nat, x.testBit i = (x % 2 ^ lo).testBit i := fun x => by simp [Nat.testBit_mod_two_pow, h]
    rw [k, k w.toNat, e, Nat.mul_left_comm, Nat.mul_comm (v % _), ← Nat.mul_add, Nat.mul_add_mod, Nat.mod_mod]
  · have k : ∀ x : Nat, x.testBit i = (x / 2 ^ (hi + 1)).testBit (i - (hi + 1)) := fun x => by
      rw [← Nat.testBit_add]; congr 1; omega
    have hb : v % 2 ^ (hi + 1 - lo) * 2 ^ lo + w.toNat % 2 ^ lo < 2 ^ (hi + 1) := by
      have := Nat.mul_le_mul_right (2 ^ lo) (Nat.succ_le_of_lt hv)
      rw [Nat.succ_mul, Nat.mul_comm (2 ^ (hi + 1 - lo)), ← e] at this
      omega
    rw [k, k w.toNat, Nat.add_assoc, Nat.mul_comm, Nat.mul_add_div (Nat.two_pow_pos _), Nat.div_eq_of_lt hb, Nat.add_zero]

theorem bits_putBits_apart {w : Word32} {f g : RegField} {v : Nat} (hf : f.lo ≤ f.hi ∧ f.hi < 32) (h : f.Apart g) :
    bits (putBits w f.hi f.lo v).toNat g.hi g.lo = bits w.toNat g.hi g.lo := by
  refine bits_congr fun i h1 h2 => testBit_putBits_outside hf.2 hf.1 ?_
  unfold RegField.Apart at h
  omega

/-! ### Updates that go field by field -/

/-- An update of one field of a word: what it makes of the field, and that it leaves every bit elsewhere. -/
structure FieldUpdate (g : Word32 → RegField → Word32) (φ : RegField → Nat → Nat) : Prop where
  own : ∀ w f, f.lo ≤ f.hi ∧ f.hi < 32 → bits (g w f).toNat f.hi f.lo = φ f (bits w.toNat f.hi f.lo)
  apart : ∀ w f h, f.lo ≤ f.hi ∧ f.hi < 32 → f.Apart h → bits (g w f).toNat h.hi h.lo = bits w.toNat h.hi h.lo

variable {g : Word32 → RegField → Word32} {φ : RegField → Nat → Nat}

theorem FieldUpdate.bits_foldl_apart (u : FieldUpdate g φ) {fs : List RegField} {f : RegField} {w : Word32}
    (hw : ∀ x ∈ fs, x.lo ≤ x.hi ∧ x.hi < 32) (ha : ∀ x ∈ fs, x.Apart f) :
    bits (fs.foldl g w).toNat f.hi f.lo = bits w.toNat f.hi f.lo := by
  induction fs generalizing w with
  | nil => rfl
  | cons x xs ih =>
    rw [List.foldl_cons, ih (fun y hy => hw y (List.mem_cons_of_mem _ hy)) (fun y hy => ha y (List.mem_cons_of_mem _ hy)),
      u.apart w x f (hw x List.mem_cons_self) (ha x List.mem_cons_self)]

/-- In each field of a list of fields that lie apart, what the update makes of that field alone. -/
theorem FieldUpdate.bits_foldl (u : FieldUpdate g φ) {fs : List RegField} {f : RegField} {w : Word32}
    (hw : ∀ x ∈ fs, x.lo ≤ x.hi ∧ x.hi < 32) (ha : fs.Pairwise RegField.Apart) (hf : f ∈ fs) :
    bits (fs.foldl g w).toNat f.hi f.lo = φ f (bits w.toNat f.hi f.lo) := by
  induction fs generalizing w with
  | nil => cases hf
  | cons x xs ih =>
    obtain ⟨hx, hxs⟩ := List.pairwise_cons.mp ha
    have hws : ∀ y ∈ xs, y.lo ≤ y.hi ∧ y.hi < 32 := fun y hy => hw y (List.mem_cons_of_mem _ hy)
    rw [List.foldl_cons]
    rcases List.mem_cons.mp hf with rfl | hf
    · rw [u.bits_foldl_apart hws fun y hy => (hx y hy).symm, u.own w f (hw f List.mem_cons_self)]
    · rw [ih hws hxs hf, u.apart w x f (hw x List.mem_cons_self) (hx f hf)]

/-- In each field of a register, what the update makes of that field alone. -/
theorem FieldUpdate.bits_fieldsAt (u : FieldUpdate g φ) {a : Nat} {f : RegField} {w : Word32} (hf : f ∈ fieldsAt a) :
    bits ((fieldsAt a).foldl g w).toNat f.hi f.lo = φ f (bits w.toNat f.hi f.lo) :=
  u.bits_foldl (fun _ h => fieldsAt_inWord h) (fieldsAt_apart a) hf

/-! ### The word that a write leaves -/

/-- What a write does to one field of a word (R16). -/
def writeField (v : Nat) (w : Word32) (f : RegField) : Word32 :=
  match f.acc with
  | .rw => putBits w f.hi f.lo (bits v f.hi f.lo)
  | .sh => putBits w f.hi f.lo (bits v f.hi f.lo)
  | .w1c => w &&& ~~~(BitVec.ofNat 32 (bits v f.hi f.lo * 2 ^ f.lo))
  | _ => w

/-- What a field holds after a write (R16), from what it held and the bits written. -/
def Acc.after (k : Acc) (old new : Nat) : Nat :=
  match k with
  | .rw => new
  | .sh => new
  | .w1c => old - (old &&& new)
  | _ => old

theorem writtenWord_eq (s : State) (a v : Nat) : writtenWord s a v = (fieldsAt a).foldl (writeField v) (s.word a) := rfl

/-- The number whose bits are those of one number and not of another. -/
theorem eq_sub_and {x y z : Nat} (h : ∀ i, z.testBit i = (x.testBit i && !y.testBit i)) : z = x - (x &&& y) := by
  have hx : x < 2 ^ (x + z + 1) := Nat.lt_trans (by omega) Nat.lt_two_pow_self
  have hz : z + x < 2 ^ (x + z + 1) := Nat.lt_trans (by omega) Nat.lt_two_pow_self
  have ha : x &&& y ≤ x := Nat.and_le_left
  have hd : BitVec.ofNat (x + z + 1) z &&& BitVec.ofNat (x + z + 1) (x &&& y) = 0#_ := by
    refine BitVec.eq_of_getLsbD_eq fun i hi => ?_
    simp only [BitVec.getLsbD_and, BitVec.getLsbD_ofNat, Nat.testBit_and, h]
    cases x.testBit i <;> cases y.testBit i <;> simp
  have ho : BitVec.ofNat (x + z + 1) z ||| BitVec.ofNat (x + z + 1) (x &&& y) = BitVec.ofNat _ x := by
    refine BitVec.eq_of_getLsbD_eq fun i hi => ?_
    simp only [BitVec.getLsbD_or, BitVec.getLsbD_ofNat, Nat.testBit_and, h]
    cases x.testBit i <;> cases y.testBit i <;> simp
  have := congrArg BitVec.toNat ((BitVec.add_eq_or_of_and_eq_zero _ _ hd).trans ho)
  rw [← BitVec.ofNat_add, BitVec.toNat_ofNat, BitVec.toNat_ofNat, Nat.mod_eq_of_lt (by omega), Nat.mod_eq_of_lt hx] at this
  omega

theorem testBit_clearMask {w : Word32} {b lo i : Nat} (hi : i < 32) :
    (w &&& ~~~(BitVec.ofNat 32 (b * 2 ^ lo))).toNat.testBit i = (w.toNat.testBit i && !(decide (lo ≤ i) && b.testBit (i - lo))) := by
  simp only [BitVec.testBit_toNat, BitVec.getLsbD_and, BitVec.getLsbD_not, BitVec.getLsbD_ofNat, Nat.testBit_mul_two_pow, hi,
    decide_true, Bool.true_and]

theorem writeField_update (v : Nat) : FieldUpdate (writeField v) (fun f old => f.acc.after old (bits v f.hi f.lo)) where
  own w f hf := by
    unfold writeField Acc.after
    have hb : bits v f.hi f.lo % 2 ^ (f.hi + 1 - f.lo) = bits v f.hi f.lo := Nat.mod_eq_of_lt (bits_lt _ _ _)
    cases f.acc with
    | rw => exact (bits_putBits hf.2 hf.1).trans hb
    | sh => exact (bits_putBits hf.2 hf.1).trans hb
    | w1c =>
      refine eq_sub_and fun j => ?_
      simp only [testBit_bits]
      by_cases hj : j < f.hi + 1 - f.lo
      · rw [testBit_clearMask (by omega)]
        simp [hj, testBit_bits]
      · simp [hj]
    | ro => rfl
    | wo => rfl
    | rc => rfl
  apart w f h hf ha := by
    unfold writeField
    cases f.acc with
    | rw => exact bits_putBits_apart hf ha
    | sh => exact bits_putBits_apart hf ha
    | w1c =>
      refine bits_congr fun i h1 h2 => ?_
      by_cases hi : i < 32
      · rw [testBit_clearMask hi, testBit_bits]
        have hout : ¬ (f.lo ≤ i ∧ i - f.lo < f.hi + 1 - f.lo) := by
          unfold RegField.Apart at ha
          omega
        by_cases h1 : f.lo ≤ i <;> simp_all
      · simp [BitVec.testBit_toNat, BitVec.getLsbD_of_ge _ _ (Nat.le_of_not_lt hi)]
    | ro => rfl
    | wo => rfl
    | rc => rfl

/-- Settles O20: each field of the written word is what its access kind makes of it. -/
theorem writtenFields : Obligations.WrittenFields := by
  intro s a v f hf
  have h : bits (writtenWord s a v).toNat f.hi f.lo = f.acc.after (s.field a f.hi f.lo) (bits v f.hi f.lo) := by
    rw [writtenWord_eq]
    exact (writeField_update v).bits_fieldsAt hf
  simp only [h]
  cases f.acc <;> rfl

end Sys2Proof.Machine
end

section
/-! PROOFS. Reads of the control bus and of the trace window, and the trace writer (O21). -/
namespace Sys2Proof.Machine
open Sys2Proof

variable {s : State} {a : Nat} {priv : Bool}

/-! ### Reads that meet no error -/

/-- A read that meets no error waits, or puts out what it returns. -/
theorem readClear_nil (priv : Bool) (a : Nat) (s : State) :
    readClear priv a [] s =
      if readWaits s a = true then s else emitOut (.busRead (busReadAt priv a s).1) (busReadAt priv a s).2 := by
  simp [readClear, takeErrors, lostIn]

theorem readClear_waits (h : readWaits s a = true) : readClear priv a [] s = s := by
  rw [readClear_nil, if_pos h]

theorem readClear_answers (h : readWaits s a = false) :
    readClear priv a [] s = emitOut (.busRead (busReadAt priv a s).1) (busReadAt priv a s).2 := by
  rw [readClear_nil, h]
  rfl

theorem busReadAt_denied (h : a % 4 ≠ 0 ∨ isSecReg a = true ∧ priv = false) : busReadAt priv a s = (0, s) := by
  unfold busReadAt
  rw [if_pos]
  rcases h with h | ⟨h1, h2⟩
  · simp [h]
  · simp [h1, h2]

theorem busReadAt_register (h4 : a % 4 = 0) (hp : isSecReg a = false ∨ priv = true) (ht : a ≠ 0x410) :
    busReadAt priv a s = (readWord s a, clearRead a s) := by
  have h : (decide (a % 4 ≠ 0) || (isSecReg a && !priv)) = false := by
    rcases hp with h | h <;> simp [h4, h]
  unfold busReadAt
  rw [h, if_neg (by decide), if_neg ht]

theorem busReadAt_tbLo : busReadAt priv 0x410 s = tbLoRead s := rfl

theorem readWaits_tbLo : readWaits s 0x410 = false := rfl

/-! ### What a read clears -/

/-- What a read does to one field of a word (R16). -/
def clearField (w : Word32) (f : RegField) : Word32 :=
  match f.acc with
  | .rc => putBits w f.hi f.lo 0
  | _ => w

/-- What a field holds after a read (R16). -/
def Acc.afterRead (k : Acc) (old : Nat) : Nat :=
  match k with
  | .rc => 0
  | _ => old

theorem clearField_update : FieldUpdate clearField (fun f old => f.acc.afterRead old) where
  own w f hf := by
    unfold clearField Acc.afterRead
    cases f.acc with
    | rc => exact (bits_putBits hf.2 hf.1).trans (Nat.zero_mod _)
    | rw => rfl
    | ro => rfl
    | wo => rfl
    | w1c => rfl
    | sh => rfl
  apart w f h hf ha := by
    unfold clearField
    cases f.acc with
    | rc => exact bits_putBits_apart hf ha
    | rw => rfl
    | ro => rfl
    | wo => rfl
    | w1c => rfl
    | sh => rfl

/-- The word of a register after it has been read: its fields are cleared one by one. -/
theorem word_clearRead (a : Nat) (s : State) : (clearRead a s).word a = (fieldsAt a).foldl clearField (s.word a) := by
  unfold clearRead
  induction fieldsAt a generalizing s with
  | nil => rfl
  | cons f fs ih =>
    rw [List.foldl_cons, List.foldl_cons, ih]
    congr 1
    unfold clearField
    cases f.acc with
    | rc => exact word_setWord_self ..
    | rw => rfl
    | ro => rfl
    | wo => rfl
    | w1c => rfl
    | sh => rfl

theorem field_clearRead {f : RegField} (hf : f ∈ fieldsAt a) :
    (clearRead a s).field a f.hi f.lo = f.acc.afterRead (s.field a f.hi f.lo) := by
  unfold State.field
  rw [word_clearRead]
  exact clearField_update.bits_fieldsAt hf

theorem foldl_clearField_of_no_rc {fs : List RegField} (h : ∀ f ∈ fs, f.acc ≠ .rc) (w : Word32) :
    fs.foldl clearField w = w := by
  induction fs with
  | nil => rfl
  | cons f fs ih =>
    have e : clearField w f = w := by
      unfold clearField
      split
      · next hc => exact absurd hc (h f List.mem_cons_self)
      · rfl
    rw [List.foldl_cons, e]
    exact ih fun x hx => h x (List.mem_cons_of_mem _ hx)

theorem word_clearRead_of_no_rc (h : ∀ f ∈ fieldsAt a, f.acc ≠ .rc) : (clearRead a s).word a = s.word a := by
  rw [word_clearRead, foldl_clearField_of_no_rc h]

/-- No register stands at an offset outside the windows that has no field (R15). -/
theorem readWord_of_no_field (h : fieldsAt a = []) (hw : a < 0x380000 ∨ 0xC00000 ≤ a) : readWord s a = 0 := by
  have h1 : (decide (0x380000 ≤ a) && decide (a < 0x400000)) = false := by simp; omega
  have h2 : (decide (0x400000 ≤ a) && decide (a < 0xC00000)) = false := by simp; omega
  simp only [readWord, h1, h2, h, List.isEmpty_nil]
  rfl

/-! ### The trace window -/

theorem traceWindowRead_corr (hl : 0x380000 ≤ a) (hh : a < 0x400000) (h4 : a % 4 = 0) :
    traceWindowRead a false s = emitOut (.busRead (traceWord s a)) s := by
  simp [traceWindowRead, inTraceWindow, hl, hh, h4]

theorem traceWindowRead_uncorr (hl : 0x380000 ≤ a) (hh : a < 0x400000) (h4 : a % 4 = 0) :
    ∃ bank, traceWindowRead a true s =
      emitOut (.busRead (traceWord s a)) ((countSram true bank s).setField 0x300024 0 0 1) := by
  refine ⟨bankAt s 5 (524288 * s.field 0x300040 5 0 + (a - 0x380000)), ?_⟩
  simp [traceWindowRead, inTraceWindow, hl, hh, h4]

theorem field_countSram_uncorr (bank : Nat) : (countSram true bank s).field 0x20084 15 0 = satAdd 16 (s.field 0x20084 15 0) 1 := by
  rw [show countSram true bank s = (s.bump16 0x20084 1).setField 0x20088 21 16 bank from rfl,
    field_setField_other _ (by decide), field_bump16]

/-! ### The trace writer -/

/-- A marker that waits is written ahead of every lane (R467). -/
theorem traceWrite_marker {tick arg : Nat} (hf : s.trace.full = false) (ho : traceOn s = true)
    (hm : s.trace.marker = some (tick, arg)) :
    traceWrite [] s =
      putRecord (traceRecord 3 0xF 0 s.trace.seq tick arg) { s with trace := { s.trace with marker := none } } := by
  simp [traceWrite, takeErrors, hf, ho, hm]

/-- The trace with the head of a lane taken out (R464). -/
def Trace.served (t : Trace) (n : Nat) (rest : List LaneItem) : Trace :=
  { t with last := n, lanes := modifyAt (fun _ => rest) n t.lanes }

/-- With no marker the next lane's head is written (R464). -/
theorem traceWrite_lane {n : Nat} {i : LaneItem} {rest : List LaneItem} (hf : s.trace.full = false) (ho : traceOn s = true)
    (hm : s.trace.marker = none) (hn : nextLane s.trace = some n) (hl : s.trace.lanes.getD n [] = i :: rest) :
    traceWrite [] s = writeItem n i { s with trace := s.trace.served n rest } := by
  simp [traceWrite, takeErrors, hf, ho, hm, hn, hl, delivered, laneLost, Trace.served, -List.getD_eq_getElem?_getD]

theorem length_traceRecord (type lane event seq tb arg : Nat) : (traceRecord type lane event seq tb arg).length = 32 := by
  simp [traceRecord, length_leBytes]

/-- What a record of 32 bytes changes of the trace: its bytes stand at WR, the sequence number rises, and WR goes on by 32, or
at LIMIT to BASE, or the writer stops (R463). -/
theorem trace_putRecord {bs : Bytes} (h : bs.length = 32) :
    memBytes (putRecord bs s).trace.ring s.trace.wr 32 = bs ∧ (putRecord bs s).trace.seq = (s.trace.seq + 1) % 2 ^ 32 ∧
      (putRecord bs s).trace.last = s.trace.last ∧ (putRecord bs s).trace.lanes = s.trace.lanes ∧
      (putRecord bs s).trace.marker = s.trace.marker ∧
      (s.trace.wr + 32 < s.live 0x300014 25 6 * 64 → (putRecord bs s).trace.wr = s.trace.wr + 32) ∧
      (s.live 0x300014 25 6 * 64 ≤ s.trace.wr + 32 → s.field 0x300000 8 8 = 1 → (putRecord bs s).trace.full = true) ∧
      (s.live 0x300014 25 6 * 64 ≤ s.trace.wr + 32 → s.field 0x300000 8 8 ≠ 1 →
        (putRecord bs s).trace.wr = s.live 0x300010 24 6 * 64 ∧ (putRecord bs s).trace.wrapped = true) := by
  have hr : memBytes (memPut s.trace.ring s.trace.wr bs) s.trace.wr 32 = bs := by
    rw [memBytes_memPut (Nat.le_of_eq h.symm), ← h, List.take_length]
  unfold putRecord
  dsimp only
  split
  case isTrue hlt =>
    exact ⟨hr, rfl, rfl, rfl, rfl, fun _ => rfl, fun hle => absurd hlt (Nat.not_lt.mpr hle), fun hle => absurd hlt (Nat.not_lt.mpr hle)⟩
  case isFalse hge =>
    split
    case isTrue hs => exact ⟨hr, rfl, rfl, rfl, rfl, fun hlt => absurd hlt hge, fun _ _ => rfl, fun _ hn => absurd hs hn⟩
    case isFalse hn => exact ⟨hr, rfl, rfl, rfl, rfl, fun hlt => absurd hlt hge, fun _ hs => absurd hs hn, fun _ _ => ⟨rfl, rfl⟩⟩

theorem getD_modifyAt_self {α : Type} {f : α → α} {n : Nat} {l : List α} {d : α} (h : n < l.length) :
    (modifyAt f n l).getD n d = f (l.getD n d) := by
  induction l generalizing n with
  | nil => exact absurd h (Nat.not_lt_zero _)
  | cons x xs ih =>
    cases n with
    | zero => rfl
    | succ n => exact ih (Nat.lt_of_succ_lt_succ h)

theorem lt_length_of_getD {α : Type} {l : List (List α)} {n : Nat} {x : α} {xs : List α} (h : l.getD n [] = x :: xs) :
    n < l.length := by
  refine Nat.lt_of_not_le fun hn => ?_
  rw [List.getD_eq_getElem?_getD, List.getElem?_eq_none hn] at h
  cases h

/-! ### The statement -/

theorem readClear_completes {P : State → Prop} (h : P (readClear priv a [] s)) : Completes (.readClear priv a []) s P :=
  ⟨_, rfl, h⟩

theorem traceWrite_completes {P : State → Prop} (h : P (traceWrite [] s)) : Completes (.traceWrite []) s P :=
  ⟨_, rfl, h⟩

/-- A read that is denied puts out zero and clears nothing (R68). -/
theorem read_denied (hw : readWaits s a = false) (h : a % 4 ≠ 0 ∨ isSecReg a = true ∧ priv = false) :
    Completes (.readClear priv a []) s (fun t => t.out = s.out ++ [Out.busRead 0] ∧ Frame [.out] [] s t) := by
  apply readClear_completes
  rw [readClear_answers hw, busReadAt_denied h]
  exact ⟨rfl, (emitOut_keeps _ _).frame (by decide)⟩

/-- A read of a register puts out its word and clears its RC fields (R16). -/
theorem read_register (hw : readWaits s a = false) (h4 : a % 4 = 0) (hp : isSecReg a = false ∨ priv = true) (ht : a ≠ 0x410) :
    Completes (.readClear priv a []) s (fun t =>
      t.out = s.out ++ [Out.busRead (readWord s a)] ∧ Frame [.out] [.reg a] s t ∧
      (∀ f ∈ fieldsAt a, f.acc = .rc → t.field a f.hi f.lo = 0) ∧
      ((∀ f ∈ fieldsAt a, f.acc ≠ .rc) → t.word a = s.word a)) := by
  apply readClear_completes
  rw [readClear_answers hw, busReadAt_register h4 hp ht]
  have k := clearRead_keeps_reg a s
  refine ⟨?_, (emit_after _ k).frame (.inr (.inr (by decide))), fun f hf hc => ?_, word_clearRead_of_no_rc⟩
  · exact congrArg (· ++ _) (k.parts .out (by decide) (by decide))
  · exact (field_clearRead hf).trans (by rw [hc]; rfl)

/-- A read of SDE_TB_LO latches the upper half of TB (R439). -/
theorem read_tbLo (priv : Bool) (s : State) :
    Completes (.readClear priv 0x410 []) s (fun t => t.out = s.out ++ [Out.busRead (BitVec.ofNat 32 s.tb)] ∧
      t.word 0x414 = BitVec.ofNat 32 (s.tb / 2 ^ 32) ∧ Frame [.out] [.reg 0x414] s t) := by
  apply readClear_completes
  rw [readClear_answers readWaits_tbLo, busReadAt_tbLo]
  exact ⟨rfl, word_setWord_self .., (emit_after _ (tbLoRead_keeps s)).frame (by decide)⟩

/-- A read of the trace window (R471). -/
theorem read_traceWindow (hl : 0x380000 ≤ a) (hh : a < 0x400000) (h4 : a % 4 = 0) (uncorr : Bool) :
    Completes (.traceWindowRead a uncorr) s (fun t => t.out = s.out ++ [Out.busRead (traceWord s a)] ∧
      (uncorr = true → t.field 0x300024 0 0 = 1 ∧ t.field 0x20084 15 0 = satAdd 16 (s.field 0x20084 15 0) 1) ∧
      (uncorr = false → Frame [.out] [] s t)) := by
  refine ⟨_, rfl, ?_⟩
  cases uncorr with
  | false =>
    rw [traceWindowRead_corr hl hh h4]
    exact ⟨rfl, fun h => (by cases h), fun _ => (emitOut_keeps _ _).frame (by decide)⟩
  | true =>
    obtain ⟨bank, e⟩ := traceWindowRead_uncorr (s := s) hl hh h4
    rw [e]
    refine ⟨?_, fun _ => ⟨field_setField _ (by decide) (by decide), ?_⟩, fun h => (by cases h)⟩
    · exact congrArg (· ++ _) ((countSram_keeps true bank s).parts .out (by decide) (by decide))
    · exact (field_setField_other _ (by decide)).trans (field_countSram_uncorr bank)

/-- Settles O21. -/
theorem registerReads : Obligations.RegisterReads := by
  intro s priv a
  refine ⟨fun hw => readClear_completes (readClear_waits hw), read_denied, read_register, read_tbLo priv s, readWord_of_no_field,
    fun hl hh h4 uncorr => read_traceWindow hl hh h4 uncorr, fun hf ho tick arg hm => traceWrite_completes ?_,
    fun hf ho hm n code tick arg rest hn hl => traceWrite_completes ?_⟩
  · rw [traceWrite_marker hf ho hm]
    obtain ⟨hr, hs, _, hls, hmk, hw, hfull, hwrap⟩ := trace_putRecord (s := { s with trace := { s.trace with marker := none } })
      (length_traceRecord 3 0xF 0 s.trace.seq tick arg)
    exact ⟨hmk, hs, hls, hr, hw, hfull, hwrap⟩
  · rw [traceWrite_lane hf ho hm hn hl]
    obtain ⟨hr, _, hlast, hls, _⟩ := trace_putRecord (s := { s with trace := s.trace.served n rest })
      (length_traceRecord 1 n code s.trace.seq tick arg)
    exact ⟨hlast, (congrArg (·.getD n []) hls).trans (getD_modifyAt_self (lt_length_of_getD hl)), hr⟩

end Sys2Proof.Machine
end

section
/-! PROOFS. Writes of the control bus: the checks of a write in their order (O19), and the writes that are commands (O22). -/
namespace Sys2Proof.Machine
open Sys2Proof

variable {s : State} {priv : Bool} {a width c v n : Nat} {w : Word32}

/-! ### The checks of a write -/

/-- A register stands at an aligned address for a write of 32 bits (R15, R458). -/
def Writes (a width : Nat) : Prop := width = 32 ∧ a % 4 = 0 ∧ fieldsAt a ≠ []

/-- The value sets no reserved bit and is one that the register permits (R8, R70). -/
def LegalValue (s : State) (a v : Nat) : Prop := v &&& fieldMask a = v ∧ valueOk s a v = true

theorem busWrite_of_not_writes (h : ¬ Writes a width) : busWrite priv a width w s = s := by
  unfold busWrite
  rw [if_pos]
  refine Decidable.byContradiction fun hn => ?_
  simp only [Bool.or_eq_true, not_or, decide_eq_true_eq, List.isEmpty_iff] at hn
  obtain ⟨⟨hw, ha⟩, hf⟩ := hn
  exact h ⟨Decidable.of_not_not hw, Decidable.of_not_not ha, hf⟩

/-- A write that reaches a register (R68, R16, R8). -/
theorem busWrite_of_writes (h : Writes a width) :
    busWrite priv a width w s =
      if privileged a && !priv then record (unitOf a) 0x02 s
      else if !writable a then s
      else if w.toNat &&& fieldMask a ≠ w.toNat || !valueOk s a w.toNat then record (unitOf a) 0x1F s
      else legalWrite a w s := by
  obtain ⟨hw, ha, hf⟩ := h
  unfold busWrite
  rw [if_neg]
  simp [hw, ha, hf]

theorem busWrite_denied (h : Writes a width) (hp : ¬ (privileged a = false ∨ priv = true)) :
    busWrite priv a width w s = record (unitOf a) 0x02 s := by
  rw [busWrite_of_writes h, if_pos]
  cases hq : privileged a <;> cases hr : priv <;> simp_all

theorem busWrite_allowed (h : Writes a width) (hp : privileged a = false ∨ priv = true) :
    busWrite priv a width w s =
      if !writable a then s
      else if w.toNat &&& fieldMask a ≠ w.toNat || !valueOk s a w.toNat then record (unitOf a) 0x1F s
      else legalWrite a w s := by
  rw [busWrite_of_writes h, if_neg]
  rcases hp with hp | hp <;> simp [hp]

theorem busWrite_illegal (h : Writes a width) (hp : privileged a = false ∨ priv = true) (hw : writable a = true)
    (hl : ¬ LegalValue s a w.toNat) : busWrite priv a width w s = record (unitOf a) 0x1F s := by
  rw [busWrite_allowed h hp, hw, if_neg (by decide), if_pos]
  refine Decidable.byContradiction fun hn => ?_
  simp only [Bool.or_eq_true, not_or, decide_eq_true_eq, Bool.not_eq_true', Bool.not_eq_false] at hn
  exact hl ⟨Decidable.of_not_not hn.1, hn.2⟩

theorem busWrite_legal (h : Writes a width) (hp : privileged a = false ∨ priv = true) (hw : writable a = true)
    (hl : LegalValue s a w.toNat) : busWrite priv a width w s = legalWrite a w s := by
  obtain ⟨hm, hv⟩ := hl
  rw [busWrite_allowed h hp, hw, if_neg (by decide), if_neg]
  simp [hm, hv]

theorem legalWrite_refused (h : writeRefusal s a w.toNat = some c) : legalWrite a w s = record (unitOf a) c s := by
  unfold legalWrite
  rw [h]

theorem legalWrite_action {f : State → State} (h : writeRefusal s a w.toNat = none) (hf : actionWrite a w = some f) :
    legalWrite a w s = f s := by
  unfold legalWrite
  rw [h, hf]

theorem legalWrite_store (h : writeRefusal s a w.toNat = none) (hf : actionWrite a w = none) :
    legalWrite a w s = s.setWord a (writtenWord s a w.toNat) := by
  unfold legalWrite
  rw [h, hf]

/-- A recorded code is a refusal: the unit's error status alone changes (R69). -/
theorem record_refused {unit : Nat} (h : c < 256) (s : State) : Refused unit c s (record unit c s) :=
  ⟨record_recorded h s, (record_keeps unit c s).frame (.inr (.inr (by decide)))⟩

/-- Settles O19. -/
theorem registerWrites : Obligations.RegisterWrites := by
  intro s priv a width w refused writes allowed legal
  have code : ∀ {c}, c < 256 → busWrite priv a width w s = record (unitOf a) c s →
      Completes (.registerWrite priv a width w) s (refused c) := by
    intro c hc e
    obtain ⟨hr, hf⟩ := record_refused (unit := unitOf a) hc s
    exact ⟨_, congrArg Host.Outcome.next e, hr, hf⟩
  refine ⟨fun h => ⟨_, rfl, busWrite_of_not_writes h⟩, fun h hp => code (by decide) (busWrite_denied h hp),
    fun h hp hw => ⟨_, rfl, ?_⟩, fun h hp hw hl => code (by decide) (busWrite_illegal h hp hw hl),
    fun c h hp hw hl hr hc => code hc ?_, fun h hp hw hl hr ha => ⟨_, rfl, ?_⟩⟩
  · rw [busWrite_allowed h hp, hw]
    rfl
  · rw [busWrite_legal h hp hw hl, legalWrite_refused hr]
  · rw [busWrite_legal h hp hw hl, legalWrite_store hr ha]
    exact ⟨word_setWord_self .., (setWord_keeps s a _).frame (.inr (.inr (by decide)))⟩

/-! ### Writes that are commands -/

/-- A register with fields that a write acts through, which cover the bits of a mask. -/
def actsThrough (a mask : Nat) : Bool := a % 4 = 0 && !(fieldsAt a).isEmpty && writable a && fieldMask a = mask

/-- A write of a register is a command: in a state it is not refused and has the effect of `g`, and a value that the register does
not permit has there the effect of E_REG_VALUE. -/
structure WriteIs (a : Nat) (w : Word32) (s : State) (g : State → State) : Prop where
  writes : Writes a 32
  writable : writable a = true
  permitted : writeRefusal s a w.toNat = none
  acts : ∃ f, actionWrite a w = some f ∧ f s = g s
  illegal : ¬ LegalValue s a w.toNat → g s = record (unitOf a) 0x1F s

variable {g : State → State} {mask k : Nat}

theorem exec_write_command (h : WriteIs a w s g) (hp : privileged a = false ∨ priv = true) :
    exec (.registerWrite priv a 32 w) s = .next (g s) := by
  obtain ⟨f, hf, e⟩ := h.acts
  refine congrArg Host.Outcome.next ?_
  by_cases hl : LegalValue s a w.toNat
  · rw [busWrite_legal h.writes hp h.writable hl, legalWrite_action h.permitted hf, e]
  · rw [busWrite_illegal h.writes hp h.writable hl, h.illegal hl]

theorem exec_write_privileged (h : WriteIs a w s g) (hp : privileged a = true := by decide) :
    exec (.registerWrite priv a 32 w) s = .next (privGate (unitOf a) priv g s) := by
  cases priv with
  | true => exact exec_write_command h (.inr rfl)
  | false => exact congrArg Host.Outcome.next (busWrite_denied h.writes (by simp [hp]))

theorem exec_write_open (h : WriteIs a w s g) (hp : privileged a = false := by decide) :
    exec (.registerWrite priv a 32 w) s = .next (g s) :=
  exec_write_command h (.inl hp)

theorem actsThrough_iff : actsThrough a mask = true ↔ (Writes a 32 ∧ writable a = true ∧ fieldMask a = mask) := by
  simp only [actsThrough, Writes, Bool.and_eq_true, decide_eq_true_eq, Bool.not_eq_true', List.isEmpty_eq_false_iff, true_and, and_assoc]

/-- A write of a value that the register permits. -/
theorem WriteIs.of_legal (h : actsThrough a mask = true) (hm : w.toNat &&& mask = w.toNat)
    (hr : writeRefusal s a w.toNat = none) (hv : valueOk s a w.toNat = true) (ha : ∃ f, actionWrite a w = some f ∧ f s = g s) :
    WriteIs a w s g := by
  obtain ⟨h1, h2, rfl⟩ := actsThrough_iff.mp h
  exact ⟨h1, h2, hr, ha, fun hl => absurd ⟨hm, hv⟩ hl⟩

/-- A write of a register all of whose bits are one field. -/
theorem WriteIs.of_word (h : actsThrough a (2 ^ 32 - 1) = true)
    (hr : writeRefusal s a w.toNat = none) (hv : valueOk s a w.toNat = true) (ha : ∃ f, actionWrite a w = some f ∧ f s = g s) :
    WriteIs a w s g :=
  .of_legal h ((Nat.and_two_pow_sub_one_eq_mod _ 32).trans (Nat.mod_eq_of_lt w.isLt)) hr hv ha

/-- A write of a register whose low bits are one field: the command itself answers a larger value with E_REG_VALUE. -/
theorem WriteIs.of_low (h : actsThrough a (2 ^ k - 1) = true) (hi : 2 ^ k ≤ w.toNat → g s = record (unitOf a) 0x1F s)
    (hr : writeRefusal s a w.toNat = none) (hv : valueOk s a w.toNat = true) (ha : ∃ f, actionWrite a w = some f ∧ f s = g s) :
    WriteIs a w s g := by
  obtain ⟨h1, h2, h3⟩ := actsThrough_iff.mp h
  refine ⟨h1, h2, hr, ha, fun hl => hi (Nat.le_of_not_lt fun hlt => hl ⟨?_, hv⟩)⟩
  rw [h3, Nat.and_two_pow_sub_one_eq_mod, Nat.mod_eq_of_lt hlt]

/-- The registers whose writes are commands, each with the bits of its fields. -/
def commandRegs : List (Nat × Nat) :=
  [(0x100, 2 ^ 5 - 1), (0x200, 1), (0x210, 2 ^ 32 - 1), (0x260, 1), (0x300, 2 ^ 31 + (2 ^ 14 - 1)), (0x328, 2 ^ 4 - 1),
    (0x330, 2 ^ 16 - 1), (0x404, 3), (0x418, 2 ^ 32 - 1), (0x10000, 15), (0x20000, 1), (0x31004, 2 ^ 16 - 1), (0x60000, 7),
    (0x60030, 2 ^ 20 - 1), (0x80000, 1), (0x8000C, 1), (0xA0020, 2 ^ 16 - 1), (0x200000, 15)]

/-- Every one of them stands at an aligned offset and acts through the fields named. -/
theorem commandRegs_act : ∀ x ∈ commandRegs, actsThrough x.1 x.2 = true := by decide +kernel

theorem commandReg {a mask : Nat} (h : (a, mask) ∈ commandRegs := by decide) : actsThrough a mask = true :=
  commandRegs_act (a, mask) h

theorem rlogStart_act : ∀ n < 12, actsThrough (0x2C0 + 4 * n) (2 ^ 32 - 1) = true := by decide +kernel

/-! ### Values above a register's field -/

theorem doCommit_large (h : 2 ^ 5 ≤ w.toNat) : doCommit w s = record uSde 0x1F s := if_pos h

theorem noteSizeWrite_large (h : 2 ^ 4 ≤ w.toNat) : noteSizeWrite w s = record uSde 0x1F s :=
  if_pos (by simp; omega)

theorem noteRdWrite_large (h : 2 ^ 16 ≤ w.toNat) : noteRdWrite w s = record uSde 0x1F s :=
  if_pos (by simp; omega)

theorem sfuTableSel_large (h : 2 ^ 16 ≤ w.toNat) : sfuTableSel w s = record uSfu 0x1F s := if_pos h

theorem cadQuarantine_large (h : 2 ^ 20 ≤ w.toNat) : cadQuarantine w s = record uCad 0x1F s := if_pos h

theorem cceDoorbell_large (h : 2 ^ 16 ≤ w.toNat) : cceDoorbell w ⟨[], []⟩ s = record uCce 0x1F s := if_pos h

/-! ### SDE_FENCE -/

/-- A number whose bits a mask covers. -/
theorem and_eq_self {x m : Nat} (h : ∀ i, x.testBit i = true → m.testBit i = true) : x &&& m = x := by
  refine Nat.eq_of_testBit_eq fun i => ?_
  rw [Nat.testBit_and]
  cases hx : x.testBit i with
  | false => rfl
  | true => exact h i hx

theorem testBit_lt {i : Nat} (hc : c < 2 ^ k) (h : c.testBit i = true) : i < k := by
  refine Nat.lt_of_not_le fun hi => ?_
  have := Nat.testBit_lt_two_pow (Nat.lt_of_lt_of_le hc (Nat.pow_le_pow_right (by decide) hi))
  rw [this] at h
  cases h

/-- The bits that the fields of SDE_FENCE cover: bit 31, which asks for the unfence, and the chip's 14. -/
def fenceMask : Nat := 2 ^ 31 + (2 ^ 14 - 1)

theorem fenceMask_low : ∀ i, i < 14 → fenceMask.testBit i = true := by decide

theorem fence_legal (hc : c < 2 ^ 14) : c &&& fenceMask = c :=
  and_eq_self fun i h => fenceMask_low i (testBit_lt hc h)

theorem unfence_or (hc : c < 2 ^ 14) : 2 ^ 31 + c = 2 ^ 31 ||| c :=
  Nat.two_pow_add_eq_or_of_lt (i := 31) (by omega) 1

theorem unfence_legal (hc : c < 2 ^ 14) : (2 ^ 31 + c) &&& fenceMask = 2 ^ 31 + c := by
  rw [unfence_or hc, Nat.and_or_distrib_right, fence_legal hc]
  rfl

theorem toNat_ofNat_fence {x : Nat} (h : x < 2 ^ 32) : (BitVec.ofNat 32 x).toNat = x :=
  (BitVec.toNat_ofNat ..).trans (Nat.mod_eq_of_lt h)

theorem fence_acts (hc : c < 2 ^ 14) (s : State) :
    ∃ f, actionWrite 0x300 (BitVec.ofNat 32 c) = some f ∧ f s = fenceWrite c s := by
  refine ⟨_, rfl, ?_⟩
  rw [toNat_ofNat_fence (by omega)]
  have hb : bit c 31 = false := Nat.testBit_lt_two_pow (by omega)
  have hl : bits c 13 0 = c := Nat.mod_eq_of_lt hc
  rw [hb, hl]
  rfl

theorem unfence_acts (hc : c < 2 ^ 14) (s : State) :
    ∃ f, actionWrite 0x300 (BitVec.ofNat 32 (2 ^ 31 + c)) = some f ∧ f s = unfenceWrite c s := by
  refine ⟨_, rfl, ?_⟩
  rw [toNat_ofNat_fence (by omega)]
  have hb : bit (2 ^ 31 + c) 31 = true := by
    rw [bit, Nat.testBit_two_pow_add_eq, Nat.testBit_lt_two_pow (by omega)]
    rfl
  have hl : bits (2 ^ 31 + c) 13 0 = c := by
    simp only [bits, Nat.shiftRight_zero]
    omega
  rw [hb, hl]
  rfl

theorem exec_fence (hc : c < 2 ^ 14) :
    exec (.registerWrite priv 0x300 32 (BitVec.ofNat 32 c)) s = exec (.fence priv c) s :=
  exec_write_privileged (.of_legal (mask := fenceMask) commandReg
    (by rw [toNat_ofNat_fence (by omega)]; exact fence_legal hc) rfl rfl (fence_acts hc s))

theorem exec_unfence (hc : c < 2 ^ 14) :
    exec (.registerWrite priv 0x300 32 (BitVec.ofNat 32 (2 ^ 31 + c))) s = exec (.unfence priv c) s :=
  exec_write_privileged (.of_legal (mask := fenceMask) commandReg
    (by rw [toNat_ofNat_fence (by omega)]; exact unfence_legal hc) rfl rfl (unfence_acts hc s))

/-! ### The other command registers -/

/-- SDE_RLOG_START0 to SDE_RLOG_START11: one case for each of the twelve words. -/
theorem exec_rlogStart (hn : n < 12) :
    exec (.registerWrite priv (0x2C0 + 4 * n) 32 w) s = exec (.rlogStart priv n w) s := by
  have h := rlogStart_act n hn
  match n, hn, h with
  | 0, _, h | 1, _, h | 2, _, h | 3, _, h | 4, _, h | 5, _, h | 6, _, h | 7, _, h | 8, _, h | 9, _, h | 10, _, h | 11, _, h =>
    exact exec_write_privileged (.of_word h rfl rfl ⟨_, rfl, rfl⟩)

/-- Settles O22, register by register. -/
theorem writesAreTheirCommands : Obligations.WritesAreTheirCommands := by
  intro s priv w
  refine ⟨?commit, ?go, ?stepLo, ?checkpoint, fun n hn => exec_rlogStart hn, fun c hc => ⟨exec_fence hc, exec_unfence hc⟩,
    ?noteSize, ?noteRd, ?links, ?calibrate, ?tbSetLo, ?load, ?activate, ?disarm, ?abandon, ?lowRearm, ?sfuTableSel, ?stage, ?arm,
    ?listDisarm, ?cadQuarantine, ?freeOrphans, ?cancel, ?cceDoorbell, ?tokenLoad, ?klLoad, ?certLoad, ?chalNew⟩
  case commit => exact exec_write_privileged (.of_low commandReg doCommit_large rfl rfl ⟨_, rfl, rfl⟩)
  case stepLo => exact exec_write_open (.of_word commandReg rfl rfl ⟨_, rfl, rfl⟩)
  case tbSetLo => exact exec_write_open (.of_word commandReg rfl rfl ⟨_, rfl, rfl⟩)
  case noteSize => exact exec_write_open (.of_low commandReg noteSizeWrite_large rfl rfl ⟨_, rfl, rfl⟩)
  case noteRd => exact exec_write_open (.of_low commandReg noteRdWrite_large rfl rfl ⟨_, rfl, rfl⟩)
  case sfuTableSel => exact exec_write_open (.of_low commandReg sfuTableSel_large rfl rfl ⟨_, rfl, rfl⟩)
  case cadQuarantine => exact exec_write_open (.of_low commandReg cadQuarantine_large rfl rfl ⟨_, rfl, rfl⟩)
  case cceDoorbell => exact exec_write_privileged (.of_low commandReg cceDoorbell_large rfl rfl ⟨_, rfl, rfl⟩)
  case go => exact exec_write_privileged (.of_legal (mask := 1) commandReg rfl rfl rfl ⟨_, rfl, rfl⟩)
  case checkpoint => exact exec_write_privileged (.of_legal (mask := 1) commandReg rfl rfl rfl ⟨_, rfl, rfl⟩)
  case links => exact exec_write_privileged (.of_legal (mask := 3) commandReg rfl rfl rfl ⟨_, rfl, rfl⟩)
  case calibrate => exact exec_write_privileged (.of_legal (mask := 3) commandReg rfl rfl rfl ⟨_, rfl, rfl⟩)
  case load => exact exec_write_privileged (.of_legal (mask := 15) commandReg rfl rfl rfl ⟨_, rfl, rfl⟩)
  case activate => exact exec_write_privileged (.of_legal (mask := 15) commandReg rfl rfl rfl ⟨_, rfl, rfl⟩)
  case disarm => exact exec_write_privileged (.of_legal (mask := 15) commandReg rfl rfl rfl ⟨_, rfl, rfl⟩)
  case abandon => exact exec_write_privileged (.of_legal (mask := 15) commandReg rfl rfl rfl ⟨_, rfl, rfl⟩)
  case lowRearm => exact exec_write_open (.of_legal (mask := 1) commandReg rfl rfl rfl ⟨_, rfl, rfl⟩)
  case stage => exact exec_write_privileged (.of_legal (mask := 7) commandReg rfl rfl rfl ⟨_, rfl, rfl⟩)
  case arm => exact exec_write_privileged (.of_legal (mask := 7) commandReg rfl rfl rfl ⟨_, rfl, rfl⟩)
  case listDisarm => exact exec_write_privileged (.of_legal (mask := 7) commandReg rfl rfl rfl ⟨_, rfl, rfl⟩)
  case freeOrphans => exact exec_write_open (.of_legal (mask := 1) commandReg rfl rfl rfl ⟨_, rfl, rfl⟩)
  case cancel => exact exec_write_open (.of_legal (mask := 1) commandReg rfl rfl rfl ⟨_, rfl, rfl⟩)
  case tokenLoad => exact exec_write_privileged (.of_legal (mask := 15) commandReg rfl rfl rfl ⟨_, rfl, rfl⟩)
  case klLoad => exact exec_write_privileged (.of_legal (mask := 15) commandReg rfl rfl rfl ⟨_, rfl, rfl⟩)
  case certLoad => exact exec_write_privileged (.of_legal (mask := 15) commandReg rfl rfl rfl ⟨_, rfl, rfl⟩)
  case chalNew => exact exec_write_privileged (.of_legal (mask := 15) commandReg rfl rfl rfl ⟨_, rfl, rfl⟩)

end Sys2Proof.Machine
end

section
/-! PROOFS. The frames of the control commands (O54). -/
namespace Sys2Proof.Machine
open Sys2Proof

variable {ps : List Part} {as bs : List Area} {s t : State}

/-! ### COMMIT -/

/-- Making values live writes the live copies of their registers (R71). -/
theorem makeLive_keeps_regs {vs : List (Nat × Word32)} (h : ∀ v ∈ vs, Area.reg (v.1 + 0x8000) ∈ as) (s : State) :
    Keeps ps as s (makeLive vs s) := by
  induction vs generalizing s with
  | nil => exact .refl _ _ _
  | cons v vs ih =>
    have hv : Area.reg (v.1 + 0x8000) ∈ as := h v List.mem_cons_self
    rw [makeLive, List.foldl_cons, ← makeLive]
    generalize v.1 + 0x8000 = a at hv ⊢
    have k : Keeps ps as s (s.setWord a v.2) := (setWord_keeps s a v.2).mono (.nil _) (.cons hv (.nil _))
    exact k.trans (ih (fun x hx => h x (List.mem_cons_of_mem _ hx)) _)

/-- The live copies of the sets that COMMIT makes live at once (R72, R73): the injection thresholds and the trace. -/
def liveAtOnce : List Area := ([1, 4].flatMap setRegs).map (fun a => .reg (a + 0x8000))

/-- The shadows of a set that COMMIT names (R72). -/
def committed (s : State) (mask n : Nat) : List (Nat × Word32) :=
  if bit mask n then (setRegs n).map (fun a => (a, shadowWord s a)) else []

theorem committed_liveAtOnce {s : State} {mask n : Nat} (hn : n ∈ [1, 4]) :
    ∀ v ∈ committed s mask n, Area.reg (v.1 + 0x8000) ∈ liveAtOnce := by
  intro v hv
  unfold committed at hv
  split at hv
  · obtain ⟨a, ha, rfl⟩ := List.mem_map.mp hv
    exact List.mem_map.mpr ⟨a, List.mem_flatMap.mpr ⟨n, hn, ha⟩, rfl⟩
  · cases hv

/-- COMMIT makes the values of sets 1 and 4 live, with the commit state changed, and restarts the trace with set 4 (R72). -/
theorem commitSets_eq (mask : Nat) (s : State) : ∃ c,
    commitSets mask s =
      if bit mask 4 then traceRestart (makeLive (committed s mask 1 ++ committed s mask 4) { s with commits := c })
      else makeLive (committed s mask 1 ++ committed s mask 4) { s with commits := c } := ⟨_, rfl⟩

theorem commitSets_keeps_regs (mask : Nat) (s : State) : Keeps [.commits, .trace] liveAtOnce s (commitSets mask s) := by
  obtain ⟨c, e⟩ := commitSets_eq mask s
  have k : Keeps [.commits, .trace] liveAtOnce s
      (makeLive (committed s mask 1 ++ committed s mask 4) { s with commits := c }) := by
    refine Keeps.trans (t := { s with commits := c }) (KeepsMk.set_commits (.refl _ _ _) (.of_all (by decide))) ?_
    refine makeLive_keeps_regs (fun v h => ?_) _
    rcases List.mem_append.mp h with h | h
    · exact committed_liveAtOnce (by decide) v h
    · exact committed_liveAtOnce (by decide) v h
  rw [e]
  exact Keeps.ite (fun _ => (traceRestart_keeps _).via k (.of_all (by decide)) (.nil _)) (fun _ => k)

theorem doCommit_keeps_regs (value : Word32) (s : State) :
    Keeps [.commits, .trace, .fep] (.reg (uSde + 8) :: liveAtOnce) s (doCommit value s) := by
  have hr : ∀ code c, Keeps [.commits, .trace, .fep] (.reg (uSde + 8) :: liveAtOnce) s (record uSde code { s with commits := c }) :=
    fun code c => (record_keeps uSde code _).via
      (KeepsMk.set_commits (.refl _ _ _) (.of_all (by decide))) (.nil _) (.cons List.mem_cons_self (.nil _))
  unfold doCommit
  dsimp only
  split
  · exact (record_keeps uSde _ s).mono (.nil _) (.cons List.mem_cons_self (.nil _))
  · split
    · exact .refl _ _ _
    · split
      · exact hr _ _
      · split
        · exact hr _ _
        · exact (throttleRise_keeps _).via ((commitSets_keeps_regs _ s).mono (.of_all (by decide))
            (.of_within fun _ h => List.mem_cons_of_mem _ h)) (.of_all (by decide)) (.nil _)

/-! ### READ_CLEAR -/

/-- What a read changes after the errors that it has met have been taken. -/
theorem readClear_keeps_after (priv : Bool) (a : Nat) (errs : Errs) (s : State) :
    Keeps [.out] [.reg a, .reg 0x414, .reg 0x300024] (takeErrors errs s) (readClear priv a errs s) := by
  unfold readClear
  dsimp only
  split
  · exact .refl _ _ _
  · refine (emitOut_keeps _ _).via (.via (busReadAt_keeps_reg priv a _) ?_ (.nil _) (.of_within fun x h => ?_)) (fun _ h => h) (.nil _)
    · split
      · exact (setField_keeps _ _ _ _ _).mono (.nil _) (.of_within (by simp [Within]))
      · exact .refl _ _ _
    · rcases List.mem_cons.mp h with rfl | h
      · exact List.mem_cons_self
      · exact List.mem_cons_of_mem _ (by simp_all)

/-- READ_CLEAR: memory beyond the notice ring reads as before. -/
theorem readClear_mem (priv : Bool) (a : Nat) (errs : Errs) (s : State) :
    MemSameOff (fun _ => False) s (readClear priv a errs s) := by
  intro b hb _
  have e : (readClear priv a errs s).mem = (takeErrors errs s).mem :=
    (readClear_keeps_after priv a errs s).parts .mem (by decide) (by decide)
  rw [e]
  exact (takeErrors_keeps errs s).beyond (by decide) (ringFree_of_ringFixed rfl) b hb

theorem readClear_frame (priv : Bool) (a : Nat) (errs : Errs) (s : State) :
    Frame (([.mem, .beyond, .rlog, .mgmtNext, .note, .cadRefetch] : List Part) ++ abortParts) (([.reg a, .reg 0x414, .reg
      0x300024, .reg 0x8, .reg 0x20008, .reg 0x20080, .reg 0x20084, .reg 0x20088, .reg 0x30030, .reg 0x31038, .reg
      0xA0008, .station] : List Area) ++ noteAreas ++ abortAreas) s (readClear priv a errs s) := by
  refine Keeps.frame (.trans ((takeErrors_keeps errs s).mono (.of_all (by decide)) (.of_within fun x h => ?_))
    ((readClear_keeps_after priv a errs s).mono (.of_all (by decide)) (.of_within fun x h => ?_))) (.inr (.inl (by decide)))
  · exact .tail _ (.tail _ (.tail _ h))
  · simp only [List.mem_cons, List.not_mem_nil, or_false] at h
    rcases h with rfl | rfl | rfl
    · exact .head _
    · exact .tail _ (.head _)
    · exact .tail _ (.tail _ (.head _))

/-! ### The statement -/

/-- Settles O54, clause by clause: each frame is that of the command's operation. -/
theorem controlFrames : Obligations.ControlFrames := by
  intro s t
  refine ⟨?tbSetLo, ?tbLoRead, ?tbExhausted, ?resetRelease, ?fuseReadDone, ?selftestDone, ?sfuTableCopyDone, ?sfuTableSel,
    ?rclkLock, ?timebaseTimeout, ?holdover, ?throttle, ?links, ?calibrate, ?time, ?timeAnswer, ?calibrationDone, ?tap, ?tapOut,
    ?dbgChal, ?dbgUnlock, ?load, ?loader, ?platLoadDone, ?commit, ?readClear, ?traceWindowRead, ?registerWrite, ?dbgReg, ?dbgSram,
    ?traceWrite, ?drbgReseed, ?entropyFail, ?secLoads, ?secChecks, ?chalNew⟩
  case tbSetLo => exact fun ⟨_, h⟩ => Keeps.frameOf rfl (tbSetLo_keeps _ s) h
  case tbLoRead => exact fun h => Keeps.frameOf rfl (emit_after _ (tbLoRead_keeps s)) h
  case tbExhausted => exact fun h => Keeps.frameOf rfl (tbExhausted_keeps s) h
  case resetRelease => exact fun ⟨_, h⟩ => Keeps.frameOf rfl (resetRelease_keeps _ s) h
  case fuseReadDone => exact fun ⟨_, h⟩ => Keeps.frameOf rfl (fuseReadDone_keeps _ s) h
  case selftestDone => exact fun ⟨_, _, h⟩ => Keeps.frameOf rfl (selftestDone_keeps _ _ s) h
  case sfuTableCopyDone => exact fun h => Keeps.frameOf rfl (sfuCopyDone_keeps s) h
  case sfuTableSel => exact fun ⟨_, h⟩ => Keeps.frameOf rfl (sfuTableSel_keeps _ s) h
  case rclkLock => exact fun h => Keeps.frameOf rfl (rclkLock_keeps s) h
  case timebaseTimeout => exact fun h => Keeps.frameOf rfl (timebaseTimeout_keeps s) h
  case holdover => exact fun h => Keeps.frameOf rfl (holdover_keeps s) h
  case throttle =>
    rintro (⟨_, _, h⟩ | ⟨_, h⟩)
    · exact Keeps.frameOf rfl (throttleRequest_keeps _ _ s) h
    · exact Keeps.frameOf rfl (clockStep_keeps _ _ s) h
  case links => exact fun ⟨_, h⟩ => Keeps.frameOf rfl (privGate_keeps bootLinks_keeps) h
  case calibrate => exact fun ⟨_, h⟩ => Keeps.frameOf rfl (privGate_keeps bootCalibrate_keeps) h
  case time => exact fun ⟨_, _, h⟩ => Keeps.frameOf rfl (mgmtTime_keeps _ _ s) h
  case timeAnswer => exact fun ⟨_, _, h⟩ => Keeps.frameOf rfl (timeAnswer_keeps _ s) h
  case calibrationDone => exact fun ⟨_, h⟩ => Keeps.frameOf rfl (calibrationDone_keeps _ s) h
  case tap =>
    rintro (⟨_, h⟩ | h)
    · exact Keeps.frameOf rfl (setTap_keeps _) h
    · exact Keeps.frameOf rfl (setTap_keeps _) h
  case tapOut =>
    rintro (h | ⟨_, h⟩ | ⟨_, h⟩ | h)
    · exact Keeps.frameOf rfl (emitTap_keeps _ _) h
    · exact Keeps.frameOf rfl (emitTap_keeps _ _) h
    · exact (bypass_keeps h).frame (by decide)
    · exact (dbgHalt_keeps h).frame (by decide)
  case dbgChal => exact fun h => Keeps.frameOf rfl (setTap_then drawChallenge_keeps) h
  case dbgUnlock => exact fun ⟨_, h⟩ => Keeps.frameOf rfl (setTap_then (deliver_keeps _)) h
  case load => exact fun ⟨_, h⟩ => Keeps.frameOf rfl (privGate_keeps ldrLoad_keeps) h
  case loader =>
    rintro (⟨_, h⟩ | ⟨_, h⟩ | ⟨_, h⟩)
    · exact Keeps.frameOf rfl (privGate_keeps ldrAbandon_keeps) h
    · exact Keeps.frameOf rfl (privGate_keeps ldrActivate_keeps) h
    · exact Keeps.frameOf rfl (privGate_keeps ldrDisarm_keeps) h
  case platLoadDone => exact fun env h => Keeps.frameOf rfl (platLoadDone_keeps_env env s) h
  case commit => exact fun _ value h => Keeps.frameOf rfl (privGate_keeps (doCommit_keeps_regs value)) h
  case readClear =>
    intro priv addr errs h
    cases (show execReadClear priv addr s errs = .next t from h)
    exact ⟨readClear_frame priv addr errs s, readClear_mem priv addr errs s⟩
  case traceWindowRead => exact fun ⟨_, _, h⟩ => Keeps.frameOf rfl (traceWindowRead_keeps _ _ s) h
  case registerWrite => exact fun ⟨_, _, _, _, h⟩ => Keeps.frameOf rfl (busWrite_keeps _ _ _ _ s) h
  case dbgReg => exact fun _ h => (dbgReg_keeps h).frame (.inr (.inr (by decide)))
  case dbgSram => exact fun ⟨_, h⟩ => (dbgSram_keeps h).frame (by decide)
  case traceWrite => exact fun ⟨_, h⟩ => Keeps.frameOf rfl (traceWrite_keeps _ s) h
  case drbgReseed => exact fun h => Keeps.frameOf rfl (drbgReseed_keeps s) h
  case entropyFail => exact fun h => Keeps.frameOf rfl (entropyFail_keeps s) h
  case secLoads =>
    rintro (⟨_, h⟩ | ⟨_, h⟩ | ⟨_, h⟩)
    · exact Keeps.frameOf rfl (privGate_keeps certLoad_keeps) h
    · exact Keeps.frameOf rfl (privGate_keeps klLoad_keeps) h
    · exact Keeps.frameOf rfl (privGate_keeps fun _ => deliver_keeps _ _) h
  case secChecks =>
    rintro env (h | h | h)
    · exact Keeps.frameOf rfl (certCheckDone_keeps_env env s) h
    · exact Keeps.frameOf rfl (keylistCheckDone_keeps_env env s) h
    · exact Keeps.frameOf rfl (tokenCheckDone_keeps_env env s) h
  case chalNew => exact fun ⟨_, h⟩ => Keeps.frameOf rfl (privGate_keeps drawChallenge_keeps) h

end Sys2Proof.Machine
end

section
/-! PROOFS. The datum up to its agreement round (O29): GO and SDE_STEP_LO, action 1 of R65, and the contribution to the round. -/
namespace Sys2Proof.Machine
open Sys2Proof

variable {s t x y : State} {k : RoundKey} {payload : Bytes}

/-! ### GO and SDE_STEP_LO -/

theorem doGo_ready (h : s.boot.stage = .ready ∨ s.boot.stage = .running) : doGo s = modDat (fun d => { d with go := true }) s := by
  unfold doGo
  rw [if_pos]
  rcases h with h | h <;> simp [h]

theorem doGo_early (h : s.boot.stage ≠ .ready) (h' : s.boot.stage ≠ .running) : doGo s = record uSde 0x03 s := by
  unfold doGo
  rw [if_neg]
  simp [h, h']

theorem stepLo_started {v : Word32} (h : s.boot.firstDatumDone = true) : stepLo v s = record uSde 0x1B s := by
  simp [stepLo, h]

theorem stepLo_large {v : Word32} (h : s.boot.firstDatumDone = false)
    (hn : 2 ^ 56 - 2 ^ 48 < s.field 0x214 23 0 * 2 ^ 32 + v.toNat) : stepLo v s = record uSde 0x16 s := by
  unfold stepLo
  rw [h, if_neg (by decide), if_pos hn]

theorem stepLo_set {v : Word32} (h : s.boot.firstDatumDone = false)
    (hn : s.field 0x214 23 0 * 2 ^ 32 + v.toNat ≤ 2 ^ 56 - 2 ^ 48) :
    stepLo v s = { s with stepNum := s.field 0x214 23 0 * 2 ^ 32 + v.toNat } := by
  unfold stepLo
  rw [h, if_neg (by decide), if_neg (Nat.not_lt.mpr hn)]

/-! ### A contribution to a round -/

/-- A chip has contributed a payload to the round of a key. -/
def Owns (k : RoundKey) (payload : Bytes) (s : State) : Prop := ∃ r ∈ s.rounds, r.key = k ∧ r.own = some payload

theorem Owns.of_rounds (h : Owns k payload s) (e : t.rounds = s.rounds) : Owns k payload t := by
  unfold Owns
  rw [e]
  exact h

/-- A change of a round that leaves its key and its own contribution. -/
theorem Owns.modRound {k' : RoundKey} {f : Round → Round} (h : Owns k payload s)
    (hf : ∀ r, (f r).key = r.key ∧ (f r).own = r.own) : Owns k payload (modRound k' f s) := by
  obtain ⟨r, hr, hk, ho⟩ := h
  refine ⟨_, List.mem_map.mpr ⟨r, hr, rfl⟩, ?_, ?_⟩
  · split
    · exact (hf r).1.trans hk
    · exact hk
  · split
    · exact (hf r).2.trans ho
    · exact ho

theorem Owns.sendExpress {k' : RoundKey} {dst type opw : Nat} {b : Bytes} (h : Owns k payload s) :
    Owns k payload (sendExpress dst type opw k' b s) :=
  h.of_rounds ((sendExpress_keeps dst type opw k' b s).parts .rounds (by decide) (by decide))

theorem Owns.foldl {α : Type} {f : State → α → State} (hf : ∀ y a, Owns k payload y → Owns k payload (f y a)) {l : List α}
    (h : Owns k payload s) : Owns k payload (l.foldl f s) := by
  induction l generalizing s with
  | nil => exact h
  | cons a l ih => exact ih (hf s a h)

theorem Owns.askCopy {k' : RoundKey} {opw c dst : Nat} (h : Owns k payload s) : Owns k payload (askCopy k' opw c dst s) :=
  (h.modRound (f := fun r => { r with asked := r.asked ++ [(c, dst)] }) fun _ => ⟨rfl, rfl⟩).sendExpress

theorem Owns.askRack {k' : RoundKey} (h : Owns k payload s) : Owns k payload (askRack k' s) := by
  unfold Machine.askRack
  split
  · exact h
  · exact .foldl (fun _ _ hy => hy.sendExpress) (h.modRound fun _ => ⟨rfl, rfl⟩)

theorem Owns.askCopies {k' : RoundKey} {f : Nat} (h : Owns k payload s) : Owns k payload (askCopies k' f s) := by
  unfold Machine.askCopies
  split
  · exact h
  · dsimp only
    split
    · exact h.askRack
    · have h1 : ∀ (b : Bool) (l : List Nat) (o : Nat), Owns k payload
          (if b = true then s else l.foldl (fun s c => Machine.askCopy k' o f c s) s) := by
        intro b l o
        split
        · exact h
        · exact .foldl (fun _ _ hy => hy.askCopy) h
      split
      · exact .foldl (fun _ _ hy => hy.askCopy) (h1 _ _ _)
      · exact h1 _ _ _

theorem exists_openRound (k : RoundKey) (opw : Nat) (ms : List Nat) (s : State) : ∃ r ∈ (openRound k opw ms s).rounds, r.key = k := by
  unfold openRound
  split
  · next h =>
    obtain ⟨r, hr⟩ := Option.isSome_iff_exists.mp h
    exact ⟨r, List.mem_of_find?_eq_some hr, by simpa using List.find?_some hr⟩
  · exact ⟨_, List.mem_append_right _ List.mem_cons_self, rfl⟩

theorem owns_modRound_openRound (k : RoundKey) (opw : Nat) (ms : List Nat) (payload : Bytes) (s : State) :
    Owns k payload (modRound k (fun r => { r with own := some payload, members := ms }) (openRound k opw ms s)) := by
  obtain ⟨r, hr, hk⟩ := exists_openRound k opw ms s
  refine ⟨_, List.mem_map.mpr ⟨r, hr, rfl⟩, ?_, ?_⟩ <;> simp [hk]

/-- A contribution stands in the round of its key (R303). -/
theorem owns_contribute (k : RoundKey) (opw : Nat) (ms : List Nat) (payload : Bytes) (s : State) :
    Owns k payload (contribute k opw ms payload s) := by
  unfold contribute
  have h := owns_modRound_openRound k opw ms payload (if ((roundAt s k).map Round.ended).getD false then renewRound k s else s)
  dsimp only
  split
  · split
    · split
      · exact h.sendExpress.askCopies
      · exact h.sendExpress
    · exact h.sendExpress
  · exact h

/-! ### The agreement round -/

/-- The fingerprints and the key of the agreement round are of the datum, the plats, the list and the registers. -/
theorem agreement_congr (k : Keeps [.out, .rounds, .fep] [] s t) :
    agreementBytes t = agreementBytes s ∧ datumKey t kAgreement = datumKey s kAgreement := by
  have hldr : t.ldr = s.ldr := k.parts .ldr (by decide) (by decide)
  have hlst : t.lst = s.lst := k.parts .lst (by decide) (by decide)
  have hdat : t.dat = s.dat := k.parts .dat (by decide) (by decide)
  have hboot : t.boot = s.boot := k.parts .boot (by decide) (by decide)
  have hstep : t.stepNum = s.stepNum := k.parts .stepNum (by decide) (by decide)
  have hfuses : t.fuses = s.fuses := k.parts .fuses (by decide) (by decide)
  have hsfu : t.sfuVersion = s.sfuVersion := k.parts .sfuVersion (by decide) (by decide)
  have hlat : t.latched = s.latched := k.parts .latched (by decide) (by decide)
  have hfen : t.fences = s.fences := k.parts .fences (by decide) (by decide)
  have hword : t.word 0x8010 = s.word 0x8010 := k.regs _ (by simp)
  constructor
  · simp only [agreementBytes, platFp, listFp, stateFp, platToRun, armedPlat, nextStep, sig0, State.step_, hldr, hlst, hdat, hboot,
      hstep, hfuses, hsfu, hlat, hfen, hword]
  · simp only [datumKey, internalKey, nextStep, hboot, hstep]

/-- No check of an armed plat is left to do before the agreement (R62, R369). -/
def checksDone (s : State) : Prop := ∀ p, armedPlat s = some p → s.dat.checked = some p.hash

/-- The datum as it stands at its agreement round. -/
def atAgreement (s : State) : State :=
  modDat (fun d => { d with phase := .agreement, contribTick := s.tb, refuse := maxNat (d.refuse :: chipCodes s)
                            repartition := match armedPlat s with
                              | some p => p.partition != partitionLive s
                              | none => false }) s

theorem tryAgreement_eq (hq : s.quarUndelivered = 0) (hc : checksDone s) :
    tryAgreement s = contribute (datumKey (atAgreement s) kAgreement) (opMax 8) (unfenced (atAgreement s)) (agreementBytes (atAgreement s))
      (atAgreement s) := by
  unfold tryAgreement
  dsimp only
  rw [if_neg]
  · rfl
  · cases h : armedPlat s with
    | none => simp [hq]
    | some p => simp [hq, hc p h]

/-- Whatever the condition looks like, one of the two branches is taken; the condition need not be written out. -/
theorem ite_takes_branch {α : Type} (p : Prop) [Decidable p] (x y : α) : (if p then x else y) = x ∨ (if p then x else y) = y := by
  by_cases h : p
  · exact .inl (if_pos h)
  · exact .inr (if_neg h)

theorem tryAgreement_cases (s : State) : tryAgreement s = s ∨
    tryAgreement s = contribute (datumKey (atAgreement s) kAgreement) (opMax 8) (unfenced (atAgreement s)) (agreementBytes (atAgreement s))
      (atAgreement s) := by
  unfold tryAgreement
  exact ite_takes_branch _ _ _

/-- A contribution to the agreement round changes the datum, the round and what is sent, and no register. -/
theorem tryAgreement_keeps_regs (s : State) : Keeps [.out, .dat, .rounds, .fep] [] s (tryAgreement s) := by
  rcases tryAgreement_cases s with e | e
  · rw [e]
    exact .refl _ _ _
  · rw [e]
    exact (contribute_keeps _ _ _ _ _).via ((modDat_keeps _ s).mono (.of_all (by decide)) (.nil _)) (.of_all (by decide)) (.nil _)

theorem dat_contribute {opw : Nat} {ms : List Nat} : (contribute k opw ms payload s).dat = s.dat :=
  (contribute_keeps k opw ms payload s).parts .dat (by decide) (by decide)

theorem le_foldl_max (l : List Nat) (a : Nat) : a ≤ l.foldl max a := by
  induction l generalizing a with
  | nil => exact Nat.le_refl _
  | cons b l ih => exact Nat.le_trans (Nat.le_max_left a b) (ih _)

theorem le_maxNat_cons (a : Nat) (l : List Nat) : a ≤ maxNat (a :: l) :=
  Nat.le_trans (Nat.le_max_right 0 a) (le_foldl_max l _)

/-- Neither the check done nor a code of refusal is lost on the way to the agreement round. -/
theorem tryAgreement_dat (s : State) :
    (tryAgreement s).dat.checked = s.dat.checked ∧ s.dat.refuse ≤ (tryAgreement s).dat.refuse := by
  rcases tryAgreement_cases s with e | e
  · rw [e]
    exact ⟨rfl, Nat.le_refl _⟩
  · rw [e, dat_contribute]
    exact ⟨rfl, le_maxNat_cons _ _⟩

/-- The chip has contributed its fingerprints to the agreement round at a tick (R370). -/
def Contributed (tick : Nat) (t : State) : Prop :=
  t.dat.phase = .agreement ∧ t.dat.contribTick = tick ∧ Owns (datumKey t kAgreement) (agreementBytes t) t

theorem tryAgreement_contributed (hq : s.quarUndelivered = 0) (hc : checksDone s) : Contributed s.tb (tryAgreement s) := by
  rw [tryAgreement_eq hq hc]
  have e := agreement_congr (contribute_keeps (datumKey (atAgreement s) kAgreement) (opMax 8) (unfenced (atAgreement s))
    (agreementBytes (atAgreement s)) (atAgreement s))
  unfold Contributed
  rw [e.1, e.2, dat_contribute]
  exact ⟨rfl, rfl, owns_contribute _ _ _ _ _⟩

/-! ### Action 1 of R65 -/

/-- The live copy of a register after values have been made live: the value for it, where one is given. -/
theorem word_makeLive {vs : List (Nat × Word32)} (hn : (vs.map (·.1)).Nodup) (a : Nat) (s : State) :
    (makeLive vs s).word (a + 0x8000) = ((vs.find? (fun v => v.1 = a)).map (·.2)).getD (s.word (a + 0x8000)) := by
  induction vs generalizing s with
  | nil => rfl
  | cons v vs ih =>
    obtain ⟨hv, hvs⟩ := List.nodup_cons.mp hn
    rw [makeLive, List.foldl_cons, ← makeLive, ih hvs]
    by_cases h : v.1 = a
    · have hf : vs.find? (fun v => v.1 = a) = none :=
        List.find?_eq_none.mpr fun x hx => by
          simpa using fun e => hv (List.mem_map.mpr ⟨x, hx, e.trans h.symm⟩)
      rw [hf, List.find?_cons_of_pos (by simpa using h), h, word_setWord_self]
      rfl
    · rw [List.find?_cons_of_neg (by simpa using h), word_setWord_other _ (by omega)]

/-- A register that holds no live copy of the values made live. -/
theorem word_makeLive_other {vs : List (Nat × Word32)} {a : Nat} (h : ∀ v ∈ vs, v.1 + 0x8000 ≠ a) (s : State) :
    (makeLive vs s).word a = s.word a := by
  induction vs generalizing s with
  | nil => rfl
  | cons v vs ih =>
    rw [makeLive, List.foldl_cons, ← makeLive, ih fun x hx => h x (List.mem_cons_of_mem _ hx)]
    exact word_setWord_other _ (h v List.mem_cons_self).symm _

/-- The pending sets become live (R73). -/
theorem liveWord_applyPending (hn : (s.commits.values.map (·.1)).Nodup) (a : Nat) : liveWord (applyPending s) a = nextWord s a :=
  word_makeLive hn a s

/-- The registers of the sets that COMMIT leaves pending for the datum (R73). -/
def pendingRegs : List Nat := [0, 2, 3].flatMap setRegs

theorem latched_not_live : ∀ a ∈ latchedRegs, ∀ r ∈ pendingRegs, r + 0x8000 ≠ a := by decide

theorem word_applyPending {a : Nat} (hv : ∀ v ∈ s.commits.values, v.1 ∈ pendingRegs) (ha : a ∈ latchedRegs) :
    (applyPending s).word a = s.word a :=
  word_makeLive_other (fun v h => latched_not_live a ha v.1 (hv v h)) s

theorem storeGet_foldl_storeSet (f : Nat → Word32) {as : List Nat} {a : Nat} (l : Store Word32)
    (h : a ∈ as ∨ storeGet (resetWord a) a l = f a) :
    storeGet (resetWord a) a (as.foldl (fun l b => storeSet (resetWord b) b (f b) l) l) = f a := by
  induction as generalizing l with
  | nil => exact h.resolve_left List.not_mem_nil
  | cons b as ih =>
    refine ih _ ?_
    by_cases e : a = b
    · subst e
      exact .inr (storeGet_set_self ..)
    · rw [storeGet_set_other _ _ e]
      exact h.imp_left fun hm => (List.mem_cons.mp hm).resolve_left e

/-- The RW fields whose effect is at the next step take the stored word (R18). -/
theorem latched_latchFields {a : Nat} (ha : a ∈ latchedRegs) : storeGet (resetWord a) a (latchFields s).latched = s.word a := by
  have hne : a ≠ 0x41020 ∧ a ≠ 0x41024 ∧ a ≠ 0x30034 :=
    (show ∀ a ∈ latchedRegs, a ≠ 0x41020 ∧ a ≠ 0x41024 ∧ a ≠ 0x30034 by decide) a ha
  obtain ⟨h1, h2, h3⟩ := hne
  refine (storeGet_foldl_storeSet _ _ (.inl ha)).trans ?_
  rw [word_setWord_other _ h3, word_setWord_other _ h2, word_setWord_other _ h1]

theorem applyQuarantines_pending (s : State) :
    (applyQuarantines s).quarPending = s.quarPending.filter (fun q => nextStep s < q.step) :=
  (Keeps.foldl (.refl _ _ _) fun y q => applyQuarantine_keeps q y).parts .quarPending (by decide) (by decide)

theorem applyUnfences_fences (s : State) :
    (applyUnfences s).fences = s.fences.filter (fun c => !s.unfences.contains c) ∧ (applyUnfences s).unfences = [] := by
  have k : ∀ (l : List TxFlow) (y : State),
      Keeps [.out, .fep] [] y (l.foldl (fun s f => releaseFallback f.dst f.lc s) y) :=
    fun l y => .foldl (.refl _ _ _) fun x f => releaseFallback_keeps f.dst f.lc x
  exact ⟨(k _ _).parts .fences (by decide) (by decide), (k _ _).parts .unfences (by decide) (by decide)⟩

/-- Action 1 after the pending sets are live: latches, quarantines and unfences. -/
theorem actionOne_keeps_pending (s : State) :
    Keeps [.out, .mem, .latched, .fences, .unfences, .note, .cad, .lst, .quarPending, .fep]
      ([.reg 0x30034, .reg 0x41020, .reg 0x41024] ++ noteAreas) (applyPending s) (actionOne s) :=
  (applyUnfences_keeps _).via ((applyQuarantines_keeps _).via
    ((latchFields_keeps _).mono (.of_all (by decide)) (.of_all (by decide)))
    (.of_all (by decide)) (.of_all (by decide))) (.of_all (by decide)) (.nil _)

/-- The registers that action 1 writes after the pending sets are live: SCORE_ANCHOR, TALLY_LANDING, TALLY_TRIPS and those of
a notice. -/
def actionRegs : List Nat := [0x30034, 0x41020, 0x41024, 0x32C, 0x334, 0x338]

theorem live_not_actionRegs : ∀ n < 5, ∀ a ∈ setRegs n, a + 0x8000 ∉ actionRegs := by decide

theorem liveWord_actionOne {n a : Nat} (hn : n < 5) (ha : a ∈ setRegs n) :
    liveWord (actionOne s) a = liveWord (applyPending s) a := by
  refine (actionOne_keeps_pending s).regs _ fun x hx hh => live_not_actionRegs n hn a ha ?_
  obtain ⟨b, hb, rfl⟩ := List.mem_map.mp (show x ∈ actionRegs.map Area.reg from hx)
  exact (show a + 0x8000 = b from hh) ▸ hb

/-- What action 1 of R65 leaves: pending sets live (R73), the next-step fields latched (R18), quarantines taken out of those
that wait (R238), and the unfenced chips' bits cleared (R425). -/
structure ActionOne (s t : State) : Prop where
  values : t.commits.values = []
  mask : t.commits.mask = 0
  live : ∀ n, n < 5 → ∀ a ∈ setRegs n, liveWord t a = nextWord s a
  latched : ∀ a ∈ latchedRegs, storeGet (resetWord a) a t.latched = s.word a
  pending : t.quarPending = s.quarPending.filter (fun q => nextStep s < q.step)
  unfences : t.unfences = []
  fences : t.fences = s.fences.filter (fun c => !s.unfences.contains c)

/-- What the datum has before it that its first parts leave: the step, the fences and the quarantines that wait. -/
theorem latchFields_applyPending (s : State) :
    nextStep (latchFields (applyPending s)) = nextStep s ∧ (latchFields (applyPending s)).quarPending = s.quarPending ∧
      (latchFields (applyPending s)).fences = s.fences ∧ (latchFields (applyPending s)).unfences = s.unfences := by
  have k : Keeps [.commits, .latched] [.all] s (latchFields (applyPending s)) :=
    (latchFields_keeps _).via ((applyPending_keeps s).mono (.of_all (by decide)) (.of_within fun _ h => h))
      (.of_all (by decide)) (.all List.mem_cons_self)
  have hboot : (latchFields (applyPending s)).boot = s.boot := k.parts .boot (by decide) (by decide)
  have hstep : (latchFields (applyPending s)).stepNum = s.stepNum := k.parts .stepNum (by decide) (by decide)
  refine ⟨?_, k.parts .quarPending (by decide) (by decide), k.parts .fences (by decide) (by decide),
    k.parts .unfences (by decide) (by decide)⟩
  rw [nextStep, hboot, hstep]
  rfl

theorem actionOne_of_commits (hn : (s.commits.values.map (·.1)).Nodup) (hv : ∀ v ∈ s.commits.values, v.1 ∈ pendingRegs) :
    ActionOne s (actionOne s) := by
  obtain ⟨hstep, hquar, hfen, hunf⟩ := latchFields_applyPending s
  have kq := applyQuarantines_keeps (latchFields (applyPending s))
  have ku := applyUnfences_keeps (applyQuarantines (latchFields (applyPending s)))
  have kp := actionOne_keeps_pending s
  have hc : (actionOne s).commits = (applyPending s).commits := kp.parts .commits (by decide) (by decide)
  obtain ⟨hf, hu⟩ := applyUnfences_fences (applyQuarantines (latchFields (applyPending s)))
  refine ⟨congrArg Commits.values hc, congrArg Commits.mask hc, fun n hn' a ha => ?live, fun a ha => ?latched, ?quar, hu,
    hf.trans ?fences⟩
  case live =>
    rw [← liveWord_applyPending hn a, liveWord_actionOne hn' ha]
  case latched =>
    rw [← word_applyPending hv ha, ← latched_latchFields ha]
    congr 1
    exact (ku.parts .latched (by decide) (by decide)).trans (kq.parts .latched (by decide) (by decide))
  case quar =>
    rw [← hstep, ← hquar, ← applyQuarantines_pending]
    exact ku.parts .quarPending (by decide) (by decide)
  case fences =>
    rw [← hfen, ← hunf, show (applyQuarantines _).fences = _ from kq.parts .fences (by decide) (by decide),
      show (applyQuarantines _).unfences = _ from kq.parts .unfences (by decide) (by decide)]

/-! ### DATUM_BEGIN and CADASTRE_CHECK_DONE -/

/-- Action 1 is not undone by what changes neither the commits, the latches, the fences, the quarantines nor a register. -/
theorem ActionOne.after (h : ActionOne s x) (k : Keeps [.out, .dat, .rounds, .fep] [] x t) : ActionOne s t := by
  have hcommits : t.commits = x.commits := k.parts .commits (by decide) (by decide)
  have hlatched : t.latched = x.latched := k.parts .latched (by decide) (by decide)
  have hpending : t.quarPending = x.quarPending := k.parts .quarPending (by decide) (by decide)
  have hunf : t.unfences = x.unfences := k.parts .unfences (by decide) (by decide)
  have hfen : t.fences = x.fences := k.parts .fences (by decide) (by decide)
  have hword : ∀ a, t.word a = x.word a := fun a => k.regs a (by simp)
  exact ⟨hcommits ▸ h.values, hcommits ▸ h.mask, fun n hn a ha => (hword _).trans (h.live n hn a ha), hlatched ▸ h.latched,
    hpending ▸ h.pending, hunf ▸ h.unfences, hfen ▸ h.fences⟩

/-- What other agents have written to memory is no part of what action 1 speaks of. -/
theorem ActionOne.of_withEnv {env : MemEnv} (h : ActionOne (withEnv env s) t) : ActionOne s t :=
  ⟨h.values, h.mask, h.live, h.latched, h.pending, h.unfences, h.fences⟩

/-- With no plat armed nothing is checked before the agreement. -/
theorem beginCheck_none (h : armedPlat s = none) :
    beginCheck s = modDat (fun d => { d with checking := none, checked := none, refuse := 0 }) s := by
  unfold beginCheck
  rw [h]

theorem checksDone_none (h : armedPlat s = none) : checksDone s := fun p hp => by
  rw [h] at hp
  cases hp

/-- The state in which the agreement is tried: action 1 has been taken, by this datum or by an earlier command of it. -/
def begun (s : State) : State :=
  if s.dat.began then s
  else modDat (fun d => { d with began := true, checking := none, checked := none, refuse := 0 }) (actionOne s)

theorem begun_keeps (s : State) :
    Keeps [.out, .mem, .beyond, .commits, .latched, .dat, .fences, .unfences, .note, .cad, .lst, .quarPending, .fep] [.all] s (begun s) :=
  Keeps.ite (fun _ => .refl _ _ _) fun _ => (modDat_keeps _ _).via
    ((actionOne_keeps s).mono (.of_all (by decide)) (.all List.mem_cons_self)) (.of_all (by decide)) (.nil _)

theorem datumBegin_eq {env : MemEnv} (hgo : s.dat.go = true) (hphase : s.dat.phase = .idle) (hrun : s.run = none)
    (hself : s.fenceSelf = false) (hsfu : s.sfuCopying = false) :
    datumBegin env s = tryAgreement (beginCheck (begun (withEnv env s))) := by
  simp [datumBegin, begun, hgo, hphase, hrun, hself, hsfu]

theorem datumBegin_contributed {env : MemEnv} (hq : s.quarUndelivered = 0) (hp : armedPlat s = none) :
    Contributed s.tb (tryAgreement (beginCheck (begun (withEnv env s)))) := by
  have k := begun_keeps (withEnv env s)
  have hldr : (begun (withEnv env s)).ldr = s.ldr := k.parts .ldr (by decide) (by decide)
  have hquar : (begun (withEnv env s)).quarUndelivered = s.quarUndelivered := k.parts .quarUndelivered (by decide) (by decide)
  have htb : (begun (withEnv env s)).tb = s.tb := k.parts .tb (by decide) (by decide)
  have ha : armedPlat (begun (withEnv env s)) = none := by rw [← hp, armedPlat, armedPlat, hldr]
  rw [beginCheck_none ha, ← htb]
  exact tryAgreement_contributed (hquar.trans hq) (checksDone_none ha)

theorem datumBegin_actionOne {env : MemEnv} (hb : s.dat.began = false) (hp : armedPlat s = none)
    (hn : (s.commits.values.map (·.1)).Nodup) (hv : ∀ v ∈ s.commits.values, v.1 ∈ pendingRegs) :
    ActionOne s (tryAgreement (beginCheck (begun (withEnv env s)))) := by
  have hldr : (begun (withEnv env s)).ldr = s.ldr := (begun_keeps (withEnv env s)).parts .ldr (by decide) (by decide)
  have ha : armedPlat (begun (withEnv env s)) = none := by rw [← hp, armedPlat, armedPlat, hldr]
  have hx : begun (withEnv env s) =
      modDat (fun d => { d with began := true, checking := none, checked := none, refuse := 0 }) (actionOne (withEnv env s)) :=
    if_neg (by simp [hb])
  have h1 : ActionOne s (actionOne (withEnv env s)) := .of_withEnv (actionOne_of_commits (s := withEnv env s) hn hv)
  rw [beginCheck_none ha, hx]
  refine h1.after ((tryAgreement_keeps_regs _).via (.via (modDat_keeps _ _) ?_ (.of_all (by decide)) (.nil _)) (.of_all (by decide))
    (.nil _))
  exact (modDat_keeps _ _).mono (.of_all (by decide)) (.nil _)

/-- The codes with which the re-read CADASTRE refuses the datum (R62): a line lost, or a digest that fails. -/
def rereadCodes (env : MemEnv) (s : State) (p : Plat) : List Nat :=
  if badLine env p.cadAddr p.cadLen then [0x21]
  else if sha384 (memBytes s.mem p.cadAddr p.cadLen) ≠ p.cadDigest then [0x0A] else []

/-- The armed plat has been read again. -/
def checkedPlat (p : Plat) (s : State) : State := modDat (fun d => { d with checking := none, checked := some p.hash }) s

theorem cadastreCheckDone_eq {env : MemEnv} {p : Plat} (hp : armedPlat s = some p) (hc : s.dat.checking = some p.hash) :
    cadastreCheckDone env s =
      tryAgreement (refuseWith (rereadCodes env (withEnv env s) p) (checkedPlat p (withEnv env s))) := by
  have hp' : armedPlat (withEnv env s) = some p := hp
  have hc' : (withEnv env s).dat.checking = some p.hash := hc
  simp only [cadastreCheckDone, hp', hc']
  exact if_neg (not_not_intro rfl)

theorem checkedPlat_contributed {env : MemEnv} {p : Plat} (hp : armedPlat s = some p) (hq : s.quarUndelivered = 0) :
    Contributed s.tb (tryAgreement (checkedPlat p (withEnv env s))) ∧
      (tryAgreement (checkedPlat p (withEnv env s))).dat.checked = some p.hash := by
  refine ⟨tryAgreement_contributed (s := checkedPlat p (withEnv env s)) hq fun q hq' => ?_, (tryAgreement_dat _).1⟩
  cases hp.symm.trans hq'
  rfl

/-- What a recorded code leaves is seen as long as the unit's error status is not written. -/
theorem Recorded.of_word {unit code : Nat} (h : Recorded unit code x y) (hs : x.word (unit + 8) = s.word (unit + 8))
    (ht : t.word (unit + 8) = y.word (unit + 8)) : Recorded unit code s t := by
  unfold Recorded State.field at *
  rw [ht, ← hs]
  exact h

/-- A code of refusal is recorded and noticed, and the highest is kept (R64, R370). -/
theorem refuseWith_one {code : Nat} (hc : code < 256) (s : State) :
    (refuseWith [code] s).dat.checked = s.dat.checked ∧ code ≤ (refuseWith [code] s).dat.refuse ∧
      Recorded uPlat code s (refuseWith [code] s) := by
  have k := platEvent_keeps code (record uPlat code s)
  have hdat : (platEvent code (record uPlat code s)).dat = s.dat := k.parts .dat (by decide) (by decide)
  have hword : (platEvent code (record uPlat code s)).word (uPlat + 8) = (record uPlat code s).word (uPlat + 8) :=
    k.regs _ (by simp [noteAreas, Area.has, uPlat])
  refine ⟨?_, Nat.le_max_right _ _, (record_recorded hc s).of_word rfl hword⟩
  show (platEvent code (record uPlat code s)).dat.checked = s.dat.checked
  rw [hdat]

/-- A plat whose re-read fails makes the chip refuse with the code of the failure (R62, R370). -/
theorem checkedPlat_refused {env : MemEnv} {p : Plat} {code : Nat} (hc : code < 256) :
    let t := tryAgreement (refuseWith [code] (checkedPlat p (withEnv env s)))
    t.dat.checked = some p.hash ∧ code ≤ t.dat.refuse ∧ Recorded uPlat code s t := by
  obtain ⟨h1, h2, h3⟩ := refuseWith_one hc (checkedPlat p (withEnv env s))
  obtain ⟨k1, k2⟩ := tryAgreement_dat (refuseWith [code] (checkedPlat p (withEnv env s)))
  exact ⟨k1.trans h1, Nat.le_trans h2 k2, h3.of_word rfl ((tryAgreement_keeps_regs _).regs _ (by simp))⟩

/-! ### The statement -/

theorem go_completes {P : State → Prop} (h : P (doGo s)) : Completes (.go true) s P := ⟨_, rfl, h⟩

theorem stepLo_completes {v : Word32} {P : State → Prop} (h : P (stepLo v s)) : Completes (.stepLo v) s P := ⟨_, rfl, h⟩

theorem datumBegin_completes {env : MemEnv} {P : State → Prop} (h : P (datumBegin env s)) : Completes (.datumBegin env) s P :=
  ⟨_, rfl, h⟩

theorem cadastreCheckDone_completes {env : MemEnv} {P : State → Prop} (h : P (cadastreCheckDone env s)) :
    Completes (.cadastreCheckDone env) s P := ⟨_, rfl, h⟩

/-- Settles O29. -/
theorem datumBegins : Obligations.DatumBegins := by
  intro s
  refine ⟨fun h => go_completes ?go, fun h h' => go_completes ?early, fun v => ⟨fun h => stepLo_completes ?started,
    fun h hn => stepLo_completes ?large, fun h hn => stepLo_completes ?set⟩, fun env => ⟨?begin, fun p hp hc => ?check⟩⟩
  case go =>
    rw [doGo_ready h]
    exact ⟨rfl, (modDat_keeps _ s).frame (by decide)⟩
  case early =>
    rw [doGo_early h h']
    exact record_refused (by decide) s
  case started =>
    rw [stepLo_started h]
    exact record_refused (by decide) s
  case large =>
    rw [stepLo_large h hn]
    exact record_refused (by decide) s
  case set =>
    rw [stepLo_set h hn]
    exact ⟨rfl, Keeps.frame (KeepsMk.set_stepNum (.refl _ _ _) (.of_all (by decide))) (by decide)⟩
  case begin =>
    intro hgo hphase hrun hself hsfu hq hp
    refine datumBegin_completes ?_
    rw [datumBegin_eq hgo hphase hrun hself hsfu]
    refine ⟨datumBegin_contributed hq hp, fun hb hn hv => ?_⟩
    have h := datumBegin_actionOne (env := env) hb hp hn fun v hm => List.mem_flatMap.mpr (hv v hm)
    exact ⟨h.values, h.mask, h.live, h.latched, h.pending, h.unfences, h.fences⟩
  case check =>
    refine ⟨fun hb hd _ hq => cadastreCheckDone_completes ?_, fun hb hd => cadastreCheckDone_completes ?_,
      fun hb => cadastreCheckDone_completes ?_⟩
    · rw [cadastreCheckDone_eq hp hc, rereadCodes, hb, if_neg (by decide), if_neg (not_not_intro hd)]
      exact checkedPlat_contributed hp hq
    · rw [cadastreCheckDone_eq hp hc, rereadCodes, hb, if_neg (by decide), if_pos hd]
      exact checkedPlat_refused (by decide)
    · rw [cadastreCheckDone_eq hp hc, rereadCodes, if_pos hb]
      exact checkedPlat_refused (by decide)

end Sys2Proof.Machine
end

section
/-! PROOFS. Which commands complete (O4): every arm of the dispatch answers a next state, but the read of the SRAM beyond its
last byte. -/
namespace Sys2Proof.Machine
open Sys2Proof

variable {s : State}

theorem exec_completes {c : Instr} (h : ∀ a, c ≠ .dbgSram a) : ∃ t, exec c s = .next t := by
  cases c with
  | dbgSram a => exact absurd rfl (h a)
  | _ => exact ⟨_, rfl⟩

theorem dbgSram_faults {a : Nat} (hd : bit (debugScope s) 1 = true) (ha : Config.sramBytes ≤ a) :
    exec (.dbgSram a) s = .fault .sramAbsent := by
  show execDbgSram a s = _
  rw [execDbgSram, if_pos hd, if_pos ha]

/-- With debug closed the instruction is BYPASS; with it open a word is read. -/
theorem dbgSram_completes {a : Nat} (h : bit (debugScope s) 1 = false ∨ a < Config.sramBytes) :
    ∃ t, exec (.dbgSram a) s = .next t := by
  show ∃ t, execDbgSram a s = .next t
  unfold execDbgSram
  split
  · next hd =>
    have ha := h.resolve_left (by simp [hd])
    rw [if_neg (Nat.not_le.mpr ha)]
    exact ⟨_, rfl⟩
  · exact ⟨_, rfl⟩

/-- Settles O4. -/
theorem onlySramReadStops : Obligations.OnlySramReadStops :=
  ⟨fun _ _ h => exec_completes h, fun _ _ hd ha => dbgSram_faults hd ha, fun _ _ h => dbgSram_completes h⟩

end Sys2Proof.Machine
end

section
/-! PROOFS. The buffer pool's commands and words found in error (O25): LOW_REARM, ALLOC_GRANT, and what each kind of word in
error counts and marks before its command does its work. -/
namespace Sys2Proof.Machine
open Sys2Proof

variable {s t : State}

/-! ### Sorting by a key -/

theorem mem_insertBy {α : Type} {key : α → Nat} {a x : α} {l : List α} : x ∈ insertBy key a l ↔ x = a ∨ x ∈ l := by
  induction l with
  | nil => exact List.mem_cons
  | cons y ys ih =>
    unfold insertBy
    split
    · exact List.mem_cons
    · rw [List.mem_cons, ih, List.mem_cons]
      exact or_left_comm

theorem pairwise_insertBy {α : Type} {key : α → Nat} {a : α} {l : List α} (h : l.Pairwise (key · ≤ key ·)) :
    (insertBy key a l).Pairwise (key · ≤ key ·) := by
  induction l with
  | nil => exact List.pairwise_singleton _ a
  | cons y ys ih =>
    obtain ⟨hy, hys⟩ := List.pairwise_cons.mp h
    unfold insertBy
    split
    · next hlt =>
      refine List.pairwise_cons.mpr ⟨fun z hz => ?_, h⟩
      rcases List.mem_cons.mp hz with rfl | hz
      · exact Nat.le_of_lt hlt
      · exact Nat.le_trans (Nat.le_of_lt hlt) (hy z hz)
    · next hge =>
      refine List.pairwise_cons.mpr ⟨fun z hz => ?_, ih hys⟩
      rcases mem_insertBy.mp hz with rfl | hz
      · exact Nat.le_of_not_lt hge
      · exact hy z hz

theorem foldl_insertBy {α : Type} {key : α → Nat} (l : List α) {acc : List α} (h : acc.Pairwise (key · ≤ key ·)) :
    (l.foldl (fun acc a => insertBy key a acc) acc).Pairwise (key · ≤ key ·) ∧
      ∀ x, x ∈ l.foldl (fun acc a => insertBy key a acc) acc ↔ x ∈ l ∨ x ∈ acc := by
  induction l generalizing acc with
  | nil => exact ⟨h, fun x => ⟨.inr, fun hx => hx.resolve_left List.not_mem_nil⟩⟩
  | cons a l ih =>
    obtain ⟨hp, hm⟩ := ih (pairwise_insertBy (a := a) h)
    refine ⟨hp, fun x => ?_⟩
    rw [List.foldl_cons, hm, mem_insertBy, List.mem_cons, or_left_comm, or_assoc]

theorem pairwise_sortBy {α : Type} (key : α → Nat) (l : List α) : (sortBy key l).Pairwise (key · ≤ key ·) :=
  (foldl_insertBy l .nil).1

theorem mem_sortBy {α : Type} {key : α → Nat} {l : List α} {x : α} : x ∈ sortBy key l ↔ x ∈ l := by
  rw [sortBy, (foldl_insertBy l .nil).2]
  exact or_iff_left List.not_mem_nil

/-- What is found first in a list sorted by a key has the least key of all that could be found. -/
theorem key_le_of_find?_sortBy {α : Type} {key : α → Nat} {l : List α} {p : α → Bool} {a x : α}
    (h : (sortBy key l).find? p = some a) (hx : x ∈ l) (hp : p x = true) : key a ≤ key x := by
  obtain ⟨_, front, back, e, hn⟩ := List.find?_eq_some_iff_append.mp h
  have hs := pairwise_sortBy key l
  have hm := mem_sortBy (key := key).mpr hx
  rw [e] at hs hm
  rcases List.mem_append.mp hm with hm | hm
  · simpa [hp] using hn x hm
  · rcases List.mem_cons.mp hm with rfl | hm
    · exact Nat.le_refl _
    · exact (List.pairwise_cons.mp (List.pairwise_append.mp hs).2.1).1 x hm

/-! ### Pools -/

theorem poolAt_of_pools (h : t.pools = s.pools) (p : Nat) : poolAt t p = poolAt s p := by rw [poolAt, h, poolAt]

theorem usedCount_of_pools (h : t.pools = s.pools) (p : Nat) : usedCount t p = usedCount s p := by rw [usedCount, h, usedCount]

theorem freeCount_of_pools (h : t.pools = s.pools) (p : Nat) : freeCount t p = freeCount s p := by
  rw [freeCount, poolAt_of_pools h, usedCount_of_pools h, freeCount]

theorem poolAt_modPool {p : Nat} {f : Pool → Pool} (h : p < s.pools.pools.length) :
    poolAt (modPool p f s) p = f (poolAt s p) := getD_modifyAt_self h

theorem length_pools_modPool (p : Nat) (f : Pool → Pool) (s : State) :
    (modPool p f s).pools.pools.length = s.pools.pools.length := length_modifyAt f p _

theorem freeCount_modPool {p : Nat} {f : Pool → Pool} (h : p < s.pools.pools.length) :
    freeCount (modPool p f s) p = (f (poolAt s p)).count - usedCount s p - (f (poolAt s p)).withdrawn := by
  rw [freeCount, poolAt_modPool h]
  rfl

theorem popped_count (q : Pool) : (popped q).count = q.count := by
  unfold popped
  split <;> rfl

/-! ### LOW_REARM -/

theorem poolAt_lowRearm {p : Nat} (h : p < s.pools.pools.length) :
    poolAt (lowRearm s) p = { poolAt s p with low := freeCount s p } := by
  show ((List.range s.pools.pools.length).map (fun p => { poolAt s p with low := freeCount s p })).getD p Pool.empty = _
  simp [List.getD_eq_getElem?_getD, h]

theorem freeCount_lowRearm {p : Nat} (h : p < s.pools.pools.length) : freeCount (lowRearm s) p = freeCount s p := by
  rw [freeCount, poolAt_lowRearm h]
  rfl

/-! ### ALLOC_GRANT -/

/-- The request that is served next waits at the pool, may be granted, and comes before every other that may (R83, R85). -/
theorem nextWaiter_first {p : Nat} {w : Waiter} (h : nextWaiter s p = some w) :
    w ∈ s.pools.waiters ∧ w.pool = p ∧ grantable s p w.owner = true ∧
    (∀ x ∈ s.pools.waiters, x.pool = p → grantable s p x.owner = true →
      let cur := if (poolAt s p).lastOwner = unreserved then 99 else (poolAt s p).lastOwner
      serveKey cur w.owner ≤ serveKey cur x.owner) := by
  unfold nextWaiter at h
  have hg := List.find?_some h
  obtain ⟨hw, hp⟩ := List.mem_filter.mp (mem_sortBy.mp (List.mem_of_find?_eq_some h))
  refine ⟨hw, of_decide_eq_true hp, hg, fun x hx hxp hgx => ?_⟩
  have hm : x ∈ s.pools.waiters.filter (fun w => w.pool = p) := List.mem_filter.mpr ⟨hx, decide_eq_true hxp⟩
  have hle := key_le_of_find?_sortBy h hm hgx
  exact hle

theorem takeBuf_lastOwner {p o : Nat} (h : p < s.pools.pools.length) : (poolAt (takeBuf p o s).2 p).lastOwner = o := by
  unfold takeBuf
  rw [poolAt_modPool (by rw [length_pools_modPool]; exact h)]

theorem traceEvent_pools (lane code arg : Nat) (s : State) : (traceEvent lane code arg s).pools = s.pools :=
  (traceEvent_keeps lane code arg s).parts .pools (by decide) (by decide)

/-- What a granted allocation leaves in the pool: the request waits no longer, and the buffer on top of the stack is kept for
it. -/
theorem allocGrant_granted {p : Nat} {w : Waiter} (hp : p < s.pools.pools.length) (h : nextWaiter s p = some w) :
    let u := allocGrant p s
    u.pools.waiters = s.pools.waiters.erase w ∧
    u.pools.granted = s.pools.granted ++ [⟨p, nextPtr (poolAt s p), w.owner, w.key⟩] ∧
    u.pools.bufs = ⟨p, nextPtr (poolAt s p), w.owner, 1⟩ :: s.pools.bufs ∧ (poolAt u p).lastOwner = w.owner := by
  dsimp only
  unfold allocGrant
  rw [h]
  dsimp only
  rw [poolAt_of_pools (traceEvent_pools _ _ _ _), traceEvent_pools]
  exact ⟨rfl, rfl, rfl, takeBuf_lastOwner (s := { s with pools := { s.pools with waiters := s.pools.waiters.erase w } }) hp⟩

theorem allocGrant_none {p : Nat} (h : nextWaiter s p = none) : allocGrant p s = s := by
  rw [allocGrant, h]

theorem feedPump_idle (h : stepLive s = false) (n : Nat) : feedPump n s = s := by
  cases n with
  | zero => rfl
  | succ n => rw [feedPump, h]; rfl

theorem foldl_unchanged {α β : Type} {f : α → β → α} {a : α} (h : ∀ b, f a b = a) (l : List β) : l.foldl f a = a := by
  induction l with
  | nil => rfl
  | cons b l ih => rw [List.foldl_cons, h, ih]

theorem runFeed_idle (h : stepLive s = false) : runFeed s = s := by
  unfold runFeed
  rw [feedPump_idle h]
  exact foldl_unchanged (fun g => by rw [h]; rfl) _

theorem collectOn_idle (h : stepLive s = false) (n : Nat) : collectOn n s = s := by
  cases n with
  | zero => rfl
  | succ n => rw [collectOn, h]; rfl

/-- With no step running neither FEED nor COLLECT goes on. -/
theorem goOn_idle (h : stepLive s = false) : collectOn (runFeed s).collectHeld.length (runFeed s) = s := by
  rw [runFeed_idle h, collectOn_idle h]

theorem stepLive_of_run (h : t.run = s.run) : stepLive t = stepLive s := by rw [stepLive, h, stepLive]

theorem stepLive_allocGrant (p : Nat) (s : State) : stepLive (allocGrant p s) = stepLive s :=
  stepLive_of_run ((allocGrant_keeps p s).parts .run (by decide) (by decide))

/-! ### Errors come before the work of their command

The commands that bring no message take their errors and go on from the state reached; to take none is to stay, so that for
them the two sides of the statement compute to the same state. A group or record that arrives also carries its own marks. -/

theorem length_poisonGroup (b : Bytes) : (poisonGroup b).length = b.length := by simp [poisonGroup]

theorem length_poisonRecord {b : Bytes} (h : 16 ≤ b.length) : (poisonRecord b).length = b.length := by
  simp only [poisonRecord, List.length_append, List.length_take, List.length_drop, length_leBytes]
  omega

theorem groupReceive_after_errors (src port step : Nat) (m : Bytes) (es : Errs) (s : State) :
    groupReceive src port step m es s =
      groupReceive src port step (if arrivedBad es then poisonGroup m else m) [] (takeErrors (otherErrors es) s) := by
  have e : (if arrivedBad es then poisonGroup m else m).length = m.length := by
    split
    · exact length_poisonGroup m
    · rfl
  show landGroup src port step m.length _ _ = landGroup src port step (if arrivedBad es then poisonGroup m else m).length _ _
  rw [e]
  rfl

theorem returnArrive_after_errors (src : Nat) {m : Bytes} (h : 16 ≤ m.length) (es : Errs) (s : State) :
    returnArrive src m es s =
      returnArrive src (if arrivedBad es then poisonRecord m else m) [] (takeErrors (otherErrors es) s) := by
  have e : (if arrivedBad es then poisonRecord m else m).length = m.length := by
    split
    · exact length_poisonRecord h
    · rfl
  show landReturn src m.length _ _ = landReturn src (if arrivedBad es then poisonRecord m else m).length _ _
  rw [e]
  rfl

/-! ### Words of the SRAM -/

theorem field_bumpField (s : State) {a hi lo n : Nat} (h : hi < 32) (hl : lo ≤ hi) :
    (s.bumpField a hi lo n).field a hi lo = satAdd (hi + 1 - lo) (s.field a hi lo) n := by
  rw [State.bumpField, field_setField _ h hl]
  exact Nat.mod_eq_of_lt (satAdd_lt _ _ _)

theorem field_of_word {a hi lo : Nat} (h : t.word a = s.word a) : t.field a hi lo = s.field a hi lo := by
  rw [State.field, h, State.field]

/-- A corrected word of the SRAM is counted with its bank (R78). -/
theorem countSram_corrected (bank : Nat) (s : State) :
    let t := countSram false bank s
    t.field 0x20080 31 0 = satAdd 32 (s.field 0x20080 31 0) 1 ∧ t.field 0x20088 5 0 = bank % 64 ∧
      Keeps [] [.reg 0x20080, .reg 0x20088] s t := by
  refine ⟨?_, field_setField _ (by decide) (by decide), ?_⟩
  · exact (field_setField_other _ (by decide)).trans (field_bump s _ _)
  · exact (setField_keeps _ _ _ _ _).via ((bump_keeps s _ _).mono (.nil _) (.of_all (by decide))) (.nil _) (.of_all (by decide))

/-- An uncorrectable word of the SRAM is counted with its bank (R78). -/
theorem countSram_fatal (bank : Nat) (s : State) :
    let t := countSram true bank s
    t.field 0x20084 15 0 = satAdd 16 (s.field 0x20084 15 0) 1 ∧ t.field 0x20088 21 16 = bank % 64 ∧
      Keeps [] [.reg 0x20084, .reg 0x20088] s t := by
  refine ⟨?_, field_setField _ (by decide) (by decide), ?_⟩
  · exact (field_setField_other _ (by decide)).trans (field_bumpField s (by decide) (by decide))
  · exact (setField_keeps _ _ _ _ _).via ((bumpField_keeps s _ _ _ _).mono (.nil _) (.of_all (by decide))) (.nil _)
      (.of_all (by decide))

/-- An entry that reads uncorrectable is being fetched from a peer from then on (R220). -/
theorem exists_refetchEntry (x : Nat) (s : State) : ∃ c ∈ (refetchEntry x s).cadRefetch, c.entry = x := by
  unfold refetchEntry
  split
  · next h => simpa using h
  · unfold askEntry
    split
    · exact ⟨_, List.mem_append_right _ List.mem_cons_self, rfl⟩
    · rw [(mgmtRequest_keeps _ _ _ _ _ _).parts .cadRefetch (by decide) (by decide)]
      exact ⟨_, List.mem_append_right _ List.mem_cons_self, rfl⟩

theorem takeErrors_region_corrected (r off : Nat) (s : State) :
    takeErrors [⟨.region r off, false⟩] s = countSram false (bankAt s r off) s :=
  if_neg (by simp)

theorem takeErrors_region_fatal {r : Nat} (hr : r ≠ 3) (off : Nat) (s : State) :
    takeErrors [⟨.region r off, true⟩] s = countSram true (bankAt s r off) s :=
  if_neg (by simp [hr])

theorem takeErrors_cadastre_fatal (off : Nat) (s : State) :
    takeErrors [⟨.region 3 off, true⟩] s = refetchEntry (off / 32) (countSram true (bankAt s 3 off) s) := rfl

/-! ### Words of buffers and queues -/

/-- A state in which what stands in a buffer has been marked: tiles, held tiles, landed groups, the row blocks of COLLECT and
messages that wait. -/
def marked (b : Nat × Nat) (s : State) : State :=
  { s with halves := s.halves.map (markHalf b), ingestHeld := s.ingestHeld.map (markHeld b)
           collectHeld := s.collectHeld.map (markHeld b), recv := s.recv.map (markRx b)
           collects := s.collects.map (markCollect b)
           fep := { s.fep with waiting := s.fep.waiting.map (markMessage b) } }

theorem marked_word (b : Nat × Nat) (s : State) (a : Nat) : (marked b s).word a = s.word a := rfl

/-- A buffer whose data has passed no last place of R428 and that holds no chain of a collective is marked, and nothing
aborts. -/
theorem poisonBuf_eq_marked {b : Nat × Nat} (hp : pastPoison s b = false) (hc : ∀ c ∈ s.cce.active, b ∉ c.bufs) :
    poisonBuf b s = marked b s := by
  have e : s.cce.active.filter (fun c => c.bufs.contains b) = [] :=
    List.filter_eq_nil_iff.mpr fun c h => by simpa using hc c h
  unfold poisonBuf
  rw [hp]
  show ((s.cce.active.filter _).map _).foldl _ (marked b s) = _
  rw [e]
  rfl

/-- The same once registers have counted the error. -/
theorem poisonBuf_counted {b : Nat × Nat} {as : List Area} (k : Keeps [] as s t) (hp : pastPoison s b = false)
    (hc : ∀ c ∈ s.cce.active, b ∉ c.bufs) : poisonBuf b t = marked b t := by
  refine poisonBuf_eq_marked ?_ ?_
  · rw [← hp, pastPoison, k.parts .feeds (by simp) (by decide), k.parts .halves (by simp) (by decide),
      k.parts .tports (by simp) (by decide), pastPoison]
  · rw [k.parts .cce (by simp) (by decide)]
    exact hc

/-- What is marked once registers have counted the error. -/
theorem marked_counted {b : Nat × Nat} {as : List Area} (k : Keeps [] as s t) :
    (marked b t).halves = s.halves.map (markHalf b) ∧ (marked b t).ingestHeld = s.ingestHeld.map (markHeld b) ∧
      (marked b t).collectHeld = s.collectHeld.map (markHeld b) ∧ (marked b t).recv = s.recv.map (markRx b) ∧
      (marked b t).run = s.run :=
  ⟨congrArg (List.map (markHalf b)) (k.parts .halves (by simp) (by decide)),
    congrArg (List.map (markHeld b)) (k.parts .ingestHeld (by simp) (by decide)),
    congrArg (List.map (markHeld b)) (k.parts .collectHeld (by simp) (by decide)),
    congrArg (List.map (markRx b)) (k.parts .recv (by simp) (by decide)), k.parts .run (by simp) (by decide)⟩

theorem takeErrors_buffer_fatal {p ptr : Nat} (off : Nat) (hp : pastPoison s (p, ptr) = false)
    (hc : ∀ c ∈ s.cce.active, (p, ptr) ∉ c.bufs) :
    takeErrors [⟨.buffer p ptr off, true⟩] s = marked (p, ptr) (countSram true (bankAt s 0 (bufAddr s p ptr + off)) s) :=
  poisonBuf_counted (countSram_fatal _ s).2.2 hp hc

theorem takeErrors_queue_corrected {c : Nat} (h1 : 1 ≤ c) (h15 : c ≤ 15) (p ptr : Nat) (s : State) :
    takeErrors [⟨.queue c p ptr, false⟩] s = s.bumpField (0x20100 + 4 * c) 23 16 1 := by
  show queueError c (p, ptr) false s = _
  rw [queueError, if_neg (by simp; omega), if_neg (by decide)]

theorem takeErrors_queue_fatal {c p ptr : Nat} (h1 : 1 ≤ c) (h15 : c ≤ 15) (hp : pastPoison s (p, ptr) = false)
    (hc : ∀ x ∈ s.cce.active, (p, ptr) ∉ x.bufs) :
    takeErrors [⟨.queue c p ptr, true⟩] s = marked (p, ptr) (s.setField (0x20100 + 4 * c) 29 29 1) := by
  show queueError c (p, ptr) true s = _
  rw [queueError, if_neg (by simp; omega), if_pos rfl]
  exact poisonBuf_counted (setField_keeps s _ _ _ _) hp hc

/-! ### Words of accumulators and tables -/

theorem takeErrors_accumulator_corrected (row : Nat) (s : State) :
    takeErrors [⟨.accumulator row, false⟩] s = s.bumpField 0x30030 15 0 1 := rfl

theorem takeErrors_accumulator_fatal (row : Nat) (s : State) :
    takeErrors [⟨.accumulator row, true⟩] s = s.bumpField 0x30030 31 16 1 := rfl

theorem takeErrors_table_fatal (off : Nat) (s : State) :
    takeErrors [⟨.table off, true⟩] s = (countSram true (bankAt s 7 off) s).bumpField 0x31038 15 0 1 := rfl

/-! ### Words of the free stacks and of the log -/

/-- The notice that follows leaves the recorded code as it stands (R69, R415). -/
theorem countFault_recorded {unit code : Nat} (hc : code < 256) (hu : noteAreas.all (·.misses (unit + 8)) = true) (s : State) :
    Recorded unit code s (countFault unit code s) :=
  (record_recorded hc s).after ((notice_keeps _ _ _ _ _).regs.word hu)

/-- The notice that follows leaves the recorded code as it stands (R69, R413). -/
theorem securityCode_recorded {unit code : Nat} (hc : code < 256) (hu : noteAreas.all (·.misses (unit + 8)) = true) (s : State) :
    Recorded unit code s (securityCode unit code s) :=
  (record_recorded hc s).after ((notice_keeps _ _ _ _ _).regs.word hu)

/-- A pool whose stack has lost its top entry (R89). -/
def lessTop (q : Pool) : Pool := { popped q with withdrawn := q.withdrawn + 1 }

theorem withdrawTop_eq {p : Nat} (hf : freeCount s p ≠ 0) :
    withdrawTop p s = modPool p (fun q => { q with low := min q.low (freeCount (modPool p lessTop s) p) })
      (countFault uPool 0x23 (modPool p lessTop s)) := if_neg hf

/-- The entry on top of a stack is withdrawn, and its buffer is free no longer (R89). -/
theorem withdrawTop_withdrawn {p : Nat} (hp : p < s.pools.pools.length) (hf : freeCount s p ≠ 0) :
    let t := withdrawTop p s
    (poolAt t p).withdrawn = (poolAt s p).withdrawn + 1 ∧ freeCount t p = freeCount s p - 1 ∧ Recorded uPool 0x23 s t := by
  have hpools : (countFault uPool 0x23 (modPool p lessTop s)).pools = (modPool p lessTop s).pools :=
    (countFault_keeps _ _ _).parts .pools (by decide) (by decide)
  have hlen : p < (countFault uPool 0x23 (modPool p lessTop s)).pools.pools.length := by
    rw [hpools, length_pools_modPool]
    exact hp
  dsimp only
  rw [withdrawTop_eq hf]
  refine ⟨?_, ?_, ?_⟩
  · rw [poolAt_modPool hlen, poolAt_of_pools hpools, poolAt_modPool hp, lessTop]
  · rw [freeCount_modPool hlen, poolAt_of_pools hpools, usedCount_of_pools hpools, poolAt_modPool hp, freeCount, lessTop,
      popped_count]
    rfl
  · exact (countFault_recorded (by decide) (by decide) _).of_word ((modPool_keeps _ _ s).regs.word rfl)
      ((modPool_keeps _ _ _).regs.word rfl)

/-- A word of the replay log that both copies lose puts the log in fault (R388). -/
theorem logFault_recorded (h : s.rlog.fault = false) :
    (logFault s).rlog = { s.rlog with fault := true } ∧ Recorded uSde 0x69 s (logFault s) := by
  rw [logFault, h, if_neg (by decide)]
  exact ⟨(securityCode_keeps _ _ _).parts .rlog (by decide) (by decide),
    (securityCode_recorded (by decide) (by decide) { s with rlog := { s.rlog with fault := true } }).before rfl⟩

/-! ### The statement -/

/-- Settles O25. -/
theorem bufferPoolCommands : Obligations.BufferPoolCommands := by
  intro s hlen
  refine ⟨?rearm, ?grant, ?noGrant, ?errs, ?region, ?buffer, ?queue, ?accumulator, ?table, ?stack, ?log⟩
  case rearm =>
    exact ⟨_, rfl, fun p hp => ⟨by rw [poolAt_lowRearm (hlen ▸ hp)], freeCount_lowRearm (hlen ▸ hp)⟩,
      (lowRearm_keeps s).frame (by decide)⟩
  case grant =>
    intro p w hp hw
    obtain ⟨hmem, hpool, hgrant, hfirst⟩ := nextWaiter_first hw
    obtain ⟨hwaiters, hgranted, hbufs, hlast⟩ := allocGrant_granted (hlen ▸ hp) hw
    refine ⟨_, rfl, allocGrant p s, hmem, hpool, hgrant, hfirst, hwaiters, hgranted, hbufs, hlast, ?_, rfl, fun hlive => ?_⟩
    · exact ((allocGrant_keeps p s).mono (.of_all (by decide)) (.nil _)).frame (by decide)
    · exact goOn_idle ((stepLive_allocGrant p s).trans hlive)
  case noGrant =>
    intro p hw hlive
    refine ⟨_, rfl, ?_⟩
    rw [takeErrors, List.foldl_nil, allocGrant_none hw]
    exact goOn_idle hlive
  case errs =>
    intro es
    refine ⟨fun _ => ⟨rfl, rfl, rfl⟩, fun _ _ => ⟨rfl, rfl, rfl, rfl, rfl, rfl, rfl, rfl, fun _ => rfl⟩,
      fun _ _ => ⟨rfl, rfl, rfl, rfl⟩, fun _ => ⟨rfl, rfl, rfl, rfl, rfl⟩, rfl, fun src port step m => ?_, fun src m hm => ?_⟩
    · exact congrArg Host.Outcome.next (groupReceive_after_errors src port step m es s)
    · have h := congrArg (Host.Outcome.next (φ := Fault) (ρ := Refusal)) (returnArrive_after_errors src hm es s)
      exact ⟨h, h, h⟩
  case region =>
    intro r off
    refine ⟨?_, ?_⟩
    · obtain ⟨hcount, hbank, hkeeps⟩ := countSram_corrected (bankAt s r off) s
      rw [takeErrors_region_corrected]
      exact ⟨hcount, hbank, hkeeps.frame (by decide)⟩
    · obtain ⟨hcount, hbank, hkeeps⟩ := countSram_fatal (bankAt s r off) s
      by_cases hr : r = 3
      · subst hr
        have k := refetchEntry_keeps (off / 32) (countSram true (bankAt s 3 off) s)
        rw [takeErrors_cadastre_fatal]
        exact ⟨(field_of_word (k.regs.word rfl)).trans hcount, (field_of_word (k.regs.word rfl)).trans hbank,
          fun h => absurd rfl h, fun _ => exists_refetchEntry _ _⟩
      · rw [takeErrors_region_fatal hr]
        exact ⟨hcount, hbank, fun _ => hkeeps.frame (by decide), fun h => absurd h hr⟩
  case buffer =>
    intro p ptr off hp hc
    obtain ⟨hcount, _, hkeeps⟩ := countSram_fatal (bankAt s 0 (bufAddr s p ptr + off)) s
    rw [takeErrors_buffer_fatal off hp hc]
    exact ⟨(field_of_word (marked_word _ _ _)).trans hcount, marked_counted hkeeps⟩
  case queue =>
    intro c p ptr h1 h15
    refine ⟨?_, fun hp hc => ?_⟩
    · rw [takeErrors_queue_corrected h1 h15]
      exact ⟨field_bumpField s (by decide) (by decide), (bumpField_keeps _ _ _ _ _).frame (.inr (.inr List.not_mem_nil))⟩
    · rw [takeErrors_queue_fatal h1 h15 hp hc]
      exact ⟨(field_of_word (marked_word _ _ _)).trans (field_setField s (by decide) (by decide)),
        (marked_counted (setField_keeps s _ _ _ _)).1⟩
  case accumulator =>
    intro row
    rw [takeErrors_accumulator_corrected, takeErrors_accumulator_fatal]
    exact ⟨field_bumpField s (by decide) (by decide), field_bumpField s (by decide) (by decide)⟩
  case table =>
    intro off
    rw [takeErrors_table_fatal, field_bumpField _ (by decide) (by decide),
      field_of_word ((countSram_keeps _ _ s).regs.word (by decide))]
  case stack =>
    intro p off hp hf
    have hpools := (countSram_keeps true (bankAt s 7 off) s).parts .pools (by decide) (by decide)
    obtain ⟨hw, hfree, hrec⟩ := withdrawTop_withdrawn (s := countSram true (bankAt s 7 off) s) (p := p) (by rw [hpools]; omega)
      (by rwa [freeCount_of_pools hpools])
    rw [poolAt_of_pools hpools] at hw
    rw [freeCount_of_pools hpools] at hfree
    exact ⟨hw, hfree, hrec.before ((countSram_keeps _ _ s).regs.word (by decide))⟩
  case log => exact fun h => logFault_recorded h

end Sys2Proof.Machine
end

section
/-! PROOFS. A code that aborts the running step, raised on the chip itself (R415, R417, R418), and a report at the home of its
experts (O38). -/
namespace Sys2Proof.Machine
open Sys2Proof

variable {s t u : State} {unit code : Nat}

/-! ### A code raised on the chip -/

theorem stepLive_iff : stepLive s = true ↔ ∃ r, s.run = some r ∧ r.abortCode = 0 := by
  unfold stepLive
  split
  · next r h => simp [h]
  · next h => simp [h]

/-- The account of a step that aborts with a code of the chip itself. -/
def abortedRun (code : Nat) (r : Run) : Run :=
  { r with abortCode := code, localCode := if r.localCode = 0 then code else r.localCode }

/-- The state that an abort leads to before the collectives and the other chips hear of it: the stations stand empty and the
generation has been raised, or its raise is due. -/
def stopped (code : Nat) (r : Run) (s : State) : State :=
  raiseGen (stopStations (orphanLoans { s with run := some (abortedRun code r) }))

theorem stopped_keeps (code : Nat) (r : Run) (s : State) :
    Keeps [.pools, .tports, .tokenLast, .halves, .ingestHeld, .homes, .bucketMaps, .chipHist, .sortCounters, .recv, .feeds, .handed,
      .collects, .collectHeld, .gen, .raiseDue, .orphans, .fep] abortAreas
      { s with run := some (abortedRun code r) } (stopped code r s) :=
  (raiseGen_keeps _).via ((stopStations_keeps _).via ((orphanLoans_keeps _).mono (.of_all (by decide)) (.nil _))
    (.of_all (by decide)) (.of_all (by decide))) (.of_all (by decide)) (.of_all (by decide))

theorem raiseGen_raised (s : State) : ((raiseGen s).gen = (s.gen + 1) % 1024 ∧ (raiseGen s).raiseDue = false) ∨
    ((raiseGen s).gen = s.gen ∧ (raiseGen s).raiseDue = true) := by
  unfold raiseGen
  split
  · exact .inl ⟨rfl, rfl⟩
  · have k := record_keeps uReg 0x17 { s with raiseDue := true }
    exact .inr ⟨k.parts .gen (by decide) (by decide), k.parts .raiseDue (by decide) (by decide)⟩

theorem stopped_aborted (code : Nat) (r : Run) (s : State) : Aborted code s (stopped code r s) := by
  have hrun := (stopped_keeps code r s).parts .run (by decide) (by decide)
  refine ⟨⟨_, hrun, rfl⟩, ?_⟩
  unfold stopped
  generalize hx : ({ s with run := _ } : State) = x
  have hgen : (stopStations (orphanLoans x)).gen = s.gen := by
    rw [(stopStations_keeps _).parts .gen (by decide) (by decide), (orphanLoans_keeps _).parts .gen (by decide) (by decide), ← hx]
  have k := raiseGen_keeps (stopStations (orphanLoans x))
  refine ⟨k.parts .halves (by decide) (by decide), k.parts .homes (by decide) (by decide), k.parts .recv (by decide) (by decide),
    k.parts .feeds (by decide) (by decide), k.parts .handed (by decide) (by decide), k.parts .collects (by decide) (by decide),
    k.parts .bucketMaps (by decide) (by decide), ?_⟩
  rw [← hgen]
  exact raiseGen_raised _

/-- The parts that an abort is known by. -/
def abortMarks : List Part := [.run, .halves, .homes, .recv, .feeds, .handed, .collects, .bucketMaps, .gen, .raiseDue]

/-- An abort stays one while none of the parts it speaks of changes. -/
theorem Aborted.after {ps : List Part} {as : List Area} (h : Aborted code s t) (k : Keeps ps as t u)
    (hp : abortMarks.all (fun p => !ps.contains p) = true) :
    Aborted code s u := by
  have same : ∀ p ∈ abortMarks, p.same t u := by
    intro p hm
    refine k.parts p (fun hc => ?_) (by rintro rfl; revert hm; decide)
    simpa [hc] using List.all_eq_true.mp hp p hm
  obtain ⟨hrun, h1, h2, h3, h4, h5, h6, h7, hgen⟩ := h
  have e : u.gen = t.gen := same .gen (by decide)
  have e' : u.raiseDue = t.raiseDue := same .raiseDue (by decide)
  refine ⟨?_, (same .halves (by decide)).trans h1, (same .homes (by decide)).trans h2, (same .recv (by decide)).trans h3,
    (same .feeds (by decide)).trans h4, (same .handed (by decide)).trans h5, (same .collects (by decide)).trans h6,
    (same .bucketMaps (by decide)).trans h7, ?_⟩
  · rw [show u.run = t.run from same .run (by decide)]
    exact hrun
  · rw [e, e']
    exact hgen

/-- An abort is one of the earlier state too, where what went before has left the generation. -/
theorem Aborted.before (h : Aborted code t u) (hg : t.gen = s.gen) : Aborted code s u := by
  unfold Aborted at *
  rwa [hg] at h

theorem abortStep_live {r : Run} (hr : s.run = some r) (h0 : r.abortCode = 0) :
    let x := traceEvent 5 0x06 code (abortColls code (stopped code r s))
    abortStep code true s = bcastSend 0x06 x.stepNum 2 (abortPayload code (chipId x) x.stepNum) x := by
  simp [abortStep, hr, h0, stopped, abortedRun]

theorem exists_bcastSend (kind step subject : Nat) (payload : Bytes) (s : State) :
    ⟨kind, step, subject, payload, true⟩ ∈ (bcastSend kind step subject payload s).broadcasts := by
  have hm : ∀ x : State, x.broadcasts = s.broadcasts ++ [⟨kind, step, subject, payload, true⟩] →
      ⟨kind, step, subject, payload, true⟩ ∈ x.broadcasts := by simp +contextual
  unfold bcastSend
  dsimp only
  split
  · split
    · exact hm _ ((bcastFan_keeps _ _ _ _).parts .broadcasts (by decide) (by decide))
    · exact hm _ ((post_keeps _ _).parts .broadcasts (by decide) (by decide))
  · exact hm _ rfl

theorem chipId_of_word (hb : t.boot = s.boot) (hw : t.word 0x408 = s.word 0x408) : chipId t = chipId s := by
  rw [chipId, State.field, hb, hw, chipId, State.field]

/-- The running step aborts with a code of the chip itself, and every other chip hears of it (R417, R418). -/
theorem abortStep_abortedHere (hl : stepLive s = true) :
    Aborted code s (abortStep code true s) ∧ ∃ b ∈ (abortStep code true s).broadcasts,
      b.kind = 0x06 ∧ b.origin = true ∧ b.payload = abortPayload code (chipId s) s.stepNum := by
  obtain ⟨r, hr, h0⟩ := stepLive_iff.mp hl
  rw [abortStep_live hr h0]
  have k : Keeps [.out, .trace, .rounds, .cce, .fep] [] (stopped code r s)
      (traceEvent 5 0x06 code (abortColls code (stopped code r s))) :=
    (traceEvent_keeps _ _ _ _).via ((abortColls_keeps _ _).mono (.of_all (by decide)) (.nil _)) (.of_all (by decide)) (.nil _)
  refine ⟨((stopped_aborted code r s).after k (by decide)).after (bcastSend_keeps _ _ _ _ _) (by decide), _,
    exists_bcastSend _ _ _ _ _, rfl, rfl, ?_⟩
  have k0 := stopped_keeps code r s
  have hid := chipId_of_word ((k.parts .boot (by decide) (by decide)).trans (k0.parts .boot (by decide) (by decide)))
    ((k.regs.word (by decide)).trans (k0.regs.word (by decide)))
  have hnum := (k.parts .stepNum (by decide) (by decide)).trans (k0.parts .stepNum (by decide) (by decide))
  rw [hnum]
  exact congrArg (abortPayload code · s.stepNum) hid

/-- A code raised while a step is live aborts it (R415), in a unit whose error status is neither SDE_IDENT nor REG_LATE. -/
theorem raiseAborts_live (hc : code < 256) (hu : unit + 8 ≠ 0x408 ∧ unit + 8 ≠ 0x80050) (hl : stepLive s = true) :
    AbortedHere unit code s (raiseAborts unit code s) := by
  have k := record_keeps unit code s
  obtain ⟨habort, b, hb, hkind, horigin, hpayload⟩ := abortStep_abortedHere (code := code)
    ((stepLive_of_run (k.parts .run (by decide) (by decide))).trans hl)
  refine ⟨habort.before (k.parts .gen (by decide) (by decide)), fun hne => ?_, b, hb, hkind, horigin, ?_⟩
  · refine (record_recorded hc s).after ((abortStep_keeps code true _).regs.word ?_)
    have : unit + 8 ≠ 0x80008 := fun e => hne (Nat.add_right_cancel (m := 8) e)
    simp [abortAreas, Area.misses, this, hu.2]
  · have hid : chipId (record unit code s) = chipId s :=
      chipId_of_word (k.parts .boot (by decide) (by decide)) (k.regs.word (by simp [Area.misses, hu.1.symm]))
    rw [hpayload, hid, show (record unit code s).stepNum = s.stepNum from k.parts .stepNum (by decide) (by decide)]

/-- Where no step is live, an abort leaves all but the step's account. -/
theorem abortStep_idle (code : Nat) (onSelf : Bool) (hl : stepLive s = false) :
    ∃ v, abortStep code onSelf s = { s with run := v } := by
  unfold abortStep
  split
  · exact ⟨s.run, rfl⟩
  · next r hr =>
    have h0 : r.abortCode ≠ 0 := fun h0 => by simp [stepLive, hr, h0] at hl
    dsimp only
    rw [if_pos h0]
    exact ⟨_, rfl⟩

theorem Recorded.setRun (h : Recorded unit code s t) (k : Keeps [] [.reg (unit + 8)] s t) (v : Option Run) :
    Recorded unit code s { t with run := v } ∧ Frame [.run] [.reg (unit + 8)] s { t with run := v } := by
  have kv : Keeps [.run] [.reg (unit + 8)] s { t with run := v } :=
    KeepsMk.set_run (k.mono (.nil _) (.of_within fun _ h => h)) (.of_all (by decide))
  exact ⟨h.after rfl, kv.frame (.inr (.inr (by decide)))⟩

/-- Raised while no step is live, a code is recorded, and nothing else changes but the step's account (R69). -/
theorem raiseAborts_idle (hc : code < 256) (hl : stepLive s = false) :
    Recorded unit code s (raiseAborts unit code s) ∧ Frame [.run] [.reg (unit + 8)] s (raiseAborts unit code s) := by
  have k := record_keeps unit code s
  obtain ⟨v, e⟩ := abortStep_idle code true ((stepLive_of_run (k.parts .run (by decide) (by decide))).trans hl)
  rw [raiseAborts, e]
  exact (record_recorded hc s).setRun k v

/-! ### The home's record of a half -/

/-- A home's record is named by its layer, half and trip, found or not. -/
theorem homeAt_names (s : State) (l h tr : Nat) :
    (homeAt s l h tr).layer = l ∧ (homeAt s l h tr).half = h ∧ (homeAt s l h tr).trip = tr := by
  unfold homeAt
  cases hf : s.homes.find? (fun x => x.layer = l && x.half = h && x.trip = tr) with
  | none => exact ⟨rfl, rfl, rfl⟩
  | some x =>
    have hx := List.find?_some hf
    simp only [Bool.and_eq_true, decide_eq_true_eq] at hx
    exact ⟨hx.1.1, hx.1.2, hx.2⟩

theorem homeAt_of_homes (h : t.homes = s.homes) (l hf tr : Nat) : homeAt t l hf tr = homeAt s l hf tr := by
  rw [homeAt, h, homeAt]

theorem homeAt_putHome {x : HomeTally} {l h tr : Nat} (hx : x.layer = l ∧ x.half = h ∧ x.trip = tr) (s : State) :
    homeAt (putHome x s) l h tr = x := by
  obtain ⟨rfl, rfl, rfl⟩ := hx
  have hnone : (s.homes.filter (fun y => !(y.layer = x.layer && y.half = x.half && y.trip = x.trip))).find?
      (fun y => y.layer = x.layer && y.half = x.half && y.trip = x.trip) = none := by
    refine List.find?_eq_none.mpr fun y hy hp => ?_
    have hne := (List.mem_filter.mp hy).2
    rw [hp] at hne
    cases hne
  unfold homeAt putHome
  rw [List.find?_append, hnone]
  simp

/-! ### Messages without a tie -/

theorem sendCounted_untied {m : Message} (h : m.tie = .none) (s : State) : sendCounted m s = post m s := by
  unfold sendCounted
  rw [h]
  exact ite_self _

/-- A tally message whose delivery is not counted leaves the halves alone. -/
theorem sendTally_untied_keeps (dst type l h trip : Nat) (es : List Nat) (s : State) :
    Keeps [.out, .fep] [] s (sendTally dst type l h trip es .none s) := by
  refine Keeps.foldl (.refl _ _ _) fun y i => ?_
  rw [sendCounted_untied rfl]
  exact post_keeps _ _

theorem sendGrants_untied_keeps (l h tr : Nat) (origins : List Nat) (gs : List (Nat × Nat)) (s : State) :
    Keeps [.out, .fep] [] s (sendGrants l h tr origins gs s) :=
  Keeps.foldl (.refl _ _ _) fun y _ => sendTally_untied_keeps _ _ _ _ _ _ y

/-! ### A report lands -/

/-- Deciding an origin's report in arrival order (R182) leaves the reports that have landed. -/
theorem decideOrigin_reports (l h tr o : Nat) (s : State) :
    (homeAt (decideOrigin l h tr o s) l h tr).reports = (homeAt s l h tr).reports ∧ (decideOrigin l h tr o s).halves = s.halves := by
  unfold decideOrigin
  dsimp only
  split
  · exact ⟨rfl, rfl⟩
  · have k := fun gs y => sendGrants_untied_keeps l h tr [o] gs y
    refine ⟨?_, (k _ _).parts .halves (by decide) (by decide)⟩
    rw [homeAt_of_homes ((k _ _).parts .homes (by decide) (by decide)), homeAt_putHome]
    exact homeAt_names s l h tr

theorem homeAt_notePeak (l h tr : Nat) (s : State) : homeAt (notePeak s) l h tr = homeAt s l h tr :=
  homeAt_of_homes ((notePeak_keeps s).parts .homes (by decide) (by decide)) l h tr

/-- The state in which a packet's entries stand at the home. -/
def landed (src : Nat) (m : Bytes) (s : State) : State :=
  let x := homeAt s (tpLayer m) (tpHalf m) (tpTrip m)
  notePeak (putHome { x with reports := addPacket src m x.reports } s)

theorem landed_reports (src : Nat) (m : Bytes) (s : State) :
    (homeAt (landed src m s) (tpLayer m) (tpHalf m) (tpTrip m)).reports =
      addPacket src m (homeAt s (tpLayer m) (tpHalf m) (tpTrip m)).reports ∧ (landed src m s).halves = s.halves := by
  unfold landed
  refine ⟨?_, (notePeak_keeps _).parts .halves (by decide) (by decide)⟩
  rw [homeAt_notePeak, homeAt_putHome]
  exact homeAt_names s _ _ _

variable {src : Nat} {m : Bytes}

theorem tallyReport_waits (ha : awaitingLayer s (tpLayer m) = true) : tallyReport src m [] s = s := if_pos ha

theorem tallyReport_malformed (ha : awaitingLayer s (tpLayer m) = false) (hm : reportLegal s m = false) :
    tallyReport src m [] s = raiseAborts uTally 0x47 s := by
  simp [tallyReport, takeErrors, ha, hm]

theorem tallyReport_idle (ha : awaitingLayer s (tpLayer m) = false) (hm : reportLegal s m = true) (hl : stepLive s = false) :
    tallyReport src m [] s = s := by
  simp [tallyReport, takeErrors, ha, hm, hl]

theorem tallyReport_far (ha : awaitingLayer s (tpLayer m) = false) (hm : reportLegal s m = true) (hl : stepLive s = true)
    (hn : tallyNear s (tpLayer m) (tpHalf m) (tpTrip m) = false) : tallyReport src m [] s = raiseAborts uTally 0x47 s := by
  simp [tallyReport, takeErrors, ha, hm, hl, hn]

theorem tallyReport_noRoom (ha : awaitingLayer s (tpLayer m) = false) (hm : reportLegal s m = true) (hl : stepLive s = true)
    (hn : tallyNear s (tpLayer m) (tpHalf m) (tpTrip m) = true)
    (hf : landingSize s < landingUsed s + (packetEntries m).length) : tallyReport src m [] s = raiseAborts uTally 0x46 s := by
  simp [tallyReport, takeErrors, ha, hm, hl, hn, hf]

theorem tallyReport_lands (ha : awaitingLayer s (tpLayer m) = false) (hm : reportLegal s m = true) (hl : stepLive s = true)
    (hn : tallyNear s (tpLayer m) (tpHalf m) (tpTrip m) = true)
    (hf : landingUsed s + (packetEntries m).length ≤ landingSize s) :
    tallyReport src m [] s = landed src m s ∨
      tallyReport src m [] s = decideOrigin (tpLayer m) (tpHalf m) (tpTrip m) src (landed src m s) := by
  have e : tallyReport src m [] s = if arrivalOrder s (tpLayer m) && tpLast m && mayDecide s (tpLayer m) (tpHalf m) then
      decideOrigin (tpLayer m) (tpHalf m) (tpTrip m) src (landed src m s) else landed src m s := by
    simp [tallyReport, takeErrors, ha, hm, hl, hn, Nat.not_lt.mpr hf, landed]
  rw [e]
  exact (ite_takes_branch _ _ _).symm

/-! ### The statement -/

theorem tallyReport_completes {P : State → Prop} (h : P (tallyReport src m [] s)) : Completes (.tallyReport src m []) s P :=
  ⟨_, rfl, h⟩

/-- Settles O38, by the branches of TALLY_REPORT. -/
theorem reportsAtTheHome : Obligations.ReportsAtTheHome := by
  intro s src m
  refine ⟨fun ha => tallyReport_completes (tallyReport_waits ha), fun ha => ⟨fun hl hm => ?idle, fun hl hm => ?recorded,
    fun hl => ⟨fun hbad => ?illegal, fun hm hn hf => ?noRoom, fun hm hn hf => ?lands⟩⟩⟩
  all_goals apply tallyReport_completes
  case idle => exact tallyReport_idle ha hm hl
  case recorded =>
    rw [tallyReport_malformed ha hm]
    exact raiseAborts_idle (by decide) hl
  case illegal =>
    have e : tallyReport src m [] s = raiseAborts uTally 0x47 s := by
      cases hm : reportLegal s m with
      | false => exact tallyReport_malformed ha hm
      | true => exact tallyReport_far ha hm hl (by simpa [hm] using hbad)
    rw [e]
    exact raiseAborts_live (by decide) (by decide) hl
  case noRoom =>
    rw [tallyReport_noRoom ha hm hl hn hf]
    exact raiseAborts_live (by decide) (by decide) hl
  case lands =>
    obtain ⟨hreports, hhalves⟩ := landed_reports src m s
    rcases tallyReport_lands (src := src) ha hm hl hn hf with e | e
    · rw [e]
      exact ⟨hreports, hhalves⟩
    · obtain ⟨hr, hh⟩ := decideOrigin_reports (tpLayer m) (tpHalf m) (tpTrip m) src (landed src m s)
      rw [e]
      exact ⟨hr.trans hreports, hh.trans hhalves⟩

end Sys2Proof.Machine
end

section
/-! PROOFS. Two statements about every state that fail where a buffer is released that is not in use (R88): the tally's end
(O37) and the rows that leave COLLECT (O40). Each statement takes the buffers that it foresees a release of to be in use; the
states below meet that and release another one, so that the step aborts with E_POOL_REFCOUNT and the stations stand empty. -/
namespace Sys2Proof.Machine
open Sys2Proof

/-! ### A running step -/

/-- A layer of one expert, K = 1. -/
def oneLayer : LayerRec :=
  { layer := 0, k := 1, gateFn := 0, classMode := 0, base := 0, experts := 1, jitter := 0, normForm := 0, band := [0, 0, 0]
    routerAddr := 0, routerFmt := 1 }

/-- A plat of that layer, with one slot and 32 model columns. -/
def onePlat : Plat :=
  { format := 3, contract := 0x400, compiler := 0, requireStrict := false, chips := 64, slots := 1, dModel := 32, sfuTable := 0x400
    seed := 0, norm := false, stations := [], partition := [], counts := [], owners := [], channels := [], layers := [oneLayer]
    loops := [], init := none, poolBytes := [], hash := [], cadDigest := [], cadAddr := 0, cadLen := 0 }

/-- The account of a step that nothing has aborted. -/
def liveRun : Run :=
  { start := 0, late := false, strict := false, continue_ := true, byArrival := false, classLive := 0, platActivated := false
    listSwitched := false, listDiscarded := false, proposalWritten := false, listFp := 0, fences := [], aclkAt := 0, sclkAt := 0
    aclkLow := 0, sclkLow := 0, changes := 0, throttled := 0, retry := 0, replays := 0, skipped := 0, spilled := 0
    readmitted := 0, clamps := 0, abortCode := 0, localCode := 0, degraded := false, contributed := false }

/-- Step 1 of that plat. -/
def liveStep : State :=
  { State.reset with run := some liveRun, stepNum := 1, ldr := { State.reset.ldr with active := some onePlat } }

/-! ### Two row blocks of one SLOT_BASE -/

/-- A row block at SLOT_BASE 0, without rows, whose TOKEN tile is held in a buffer of pool 0. -/
def blockIn (ptr : Nat) : Block :=
  let hdr : TileHdr := ⟨1, 1, 5, 0, 0, 0, 32, 0, 0, 0, 0, 0, false, true, true, 0x400⟩
  { newBlock 0 hdr with token := [⟨hdr, [], [], some (0, ptr)⟩], complete := true }

/-- A half of two row blocks of one SLOT_BASE, each with a buffer of its own; it waits for its close and for no grant. -/
def twinHalf : Half :=
  { Half.start 0 0 with
    blocks := [blockIn 0, blockIn 1], packTrip := 1, tally := { Tally.start with phase := .awaitClose, contributed := true } }

def twins : State :=
  { liveStep with
    halves := [twinHalf], pools := { State.reset.pools with bufs := [⟨0, 0, unreserved, 1⟩, ⟨0, 1, unreserved, 1⟩] } }

theorem twins_tokensLive : TokensLive twins twinHalf := by
  unfold TokensLive BufsLive
  decide +kernel

/-- The fates are put back by SLOT_BASE: the first block then stands in the place of both, and the half names its buffer twice.
The second release aborts the step, and the homes' records go with it (R271). -/
theorem twins_close :
    (tallyClose 0 0 [] twins).run.map (·.abortCode) = some 0x22 ∧ (tallyClose 0 0 [] twins).homes = [] := by
  decide +kernel

/-- Refutes O37: TOKEN tiles in use, each named once, are not enough where two row blocks share a SLOT_BASE. With the close the
fates are written and the half is finished; its last release aborts the step, and no home's record is left that is closed. -/
theorem not_tallyAtTheOrigin : ¬ Obligations.TallyAtTheOrigin := by
  intro h
  obtain ⟨-, -, -, hclose, -⟩ := h twins
  obtain ⟨t, ht, hclosed, -⟩ := hclose 0 0 twinHalf (by decide +kernel) rfl rfl rfl rfl (.inr twins_tokensLive)
  obtain rfl : tallyClose 0 0 [] twins = t := Host.Outcome.next.inj ht
  rw [homeAt, twins_close.2] at hclosed
  exact absurd hclosed (by decide)

/-! ### A record's buffer that is not in use -/

/-- The tag of a token of chip 5. -/
def rowTag : Nat := tagOf 5 0 0 0 0 0

/-- An EXPERT_OUT tile of that token's one row, which ends its row block. -/
def rowOut : Bytes :=
  tileImage ⟨1, 6, 6, 0, 0, 1, 32, 0, 0, 0, 0, 0, false, true, true, 0x400⟩ [rowTag] [List.replicate 32 0] [[]]

/-- A row block that COLLECT is filling at another port. -/
def otherBlock : Collect :=
  { port := 1, layer := 0, half := 0, expert := 0, fmt := 6, rows := 0, nextCol := 0, tags := [], poison := false, codes := []
    scales := [], bufs := [] }

/-- The row is due, its token's chip has been fenced, and the buffer granted to its record is not in use. -/
def returning : State :=
  { liveStep.setWord 0x40C 1 with
    fences := [5], handed := [⟨0, 0, 0, 1, 0, [BitVec.ofNat 64 rowTag]⟩], collects := [otherBlock]
    pools := { State.reset.pools with
      pools := List.replicate 6 { Pool.empty with count := 4 }
      granted := [⟨0, 3, unreserved, [0xD, 0, 0, 0, 0, rowTag, 0]⟩] } }

theorem returning_mayAlloc :
    MayAlloc returning (hdrImage (hdrOf rowOut) true) (stationOwner returning 0xC) [0xC, 0, 0, 0, 0, 0] := by
  unfold MayAlloc
  decide +kernel

theorem tileTags_rowOut : tileTags rowOut = [BitVec.ofNat 64 rowTag] := by decide +kernel

theorem rowOut_ofOtherChip : ∀ w ∈ tileTags rowOut, tagOrigin w.toNat ≠ chipId returning := by
  rw [tileTags_rowOut, List.forall_mem_singleton]
  decide +kernel

/-- The row is discarded for its fenced chip (R263); the release of its record's buffer aborts the step, and COLLECT's row
blocks go with it (R271). -/
theorem returning_collect :
    (collectTile 0 rowOut [] returning).run.map (·.abortCode) = some 0x22 ∧ (collectTile 0 rowOut [] returning).collects = [] := by
  decide +kernel

/-- Refutes O40: the buffers of a row block's records are taken to differ, and not to be in use. A row of a fenced chip releases
one, that had been granted earlier and is not in use; the step aborts, and the row blocks of the other ports are gone. -/
theorem not_groupsAndRows : ¬ Obligations.GroupsAndRows := by
  intro h
  obtain ⟨-, -, -, -, -, -, hcollect⟩ := h returning
  obtain ⟨-, htaken⟩ := hcollect 0 rowOut
  obtain ⟨-, -, -, hreached⟩ := htaken (.inl rfl) returning_mayAlloc
  obtain ⟨-, -, hfirst⟩ := hreached (by decide +kernel) rfl rfl (by decide +kernel)
  obtain ⟨-, -, hrows⟩ := hfirst (by decide +kernel) (by decide +kernel)
  obtain ⟨-, hlast, -⟩ := hrows [(0, 3)] (by decide +kernel) (by decide +kernel) (by decide +kernel) (by decide +kernel)
  obtain ⟨t, ht, hkept, -⟩ := hlast (by decide +kernel) rfl rowOut_ofOtherChip
  obtain rfl : collectTile 0 rowOut [] returning = t := Host.Outcome.next.inj ht
  rw [returning_collect.2] at hkept
  exact List.cons_ne_nil otherBlock [] hkept.symm

end Sys2Proof.Machine
end

section
/-! PROOFS. The staging of a change list (O23, R230, R231). -/
namespace Sys2Proof.Machine
open Sys2Proof

variable {s t : State} {env : MemEnv}

/-! ### CAD_CTRL -/

theorem listStage_unarmed (h : s.lst.stage = .empty ∨ s.lst.stage = .staged) :
    listStage s = { s with lst := { s.lst with
      stage := .checking, before := s.lst.stage, newSince := [], newSrc := s.addr64 0x60010 0x60014
      newCount := s.field 0x60018 14 0 } } := by
  rcases h with h | h <;> simp only [listStage, h]

theorem listStage_checking (h : s.lst.stage = .checking) : listStage s = record uCad 0x03 s := by simp only [listStage, h]

theorem listStage_armed (h : s.lst.stage = .armed) : listStage s = record uCad 0x12 s := by simp only [listStage, h]

theorem listArm_staged (h : s.lst.stage = .staged) : listArm s = { s with lst := { s.lst with stage := .armed } } := by
  simp only [listArm, h]

theorem listArm_armed (h : s.lst.stage = .armed) : listArm s = record uCad 0x12 s := by simp only [listArm, h]

theorem listArm_none (h : s.lst.stage = .empty ∨ s.lst.stage = .checking) : listArm s = record uCad 0x13 s := by
  rcases h with h | h <;> simp only [listArm, h]

theorem listDisarm_armed (h : s.lst.stage = .armed) : listDisarm s = { s with lst := { s.lst with stage := .staged } } := by
  simp only [listDisarm, h]

theorem listDisarm_unarmed (h : s.lst.stage ≠ .armed) : listDisarm s = record uCad 0x13 s := by
  cases hs : s.lst.stage with
  | armed => exact absurd hs h
  | _ => simp only [listDisarm, hs]

/-- A write of CAD_CTRL that only moves the list. -/
theorem setList_frame (l : ChangeList) : Frame [.lst] [] s { s with lst := l } :=
  Keeps.frame (KeepsMk.set_lst (.refl _ _ _) (.of_all (by decide))) (.inl rfl)

/-! ### The check of a list -/

/-- A record is refused with E_CAD_CAPACITY or E_CAD_IMAGE alone (R230). -/
theorem checkRec_code {r : ListRec} {cad : Store (List Word32)} {c : Nat} (h : checkRec s r cad = .error c) :
    c = 0x0F ∨ c = 0x11 := by
  unfold checkRec at h
  dsimp only at h
  repeat' split at h
  all_goals cases h
  all_goals decide

theorem checkRecs_code {rs : List ListRec} {cad : Store (List Word32)} {c : Nat} (h : checkRecs s rs cad = .error c) :
    c = 0x0F ∨ c = 0x11 := by
  induction rs generalizing cad with
  | nil => cases h
  | cons r rs ih =>
    rw [checkRecs] at h
    split at h
    · exact ih h
    · next hr =>
      cases h
      exact checkRec_code hr

/-- The code of a list is one byte. -/
theorem listCode_lt (s : State) (b : Bytes) : listCode s b < 256 := by
  unfold listCode
  dsimp only
  split
  · decide
  · split
    · next h => rcases checkRecs_code h with rfl | rfl <;> decide
    · repeat' split
      all_goals decide

/-- The code of the check of R230, zero where the list passes: 0x2B where a line of the list stays uncorrectable (R236). -/
def listVerdict (env : MemEnv) (s : State) : Nat :=
  let m := withEnv env s
  let n := 8 * s.lst.newCount
  if badLine env s.lst.newSrc n = true then 0x2B else listCode m (memBytes m.mem s.lst.newSrc n)

theorem listVerdict_lt (env : MemEnv) (s : State) : listVerdict env s < 256 := by
  unfold listVerdict
  dsimp only
  split
  · decide
  · exact listCode_lt _ _

/-- The state in which a list that passes stands staged. -/
def listStaged (env : MemEnv) (s : State) : State :=
  { withEnv env s with lst := { s.lst with
      stage := .staged, src := s.lst.newSrc, count := s.lst.newCount
      digest := sha384 (memBytes (withEnv env s).mem s.lst.newSrc (8 * s.lst.newCount))
      since := s.lst.newSince, newSince := [] } }

/-- The state in which a list that is rejected leaves the one before it as it was. -/
def listRejected (env : MemEnv) (s : State) : State :=
  { withEnv env s with lst := { s.lst with stage := s.lst.before, newSince := [] } }

theorem listCheckDone_eq (hs : s.lst.stage = .checking) : listCheckDone env s =
    if listVerdict env s = 0 then cadNotice 0 0 (listStaged env s)
    else cadNotice (listVerdict env s) 0 (record uCad (listVerdict env s) (listRejected env s)) := by
  simp only [listCheckDone, withEnv_lst, hs]
  rfl

theorem listCheckDone_passes (hs : s.lst.stage = .checking) (h : listVerdict env s = 0) :
    (listCheckDone env s).lst = (listStaged env s).lst ∧ (listCheckDone env s).cad = s.cad := by
  have k := cadNotice_keeps 0 0 (listStaged env s)
  rw [listCheckDone_eq hs, if_pos h]
  exact ⟨k.parts .lst (by decide) (by decide), k.parts .cad (by decide) (by decide)⟩

theorem listCheckDone_rejects (hs : s.lst.stage = .checking) (h : listVerdict env s ≠ 0) :
    (listCheckDone env s).lst = (listRejected env s).lst ∧ (listCheckDone env s).cad = s.cad ∧
      Recorded uCad (listVerdict env s) s (listCheckDone env s) := by
  have kr := record_keeps uCad (listVerdict env s) (listRejected env s)
  have k := cadNotice_keeps (listVerdict env s) 0 (record uCad (listVerdict env s) (listRejected env s))
  have hrec := record_recorded (unit := uCad) (listVerdict_lt env s) (listRejected env s)
  rw [listCheckDone_eq hs, if_neg h]
  exact ⟨(k.parts .lst (by decide) (by decide)).trans (kr.parts .lst (by decide) (by decide)),
    (k.parts .cad (by decide) (by decide)).trans (kr.parts .cad (by decide) (by decide)),
    (hrec.after (k.regs.word (by decide))).before rfl⟩

/-! ### The statement -/

theorem stage_completes {P : State → Prop} (h : P (listStage s)) : Completes (.stage true) s P := ⟨_, rfl, h⟩

theorem arm_completes {P : State → Prop} (h : P (listArm s)) : Completes (.arm true) s P := ⟨_, rfl, h⟩

theorem listDisarm_completes {P : State → Prop} (h : P (listDisarm s)) : Completes (.listDisarm true) s P := ⟨_, rfl, h⟩

theorem listCheckDone_completes {P : State → Prop} (h : P (listCheckDone env s)) : Completes (.listCheckDone env) s P :=
  ⟨_, rfl, h⟩

/-- Settles O23. -/
theorem changeListStaging : Obligations.ChangeListStaging := by
  intro s
  refine ⟨fun h => stage_completes ?_, fun h => stage_completes ?_, fun h => stage_completes ?_, fun h => arm_completes ?_,
    fun h => arm_completes ?_, fun h => arm_completes ?_, fun h => listDisarm_completes ?_, fun h => listDisarm_completes ?_,
    fun env hs => ?check⟩
  · exact listStage_unarmed h ▸ ⟨rfl, setList_frame _⟩
  · exact listStage_checking h ▸ record_refused (by decide) s
  · exact listStage_armed h ▸ record_refused (by decide) s
  · exact listArm_staged h ▸ ⟨rfl, setList_frame _⟩
  · exact listArm_armed h ▸ record_refused (by decide) s
  · exact listArm_none h ▸ record_refused (by decide) s
  · exact listDisarm_armed h ▸ ⟨rfl, setList_frame _⟩
  · exact listDisarm_unarmed h ▸ record_refused (by decide) s
  case check =>
    dsimp only
    refine ⟨fun hl h0 => listCheckDone_completes ?_, fun hl hc => listCheckDone_completes ?_, fun hl => listCheckDone_completes ?_⟩
    · exact listCheckDone_passes hs ((if_neg hl).trans h0)
    · have hv : listVerdict env s = _ := if_neg hl
      rw [← hv] at hc ⊢
      exact listCheckDone_rejects hs hc
    · have hv : listVerdict env s = 0x2B := if_pos hl
      rw [← hv]
      exact listCheckDone_rejects hs (by rw [hv]; decide)

end Sys2Proof.Machine
end

section
/-! PROOFS. Quarantine (O24, R238 to R240): the datum that an order names, the notices it sends, and what a running step does. -/
namespace Sys2Proof.Machine
open Sys2Proof

variable {s t u : State} {unit code : Nat} {ps : List Part} {as : List Area}

/-! ### An abort seen from an earlier state -/

/-- A code of the chip itself aborts the step that an earlier state runs too, where what went before has left the generation,
the chip's identity and the unit's error status. -/
theorem AbortedHere.before (h : AbortedHere unit code t u) (k : Keeps ps as s t)
    (hp : ([.gen, .boot, .stepNum] : List Part).all (fun p => !ps.contains p) = true)
    (hu : as.all (·.misses (unit + 8)) = true) (hid : as.all (·.misses 0x408) = true) : AbortedHere unit code s u := by
  simp only [List.all_cons, List.all_nil, Bool.and_true, Bool.and_eq_true, Bool.not_eq_true', List.contains_eq_mem,
    decide_eq_false_iff_not] at hp
  obtain ⟨hgen, hboot, hstep⟩ := hp
  obtain ⟨habort, hrec, b, hb, hkind, horigin, hpayload⟩ := h
  refine ⟨habort.before (k.parts .gen hgen (by decide)), fun hne => (hrec hne).before (k.regs.word hu), b, hb, hkind, horigin, ?_⟩
  rw [hpayload, chipId_of_word (k.parts .boot hboot (by decide)) (k.regs.word hid),
    show t.stepNum = s.stepNum from k.parts .stepNum hstep (by decide)]

/-! ### The slot -/

/-- The layers alone place an expert's entry (R214). -/
theorem entryIx_of_ldr (h : t.ldr = s.ldr) (e : Nat) : entryIx t e = entryIx s e := by
  simp only [entryIx, layerOf, firstEntry, platLayers, h]

/-- Plat and cadastre alone decide what a quarantine leaves in the cadastre (R238). -/
theorem quarantineSlot_cad_congr (hl : t.ldr = s.ldr) (hc : t.cad = s.cad) (e chip : Nat) :
    (quarantineSlot e chip t).cad = (quarantineSlot e chip s).cad := by
  unfold quarantineSlot
  rw [entryIx_of_ldr hl]
  cases entryIx s e with
  | none => exact hc
  | some x => simp only [cadEntry, hc]

/-- An expert of which the chip holds a LIVE slot has an entry. -/
theorem exists_entryIx_of_ownLive {e : Nat} (h : ownLive s e = true) : ∃ x, entryIx s e = some x := by
  refine Option.ne_none_iff_exists'.mp fun hn => ?_
  have hz : slotState 0#32 ≠ 1 := by decide
  simp [ownLive, slotsFor, hn, zeroEntry, hz] at h

theorem quarantineSlot_since {e x : Nat} (h : entryIx s e = some x) (chip : Nat) :
    (quarantineSlot e chip s).lst.since = s.lst.since ++ [(e, chip)] := by
  simp only [quarantineSlot, h]

theorem applyQuarantine_cad (q : Quarantine) (s : State) :
    (applyQuarantine q s).cad = (quarantineSlot q.expert q.chip s).cad :=
  (notice_keeps _ _ _ _ _).parts .cad (by decide) (by decide)

theorem applyQuarantine_lst (q : Quarantine) (s : State) :
    (applyQuarantine q s).lst = (quarantineSlot q.expert q.chip s).lst :=
  (notice_keeps _ _ _ _ _).parts .lst (by decide) (by decide)

/-- The datum that a quarantine names is in progress, and its action 1 has been taken (R238). -/
def ActsNow (q : Quarantine) (s : State) : Prop := s.dat.began = true ∧ q.step ≤ nextStep s

theorem keepQuarantine_now {q : Quarantine} (h : ActsNow q s) : keepQuarantine q s = applyQuarantine q s := by
  rw [keepQuarantine, if_pos]
  simpa [ActsNow] using h

theorem keepQuarantine_later {q : Quarantine} (h : ¬ ActsNow q s) :
    keepQuarantine q s = { s with quarPending := s.quarPending ++ [q] } := by
  rw [keepQuarantine, if_neg]
  simpa [ActsNow] using h

/-! ### The notices -/

/-- A quarantine notice to a chip (R238, R430). -/
def quarantineTo (s : State) (payload : Bytes) (c : Nat) : Message := ⟨c, 0xA, 0x06, s.stepNum, payload, .quarantine, 0, none⟩

/-- The endpoint's queue with more messages, after a number of quarantine notices has been counted delivered. -/
def handedOver (n : Nat) (ms : List Message) (s : State) : State :=
  { s with quarUndelivered := s.quarUndelivered - n, fep := { s.fep with waiting := s.fep.waiting ++ ms } }

theorem handedOver_handedOver (n k : Nat) (ms ls : List Message) (s : State) :
    handedOver k ls (handedOver n ms s) = handedOver (n + k) (ms ++ ls) s := by
  simp [handedOver, Nat.sub_sub]

@[simp] theorem handedOver_quarUndelivered (n : Nat) (ms : List Message) (s : State) :
    (handedOver n ms s).quarUndelivered = s.quarUndelivered - n := rfl

@[simp] theorem handedOver_waiting (n : Nat) (ms : List Message) (s : State) :
    (handedOver n ms s).fep.waiting = s.fep.waiting ++ ms := rfl

theorem handedOver_keeps (n : Nat) (ms : List Message) (s : State) :
    Keeps [.quarUndelivered, .fep] [] s (handedOver n ms s) := by
  have k : Keeps [.quarUndelivered, .fep] [] s { s with quarUndelivered := s.quarUndelivered - n } :=
    KeepsMk.set_quarUndelivered (.refl _ _ s) (.of_all (by decide))
  exact KeepsMk.set_fep k (.of_all (by decide))

theorem post_ended {m : Message} (hd : m.dst ≠ chipId s) (h : endsHere s m = true) : post m s = s := by
  rw [post, if_neg hd, if_pos h]

theorem post_queued {m : Message} (h : endsHere s m = false) :
    post m s = { s with fep := { s.fep with waiting := s.fep.waiting ++ [m] } } := by
  have hd : m.dst ≠ chipId s := fun hd => by simp [endsHere, hd] at h
  rw [post, if_neg hd, h, if_neg (by decide)]

/-- A quarantine notice goes on while its chip is not fenced (R4). -/
theorem endsHere_quarantineTo {c : Nat} {payload : Bytes} (hc : c ≠ chipId s) (hself : s.fenceSelf = false) :
    endsHere s (quarantineTo s payload c) = fenced s c := by
  simp [endsHere, quarantineTo, hc, hself]

/-- One to a fenced chip counts as delivered (R238). -/
theorem sendCounted_fenced {c : Nat} {payload : Bytes} (hc : c ≠ chipId s) (hself : s.fenceSelf = false)
    (hf : fenced s c = true) : sendCounted (quarantineTo s payload c) s = handedOver 1 [] s := by
  have hends := (endsHere_quarantineTo (payload := payload) hc hself).trans hf
  rw [sendCounted, if_pos hends, post_ended hc hends, handedOver, List.append_nil]
  rfl

theorem sendCounted_unfenced {c : Nat} {payload : Bytes} (hc : c ≠ chipId s) (hself : s.fenceSelf = false)
    (hf : fenced s c = false) :
    sendCounted (quarantineTo s payload c) s = handedOver 0 [quarantineTo s payload c] s := by
  have hends := (endsHere_quarantineTo (payload := payload) hc hself).trans hf
  rw [sendCounted, hends, if_neg (by decide), post_queued hends]
  rfl

/-- A notice goes to every chip of a list that is not fenced; those to fenced chips are counted delivered (R4, R238). -/
theorem sendAll_quarantine {payload : Bytes} {dsts : List Nat} (hd : ∀ c ∈ dsts, c ≠ chipId s) (hself : s.fenceSelf = false) :
    sendAll dsts 0xA 0x06 payload .quarantine s =
      handedOver (dsts.countP (fenced s)) ((dsts.filter (fun c => !fenced s c)).map (quarantineTo s payload)) s := by
  induction dsts generalizing s with
  | nil => simp [sendAll, handedOver]
  | cons c cs ih =>
    obtain ⟨hc, hcs⟩ := List.forall_mem_cons.mp hd
    have hrest : ∀ n ms, sendAll cs 0xA 0x06 payload .quarantine (handedOver n ms s) =
        handedOver (n + cs.countP (fenced s)) (ms ++ (cs.filter (fun c => !fenced s c)).map (quarantineTo s payload)) s :=
      fun n ms => (ih (s := handedOver n ms s) hcs hself).trans (handedOver_handedOver _ _ _ _ _)
    show sendAll cs 0xA 0x06 payload .quarantine (sendCounted (quarantineTo s payload c) s) = _
    cases hf : fenced s c with
    | true =>
      rw [sendCounted_fenced hc hself hf, hrest, List.countP_cons_of_pos hf, List.filter_cons_of_neg (by simp [hf]),
        List.nil_append, Nat.add_comm]
    | false =>
      rw [sendCounted_unfenced hc hself hf, hrest, List.countP_cons_of_neg (by simp [hf]), List.filter_cons_of_pos (by simp [hf]),
        Nat.zero_add]
      rfl

/-! ### CAD_QUARANTINE -/

/-- What a write of CAD_QUARANTINE orders of an expert (R238). -/
def quarantineOrder (s : State) (e : Nat) : Quarantine := ⟨e, chipId s, quarantineStep s⟩

/-- The chips that an order is told to: every other chip outside the step's fence set (R238). -/
def toldChips (s : State) : List Nat :=
  (List.range (chipCount s)).filter (fun c => c ≠ chipId s && !(stepFences s).contains c)

/-- The state in which the notices of an order are counted as not yet delivered. -/
def orderCounted (s : State) : State := { s with quarUndelivered := s.quarUndelivered + (toldChips s).length }

theorem orderCounted_keeps (s : State) : Keeps [.quarUndelivered] [] s (orderCounted s) :=
  KeepsMk.set_quarUndelivered (.refl _ _ s) (.of_all (by decide))

/-- The state in which the order is kept as well, or has acted. -/
def orderKept (e : Nat) (s : State) : State := keepQuarantine (quarantineOrder s e) (orderCounted s)

/-- The state in which the notices have been handed over as well. -/
def orderTold (e : Nat) (s : State) : State :=
  sendAll (toldChips s) 0xA 0x06 (quarantinePayload (chipId s) e (quarantineStep s)) .quarantine (orderKept e s)

/-- The state in which a running step goes on without the expert, its rows not yet recalled (R240). -/
def orderActing (e : Nat) (s : State) : State :=
  modRun (fun r => { r with degraded := true }) { orderTold e s with quarActing := (orderTold e s).quarActing ++ [e] }

/-- What the replica takes back leaves the orders alone. -/
theorem orderActing_recalled (e : Nat) (s : State) :
    Keeps abortParts [.all] (orderActing e s) (runFeed (recallHeld e (orderActing e s))) :=
  ((recallHeld_keeps e _).mono (fun _ h => h) (.all (.head _))).trans ((runFeed_keeps _).mono (fun _ h => h) (.all (.head _)))

theorem orderKept_keeps (e : Nat) (s : State) :
    Keeps [.mem, .note, .cad, .lst, .quarPending, .quarUndelivered] noteAreas s (orderKept e s) :=
  (keepQuarantine_keeps _ _).via ((orderCounted_keeps s).mono (.of_all (by decide)) (.nil _)) (.of_all (by decide))
    (.of_all (by decide))

theorem orderTold_keeps (e : Nat) (s : State) :
    Keeps [.mem, .note, .cad, .lst, .quarPending, .quarUndelivered, .out, .halves, .fep] noteAreas s (orderTold e s) :=
  (sendAll_keeps _ _ _ _ _ _).via ((orderKept_keeps e s).mono (.of_all (by decide)) (.of_all (by decide))) (.of_all (by decide))
    (.nil _)

theorem stepLive_orderTold (e : Nat) (s : State) : stepLive (orderTold e s) = stepLive s :=
  stepLive_of_run ((orderTold_keeps e s).parts .run (by decide) (by decide))

theorem strictLive_orderTold (e : Nat) (s : State) : strictLive (orderTold e s) = strictLive s := by
  rw [strictLive, State.live, field_of_word ((orderTold_keeps e s).regs.word (by decide))]
  rfl

theorem orderTold_quarPending (e : Nat) (s : State) : (orderTold e s).quarPending = (orderKept e s).quarPending :=
  (sendAll_keeps _ _ _ _ _ _).parts .quarPending (by decide) (by decide)

section
variable {v : Word32} (hv : v.toNat < 2 ^ 20) (hlive : ownLive s v.toNat = true)
  (hnew : ∀ q ∈ s.quarPending, ¬ (q.expert = v.toNat ∧ q.chip = chipId s))
include hv hlive hnew

theorem cadQuarantine_eq : cadQuarantine v s =
    if !stepLive s then orderTold v.toNat s
    else if strictLive s then raiseAborts uCad 0x2C (orderTold v.toNat s)
    else runFeed (recallHeld v.toNat (orderActing v.toNat s)) := by
  have hfirst : ¬ ((!ownLive s v.toNat || s.quarPending.any (fun q => q.expert = v.toNat && q.chip = chipId s)) = true) := by
    simpa [hlive] using hnew
  rw [← stepLive_orderTold v.toNat, ← strictLive_orderTold v.toNat, cadQuarantine]
  dsimp only
  rw [if_neg (Nat.not_le.mpr hv), if_neg hfirst]
  rfl

theorem cadQuarantine_idle (h : stepLive s = false) : cadQuarantine v s = orderTold v.toNat s := by
  rw [cadQuarantine_eq hv hlive hnew, h]
  rfl

theorem cadQuarantine_strict (h : stepLive s = true) (hs : strictLive s = true) :
    cadQuarantine v s = raiseAborts uCad 0x2C (orderTold v.toNat s) := by
  rw [cadQuarantine_eq hv hlive hnew, h, hs]
  rfl

theorem cadQuarantine_degrades (h : stepLive s = true) (hs : strictLive s = false) :
    cadQuarantine v s = runFeed (recallHeld v.toNat (orderActing v.toNat s)) := by
  rw [cadQuarantine_eq hv hlive hnew, h, hs]
  rfl

end

/-! ### What is ordered -/

theorem quarantineStep_eq (s : State) : quarantineStep s = nextStep s + (if s.dat.phase = .idle then 0 else 1) := by
  unfold quarantineStep
  by_cases h : s.dat.phase = .idle <;> simp [h, b2n]

/-- The order names the datum in progress exactly while this chip has not contributed (log entry 45). -/
theorem actsNow_quarantineOrder (e : Nat) (s : State) :
    ActsNow (quarantineOrder s e) s ↔ s.dat.began = true ∧ s.dat.phase = .idle := by
  have h : quarantineStep s ≤ nextStep s ↔ s.dat.phase = .idle := by
    rw [quarantineStep_eq]
    split <;> simp [*]
  exact and_congr_right fun _ => h

theorem orderKept_later {e : Nat} (h : ¬ ActsNow (quarantineOrder s e) s) :
    orderKept e s = { orderCounted s with quarPending := s.quarPending ++ [quarantineOrder s e] } :=
  keepQuarantine_later (s := orderCounted s) h

theorem orderKept_now {e : Nat} (h : ActsNow (quarantineOrder s e) s) :
    orderKept e s = applyQuarantine (quarantineOrder s e) (orderCounted s) := keepQuarantine_now (s := orderCounted s) h

theorem orderKept_quarPending (e : Nat) (s : State) :
    (¬ ActsNow (quarantineOrder s e) s → (orderKept e s).quarPending = s.quarPending ++ [quarantineOrder s e]) ∧
      (ActsNow (quarantineOrder s e) s → (orderKept e s).quarPending = s.quarPending) := by
  refine ⟨fun h => ?_, fun h => ?_⟩
  · rw [orderKept_later h]
  · rw [orderKept_now h]
    exact (applyQuarantine_keeps _ _).parts .quarPending (by decide) (by decide)

/-- The order waits for its datum, or has acted (R238). -/
theorem order_queued {e : Nat} (h : t.quarPending = (orderTold e s).quarPending) :
    (¬ (s.dat.began = true ∧ s.dat.phase = .idle) → t.quarPending =
      s.quarPending ++ [⟨e, chipId s, nextStep s + (if s.dat.phase = .idle then 0 else 1)⟩]) ∧
    (s.dat.began = true ∧ s.dat.phase = .idle → t.quarPending = s.quarPending) := by
  rw [h, orderTold_quarPending, ← actsNow_quarantineOrder e, ← quarantineStep_eq]
  exact orderKept_quarPending e s

/-- The chips told that are not fenced are those that the notices go to. -/
theorem filter_toldChips (s : State) : (toldChips s).filter (fun c => !fenced s c) =
    (List.range (chipCount s)).filter (fun c => c ≠ chipId s && !(stepFences s).contains c && !fenced s c) := by
  rw [toldChips, List.filter_filter]
  exact List.filter_congr fun c _ => Bool.and_comm _ _

/-- The notices of an order: one to every chip told that is not fenced (R238, R430). -/
theorem orderTold_eq (e : Nat) (hself : s.fenceSelf = false) : orderTold e s =
    handedOver ((toldChips s).countP (fenced s))
      (((toldChips s).filter (fun c => !fenced s c)).map
        (quarantineTo s (quarantinePayload (chipId s) e (quarantineStep s)))) (orderKept e s) := by
  have k := orderKept_keeps e s
  have hid : chipId (orderKept e s) = chipId s :=
    chipId_of_word (k.parts .boot (by decide) (by decide)) (k.regs.word (by decide))
  have hfenced : fenced (orderKept e s) = fenced s := by
    funext c
    rw [fenced, show (orderKept e s).fences = s.fences from k.parts .fences (by decide) (by decide), fenced]
  have hto : quarantineTo (orderKept e s) = quarantineTo s := by
    funext payload c
    rw [quarantineTo, show (orderKept e s).stepNum = s.stepNum from k.parts .stepNum (by decide) (by decide), quarantineTo]
  have hd : ∀ c ∈ toldChips s, c ≠ chipId (orderKept e s) := by
    intro c hc
    have := (List.mem_filter.mp hc).2
    simp only [Bool.and_eq_true, decide_eq_true_eq] at this
    exact hid ▸ this.1
  rw [orderTold, sendAll_quarantine hd ((k.parts .fenceSelf (by decide) (by decide)).trans hself), hfenced, hto]

theorem orderKept_quarUndelivered (e : Nat) (s : State) :
    (orderKept e s).quarUndelivered = s.quarUndelivered + (toldChips s).length :=
  (keepQuarantine_keeps _ _).parts .quarUndelivered (by decide) (by decide)

theorem orderTold_quarUndelivered (e : Nat) (hself : s.fenceSelf = false) : (orderTold e s).quarUndelivered =
    s.quarUndelivered + ((toldChips s).filter (fun c => !fenced s c)).length := by
  have h : ((toldChips s).filter (fun c => !fenced s c)).length + (toldChips s).countP (fenced s) = (toldChips s).length := by
    rw [← List.countP_eq_length_filter, List.length_eq_countP_add_countP (fenced s), Nat.add_comm]
    simp
  rw [orderTold_eq e hself, handedOver_quarUndelivered, orderKept_quarUndelivered]
  omega

theorem orderTold_waiting (e : Nat) (hself : s.fenceSelf = false) : (orderTold e s).fep.waiting = s.fep.waiting ++
    ((toldChips s).filter (fun c => !fenced s c)).map
      (quarantineTo s (quarantinePayload (chipId s) e (quarantineStep s))) := by
  have hfep : (orderKept e s).fep = s.fep := (orderKept_keeps e s).parts .fep (by decide) (by decide)
  rw [orderTold_eq e hself, handedOver_waiting, hfep]

/-- An order that waits for its datum changes nothing else. -/
theorem orderTold_frame {e : Nat} (hself : s.fenceSelf = false) (h : ¬ ActsNow (quarantineOrder s e) s) :
    Frame [.quarPending, .quarUndelivered, .fep] [] s (orderTold e s) := by
  have k : Keeps [.quarPending, .quarUndelivered, .fep] [] s (orderKept e s) := by
    rw [orderKept_later h]
    exact KeepsMk.set_quarPending ((orderCounted_keeps s).mono (.of_all (by decide)) (.nil _)) (.of_all (by decide))
  rw [orderTold_eq e hself]
  exact ((handedOver_keeps _ _ _).via k (.of_all (by decide)) (.nil _)).frame (.inl rfl)

/-- An order that acts at once leaves this chip's slot QUARANTINED (R238). -/
theorem orderTold_acts {e : Nat} (hlive : ownLive s e = true) (h : ActsNow (quarantineOrder s e) s) :
    (orderTold e s).cad = (quarantineSlot e (chipId s) s).cad ∧ (orderTold e s).lst.since = s.lst.since ++ [(e, chipId s)] := by
  have k := sendAll_keeps (toldChips s) 0xA 0x06 (quarantinePayload (chipId s) e (quarantineStep s)) .quarantine (orderKept e s)
  have hcad : (orderTold e s).cad = (orderKept e s).cad := k.parts .cad (by decide) (by decide)
  have hlst : (orderTold e s).lst = (orderKept e s).lst := k.parts .lst (by decide) (by decide)
  obtain ⟨x, hx⟩ := exists_entryIx_of_ownLive hlive
  rw [hcad, hlst, orderKept_now h, applyQuarantine_cad, applyQuarantine_lst]
  exact ⟨quarantineSlot_cad_congr (s := s) (t := orderCounted s) rfl rfl _ _, quarantineSlot_since (s := orderCounted s) hx _⟩

/-! ### QUARANTINE_NOTICE -/

/-- The order that a notice carries (R430). -/
def noticeOrder (src : Nat) (m : Bytes) : Quarantine := ⟨bits (leAt m 4 4) 19 0, src, bits (leAt m 8 8) 55 0⟩

/-- The state in which an order is among those seen while a step runs (R241). -/
def orderSeen (q : Quarantine) (s : State) : State :=
  { s with quarSeen := if stepLive s then s.quarSeen ++ [q] else s.quarSeen }

theorem orderSeen_keeps (q : Quarantine) (s : State) : Keeps [.quarPending, .quarSeen] [] s (orderSeen q s) :=
  KeepsMk.set_quarSeen (.refl _ _ s) (.of_all (by decide))

section
variable {src : Nat} {m : Bytes} (hlen : m.length = 32) (htype : leAt m 0 1 = 1)
include hlen htype

theorem quarantineNotice_eq : quarantineNotice src m s =
    if noticeOrder src m ∈ s.quarPending then s
    else keepQuarantine (noticeOrder src m) (orderSeen (noticeOrder src m) s) := by
  simp only [quarantineNotice, hlen, htype, ← List.contains_iff_mem]
  rfl

theorem quarantineNotice_known (h : noticeOrder src m ∈ s.quarPending) : quarantineNotice src m s = s := by
  rw [quarantineNotice_eq hlen htype, if_pos h]

theorem quarantineNotice_kept (h : noticeOrder src m ∉ s.quarPending) (hn : ¬ ActsNow (noticeOrder src m) s) :
    quarantineNotice src m s =
      { orderSeen (noticeOrder src m) s with quarPending := s.quarPending ++ [noticeOrder src m] } := by
  rw [quarantineNotice_eq hlen htype, if_neg h]
  exact keepQuarantine_later (s := orderSeen _ s) hn

theorem quarantineNotice_acts (h : noticeOrder src m ∉ s.quarPending) (hn : ActsNow (noticeOrder src m) s) :
    quarantineNotice src m s = applyQuarantine (noticeOrder src m) (orderSeen (noticeOrder src m) s) := by
  rw [quarantineNotice_eq hlen htype, if_neg h]
  exact keepQuarantine_now (s := orderSeen _ s) hn

end

/-! ### The statement -/

theorem cadQuarantine_completes {v : Word32} {P : State → Prop} (h : P (cadQuarantine v s)) : Completes (.cadQuarantine v) s P :=
  ⟨_, rfl, h⟩

theorem quarantineNotice_completes {src : Nat} {m : Bytes} {P : State → Prop} (h : P (quarantineNotice src m s)) :
    Completes (.quarantineNotice src m) s P := ⟨_, rfl, h⟩

/-- Settles O24. -/
theorem quarantineOrders : Obligations.QuarantineOrders := by
  intro s v hv hlive hnew
  refine ⟨fun hl hself => cadQuarantine_completes ?idle, fun hl hs => cadQuarantine_completes ?strict,
    fun hl hs => cadQuarantine_completes ?degrades, fun src m hlen htype => ?notice⟩
  case idle =>
    rw [cadQuarantine_idle hv hlive hnew hl]
    refine ⟨order_queued rfl, ?_, ?_, fun h => orderTold_frame hself (mt (actsNow_quarantineOrder _ _).mp h),
      fun h => orderTold_acts hlive ((actsNow_quarantineOrder _ _).mpr h)⟩
    · rw [orderTold_quarUndelivered _ hself, filter_toldChips]
    · rw [orderTold_waiting _ hself, filter_toldChips, quarantineStep_eq]
      rfl
  case strict =>
    rw [cadQuarantine_strict hv hlive hnew hl hs]
    exact ⟨order_queued ((raiseAborts_keeps _ _ _).parts .quarPending (by decide) (by decide)),
      (raiseAborts_live (by decide) (by decide) ((stepLive_orderTold _ s).trans hl)).before (orderTold_keeps v.toNat s)
        (by decide) (by decide) (by decide)⟩
  case degrades =>
    have k := orderActing_recalled v.toNat s
    have hacting : (orderTold v.toNat s).quarActing = s.quarActing :=
      (orderTold_keeps v.toNat s).parts .quarActing (by decide) (by decide)
    rw [cadQuarantine_degrades hv hlive hnew hl hs]
    exact ⟨order_queued (k.parts .quarPending (by decide) (by decide)),
      (k.parts .quarActing (by decide) (by decide)).trans (congrArg (· ++ [v.toNat]) hacting)⟩
  case notice =>
    refine ⟨fun h hn => quarantineNotice_completes ?_, fun h hn => quarantineNotice_completes ?_,
      fun h => quarantineNotice_completes (quarantineNotice_known hlen htype h)⟩
    · rw [quarantineNotice_kept hlen htype h hn]
      exact ⟨rfl, rfl, (KeepsMk.set_quarPending (orderSeen_keeps _ s) (.of_all (by decide)) :
        Keeps [.quarPending, .quarSeen] [] s _).frame (.inl rfl)⟩
    · rw [quarantineNotice_acts hlen htype h hn]
      have k := applyQuarantine_keeps (noticeOrder src m) (orderSeen (noticeOrder src m) s)
      exact ⟨k.parts .quarPending (by decide) (by decide), k.parts .quarSeen (by decide) (by decide),
        (applyQuarantine_cad _ _).trans (quarantineSlot_cad_congr (s := s) (t := orderSeen _ s) rfl rfl _ _)⟩

end Sys2Proof.Machine
end

section
/-! PROOFS. Probes, reads of the cadastre window and their answers (O27, R220, R422, R430), and what a fence does to the bitmap and
to the probes (R423). -/
namespace Sys2Proof.Machine
open Sys2Proof

variable {s t x y : State} {qs : List Part} {bs : List Area} {src peer : Nat} {m : Bytes}

/-! ### PROBE and MGMT_READ -/

/-- A message to an unfenced peer joins the endpoint's queue, and nothing else changes. -/
theorem post_peer {m : Message} (hd : m.dst ≠ chipId s) (hf : fenced s m.dst = false) (hself : s.fenceSelf = false) :
    (post m s).fep.waiting = s.fep.waiting ++ [m] ∧ Frame [.fep] [] s (post m s) := by
  rw [post_queued (by simp [endsHere, hd, hf, hself])]
  exact ⟨rfl, Keeps.frame (KeepsMk.set_fep (.refl _ _ s) (.of_all (by decide))) (.inl rfl)⟩

/-- The answer to a READ (R430). -/
def readAnswer (s : State) (src : Nat) (m : Bytes) (status : Nat) (body : Bytes) : Message :=
  ⟨src, 0x2, 0x0B, s.stepNum, mgmtHeader 0x81 status (chipId s) (leAt m 4 4) (leAt m 8 4) (leAt m 12 4) ++ body, .none, 0, none⟩

/-- A READ within the window is answered while no entry of it is being fetched again itself (R220). -/
theorem mgmtRead_allowed (hsw : switchOpen s = false) (hok : readAllowed (leAt m 8 4) (leAt m 12 4) = true)
    (hidle : ∀ x ∈ readEntries (leAt m 8 4) (leAt m 12 4), ∀ r ∈ s.cadRefetch, r.entry ≠ x) :
    mgmtRead src m [] s = post (readAnswer s src m 0
      ((List.range (leAt m 12 4)).flatMap (fun i => leBytes 4 (windowWord s (leAt m 8 4 + 4 * i)).toNat))) s := by
  have hnone : ((readEntries (leAt m 8 4) (leAt m 12 4)).any (fun x => s.cadRefetch.any (fun r => r.entry = x))) = false := by
    simpa using hidle
  simp only [mgmtRead, takeErrors, List.foldl_nil, hsw, hok, hnone]
  rfl

/-- Another READ is DENIED (R430). -/
theorem mgmtRead_denied (hsw : switchOpen s = false) (hok : readAllowed (leAt m 8 4) (leAt m 12 4) = false) :
    mgmtRead src m [] s = post (readAnswer s src m 1 []) s := by
  simp only [mgmtRead, takeErrors, List.foldl_nil, hsw, hok]
  rfl

/-! ### Sending probes -/

/-- A probe is kept with the tick of its sending. -/
theorem probeOn_probes (peer n : Nat) (s : State) :
    (probeOn peer n s).probes = s.probes ++ [⟨peer, s.tb, s.mgmtNext, false⟩] ∧ (probeOn peer n s).tb = s.tb := by
  have cut : ∀ {k : Nat} {m : Message} {x y : State} {r : Option Message}, cutMessage k m (openFlow peer 0xC x) = (r, y) →
      Keeps [.out, .fep] [] x y := fun h =>
    (cutMessage_keeps_eq h).via ((openFlow_keeps _ _ _).mono (.of_all (by decide)) (.nil _)) (.of_all (by decide)) (.nil _)
  unfold probeOn
  dsimp only
  split
  · next h => exact ⟨(cut h).parts .probes (by decide) (by decide), (cut h).parts .tb (by decide) (by decide)⟩
  · next h =>
    split
    · have k := placeOn_keeps n
      exact ⟨((k _ _ _).parts .probes (by decide) (by decide)).trans ((cut h).parts .probes (by decide) (by decide)),
        ((k _ _ _).parts .tb (by decide) (by decide)).trans ((cut h).parts .tb (by decide) (by decide))⟩
    · exact ⟨(cut h).parts .probes (by decide) (by decide), (cut h).parts .tb (by decide) (by decide)⟩

/-- One probe for each port of a list, all of one tick. -/
theorem foldl_probeOn_probes (peer : Nat) (ports : List Nat) (s : State) :
    ∃ new, (ports.foldl (fun s n => probeOn peer n s) s).probes = s.probes ++ new ∧ new.length = ports.length ∧
      ∀ p ∈ new, p.peer = peer ∧ p.tick = s.tb ∧ p.answered = false := by
  induction ports generalizing s with
  | nil => exact ⟨[], (List.append_nil _).symm, rfl, fun p hp => absurd hp List.not_mem_nil⟩
  | cons n ns ih =>
    obtain ⟨hprobes, htb⟩ := probeOn_probes peer n s
    obtain ⟨new, hnew, hlen, hall⟩ := ih (probeOn peer n s)
    refine ⟨⟨peer, s.tb, s.mgmtNext, false⟩ :: new, ?_, congrArg (· + 1) hlen, List.forall_mem_cons.mpr ⟨⟨rfl, rfl, rfl⟩, ?_⟩⟩
    · rw [List.foldl_cons, hnew, hprobes, List.append_assoc]
      rfl
    · rwa [← htb]

theorem peerWaitTimeout_probes (hid : peer ≠ chipId s) (hf : fenced s peer = false) (hnone : ∀ p ∈ s.probes, p.peer ≠ peer)
    (hwaits : waitsOn s peer = true) (hroom : answersRoom s (min 4 (linksUp s).length) = true) :
    peerWaitTimeout peer s = ((linksUp s).take 4).foldl (fun s n => probeOn peer n s) s := by
  have hany : s.probes.any (fun p => p.peer = peer) = false := by simpa using hnone
  rw [peerWaitTimeout, if_neg]
  simp [hid, hf, hany, hwaits, hroom]

/-! ### Answers and the end of probes -/

theorem probeAnswer_known (h : ∃ p ∈ s.probes, p.peer = src ∧ p.id = leAt m 4 4) :
    (probeAnswer src m s).probes = (s.probes.filter (fun p => !(p.peer = src && p.id = leAt m 4 4))).map (fun p =>
      if p.peer = src then { p with answered := true } else p) := by
  have hany : s.probes.any (fun p => p.peer = src && p.id = leAt m 4 4) = true := by simpa using h
  rw [probeAnswer, if_pos hany]
  rfl

theorem endProbes_after (f : Nat) (s : State) :
    Keeps [.fep] [] { s with probes := s.probes.filter (fun p => p.peer ≠ f) } (endProbes f s) :=
  .foldl (.refl _ _ _) fun y _ => endRequest_keeps _ _ y

theorem endProbes_probes (f : Nat) (s : State) : (endProbes f s).probes = s.probes.filter (fun p => p.peer ≠ f) :=
  (endProbes_after f s).parts .probes (by decide) (by decide)

/-! ### A fence -/

/-- The parts that a fence may change once the bitmap and the probes have been seen to (R423). -/
def fenceParts : List Part :=
  [.mem, .beyond, .mgmtNext, .note, .quarUndelivered, .cadRefetch, .rma, .dedup, .ports] ++ abortParts

theorem Keeps.inFence (k : Keeps qs bs x y) (hp : qs.all (fenceParts.contains ·) = true := by decide) :
    Keeps fenceParts [.all] x y := k.mono (.of_all hp) (.all (.head _))

/-- The chip stands in the bitmap, and its probes have ended. -/
def fenceMarked (f : Nat) (s : State) : State := endProbes f { s with fences := insertSorted f s.fences }

/-- The fence leaves bitmap and probes as they have been marked. -/
theorem applyFence_marked {f : Nat} (cause : Nat) (hf : fenced s f = false) :
    Keeps fenceParts [.all] (fenceMarked f s) (applyFence f cause s) := by
  have k : Keeps fenceParts [.all] (fenceMarked f s) (roundsFence f (fenceStep f (inOpenTally f s) (loseOrphans f
      (noteFence f cause (forgetRequesters f (endCommandsTo f (dropFlows f (dropWaiting (throughChip f)
        (refetchElsewhere f (fenceMarked f s)))))))))) :=
    (refetchElsewhere_keeps _ _).inFence.trans <| (dropWaiting_keeps _ _).inFence.trans <| (dropFlows_keeps _ _).inFence.trans <|
      (endCommandsTo_keeps _ _).inFence.trans <| (forgetRequesters_keeps _ _).inFence.trans <|
      (noteFence_keeps _ _ _).inFence.trans <| (loseOrphans_keeps _ _).inFence.trans <| (fenceStep_keeps _ _ _).inFence.trans
      (roundsFence_keeps _ _).inFence
  unfold applyFence
  rw [if_neg (by simp [hf])]
  exact Keeps.ite (fun _ => k.trans (sendBroadcastsAgain_keeps _ _).inFence) (fun _ => k)

theorem fenceMarked_fences (f : Nat) (s : State) : (fenceMarked f s).fences = insertSorted f s.fences :=
  (endProbes_keeps f _).parts .fences (by decide) (by decide)

/-- A fence that is decided sets the chip's bit and ends its probes (R422, R423). -/
theorem decideFence_marks {f : Nat} (cause : Nat) (hf : fenced s f = false) :
    (decideFence f cause s).fences = insertSorted f s.fences ∧
      (decideFence f cause s).probes = s.probes.filter (fun p => p.peer ≠ f) := by
  have k := bcastSend_keeps 0x0A s.stepNum f (fencePayload s f cause) s
  have hfences : (bcastSend 0x0A s.stepNum f (fencePayload s f cause) s).fences = s.fences :=
    k.parts .fences (by decide) (by decide)
  have hprobes : (bcastSend 0x0A s.stepNum f (fencePayload s f cause) s).probes = s.probes :=
    k.parts .probes (by decide) (by decide)
  have km := applyFence_marked cause ((congrArg (·.contains f) hfences).trans hf)
  refine ⟨?_, ?_⟩
  · rw [← hfences]
    exact (km.parts .fences (by decide) (by decide)).trans (fenceMarked_fences _ _)
  · rw [← hprobes]
    exact (km.parts .probes (by decide) (by decide)).trans (endProbes_probes _ _)

/-! ### PROBE_TIMEOUT -/

section
variable (hsome : ∃ p ∈ s.probes, p.peer = peer) (hdue : ∀ p ∈ s.probes, p.peer = peer → p.tick + 5000 ≤ s.tb)
include hsome hdue

theorem probeTimeout_eq : probeTimeout peer s =
    if (s.probes.filter (fun p => p.peer = peer)).any (·.answered) || fenced s peer || s.fenceSelf then endProbes peer s
    else decideFence peer 2 ((endProbes peer s).bump16 0x310 1) := by
  have hmine : (s.probes.filter (fun p => p.peer = peer)).isEmpty = false := by simpa using hsome
  have hall : (s.probes.filter (fun p => p.peer = peer)).all (fun p => p.tick + 5000 ≤ s.tb) = true :=
    List.all_eq_true.mpr fun p hp => decide_eq_true
      (hdue p (List.mem_filter.mp hp).1 (of_decide_eq_true (List.mem_filter.mp hp).2))
  rw [probeTimeout, if_neg (by simp only [hmine, hall]; decide)]

theorem probeTimeout_answered (h : ∃ p ∈ s.probes, p.peer = peer ∧ p.answered = true) :
    probeTimeout peer s = endProbes peer s := by
  have hany : (s.probes.filter (fun p => p.peer = peer)).any (·.answered) = true := by simpa [and_assoc] using h
  rw [probeTimeout_eq hsome hdue, hany]
  rfl

/-- A peer that has answered on no port is fenced, and the fence counted (R422). -/
theorem probeTimeout_unanswered (h : ∀ p ∈ s.probes, p.peer = peer → p.answered = false) (hf : fenced s peer = false)
    (hself : s.fenceSelf = false) :
    (probeTimeout peer s).probes = s.probes.filter (fun p => p.peer ≠ peer) ∧
      (probeTimeout peer s).fences = insertSorted peer s.fences ∧
      (probeTimeout peer s).field 0x310 15 0 = satAdd 16 (s.field 0x310 15 0) 1 := by
  have hany : (s.probes.filter (fun p => p.peer = peer)).any (·.answered) = false := by simpa using h
  have k := endProbes_keeps peer s
  have hfences : ((endProbes peer s).bump16 0x310 1).fences = s.fences := k.parts .fences (by decide) (by decide)
  have hprobes : ((endProbes peer s).bump16 0x310 1).probes = s.probes.filter (fun p => p.peer ≠ peer) := endProbes_probes peer s
  obtain ⟨h1, h2⟩ := decideFence_marks 2 ((congrArg (·.contains peer) hfences).trans hf)
  rw [probeTimeout_eq hsome hdue, hany, hf, hself, if_neg (by decide)]
  refine ⟨?_, ?_, ?_⟩
  · rw [h2, hprobes, List.filter_filter]
    simp
  · rw [h1, hfences]
  · rw [field_of_word ((decideFence_keeps _ _ _).regs.word (by decide)), field_bump16, field_of_word (k.regs.word rfl)]

end

/-! ### MGMT_READ_ANSWER -/

/-- A fetch is no longer outstanding, and the reply reserved for it is released (R330). -/
def fetchTaken (r : CadRefetch) (s : State) : State :=
  releaseReply answerLen { s with cadRefetch := s.cadRefetch.filter (fun x => x != r) }

section
variable {r : CadRefetch} (hr : s.cadRefetch.find? (fun r => r.peer = src && r.id = leAt m 4 4) = some r)
include hr

theorem mgmtReadAnswer_words (hstatus : leAt m 1 1 = 0) (hlen : m.length = 48) : mgmtReadAnswer src m s =
    ({ fetchTaken r s with
      cad := storeSet zeroEntry r.entry ((List.range 8).map (fun i => BitVec.ofNat 32 (leAt m (16 + 4 * i) 4))) s.cad }).bump16
        0x60088 1 := by
  simp only [mgmtReadAnswer, hr, hstatus, hlen]
  rfl

theorem mgmtReadAnswer_denied (hstatus : leAt m 1 1 ≠ 0) :
    mgmtReadAnswer src m s = askEntry r.entry r.left r.tick (fetchTaken r s) := by
  simp only [mgmtReadAnswer, hr, hstatus]
  rfl

end

/-- The next peer in the order of R220 is asked for an entry. -/
theorem askEntry_next (e p tick : Nat) (rest : List Nat) (s : State) :
    (askEntry e (p :: rest) tick s).cad = s.cad ∧
      (askEntry e (p :: rest) tick s).cadRefetch = s.cadRefetch ++ [⟨e, p, rest, s.mgmtNext, tick⟩] :=
  ⟨(askEntry_keeps _ _ _ _).parts .cad (by decide) (by decide),
    (mgmtRequest_keeps _ _ _ _ _ _).parts .cadRefetch (by decide) (by decide)⟩

/-! ### CAD_REFETCH_TIMEOUT -/

/-- No peer has answered a fetch within TALLY_TIMEOUT ticks (R220). -/
def fetchDue (s : State) (r : CadRefetch) : Bool := decide (r.tick + s.live 0x41030 31 0 ≤ s.tb)

/-- The fetches that are due have been given up. -/
def fetchesEnded (s : State) : State :=
  (s.cadRefetch.filter (fetchDue s)).foldl (fun s r => if r.id = 2 ^ 32 then s else endRequest r.peer r.id s)
    { s with cadRefetch := s.cadRefetch.filter (fun r => !fetchDue s r) }

theorem fetchesEnded_after (s : State) :
    Keeps [.fep] [] { s with cadRefetch := s.cadRefetch.filter (fun r => !fetchDue s r) } (fetchesEnded s) :=
  .foldl (.refl _ _ _) fun y _ => .ite (fun _ => .refl _ _ y) (fun _ => endRequest_keeps _ _ y)

theorem fetchesEnded_keeps (s : State) : Keeps [.cadRefetch, .fep] [] s (fetchesEnded s) :=
  (fetchesEnded_after s).via (KeepsMk.set_cadRefetch (.refl _ _ s) (.of_all (by decide))) (.of_all (by decide)) (.nil _)

theorem cadRefetchTimeout_due (h : ∃ r ∈ s.cadRefetch, r.tick + s.live 0x41030 31 0 ≤ s.tb) :
    cadRefetchTimeout s = raiseAborts uCad 0x2A (fetchesEnded s) := by
  rw [cadRefetchTimeout]
  dsimp only
  rw [if_neg (by simpa using h)]
  rfl

/-! ### The statement -/

theorem peerWaitTimeout_completes {P : State → Prop} (h : P (peerWaitTimeout peer s)) : Completes (.peerWaitTimeout peer) s P :=
  ⟨_, rfl, h⟩

theorem probeAnswer_completes {P : State → Prop} (h : P (probeAnswer src m s)) : Completes (.probeAnswer src m) s P :=
  ⟨_, rfl, h⟩

theorem probeTimeout_completes {P : State → Prop} (h : P (probeTimeout peer s)) : Completes (.probeTimeout peer) s P :=
  ⟨_, rfl, h⟩

theorem mgmtRead_completes {P : State → Prop} (h : P (mgmtRead src m [] s)) : Completes (.mgmtRead src m []) s P := ⟨_, rfl, h⟩

theorem mgmtReadAnswer_completes {P : State → Prop} (h : P (mgmtReadAnswer src m s)) : Completes (.mgmtReadAnswer src m) s P :=
  ⟨_, rfl, h⟩

/-- Settles O27. -/
theorem managementMessages : Obligations.ManagementMessages := by
  intro s
  refine ⟨fun src m hd hf hself => ⟨_, rfl, post_peer hd hf hself⟩, fun peer hid hf hnone hwaits hroom => ?waits,
    fun src m h => ?answered, fun peer hsome hdue => ?timeout, fun src m hd hf hself hsw => ?read, fun src m r hr => ?readAnswer,
    fun h hl => ?refetch⟩
  case waits =>
    apply peerWaitTimeout_completes
    rw [peerWaitTimeout_probes hid hf hnone hwaits hroom, ← List.length_take]
    exact foldl_probeOn_probes peer ((linksUp s).take 4) s
  case answered =>
    exact probeAnswer_completes ⟨probeAnswer_known h, (probeAnswer_keeps src m s).frame (.inl rfl)⟩
  case timeout =>
    refine ⟨fun h hf hself => probeTimeout_completes (probeTimeout_unanswered hsome hdue h hf hself),
      fun h => probeTimeout_completes ?_⟩
    rw [probeTimeout_answered hsome hdue h]
    exact ⟨endProbes_probes peer s, (endProbes_keeps peer s).frame (.inl rfl)⟩
  case read =>
    refine ⟨fun hok hidle => mgmtRead_completes ?_, fun hok => mgmtRead_completes ?_⟩
    · rw [mgmtRead_allowed hsw hok hidle]
      exact post_peer hd hf hself
    · rw [mgmtRead_denied hsw hok]
      exact post_peer hd hf hself
  case readAnswer =>
    refine ⟨fun hstatus hlen => mgmtReadAnswer_completes ?_, fun p rest hstatus hleft => mgmtReadAnswer_completes ?_⟩
    · rw [mgmtReadAnswer_words hr hstatus hlen]
      exact ⟨storeGet_set_self _ _ _ _, fun x hx => storeGet_set_other _ _ hx _ _, rfl, field_bump16 _ _ _⟩
    · rw [mgmtReadAnswer_denied hr hstatus, hleft]
      exact askEntry_next r.entry p r.tick rest (fetchTaken r s)
  case refetch =>
    have hlive : stepLive (fetchesEnded s) = true :=
      (stepLive_of_run ((fetchesEnded_keeps s).parts .run (by decide) (by decide))).trans hl
    refine ⟨_, rfl, ?_⟩
    rw [cadRefetchTimeout_due h]
    exact ⟨(raiseAborts_live (by decide) (by decide) hlive).before (fetchesEnded_keeps s) (by decide) rfl rfl,
      ((raiseAborts_keeps _ _ _).parts .cadRefetch (by decide) (by decide)).trans
        ((fetchesEnded_after s).parts .cadRefetch (by decide) (by decide))⟩

end Sys2Proof.Machine
end

section
/-! PROOFS. The verdict, the step record and the replay log (O33, R269, R273, R376, R384 to R387). -/
namespace Sys2Proof.Machine
open Sys2Proof

variable {s t : State} {r : Run} {v : VerdictRec} {code : Nat} {h : Bytes}

/-! ### A notice without a ring -/

/-- With SDE_NOTE_SIZE zero there is no ring, and a notice writes no memory (R431). -/
theorem notice_mem_of_no_ring (hz : noteLog2 s = 0) (type code unit arg : Nat) : (notice type code unit arg s).mem = s.mem := by
  have hcairn : noteCairn s = s := by simp [noteCairn, hz]
  simp only [notice, hcairn, hz, ne_eq, not_true_eq_false, decide_false, Bool.false_and, Bool.false_eq_true, if_false]
  rfl

theorem noteLog2_of_word (hw : t.word 0x328 = s.word 0x328) : noteLog2 t = noteLog2 s := field_of_word hw

/-- What has been written to memory is read back. -/
theorem memBytes_of_memPut {m : Store Byte} {a : Nat} {bs : Bytes} (hm : t.mem = memPut m a bs) : memBytes t.mem a bs.length = bs := by
  rw [hm, memBytes_memPut (Nat.le_refl _), List.take_length]

theorem memWrite_field (a : Nat) (bs : Bytes) (s : State) (b hi lo : Nat) :
    (memWrite a bs s).field b hi lo = s.field b hi lo := rfl

/-! ### VERDICT_CONTRIBUTE -/

/-- The last RESULT tile is out or the step has aborted, and no collective of the step is active: class and code go to the
verdict's round (R269). -/
theorem verdictContribute_due (hr : s.run = some r) (hc : r.contributed = false) (hself : s.fenceSelf = false)
    (hcoll : s.cce.active.any (fun c => c.step = s.stepNum) = false) (hdone : r.abortCode ≠ 0 ∨ lastEmitted s = true) :
    verdictContribute s = contribute (internalKey s kVerdict 0 0) (opMax 2) (unfenced s) (leBytes 2 (verdictValue r))
      (modRun (fun r => { r with contributed := true }) s) := by
  have hready : (decide (r.abortCode = 0) && !lastEmitted s) = false := by
    rcases hdone with hcode | hlast
    · simp [hcode]
    · simp [hlast]
  simp only [verdictContribute, hr, hc, hself, hcoll, hready]
  rfl

/-! ### The log's place in the state -/

/-- The log replaced. -/
def setRlog (l : RLog) (s : State) : State := { s with rlog := l }

@[simp] theorem setRlog_rlog (l : RLog) (s : State) : (setRlog l s).rlog = l := rfl
@[simp] theorem setRlog_mem (l : RLog) (s : State) : (setRlog l s).mem = s.mem := rfl
@[simp] theorem setRlog_field (l : RLog) (s : State) (a hi lo : Nat) : (setRlog l s).field a hi lo = s.field a hi lo := rfl

theorem setRlog_keeps (l : RLog) (s : State) : Keeps [.rlog] [] s (setRlog l s) :=
  KeepsMk.set_rlog (.refl _ _ s) (.of_all (by decide))

theorem setRlog_frame (l : RLog) (s : State) : Frame [.rlog] [] s (setRlog l s) := (setRlog_keeps l s).frame (.inl rfl)

/-! ### Checkpoints (R386, R388, R408) -/

/-- What a checkpoint that falls due now says (R387). -/
def checkpointNow (s : State) (h : Bytes) : Checkpoint := ⟨s.rlog.lastFolded, s.rlog.first, h, s.rlog.start, 0⟩

section
variable (hchain : s.rlog.chain = some h) (hfault : s.rlog.fault = false)
include hchain hfault

theorem checkpointDue_signed (hdebug : debugOpen s = false) (hwait : s.rlog.waiting = none) (hsign : s.rlog.signing = none) :
    checkpointDue s = setRlog { s.rlog with signing := some (checkpointNow s h) } s := by
  simp [setRlog, checkpointDue, hchain, hfault, hdebug, hwait, hsign, checkpointNow]

theorem checkpointDue_waits (hdebug : debugOpen s = false) (hwait : s.rlog.waiting = none) (hsign : s.rlog.signing ≠ none) :
    checkpointDue s = setRlog { s.rlog with waiting := some (checkpointNow s h) } s := by
  simp [setRlog, checkpointDue, hchain, hfault, hdebug, hwait, Option.isSome_iff_ne_none.mpr hsign, checkpointNow]

theorem checkpointDue_skipped (hskip : debugOpen s = true ∨ s.rlog.waiting ≠ none) :
    checkpointDue s = s.bumpField 0x274 31 16 1 := by
  have hs : (debugOpen s || s.rlog.waiting.isSome) = true := by simpa [Option.isSome_iff_ne_none] using hskip
  simp [checkpointDue, hchain, hfault, hs]

end

theorem askCheckpoint_between (hrun : s.run = none) : askCheckpoint s = checkpointDue s := by simp [askCheckpoint, hrun]

theorem askCheckpoint_running (hrun : s.run ≠ none) : askCheckpoint s = setRlog { s.rlog with requested := true } s := by
  simp [setRlog, askCheckpoint, Option.isSome_iff_ne_none.mpr hrun]

/-- The chain of R385 and the step folded last are the same in two states. -/
def FoldKept (s t : State) : Prop := t.rlog.chain = s.rlog.chain ∧ t.rlog.lastFolded = s.rlog.lastFolded

theorem FoldKept.trans {u : State} (h : FoldKept s t) (k : FoldKept t u) : FoldKept s u :=
  ⟨k.1.trans h.1, k.2.trans h.2⟩

theorem checkpointDue_fold (s : State) : FoldKept s (checkpointDue s) := by
  unfold checkpointDue
  split
  · exact ⟨rfl, rfl⟩
  · dsimp only
    split
    · exact ⟨rfl, rfl⟩
    · split
      · exact ⟨rfl, rfl⟩
      · split <;> exact ⟨rfl, rfl⟩

/-- The checkpoints after a step leave what the verdict has folded. -/
theorem checkpointsAfter_fold (s : State) : FoldKept s (checkpointsAfter s) := by
  have hasked : ∀ {u : State}, FoldKept s u →
      FoldKept s (if u.rlog.requested then checkpointDue (setRlog { u.rlog with requested := false } u) else u) := by
    intro u hu
    split
    · exact hu.trans (checkpointDue_fold (setRlog { u.rlog with requested := false } u))
    · exact hu
  unfold checkpointsAfter
  refine hasked ?_
  split
  · exact checkpointDue_fold s
  · exact ⟨rfl, rfl⟩

/-! ### CHECKPOINT_SIGNED (R386, R387) -/

/-- The log after a record has been signed: the one that waited follows. -/
def signedLog (l : RLog) : RLog :=
  { l with signing := l.waiting, waiting := none, seq := l.seq + 1, written := (l.seq + 1) % 256 }

/-- Where the next checkpoint record goes (R386, R389). -/
def checkpointSlot (s : State) : Nat :=
  s.step_ 0x26C 31 0 * 2 ^ 32 + s.step_ 0x268 31 8 * 256 + 256 * (s.rlog.seq % 2 ^ s.step_ 0x270 3 0)

/-- The record of R387. -/
def signedRecord (cp : Checkpoint) (k : DevKey) (s : State) : Bytes :=
  checkpointBody cp (s.rlog.seq + 1) s ++ ecdsaSign k.d (sha384 (checkpointBody cp (s.rlog.seq + 1) s))

/-- The record stands in memory and is counted. -/
def checkpointPut (cp : Checkpoint) (k : DevKey) (s : State) : State :=
  setRlog (signedLog s.rlog) (memWrite (checkpointSlot s) (signedRecord cp k s) (s.bump 0x200070 1))

section
variable {cp : Checkpoint} {k : DevKey} (hcp : s.rlog.signing = some cp) (hk : s.devKey = some k)
include hcp hk

theorem checkpointSigned_writes (hfault : s.rlog.fault = false) :
    checkpointSigned [] s = notice 0x0A 0 0 (s.rlog.seq + 1) (checkpointPut cp k s) := by
  simp only [checkpointSigned, takeErrors, List.foldl_nil, hcp, hk, hfault]
  rfl

theorem checkpointSigned_failed (hfault : s.rlog.fault = true) :
    checkpointSigned [] s = setRlog { s.rlog with signing := none, waiting := none } s := by
  simp [checkpointSigned, takeErrors, hcp, hk, hfault, setRlog]

end

theorem checkpointPut_keeps (cp : Checkpoint) (k : DevKey) (s : State) :
    Keeps [.mem, .beyond, .rlog] [.reg 0x200070] s (checkpointPut cp k s) :=
  (setRlog_keeps _ _).via ((memWrite_keeps _ _ _).via ((bump_keeps s _ _).mono (.nil _) (.of_all (by decide)))
    (.of_all (by decide)) (.nil _)) (.of_all (by decide)) (.nil _)

theorem checkpointPut_rlog (cp : Checkpoint) (k : DevKey) (s : State) : (checkpointPut cp k s).rlog = signedLog s.rlog :=
  setRlog_rlog _ _

theorem checkpointPut_mem (cp : Checkpoint) (k : DevKey) (s : State) :
    (checkpointPut cp k s).mem = memPut s.mem (checkpointSlot s) (signedRecord cp k s) := by
  rw [checkpointPut, setRlog_mem, memWrite_mem, State.bump, State.bumpField, State.setField, setWord_mem]

theorem checkpointPut_count (cp : Checkpoint) (k : DevKey) (s : State) :
    (checkpointPut cp k s).field 0x200070 31 0 = satAdd 32 (s.field 0x200070 31 0) 1 := by
  rw [checkpointPut, setRlog_field, memWrite_field, field_bump]

section
variable (cp : Checkpoint) (k : DevKey) (seq : Nat)

/-- The notice of the record leaves the log. -/
theorem checkpointNoticed_rlog : (notice 0x0A 0 0 seq (checkpointPut cp k s)).rlog = signedLog s.rlog :=
  ((notice_keeps _ _ _ _ _).parts .rlog (by decide) (by decide)).trans (checkpointPut_rlog cp k s)

theorem checkpointNoticed_count :
    (notice 0x0A 0 0 seq (checkpointPut cp k s)).field 0x200070 31 0 = satAdd 32 (s.field 0x200070 31 0) 1 :=
  (field_of_word ((notice_keeps _ _ _ _ _).regs.word rfl)).trans (checkpointPut_count cp k s)

/-- Without a notice ring that might lie over it, the record of R387 stands in its ring. -/
theorem checkpointNoticed_record (hz : noteLog2 s = 0) :
    memBytes (notice 0x0A 0 0 seq (checkpointPut cp k s)).mem (checkpointSlot s) (signedRecord cp k s).length =
      signedRecord cp k s := by
  have hput : noteLog2 (checkpointPut cp k s) = 0 :=
    (noteLog2_of_word ((checkpointPut_keeps cp k s).regs.word rfl)).trans hz
  exact memBytes_of_memPut ((notice_mem_of_no_ring hput 0x0A 0 0 seq).trans (checkpointPut_mem cp k s))

end

/-! ### SDE_RLOG_START (R385) -/

theorem rlogStart_sets {n : Nat} (hn : n < 12) (hfirst : s.boot.firstDatumDone = false) (w : Word32) :
    rlogStart n w s = setRlog { s.rlog with
      startSet := true
      start := s.rlog.start.take (4 * n) ++ leBytes 4 w.toNat ++ s.rlog.start.drop (4 * n + 4) } s := by
  simp [setRlog, rlogStart, hfirst, Nat.not_le.mpr hn]

theorem rlogStart_late (n : Nat) (w : Word32) (hfirst : s.boot.firstDatumDone = true) :
    rlogStart n w s = securityCode uSde 0x6A s := by
  simp [rlogStart, hfirst]

/-! ### VERDICT -/

/-- The code of an abort that the verdict carries (R269). -/
def verdictAbort (code : Nat) : Nat := if 512 ≤ code then 0xFF - code % 256 else 0

/-- REG_VERDICT as the verdict of a step leaves it (R273). -/
def verdictOf (code : Nat) (r : Run) (s : State) : VerdictRec := ⟨min 2 (code / 256), r.localCode, verdictAbort code, s.stepNum⟩

/-- The stations of a step that the verdict aborts have stopped (R271). -/
def stationsStopped (code : Nat) (s : State) : State :=
  if 512 ≤ code then endColls (verdictAbort code) (abortStep (verdictAbort code) false s) else s

theorem stationsStopped_done (hcode : code < 512) : stationsStopped code s = s := if_neg (Nat.not_le.mpr hcode)

/-- The entry is folded, and the checkpoints of the step fall due. -/
def stepFolded (r : Run) (cls : Nat) (s : State) : State := checkpointsAfter (foldEntry r cls s)

/-- The verdict's notice and its trace event, and the stations emptied. -/
def stepCleared (v : VerdictRec) (s : State) : State := clearStep (traceEvent 5 0x01 v.word (notice 0x01 0 0x080 v.word s))

/-- REG_VERDICT replaced. -/
def setVerdict (v : VerdictRec) (s : State) : State := { s with verdict := v }

@[simp] theorem setVerdict_verdict (v : VerdictRec) (s : State) : (setVerdict v s).verdict = v := rfl

theorem setVerdict_keeps (v : VerdictRec) (s : State) : Keeps [.verdict] [] s (setVerdict v s) :=
  KeepsMk.set_verdict (.refl _ _ s) (.of_all (by decide))

/-- The step's record and REG_VERDICT are written. -/
def verdictWritten (r : Run) (v : VerdictRec) (s : State) : State := setVerdict v (writeRecord r v (stepFolded r v.cls s))

/-- The end of a step whose stations have stopped. -/
def stepEnded (r : Run) (v : VerdictRec) (s : State) : State := stepCleared v (verdictWritten r v s)

/-- The verdict stops the stations if it aborts the step, and ends the step with the account that stands then. -/
theorem verdict_eq (hr : s.run = some r) (hc : r.contributed = true) :
    ∃ q, verdict code [] s = stepEnded q (verdictOf code q (stationsStopped code s)) (stationsStopped code s) ∧
      (code < 512 → q = r) := by
  have hcls : (min 2 (code / 256) = 2) = (512 ≤ code) := by
    rw [eq_iff_iff]
    omega
  refine ⟨(stationsStopped code s).run.getD r, ?_, fun hcode => ?_⟩
  · simp only [verdict, takeErrors, List.foldl_nil, hr, hc, hcls]
    rfl
  · rw [stationsStopped_done hcode, hr, Option.getD_some]

/-! ### What the parts of a step's end leave -/

theorem stationsStopped_keeps (code : Nat) (s : State) :
    Keeps ([.mem, .beyond, .note] ++ abortParts) ([Area.reg 0xA0040, Area.reg 0xA0044] ++ noteAreas ++ abortAreas) s
      (stationsStopped code s) :=
  .ite (fun _ => (endColls_keeps _ _).via ((abortStep_keeps _ _ s).mono (.of_all (by decide)) (.of_all (by decide)))
    (.of_all (by decide)) (.of_all (by decide))) (fun _ => .refl _ _ _)

theorem stepCleared_keeps (v : VerdictRec) (s : State) :
    Keeps [.mem, .note, .trace, .run, .pools, .halves, .homes, .feeds, .handed, .collects, .collectHeld] noteAreas s
      (stepCleared v s) :=
  (clearStep_keeps _).via ((traceEvent_keeps _ _ _ _).via ((notice_keeps _ _ _ _ s).mono (.of_all (by decide)) (.of_all (by decide)))
    (.of_all (by decide)) (.nil _)) (.of_all (by decide)) (.nil _)

theorem stepCleared_mem (hz : noteLog2 s = 0) (v : VerdictRec) : (stepCleared v s).mem = s.mem := by
  calc (stepCleared v s).mem
      = (traceEvent 5 0x01 v.word (notice 0x01 0 0x080 v.word s)).mem := (clearStep_keeps _).parts .mem (by decide) (by decide)
    _ = (notice 0x01 0 0x080 v.word s).mem := (traceEvent_keeps _ _ _ _).parts .mem (by decide) (by decide)
    _ = s.mem := notice_mem_of_no_ring hz _ _ _ _

theorem stepFolded_keeps (r : Run) (cls : Nat) (s : State) : Keeps [.rlog] [.reg 0x274] s (stepFolded r cls s) :=
  (checkpointsAfter_keeps _).via ((foldEntry_keeps r cls s).mono (.of_all (by decide)) (.nil _)) (.of_all (by decide))
    (.of_all (by decide))

/-- The entry of R384 has been folded into the chain, and its step is the one folded last (R385). -/
theorem stepFolded_rlog (hchain : s.rlog.chain = some h) (hfault : s.rlog.fault = false) (r : Run) (cls : Nat) :
    (stepFolded r cls s).rlog.chain = some (sha384 (h ++ logEntry r cls s)) ∧
      (stepFolded r cls s).rlog.lastFolded = s.stepNum := by
  have hfold : foldEntry r cls s =
      setRlog { s.rlog with chain := some (sha384 (h ++ logEntry r cls s)), lastFolded := s.stepNum } s := by
    simp only [foldEntry, hchain, hfault]
    rfl
  have hkept := checkpointsAfter_fold (foldEntry r cls s)
  rw [hfold] at hkept
  rw [stepFolded, hfold]
  exact hkept

/-- Where the next step record goes (R376). -/
def recordSlot (s : State) : Nat :=
  s.step_ 0x244 31 0 * 2 ^ 32 + s.step_ 0x240 31 7 * 128 + 128 * (s.field 0x24C 31 0 % 2 ^ s.step_ 0x248 4 0)

/-- The refresh time that the next step record says, a free value of the hardware (R376). -/
def refreshDrawn (s : State) : Nat := (Config.refreshTicks s.freshCount).toNat

theorem recordSlot_congr (hl : t.latched = s.latched) (hw : t.word 0x24C = s.word 0x24C) : recordSlot t = recordSlot s := by
  simp only [recordSlot, State.step_, State.field, hl, hw]

theorem stepRecord_congr (htb : t.tb = s.tb) (hstep : t.stepNum = s.stepNum) (hlog : t.rlog = s.rlog) (r : Run)
    (v : VerdictRec) (n : Nat) : stepRecord r v n t = stepRecord r v n s := by
  simp only [stepRecord, htb, hstep, hlog]

/-- NEXT rises with the record (R376). -/
theorem writeRecord_next (r : Run) (v : VerdictRec) (s : State) :
    (writeRecord r v s).field 0x24C 31 0 = (s.field 0x24C 31 0 + 1) % 2 ^ 32 := field_setField _ (by decide) (by decide)

/-- The record goes to entry NEXT of its ring (R376). -/
theorem writeRecord_mem (r : Run) (v : VerdictRec) (s : State) :
    (writeRecord r v s).mem = memPut s.mem (recordSlot s) (stepRecord r v (refreshDrawn s) s) := by
  have hwrite : writeRecord r v s = (memWrite (recordSlot s.fresh.2) (stepRecord r v (refreshDrawn s) s.fresh.2)
      s.fresh.2).setField 0x24C 31 0 (s.field 0x24C 31 0 + 1) := rfl
  have hslot : recordSlot s.fresh.2 = recordSlot s := recordSlot_congr rfl rfl
  have hrec : stepRecord r v (refreshDrawn s) s.fresh.2 = stepRecord r v (refreshDrawn s) s := stepRecord_congr rfl rfl rfl r v _
  rw [hwrite, State.setField, setWord_mem, memWrite_mem, hslot, hrec]
  exact congrArg (memPut · _ _) ((fresh_keeps s).parts .mem (by decide) (by decide))

/-! ### What the end of a step leaves -/

section
variable (s r v)

theorem stepEnded_emptied : (stepEnded r v s).run = none ∧ (stepEnded r v s).halves = [] ∧ (stepEnded r v s).feeds = [] ∧
    (stepEnded r v s).collects = [] := ⟨rfl, rfl, rfl, rfl⟩

theorem stepEnded_verdict : (stepEnded r v s).verdict = v :=
  ((stepCleared_keeps v _).parts .verdict (by decide) (by decide)).trans (setVerdict_verdict v _)

theorem stepEnded_next : (stepEnded r v s).field 0x24C 31 0 = (s.field 0x24C 31 0 + 1) % 2 ^ 32 := by
  calc (stepEnded r v s).field 0x24C 31 0
      = (verdictWritten r v s).field 0x24C 31 0 := field_of_word ((stepCleared_keeps v _).regs.word rfl)
    _ = (writeRecord r v (stepFolded r v.cls s)).field 0x24C 31 0 := field_of_word ((setVerdict_keeps v _).regs.word rfl)
    _ = ((stepFolded r v.cls s).field 0x24C 31 0 + 1) % 2 ^ 32 := writeRecord_next r v _
    _ = (s.field 0x24C 31 0 + 1) % 2 ^ 32 := by rw [field_of_word ((stepFolded_keeps r v.cls s).regs.word rfl)]

/-- What follows the fold leaves the log, the time and the step. -/
theorem stepEnded_after : Keeps [.mem, .beyond, .freshCount, .verdict, .note, .trace, .run, .pools, .halves, .homes, .feeds,
    .handed, .collects, .collectHeld] (.reg 0x24C :: noteAreas) (stepFolded r v.cls s) (stepEnded r v s) :=
  have kw := (writeRecord_keeps r v (stepFolded r v.cls s)).mono (.of_all (by decide)) (.of_all (by decide))
  (stepCleared_keeps v _).via ((setVerdict_keeps v _).via kw (.of_all (by decide)) (.nil _)) (.of_all (by decide))
    (.of_all (by decide))

theorem stepEnded_rlog : (stepEnded r v s).rlog = (stepFolded r v.cls s).rlog :=
  (stepEnded_after s r v).parts .rlog (by decide) (by decide)

/-- Without a notice ring, nothing is written to memory after the record. -/
theorem stepEnded_mem (hz : noteLog2 s = 0) : (stepEnded r v s).mem = (writeRecord r v (stepFolded r v.cls s)).mem := by
  have kf := stepFolded_keeps r v.cls s
  have kw := writeRecord_keeps r v (stepFolded r v.cls s)
  have kv := setVerdict_keeps v (writeRecord r v (stepFolded r v.cls s))
  have hring : noteLog2 (verdictWritten r v s) = 0 :=
    (noteLog2_of_word ((kv.regs.word rfl).trans ((kw.regs.word rfl).trans (kf.regs.word rfl)))).trans hz
  exact (stepCleared_mem hring v).trans (kv.parts .mem (by decide) (by decide))

end

/-- Without a notice ring that might lie over it, the record of R376 stands in its ring. -/
theorem stepEnded_record (hz : noteLog2 s = 0) (r : Run) (v : VerdictRec) :
    ∃ n, memBytes (stepEnded r v s).mem (recordSlot s) (stepRecord r v n (stepEnded r v s)).length =
      stepRecord r v n (stepEnded r v s) := by
  have kf := stepFolded_keeps r v.cls s
  have ke := stepEnded_after s r v
  have hmem := writeRecord_mem r v (stepFolded r v.cls s)
  have hslot : recordSlot (stepFolded r v.cls s) = recordSlot s :=
    recordSlot_congr (kf.parts .latched (by decide) (by decide)) (kf.regs.word rfl)
  rw [hslot] at hmem
  refine ⟨refreshDrawn (stepFolded r v.cls s), ?_⟩
  rw [stepRecord_congr (ke.parts .tb (by decide) (by decide)) (ke.parts .stepNum (by decide) (by decide)) (stepEnded_rlog s r v)]
  exact memBytes_of_memPut ((stepEnded_mem s r v hz).trans hmem)

/-! ### The statement -/

theorem verdictContribute_completes {P : State → Prop} (h : P (verdictContribute s)) : Completes .verdictContribute s P :=
  ⟨_, rfl, h⟩

theorem verdict_completes {P : State → Prop} (h : P (verdict code [] s)) : Completes (.verdict code []) s P := ⟨_, rfl, h⟩

theorem checkpoint_completes {P : State → Prop} (h : P (askCheckpoint s)) : Completes (.checkpoint true) s P := ⟨_, rfl, h⟩

theorem checkpointSigned_completes {P : State → Prop} (h : P (checkpointSigned [] s)) : Completes (.checkpointSigned []) s P :=
  ⟨_, rfl, h⟩

theorem rlogStart_completes {n : Nat} {w : Word32} {P : State → Prop} (h : P (rlogStart n w s)) :
    Completes (.rlogStart true n w) s P := ⟨_, rfl, h⟩

/-- Settles O33, command by command. -/
theorem verdictAndLog : Obligations.VerdictAndLog := by
  intro s
  refine ⟨fun r hr hc hself hcoll hdone => verdictContribute_completes ?contribute,
    fun r code hr hc => verdict_completes ?verdict, fun h hchain hfault hrun => ?between,
    fun hrun => checkpoint_completes ?running, fun cp k hcp hk hfault => checkpointSigned_completes ?signed,
    fun cp k hcp hk hfault => checkpointSigned_completes ?failed,
    fun n w hn hfirst => rlogStart_completes ?start, fun n w hfirst => rlogStart_completes ?late⟩
  case contribute =>
    rw [verdictContribute_due hr hc hself hcoll hdone]
    refine ⟨?_, owns_contribute _ _ _ _ _⟩
    rw [show (contribute _ _ _ _ _).run = _ from (contribute_keeps _ _ _ _ _).parts .run (by decide) (by decide), modRun_run, hr]
    rfl
  case verdict =>
    obtain ⟨q, hverdict, hq⟩ := verdict_eq (code := code) hr hc
    have ks := stationsStopped_keeps code s
    have hstep : (stationsStopped code s).stepNum = s.stepNum := ks.parts .stepNum (by decide) (by decide)
    obtain ⟨hrun, hhalves, hfeeds, hcollects⟩ :=
      stepEnded_emptied (stationsStopped code s) q (verdictOf code q (stationsStopped code s))
    rw [hverdict, stepEnded_verdict, stepEnded_next, field_of_word (ks.regs.word rfl)]
    refine ⟨hrun, rfl, hstep, rfl, hhalves, hfeeds, hcollects, rfl, fun hcode => ?_⟩
    have hcls : min 2 (code / 256) = code / 256 := by omega
    rw [hq hcode, stationsStopped_done hcode, stepEnded_rlog]
    refine ⟨rfl, fun h hchain hfault => ?_, fun hz => stepEnded_record hz r _⟩
    rw [← hcls]
    exact stepFolded_rlog hchain hfault r _
  case between =>
    refine ⟨fun hdebug hwait hsign => checkpoint_completes ?_, fun hdebug hwait hsign => checkpoint_completes ?_,
      fun hskip => checkpoint_completes ?_⟩ <;> rw [askCheckpoint_between hrun]
    · rw [checkpointDue_signed hchain hfault hdebug hwait hsign]
      exact ⟨rfl, setRlog_frame _ s⟩
    · rw [checkpointDue_waits hchain hfault hdebug hwait hsign]
      exact ⟨rfl, setRlog_frame _ s⟩
    · rw [checkpointDue_skipped hchain hfault hskip]
      exact ⟨field_bumpField s (by decide) (by decide), (bumpField_keeps _ _ _ _ _).frame (.inl rfl)⟩
  case running =>
    rw [askCheckpoint_running hrun]
    exact ⟨rfl, setRlog_frame _ s⟩
  case signed =>
    rw [checkpointSigned_writes hcp hk hfault]
    exact ⟨checkpointNoticed_rlog cp k _, checkpointNoticed_count cp k _, checkpointNoticed_record cp k _⟩
  case failed =>
    rw [checkpointSigned_failed hcp hk hfault]
    exact ⟨rfl, setRlog_frame _ s⟩
  case start =>
    rw [rlogStart_sets hn hfirst]
    exact ⟨rfl, setRlog_frame _ s⟩
  case late =>
    rw [rlogStart_late n w hfirst]
    exact ⟨(securityCode_keeps _ _ s).parts .rlog (by decide) (by decide), securityCode_recorded (by decide) (by decide) s⟩

end Sys2Proof.Machine
end
